-- ==== Sys2Proof/Word.lean ====
section
/-! DEFINITION. The word types of the KRP2448X register file and their plainest arithmetic.
R43: a word holds 16 bits. R450: times are 48-bit reference-tick counts. -/

namespace Sys2Proof

/-- A register word (R43). -/
abbrev Word := BitVec 16

/-- A byte of SRAM, of a frame or of a journal record. -/
abbrev Byte := BitVec 8

/-- A 48-bit reference-tick time (R450). -/
abbrev Time := BitVec 48

/-- A word from a count, reduced to 16 bits. -/
def Word.ofNat (n : Nat) : Word := BitVec.ofNat 16 n

/-- A word from a signed value in two's complement. -/
def Word.ofInt (i : Int) : Word := BitVec.ofInt 16 i

end Sys2Proof
end

