-- ==== Sys2Proof/Syntax.lean ====
section
/-! DEFINITION. The commands the block takes: one constructor per row of spec/opcode_table.json, in the table's
order, with the operands the rule of the row gives it. Physical readings (currents, temperatures, decoded
frames, bus levels) come in as operands; everything the device computes from them is the machine's. -/

namespace Sys2Proof

/-- A channel CH0 to CH23 (R12). -/
abbrev Ch := Fin 24
/-- An output o = 0 to 31: channels, then EPWM0 to EPWM7 (R12). -/
abbrev OutIx := Fin 32
/-- A timebase TB0 to TB7. -/
abbrev Tb := Fin 8
/-- A bank B0 to B5. -/
abbrev Bank := Fin 6
/-- A sensor: 0 to 5 the die diode of the bank, 6 the NTC. -/
abbrev SensorIx := Fin 7
/-- A command tag of the rings (R337). -/
abbrev Tag := BitVec 6

/-- The conditions of R78 (and CPCLK loss, R34) that raise gate-drive fault 0xB. -/
inductive GateFault where
  /-- VCP below VBB + V_TH for 5 µs while a channel is commanded on. -/
  | vcpLow
  /-- CPCLK lost, detected through VCP (R34). -/
  | cpclkLost
  /-- VGS below V_TH at the end of a turn-on edge plus 10 µs, or for 2 µs after it. -/
  | vgsLow (ch : Ch)
  /-- VGS above 2 V on a channel commanded off, 10 µs after its turn-off edge. -/
  | vgsStuck (ch : Ch)
deriving DecidableEq, Repr

/-- The two ends of an off-state check window (R120). -/
inductive WindowPhase where
  /-- The pull-down is connected. -/
  | opens
  /-- 1 ms later: `above` says OUTn is above VBB − 2 V. -/
  | ends (above : Bool)
deriving DecidableEq, Repr

/-- A chain stage as latched at CSN rising (R322): ADDR, DATA, CRC, the bit count of the frame, and whether the command
before it was still executing when CSN fell (`early`), and still when it rose (`late`) (R323). -/
structure ChainStage where
  addr : Word
  data : Word
  crc  : Byte
  bits : Nat
  early : Bool
  late : Bool
deriving DecidableEq, Repr

/-- A read frame (R305): its address, the data words whose DATA phase began, whether CSN rose within the last of them
(`part`) or before ADDR was complete (`cut`) (R309, R312), the further words that were not ready at the end of the word
before (R308), the index of the first word that was clocked before it was ready (R311), the opcode received where it is one
of neither mode (R321), and what the stage latches when the port is in chain mode. -/
structure ReadFrame where
  addr  : BitVec 16
  words : Nat
  part  : Bool
  cut   : Bool
  wait  : List Nat
  late  : Option Nat
  cmd   : Option Byte
  stage : ChainStage
deriving DecidableEq, Repr

/-- A write frame (R313): its address (`cut` when CSN rose before ADDR was complete), the number of bits after
ADDR, the whole data words among them, the CRC byte received last (used while the CRC is enabled), and what the stage
latches in chain mode. -/
structure WriteFrame where
  addr  : BitVec 16
  cut   : Bool
  bits  : Nat
  data  : List Word
  crc   : Byte
  stage : ChainStage
deriving DecidableEq, Repr

/-- A frame without address: the number of bits after CMD, the CRC byte received last (R316, R319, R320), and what the stage
latches in chain mode. -/
structure ShortFrame where
  bits  : Nat
  crc   : Byte
  stage : ChainStage
deriving DecidableEq, Repr

/-- One 48 kS/s converter sample of every channel (R163): current in 5 mA, drain–source drop in 50 µV, output
voltage in 10 mV (one of four grid samples carries it, else empty), and the bus measurement in 10 mV. -/
structure Sample where
  i    : List Int
  vds  : List Int
  vout : List Int
  vbb  : Nat
deriving DecidableEq, Repr

/-- A received beacon after decoding (R362, R369): the 136 data bytes, the erased symbols, whether the RS decoder
corrected anything, and how many reference ticks ago the beacon started. -/
structure BeaconRx where
  bytes  : List Byte
  erased : Nat
  rs     : Bool
  ago    : Nat
deriving DecidableEq, Repr

/-- How a running delay-line recalibration ends (R347): DONE with the 256 element counts of its map (R207), or FAILED with
a reason. The other operations end as their own state says. -/
structure OpEnd where
  ok     : Bool
  reason : Word
  map    : List Nat
deriving DecidableEq, Repr

/-- The programming-window condition that fails (R410). -/
inductive WinCond where
  | vdd | supply | temperature | refclk
deriving DecidableEq, Repr

/-- The commands and events of the block: one constructor per row of the table. An operand `also` names what else the
protections of the channel detect in the same arbitration round (R125): bit c for code c, bit 0 for the backstop; of the limp-home
triggers VDD_LOSS and LH_ASSERT it names the round's other triggers, bit c for CAUSE c (R285), and `granted` says that a
commit is granted after the entry in the same round (R286). CLR_E may come in the step of a converter sample (R175). The
operand `gap` of INRUSH_VOLTAGE_END is the largest distance of OUTn below VBB in its 100 µs, in 10 mV. -/
inductive Instr where
  | porRelease
  | rstnReset
  | startupComplete (diode : List (Option Int)) (ntc : Option Int)
  | vddLoss (also : BitVec 8) (granted : Bool)
  | vddReturn
  | vbbUndervoltage (also : List (BitVec 16))
  | undervoltageRestart
  | vbbLow (below : Bool)
  | vbbOvervoltage (above : Bool)
  | vcpReady
  | refclkLoss
  | refclkPresent (external : Bool)
  | tbRestart
  | limpResume
  | lfoscLoss
  | lfoscReturn
  | gateDriveFault (f : GateFault) (also : BitVec 16)
  | edgeEnd (ch : Ch)
  | clampStart (ch : Ch)
  | clampEnd (ch : Ch)
  | reverseCurrent (ch : Ch) (above filtered : Bool) (also : BitVec 16)
  | backstopTrip (ch : Ch) (also : BitVec 16)
  | fastTrip (ch : Ch) (also : BitVec 16)
  | clRegStart (ch : Ch)
  | clRegEnd (ch : Ch)
  | clTimeout (ch : Ch) (also : BitVec 16)
  | protEstimateUpdate (dtNs : Nat) (est msq vds : List Nat)
  | openLoadOn (ch : Ch) (below : Bool)
  | svbbCheckWindow (ch : Ch) (p : WindowPhase)
  | openLoadOff (ch : Ch) (above : Bool)
  | svbbPwmOff (ch : Ch) (also : BitVec 16)
  | tripInputAssert (j : Fin 4) (high filtered : Bool)
  | cycleLimitAssert (ch : Ch) (above : Bool)
  | blankingEnd (o : OutIx)
  | faultClear (ch : Ch)
  | historyClear (ch : Ch)
  | faultHistoryClear (ch : Ch)
  | protClrCnt (ch : Ch)
  | clrClamp (ch : Ch)
  | inrushPhaseEnd (ch : Ch)
  | inrushCurrentEnd (ch : Ch)
  | inrushVoltageEnd (ch : Ch) (gap : Nat)
  | chopPeriod (ch : Ch) (opens : Bool)
  | heaterQueueRelease
  | retryDue (ch : Ch)
  | bucketRefill (ch : Ch)
  | goodRun (ch : Ch)
  | retryCountClear (ch : Ch)
  | bucketFill (ch : Ch)
  | retryCountClearFill (ch : Ch)
  | converterSample (x : Sample)
  | powerFeedDelivery (prods : List (List Int))
  | clrPeak (ch : Ch)
  | clrE (ch : Ch) (also : Option Sample)
  | clrSig (ch : Ch)
  | sigCaptureComplete (ch : Ch)
  | tbZero (k : Tb)
  | tbHalfPeriod (k : Tb)
  | tbPeriodEvent (k : Tb)
  | compareEdge (o : OutIx)
  | tbStop (k : Tb)
  | ulockTimeout (k : Tb)
  | dlMeasure (elem16 : BitVec 16)
  | tachEdge (i : Fin 4) (rising : Bool)
  | tachArmed (i : Fin 4)
  | tachLoss (i : Fin 4)
  | aswpClear (pair : Fin 16)
  | ilvRebalance
  | thallusUpdate (dtNs : Nat) (diode : List (Option Int)) (ntc : Option Int)
  | orderlyClassStart
  | stepRelease (b : Bank)
  | deviceStepUp
  | deviceStepDown
  | ownLimitRelease (ch : Ch)
  | modelDiverge (x : SensorIx)
  | divergeEnd (x : SensorIx)
  | sensorOk (x : SensorIx)
  | analogThermalTrip (b : Bank)
  | analogThermalRelease (b : Bank)
  | thermalStopExit
  | resync (b : Bank)
  | resyncBp
  | clrLog
  | thClear (ch : Ch)
  | lhAssert (i : Fin 2) (held : Bool) (also : BitVec 8) (granted : Bool)
  | watchdogExpiry (granted : Bool)
  | watchdogKick (key : Word)
  | limpPeriod (ch : Ch) (cycle : Nat)
  | limpClrHist
  | freeze
  | release
  | freezeTimeout
  | commitRequest (tag : Word)
  | commitApply
  | abort
  | discard
  | takeControlArm
  | takeControlDisarm
  | tset
  | clrLost
  | clkClrCnt
  | pwrClr
  | hspClrCnt
  | registerWrite (addr : BitVec 16) (data : Word)
  | rwMultiwordWrite (addr : BitVec 16) (data : Word)
  | pgEvtClear (page : Byte) (bits same : Word)
  | pgEvtenWrite (page : Byte) (bits : Word)
  | read (f : ReadFrame)
  | readFast (f : ReadFrame)
  | readDual (f : ReadFrame)
  | readDualIo (f : ReadFrame)
  | readQuad (f : ReadFrame)
  | readQuadIo (f : ReadFrame)
  | write (f : WriteFrame)
  | writeDual (f : WriteFrame)
  | writeQuad (f : WriteFrame)
  | status (words : Nat) (stage : ChainStage)
  | id (words : Nat) (stage : ChainStage)
  | doorbell (f : ShortFrame) (w : Word)
  | resetEn (f : ShortFrame)
  | reset (f : ShortFrame)
  | nopReadback (x : ChainStage)
  | chainWrite (x : ChainStage)
  | chainRead (x : ChainStage)
  | chainEnumerate (x : ChainStage)
  | ringDbWrite (w : Word)
  | ringEnable (w : Word)
  | ringClearDone (r : Fin 8)
  | ringClrLost
  | descriptorFetch (r : Fin 6)
  | ringWrite (tag : Tag)
  | ringCommit (tag : Tag)
  | suspend (tag : Tag)
  | resume (tag : Tag)
  | cancel (tag : Tag)
  | opStatus (tag : Tag)
  | otpProgram (tag : Tag)
  | otpVerify (tag : Tag)
  | jnlCompact (tag : Tag)
  | dlRecal (tag : Tag)
  | thmSweep (tag : Tag)
  | sigLearn (tag : Tag)
  | measSnap (tag : Tag)
  | slJoin (tag : Tag)
  | slSend (tag : Tag)
  | mstXfer (tag : Tag)
  | chainEnum (tag : Tag)
  | longOpStart (k : Fin 8)
  | longOpEnd (k : Fin 8) (e : OpEnd)
  | cqPost
  | eqPost
  | mstTransactionStart
  | mstTransactionEnd (status : Byte) (words : List Word) (crcOk : Bool)
  | mstChainReadback (status : Byte) (addr data : Word) (crcOk : Bool)
  | masterCollision (cmdDone : Bool) (status : Byte) (clocked : Bool)
  | watchdogGrantEnd
  | mstGrant
  | mstRevoke
  | mstClearHalt
  | zcEdge
  | zcAcquireTimeout
  | zcHoldover
  | zcUnlock
  | zcClrCnt
  | freezePoint
  | beaconTransmit
  | pinnaTransmit
  | beaconReceive (f : BeaconRx)
  | pinnaReceive (j : Fin 31) (bytes : Option (List Byte)) (erased : Nat)
  | beaconLost
  | standbyTakeover
  | joinListenEnd
  | joinTimeout
  | publish
  | leave
  | handover
  | siteClrCnt
  | shedEvaluation (restoring : Bool)
  | budgetFeedStale
  | otpBitProgram (set : BitVec 3)
  | otpWindowViolation (c : WinCond)
  | otpRefresh (flip0 flip1 flip2 : BitVec 72)
  | clrDrift
  | jnlScan
  | jnlRecordWrite
  | jnlCopyDone (verified : Bool)
  | energySnapshot
  | snap
  | jnlRelease
  | jnlClrCnt
  | unlock
  | unlockCompare
  | lock
  | attest
  | attestDone
  | backoffEnd
  | corePor
  | rstnRelease
  | senseSequencerDone (io3 : Bool)
  | lhRelease (i : Fin 2)
  | vbbUndervoltageRising
  | tachSlow (i : Fin 4)
  | vppPresence (mv : Nat)
  | programmingWindowMet
deriving DecidableEq, Repr

end Sys2Proof
end

