-- ==== Sys2Proof/WellFormed.lean ====
section
/-! DEFINITION. Which operands can come from the hardware: a set of readings has one entry per channel or sensor,
a reading lies in its converter's range, and an update comes at its period. -/

namespace Sys2Proof

/-- One reading per channel. -/
def perChannel {α : Type} (l : List α) : Bool := l.length == 24

/-- One reading per die diode. -/
def perBank {α : Type} (l : List α) : Bool := l.length == 6

/-- R163: the current converter saturates at ±160 A, 32 000 codes of 5 mA. -/
def currentInRange (i : Int) : Bool := decide (-32000 ≤ i) && decide (i ≤ 32000)

/-- The thallus model updates every 125 µs, or every 125 LFOSC cycles without REFCLK (R42, R251). -/
def updatePeriodOk (dtNs : Nat) : Bool := dtNs == 125000 || (118750 ≤ dtNs && dtNs ≤ 131250)

/-- One sample of every channel, and of the output voltages where it carries them (R163). -/
def Sample.wellFormed (x : Sample) : Bool :=
  perChannel x.i && perChannel x.vds && (x.vout.isEmpty || perChannel x.vout) && x.i.all currentInRange

/-- An opcode of neither mode of the port (R305, R321, R324). -/
def unlisted (c : Byte) : Bool :=
  !([0x03, 0x0B, 0x3B, 0xBB, 0x6B, 0xEB, 0x02, 0xA2, 0x32, 0x05, 0x0D, 0x9F, 0x66, 0x99, 0x00, 0x01, 0x08, 0x0F].contains c.toNat)

/-- Operands the hardware can produce. -/
def Instr.WellFormed : Instr → Bool
  | .startupComplete diode _ => perBank diode
  | .protEstimateUpdate dtNs est msq vds =>
      (30400 ≤ dtNs && dtNs ≤ 33600) && perChannel est && perChannel msq && perChannel vds && est.all (· < 1024)
  | .converterSample x => x.wellFormed
  | .clrE _ (some x) => x.wellFormed
  | .powerFeedDelivery prods => perChannel prods && prods.all fun l => l.length == 93 || l.length == 94
  | .thallusUpdate dtNs diode _ => updatePeriodOk dtNs && perBank diode
  | .longOpEnd k e => k.val != 3 || !e.ok || e.map.length == 256
  | .read f | .readFast f | .readDual f | .readDualIo f | .readQuad f | .readQuadIo f => f.cmd.all unlisted
  | .beaconReceive f => f.bytes.length == 136
  | .pinnaReceive _ (some bytes) _ => bytes.length == 24
  | _ => true

end Sys2Proof
end

