-- ==== Sys2Proof/Decode.lean ====
section
/-! DEFINITION. The command a word spells. No row of the command table has bits: every command of the block is an
event or a frame, given with its operands. -/

namespace Sys2Proof

/-- The command spelled by a word of `nbits` bits: none, for no row of the table gives a word. -/
def decodeTableWord (_nbits _w : Nat) : Option Instr := none

end Sys2Proof
end

