-- ==== Sys2Proof/Config.lean ====
section
/-! DEFINITION. What an implementation fixes and the manual leaves open: opaque constants with no body,
so that no proof can see a value of them. Each is named in a row of notes/assumptions. -/

namespace Sys2Proof.Config

/-- Free value number `n` where the manual leaves a natural number open (log entry 3). -/
opaque freeNat : Nat → Nat

/-- LFOSC cycles elapsed at monotone tick `now`: LFOSC runs at 1.000 MHz ±5 % (R30), so the number of its
cycles in a stretch of reference ticks is open (log entry 4). -/
opaque lfCycles : Nat → Nat

/-- Per-node factory trims of region FT (R250): parameter index, node index. The manual gives no layout of
FT, so the values are open (log entry 5). Parameters: 0 C_J in J/K, 1 R_JD, 2 R_L, 3 C_D, 4 R_DB, 5 C_B. -/
opaque ftTrim : Nat → Nat → Rat

/-- Factory trim of region FT for a converter (R167): converter 0 current, 1 output voltage, 2 drain–source drop; channel;
0 its gain, 1 its offset in result codes. FT has no layout in the manual, so the values are open (log entry 5). -/
opaque convTrim : Nat → Nat → Nat → Rat

/-- The current gain's correction for the temperature in °C of a channel's die (R167), whose law the manual does not give
(log entry 5). -/
opaque gainAtTemp : Nat → Rat → Rat

/-- The fit of the baseplate node's response in a thermal recalibration sweep (R279), whose method the manual does not give:
from P_MEAN in W and the NTC reading in °C of each update, newest first, the identified R_BA in 0.001 K/W, C_HS in J/K and
the RMS residual in K (log entry 76). -/
opaque sweepFit : List (Rat × Rat) → Rat × Rat × Rat

/-- The value the time-to-shutdown prediction takes between its bounds (R259): arguments are the free counter
and the number of values allowed; only its remainder is used (log entry 6). -/
opaque ttsPick : Nat → Nat

/-- The tracker's period estimate after an accepted crossing (R364: a second-order loop of 1 Hz bandwidth and
damping 0.7, whose arithmetic the manual does not give): previous estimate and crossing error (log entry 7). -/
opaque zcPeriod : Nat → Int → Nat

/-- The correction of the tracker's phase after an accepted crossing, in ticks (R364): previous estimate and crossing
error (log entry 7). -/
opaque zcPhase : Nat → Int → Int

/-- Which way a quotient is rounded where the manual reports it in whole units and states no rounding: true
upward, false downward (log entry 13). A whole quotient needs no rounding. -/
opaque roundUp : Rat → Bool

/-- Supply measurements PWR.VDD, PWR.VCORE, PWR.VCP by index at tick `now` (R462); the manual gives no rule
that computes them (log entry 8). -/
opaque supplyWord : Nat → Nat → Word

/-- The steps an operation of kind 1 (words checked) or 3 (elements measured) has made a number of ticks after it started or
resumed (R207, R346, R417): the manual gives their whole duration alone (log entry 77). -/
opaque opSteps : Nat → Nat → Nat

/-- The mask words W28 and W29 when FT is not SEALED: secret words cannot be descrambled then (R402), so what they read as is
open (log entry 19). -/
opaque noMask : Nat → BitVec 64

/-- The silicon revision word of the ID frame (R318), which each silicon version fixes (log entry 9). -/
opaque siliconRevision : Word

end Sys2Proof.Config
end

