-- ==== Sys2Proof/Machine/State.lean ====
section
/-! DEFINITION. The state of the block, as plain data. The configuration words (access RS, RW, RL) are held by
address; everything the device itself changes is a typed field, from which Machine/Flags.lean computes the
read-only words. Counts saturate where the register map says so. -/

namespace Sys2Proof.Machine

/-- A fault would end the block for good: no rule of the manual describes such an end, so no meaning raises
one (nothing to be safe or unsafe about). -/
inductive Fault where
  /-- Raised by nobody; the type has a member so that outcomes can be written out. Safe: it never occurs. -/
  | none
deriving DecidableEq, Repr

/-- Why a command has no meaning. -/
inductive Refusal where
  /-- Raised only by an arm of `exec` whose command has no meaning yet. Safe: the run stops. -/
  | notModelled (mnemonic : String)
  /-- Raised by a command whose operands cannot come from the hardware (a sample without one reading per
  channel, a reading outside its converter's range: WellFormed.lean). Safe: the run stops. -/
  | illFormed
deriving DecidableEq, Repr

/-- Words by key, strictly rising (R43). -/
abbrev WMap := List (Nat × Word)

/-! ## The part and the device -/

/-- The family members (R1). -/
inductive Part where
  | krp0848 | krp1648 | krp2448 | krp2448x
deriving DecidableEq, Repr

/-- Where the device stands between POR and LIMP (R38, R452, R454). -/
inductive Phase where
  /-- VCORE below the POR threshold. -/
  | powerOff
  /-- STARTUP step 1: sensing or re-applying the latches. -/
  | sensing
  /-- STARTUP steps 2 and 3 done: channels in SAFE. -/
  | sensed
  /-- RSTN held low, STARTUP not begun. -/
  | inReset
  /-- LIMP entered. -/
  | running
deriving DecidableEq, Repr

/-- The device level (R37, R452–R459). -/
structure Dev where
  part      : Part
  phase     : Phase
  governed  : Bool      -- major mode in force: governed or limp-home
  frz       : Bool      -- debug freeze active
  rstKind   : Nat       -- DEV.RST.KIND
  refLate   : Bool
  rstCnt    : Nat
  frLost    : Nat
  startupAt : Nat       -- monotone tick of STARTUP step 1
  startupT  : Nat       -- DEV.STARTUP_T in µs
  latched   : Bool      -- the sense sequencer has driven the latches of this power cycle
  prevState : Nat       -- DEV.STATE before the reset (BOOT record)
  seenState : Nat       -- DEV.STATE last reported (event STATE)
deriving DecidableEq, Repr

/-- CLK page status (R447, R448, R461). -/
structure Clk where
  refOk      : Bool
  refExt     : Bool
  lfOk       : Bool
  cpOk       : Bool
  refLossCnt : Nat
  lfLossCnt  : Nat
  cpLossCnt  : Nat
  rlossT     : Time
  rlossAt    : Nat
  rlossDur   : Nat
  lfStop     : Nat      -- LFOSC cycle at which LFOSC was lost
  lfGone     : Nat      -- cycles that LFOSC, had it run, would have made while it was lost
  refSafe    : Bool     -- channels held in SAFE by REFCLK loss (R294)
  lfSafe     : Bool     -- channels held in SAFE by LFOSC loss (R294)
  epwmSafe   : Bool     -- EPWM held at safe levels after REFCLK loss (R243)
deriving DecidableEq, Repr

/-- PWR page status (R440–R445, R462). Voltages in 10 mV. -/
structure Pwr where
  vddOk      : Bool
  vbbUv      : Bool
  vbbLow     : Bool
  vbbWl      : Bool
  vbbWh      : Bool
  vbbOv      : Bool
  vppMv      : Nat
  vcpOk      : Bool
  vbb        : Nat
  vbbMin     : Nat
  vbbMax     : Nat
  vddLossCnt : Nat
  uvCnt      : Nat
  ovCnt      : Nat
deriving DecidableEq, Repr

/-- DBG page (R456–R458, R463). -/
structure Dbg where
  endCause : Nat
  frzCnt   : Nat
  frzAt    : Nat
  frzT     : Time
  chst     : List Nat
  gates    : BitVec 24
deriving DecidableEq, Repr

/-! ## The commit engine -/

/-- A captured commit waiting for its apply point (R61–R64). -/
structure Pending where
  mask    : BitVec 64
  ctl     : Word
  tick    : Time
  tag     : Word
  seq     : Word
  words   : WMap
  slots   : List (Nat × Nat)   -- interleave slots placed at the checks (R238): output, slot
  capAt   : Nat
  held    : Bool               -- THERMAL_STOP, FROZEN or REFCLK loss since the capture (R67)
  ringTag : Option Tag
deriving DecidableEq, Repr

/-- CMT page status (R59–R69). -/
structure Cmt where
  pend      : Option Pending
  takeArmed : Bool
  seq       : Word
  laSeq     : Word
  laTag     : Word
  laPcnt    : BitVec 32
  laTick    : Time
  lrSeq     : Word
  lrTag     : Word
  lrReason  : Word
  lrChmask  : BitVec 24
  pulseRate : Word
  curSum    : Word
deriving DecidableEq, Repr

/-! ## Channels -/

/-- The nine channel states (R89). -/
inductive ChSt where
  | off | inrush | on | pwm | hold | retryWait | latched | shed | safe
deriving DecidableEq, Repr

/-- An edge in progress (R79–R83): direction, slew code, S-curve, fault discharge, start tick. -/
structure Edge where
  rising    : Bool
  slew      : Nat
  scurve    : Bool
  discharge : Bool
  start     : Nat
deriving DecidableEq, Repr

/-- An edge as the dissipation calculator keeps it (R172): the bus measurement at its start (R445), its current once that is
known, when its interval ended (its end, a turn-off that cuts it short, or the start of clamp conduction), and whether a
delivery has counted it. -/
structure Heat where
  edge : Edge
  vbb  : Nat
  i    : Option Int
  till : Option Nat
  fed  : Bool
deriving DecidableEq, Repr

/-- Power stage (R101). -/
structure Stage where
  gateOn    : Bool
  vgsOk     : Bool
  edge      : Option Edge
  clamp     : Bool
  clampSeen : Bool      -- the clamp has conducted during the present turn-off
  rev       : Bool
  clampCnt  : Nat
deriving DecidableEq, Repr

/-- Protection and diagnosis (R103–R124, R135). -/
structure Prot where
  est      : Nat        -- protection current estimate, 0.25 A
  clReg    : Bool
  epStart  : Nat
  epEnergy : Rat        -- energy of the present episode, mJ
  eacc     : Rat        -- CHn.CL_EACC before rounding, mJ
  scCmp    : Bool
  bsCmp    : Bool
  check    : Bool
  tripped  : Bool       -- a turn-off fault has been granted since the last turn-on edge (R109, R125)
  clCnt    : Nat
  tripCnt  : Nat
  cycCnt   : Nat
  i2tX     : Rat        -- harness quantity X, A²
  i2tWarn  : Bool
  olOn     : Bool
  olOff    : Bool
  svbb     : Bool
  winRun   : Nat        -- consecutive check windows above VBB − 2 V
  winLow   : Bool       -- the most recent check window was below
  escCnt   : Nat
  clim     : Bool       -- cycle-limit comparator counted (R231)
deriving DecidableEq, Repr

/-- A fault found during reset or STARTUP, recorded when STARTUP ends (R133): code, detail, the codes found with it, and
the protection current estimate at its detection. -/
structure LateFault where
  code   : Nat
  detail : Nat
  also   : BitVec 16
  est    : Nat
deriving DecidableEq, Repr

/-- Fault recording (R127, R132, R133, R138). -/
structure Flt where
  code   : Nat
  detail : Nat
  hist   : BitVec 16
  time   : Time
  fltnReq : Bool
  late   : List LateFault
deriving DecidableEq, Repr

/-- Inrush phases (R161). -/
inductive InrPhase where
  | idle | queued | a | b
deriving DecidableEq, Repr

/-- The inrush sequence (R139–R149): the words active at its start are kept with it (R148). -/
structure Inr where
  phase   : InrPhase
  profile : Nat          -- profile in force (5 for COIL mode), 0 none
  cause   : Nat
  clper   : Nat
  clSeen  : Bool         -- regulation occurred in the present millisecond, or was counted in the present chop period
  startAt : Nat
  phaseAt : Nat
  order   : Nat          -- order in which queued sequences began
  chopJ   : Nat          -- chop period of the present phase, from 1; in a fully-on phase, the ms counted
  chopRun : Bool         -- the first chop period has begun
  retry   : Bool         -- the turn-on was a retry
  lim     : Word
  t1      : Word
  t2      : Word
  duty    : Word
  endw    : Word
  cfg     : Word
  ilim    : Word         -- CHn.ILIM at its start
  last    : Nat          -- CHn.INR_LAST
deriving DecidableEq, Repr

/-- Retry (R152–R160). -/
structure Rty where
  count    : Nat
  tokens   : Nat
  refill   : Bool        -- refill timer running
  refillAt : Nat
  waitAt   : Nat         -- LFOSC cycle at which the wait began
  waitMs   : Nat
  gated    : Bool        -- the fault met THERMAL_GATED; its T_GATE in °C (R159)
  tGate    : Nat
  elapsed  : Bool        -- the wait is over
  total    : Nat
  cause    : Nat         -- code of the fault that led to the retry, 0 none
  causeDet : Nat
  goodRun  : Bool        -- good-run timer running
deriving DecidableEq, Repr

/-- Measurement (R163–R175, R185). Currents in 5 mA, voltages in 10 mV. -/
structure Meas where
  i       : Int
  iAvg    : Int
  iPeak   : Nat
  vout    : Int
  vds     : Int          -- code in the range of vdsRng
  vdsUv   : Int          -- the same reading in 50 µV
  pdiss   : Nat
  vdsRng  : Bool
  iOvr    : Bool
  vOvr    : Bool
  stale   : Bool
  pfInv   : Bool
  eGap    : Bool
  energy  : BitVec 48
  eRes    : Nat          -- residue in 1/960 000 mJ
  iWin    : List Int     -- the four current samples of the present voltage interval
  hist    : List Int     -- the latest samples, newest first
  winBad  : Bool         -- a sample of the present window saturated, or the converters were stopped in it
  stopped : Bool         -- no valid sample yet since power-on or since REFCLK was lost
  heats   : List Heat    -- edges of the present window, and those that still run
  offset  : Rat          -- current-offset integrator, in 5 mA codes
  offAt   : Nat          -- tick since which the channel is off
deriving DecidableEq, Repr

/-- A turn-on signature capture in progress (R176). -/
structure Capture where
  d    : Nat
  k    : Nat             -- samples formed
  n    : Nat             -- grid samples in the present one
  acc  : Int
  page : Nat             -- SRAM page index of the capture page
  data : List Int        -- formed samples, oldest first
  skip : Bool            -- learning was suspended during this capture and does not take it (R346)
deriving DecidableEq, Repr

/-- Signature engine words (R185). -/
structure Sig where
  cap    : Option Capture
  armed  : Bool          -- waiting for the first turn-on edge
  edged  : Bool          -- that edge has started; waiting for the next grid boundary
  result : Nat
  reason : Nat
  envErr : Bool
  nfail  : Nat
  first  : Nat
  ipk    : Int
  iend   : Int
  cnt    : Nat
  fcnt   : Nat
deriving DecidableEq, Repr

/-- Thermal words of a channel (R251, R266, R280). -/
structure Thm where
  tts     : Nat
  tjMax   : Option Int   -- 1/16 °C
  fresh   : Option (Nat × Bool)   -- power-feed buffer entry: mW and validity
  pLast   : Nat          -- last value used, mW
  age     : Nat          -- updates since the last fresh entry
  pfStale : Bool
  pHist   : List Nat     -- dissipations of the last 8 updates, newest first
  ownOver : Bool
  ownHold : Bool
  thCnt   : Nat
  stopHold : Bool        -- stop hold of R276
deriving DecidableEq, Repr

/-- Limp generator and device-level holds of a channel (R290, R387). -/
structure LimpGen where
  run     : Bool         -- limp periods have begun
  lvl     : Bool
  cut     : Bool         -- a cycle trip holds the output off until the next limp period (R292)
  hadCut  : Bool
  rose    : Bool         -- a turn-on edge came in the present limp period (R124)
  siteHold : Bool        -- in the shed set (R386)
  shedCnt : Nat
  thrSeen : Bool         -- a throttle hold was in force when last judged
  safeFlt : Bool         -- turned off by a fault in SAFE (R129)
  uvHeld  : Bool         -- held off by the undervoltage (R123)
deriving DecidableEq, Repr

/-- One channel. -/
structure Chan where
  st    : ChSt
  stage : Stage
  prot  : Prot
  flt   : Flt
  inr   : Inr
  rty   : Rty
  meas  : Meas
  sig   : Sig
  thm   : Thm
  limp  : LimpGen
deriving DecidableEq, Repr

/-! ## PWM -/

/-- A compare: coarse counts and fine taps (R195). -/
structure Cmp where
  coarse : Nat
  fine   : Nat
deriving DecidableEq, Repr

/-- The compare unit and terminal of one output (R195–R201, R231–R243). -/
structure OutUnit where
  rise     : Cmp
  fall     : Cmp
  level    : Bool
  pend     : Option (Cmp × Cmp)   -- transferred, awaiting the load
  pendAt   : Nat                  -- tick of the transfer
  pendNow  : Bool                 -- transferred at a BOUNDARY of the own timebase
  held     : Bool                 -- held by the update lock
  riseEl   : Nat                  -- element counts of RISE and FALL as last delivered (R203, R207)
  fallEl   : Nat
  ldcnt    : Word
  incons   : Bool
  clampRun : Bool                 -- a clamp acted in the present period
  loaded   : Bool                 -- a load since INCONS was set
  whole    : Bool                 -- the present period has run under one set of compares
  minpw    : Bool
  slot     : Nat
  slotPend : Option Nat
  slotAt   : Nat                  -- tick of the placement
  slotNow  : Bool                 -- placed by a BOUNDARY commit of the own timebase
  slotHeld : Option Nat           -- a slot the update lock holds (R238)
  weight   : Rat                  -- filtered on-time mean of the estimate, 0.25 A (R236)
  cut      : Bool                 -- held off by a cut until the next zero
  hadCut   : Bool                 -- a cut began in the present period
  hadRise  : Bool                 -- the present period contains a rising edge
  blank    : Bool                 -- blanking window open
  joined   : Bool                 -- the terminal follows the unit (R198)
  atCmp    : Bool                 -- it joins at a compare that gives the other level (R88, R145, R295)
  dithBlk  : Bool
  drive    : Bool                 -- terminal level driven by the PWM stages
deriving DecidableEq, Repr

/-- A timebase (R187–R191, R210–R214, R239). -/
structure Timebase where
  running  : Bool
  stopping : Bool
  stopNext : Bool                 -- RUN was cleared at a zero: the period that begins there still runs (R190)
  restarted : Bool
  zeroAt   : Nat
  pcnt     : BitVec 32
  perBase  : Nat                  -- period loaded
  perAct   : Nat                  -- period in force (with dither)
  presc    : Nat
  pend     : Option (Nat × Nat)   -- transferred period and prescaler
  pendAt   : Nat
  pendNow  : Bool
  ulk      : Bool
  ulkZeros : Nat
  ulkWait  : BitVec 32
  ulkEnd   : Bool                 -- the hold ends at the next zero (R211, R213)
  ulkEndAt : Nat
  lfsr     : BitVec 16
  startReq : Bool                 -- started by RUN, first zero to come
  halt     : Option Nat           -- the count held since REFCLK was lost
deriving DecidableEq, Repr

/-- A pair (R220–R223). -/
structure Pair where
  aswp     : Bool
  eff      : Bool
  changeAt : Nat      -- tick of the even unit's latest change of level (dead time)
  swapAt   : Nat      -- tick of the latest change of SWAP
  pendNow  : Bool     -- that change came with a BOUNDARY commit of the pair's timebase
  swapIn   : Bool     -- the value of SWAP in effect
  aswpAt   : Nat      -- tick of the latest change of ASWP, or of the request to clear it
  aswpIn   : Bool     -- the value of ASWP in effect
  clrReq   : Bool     -- a clear of ASWP is requested
  dtSup    : Bool
deriving DecidableEq, Repr

/-- A TRIP input (R231): its level, high for the filter time, asserted. -/
structure TripIn where
  level    : Bool
  filt     : Bool
  asserted : Bool
deriving DecidableEq, Repr

/-- A tach input (R226–R229). -/
structure Tach where
  level   : Bool
  last    : Option Nat
  per     : BitVec 32
  hasPer  : Bool
  armed   : Bool
  slow    : Bool
  slowAt  : Nat             -- tick at which SLOW became 1
  loss    : Bool
  swapped : Bool
  swapOf  : Nat             -- the pair of that automatic swap
deriving DecidableEq, Repr

/-- The delay line (R203–R207). -/
structure Dline where
  valid  : Bool
  slew   : Bool
  busy   : Bool
  map    : Bool
  fine   : List Nat         -- the map of R207: element count of each fine value
  elem   : Nat
  lastAt : Option Nat
deriving DecidableEq, Repr

/-! ## The thallus model -/

/-- A sensor of the model (R253–R256): reading in 1/16 °C. -/
structure Sensor where
  reading : Int
  got     : Bool       -- a reading has been taken
  noRes   : Nat        -- updates without a conversion result
  fail    : Bool
  reason  : Nat
  diverge : Bool
deriving DecidableEq, Repr

/-- A bank (R262, R282). -/
structure BankT where
  corr    : Rat        -- c_b, K
  ownStep : Nat
  effSeen : Nat
  analog  : Bool
  tts     : Nat
  tMax    : Option Int
deriving DecidableEq, Repr

/-- The log of the latest thermal stop (R281). -/
structure ThmLog where
  tts   : Nat
  node  : Nat
  tpk   : Int
  pkn   : Nat
  cls   : List Nat     -- starts of classes 3, 2, 1, 0 in µs
  last  : Nat
  jnl   : Nat
  time  : Time
  exit  : Nat
  cause : Nat
deriving DecidableEq, Repr

/-- The thallus model (R249–R279). -/
structure Thallus where
  temps    : Vector Rat 31   -- node temperatures, °C
  cP       : Rat             -- baseplate correction, K
  banks    : Vector BankT 6
  sensors  : Vector Sensor 7
  init     : Bool
  sums     : List Nat        -- sums of dissipation of the last 8000 updates, mW, newest first
  devStep  : Nat
  tts      : Nat
  ttsNode  : Nat
  hot      : Int
  hotNode  : Nat
  stop     : Bool
  cause    : Nat
  orderly  : Bool
  nextCls  : Nat             -- class the orderly stop starts next
  trigAt   : Nat
  holds    : Bool            -- stop holds of R276 in force
  jnlHold  : Bool
  stopCnt  : Nat
  idValid  : Bool
  idRba    : Word
  idChs    : Word
  idRes    : Nat
  log      : ThmLog
  edgesDue : Bool            -- the last edge of the stop has not ended yet (R271, R272)
  sweep    : List (Rat × Rat)   -- P_MEAN in W and the NTC reading in °C of each update of the running sweep, newest first
deriving DecidableEq, Repr

/-! ## Limp-home and watchdog -/

/-- The LIMP page (R285–R298). -/
structure Limp where
  cause     : Nat
  lh        : Vector Bool 2     -- terminal levels
  lhAssert  : Vector Bool 2
  entryCnt  : Nat
  causeHist : BitVec 16
  entryTime : Time
  entryAt   : Nat
  lastDur   : Nat
  wdgRun    : Bool
  wdgNext   : Bool              -- expected key is 0xA53C
  wdgAt     : Nat               -- LFOSC cycle of the start or the previous valid kick
  wdgBad    : Nat
deriving DecidableEq, Repr

/-! ## The host port -/

/-- The HSP page and the port's own registers (R301–R330). -/
structure Port where
  crcErr   : Bool
  frameErr : Bool
  pastEnd  : Bool
  late     : Bool
  wdisc    : Bool
  errAddr  : Word
  errCmd   : Word
  crcCnt   : Nat
  frmCnt   : Nat
  udrCnt   : Nat
  frames   : BitVec 32
  chain    : Bool
  enum     : Bool
  pos      : Nat
  len      : Nat
  rstArmed : Bool
  txStatus : Byte            -- status byte sent during CMD of the latest frame
  tx       : List Word       -- words returned by the latest frame
  txCrc    : List Byte       -- running CRC sent after each of them
  lanes    : Nat             -- data lanes they were sent on
  rdyFalls : List Nat        -- the words of the latest read frame before which RDY fell (R308)
  ignore   : Bool            -- the host frame that began in a collision is ignored up to its CSN rising (R355)
  respAddr : Word            -- response in the chain stage
  respData : Word
  respStat : Byte
  lastAddr : Word            -- latest response to a command other than NOP
  lastData : Word
deriving DecidableEq, Repr

/-! ## Rings and long operations -/

/-- A command in flight (R337, R342). -/
structure Infl where
  ring  : Nat
  idx   : Nat
  words : List Word
deriving DecidableEq, Repr

/-- A completion waiting for a CQ slot (R339). -/
structure Compl where
  opcode : Nat
  tag    : Tag
  status : Nat
  state  : Nat
  ring   : Nat
  idx    : Nat
  time   : Time
  res0   : Word
  res1   : Word
  dp     : Bool              -- held by the data-plane engine
  own    : Bool              -- it ends the command in flight under its tag
deriving DecidableEq, Repr

/-- An event entry other than FAULT and DEVICE (R340): page, type, words 1 and 5 to 7. -/
structure EqEv where
  page : Nat
  type : Nat
  w1   : Word
  w5   : Word
  w6   : Word
  w7   : Word
  time : Time
deriving DecidableEq, Repr

/-- The grid sample of a MEAS_SNAP (R338): its tag, the currents of all channels and the sample's time. -/
structure MeasSnap where
  tag  : Nat
  i    : List Int
  time : Time
deriving DecidableEq, Repr

/-- The ring engine (R331–R356). -/
structure Rings where
  en     : BitVec 8
  clr    : BitVec 8          -- CQ or EQ being cleared before its enable bit reads 1
  head   : Vector Nat 8
  tail   : Vector Nat 8
  eqOvf  : Bool
  ovfDue : Bool              -- an OVERFLOW entry is due
  eqLost : Nat
  dbErr  : Word
  infl   : List Infl
  compl  : List Compl
  evq    : List EqEv
  dpTurn : Bool              -- SQ4 is served next
  snaps  : List MeasSnap     -- the samples of the MEAS_SNAPs in flight
deriving DecidableEq, Repr

/-- Long-operation states (R347). -/
inductive OpSt where
  | none | queued | running | suspended | cancelled | done | failed
deriving DecidableEq, Repr

/-- A long operation (R346): kind, tag, state, cause, whether it has run, progress, descriptor words, its ring
and index, and its own working values. -/
structure LongOp where
  kind  : Nat
  tag   : Tag
  st    : OpSt
  cause : Nat
  ran   : Bool
  prog  : Nat
  words : List Word
  ring  : Nat
  idx   : Nat
  auto  : Bool               -- started by AUTO_JOIN: no completion
  aux   : List Int           -- working values (learning store, join counters, programming position)
deriving DecidableEq, Repr

/-- The port master (R350–R357). -/
structure Mst where
  grant    : Bool
  wdgGrant : Bool
  active   : Option Infl
  second   : Bool            -- the second frame of a chain transaction is due
  halt     : Bool
  sel      : Nat
  csn      : Bool
  collCnt  : Nat
  xferCnt  : Nat
  errSel   : Nat
  errStat  : Byte
  revoke   : Bool            -- the grant ends after the transaction in progress
  tx       : List Byte       -- the bytes of the latest frame, as the master sends them on IO0 (R350, R351)
  dummy    : Nat             -- dummy cycles of that frame (R352)
deriving DecidableEq, Repr

/-! ## Site link and tracker -/

/-- Join in progress (R375): accepted in a row or fronds listened, last counter, conflict heard. -/
structure Join where
  count    : Nat
  lastFc   : Nat
  conflict : Bool
  listening : Bool
deriving DecidableEq, Repr

/-- An SL_SEND in progress (R383). -/
structure Send where
  infl  : Infl
  used  : Nat
  sent  : Bool
deriving DecidableEq, Repr

/-- The site link (R358–R391). -/
structure Site where
  joined   : Bool
  ladder   : Nat
  acting   : Bool
  conflict : Bool
  keyver   : Bool
  overBud  : Bool
  pubPend  : Bool
  cyc6     : Bool
  ncKnown  : Bool
  auxBud   : Nat
  mainKw   : Nat
  auxLoad  : Nat
  shedLoad : Nat
  lost     : Nat
  frond    : Nat            -- counter of the present frond (R366, R370)
  fc       : Nat
  fcValid  : Bool
  stime    : BitVec 48
  ltick    : Time
  lastAt   : Nat            -- monotone tick of that beacon's start
  lastMain : Nat
  lastAux  : Nat
  coord    : Nat
  coordKey : Nat
  bcnOfs   : List Int       -- start less predicted crossing, µs, last 16
  ackNow   : BitVec 32      -- pinnae accepted in the present frond
  ack      : BitVec 32
  cntOk    : Nat
  cntLost  : Nat
  cntAuth  : Nat
  cntReplay : Nat
  cntEras  : Nat
  cntRs    : Nat
  table    : List (Nat × Nat)   -- published table: main, aux for entries 0 to 30
  beacon   : List (Nat × Nat)   -- table of the last accepted beacon
  built    : List (Nat × Nat)   -- table of the beacon built at the freeze point
  pinFc    : List (Nat × Nat)   -- last frond counter accepted by identity
  join     : Option Join
  timedOut : Bool
  hoLeft   : Nat            -- HANDOVER beacons still to send
  hoSeen   : Nat            -- fronds since a beacon with HANDOVER and HO_UNIT 0 was accepted under CONFLICT, that one too
  fcNext   : Nat            -- counter of the next own beacon
  fcBlock  : Nat            -- end of the last reserved block
  txFrame  : List Byte      -- data bytes of the latest frame sent
  bcnThis  : Bool           -- the beacon of the present frond was accepted
  crcLost  : Bool           -- a beacon of the present frond failed its CRC (R371)
  send     : Option Send
  feed     : Nat            -- budget-feed entry: auxiliary budget
  feedLvl  : Nat
  stale    : Bool           -- the stale rule of R22 holds
deriving DecidableEq, Repr

/-- Tracker states (R364). -/
inductive ZcSt where
  | unlocked | acquire | locked | holdover
deriving DecidableEq, Repr

/-- The zero-crossing tracker (R363, R364, R392). -/
structure Zc where
  st      : ZcSt
  outl    : Nat
  run     : Nat             -- consecutive good crossings in ACQUIRE
  per16   : Nat             -- period in 1/16 tick
  lastAt  : Option Nat      -- monotone tick of the latest crossing
  predAt  : Nat             -- base of the predictions
  bases   : List (Nat × Nat)   -- the two bases before it, with their periods, latest first
  six     : Bool            -- N_C is 6 by the frequency at the latest entry of LOCKED (R365)
  pherr   : Int
  holdAt  : Nat
  cntAcc  : Nat
  cntOutl : Nat
  cntRel  : Nat
  lastT   : Time
deriving DecidableEq, Repr

/-! ## OTP, journal, security -/

/-- The cells of one OTP word (R393, R394) as they read at normal level: triple-cell words use c0, c1, c2 over bits 63
to 0; SECDED words use c0 with the check bits in 71 to 64. h0 to h2 mark the cells that read differently at a margin
level (R396). -/
structure OtpWord where
  c0 : BitVec 72
  c1 : BitVec 72
  c2 : BitVec 72
  h0 : BitVec 72
  h1 : BitVec 72
  h2 : BitVec 72
deriving DecidableEq, Repr

/-- A slot of the journal (R420): the 64 bytes of each copy. -/
structure JSlot where
  a : List Byte
  b : List Byte
deriving DecidableEq, Repr

/-- What survives the loss of all supplies: OTP cells by word index (unlisted words hold all zero cells) and
journal slots by index (unlisted slots are erased). -/
structure NonVol where
  otp : List (Nat × OtpWord)
  jnl : List (Nat × JSlot)
deriving DecidableEq, Repr

/-- What the sense sequencer decided (R396–R407). -/
structure Otp where
  words   : List (BitVec 64)   -- latched values W0 to W127
  checks  : List Byte          -- stored check bits
  region  : List Nat           -- states of regions 0 to 6
  crcs    : List (BitVec 32)
  src     : Nat
  kdConf  : Bool
  skConf  : Bool
  kdOne   : Bool
  skOne   : Bool
  kdValid : Bool
  skValid : Bool
  kd      : BitVec 256
  sk      : BitVec 128
  skVer   : Nat
  rlSeal  : Bool
  custClose : Bool
  marg    : BitVec 128
  corr    : BitVec 128
  uncorr  : BitVec 128
  drift   : BitVec 128
  written : BitVec 128
  driftCnt : Nat
  driftLast : Nat
  weakCnt : Nat
  failK   : Nat
  refresh : Nat                -- word reread next
  winVdd  : Bool               -- VDD from 3.0 V to 5.5 V (R410)
  winSup  : Bool
deriving DecidableEq, Repr

/-- An item of the fault-record queue (R22, R131, R285, R425) with who still has to take it. -/
structure FrItem where
  kind   : Nat                 -- 0 fault, 1 limp-home entry, 2 thermal stop, 3 ENERGY, 4 COUNTERS, 5 BOOT
  ch     : Nat
  code   : Nat
  detail : Nat
  st     : Nat                 -- channel state after the grant
  est    : Nat                 -- protection current estimate at detection
  aux    : Nat                 -- cause of a device event
  tts    : Nat                 -- device TTS at the trigger
  time   : Time
  pay    : List Byte           -- payload of the journal record (R422)
  eqDue  : Bool
  jnlDue : Bool
deriving DecidableEq, Repr

/-- The journal record being written (R425, R430). -/
structure JWrite where
  bytes : List Byte
  slot  : Nat
  copyB : Bool
  tried : Bool
  since : Nat                  -- tick at which the present copy's write began
  wait  : Bool                 -- no copy in progress: the next one waits (R272)
  move  : Option Nat           -- the old slot of a record moved by compaction
  item  : Bool                 -- it came from the queue
deriving DecidableEq, Repr

/-- The journal engine (R423–R430, R437). -/
structure Jnl where
  ready   : Bool
  busy    : Option JWrite
  split   : Bool
  seq     : Nat
  rel     : Nat
  last    : Nat
  ovwCnt  : Nat
  splitCnt : Nat
  corrCnt : Nat
  retired : BitVec 64
  wfailCnt : Nat
  wrCnt   : Nat
  supp    : List (Nat × Nat)   -- suppressed events by channel
  porTotal : Nat               -- POR count of the COUNTERS record
  limpTotal : Nat
  stopTotal : Nat
deriving DecidableEq, Repr

/-- Owner unlock and attestation (R431–R436, R438). -/
structure Sec where
  unlocked : Bool
  attBusy  : Bool
  attMsg   : List Byte
  result   : Nat
  fails    : Nat
  backoff  : Bool
  backAt   : Nat
  unlCnt   : Nat
  failTot  : Nat
  denyCnt  : Nat
  attCnt   : Nat
  keys     : List (Nat × Word)
  tag      : List Byte
  cfgDig   : List Byte
  compare  : Bool              -- an attempt waits for its compare
deriving DecidableEq, Repr

/-! ## The machine -/

/-- Everything but the queue, the SRAM and the non-volatile store. -/
structure Mach where
  now    : Nat                 -- monotone reference ticks since POR release of the run
  time   : Time                -- DEV.TIME
  free   : Nat                 -- the model's own counter of free values taken
  active : WMap                -- active RS, RW and RL words that differ from their reset value
  staged : WMap                -- staging slots (R54)
  held   : WMap                -- held lower words of RW multi-word values (R57)
  evt    : WMap                -- PG_EVT by page
  evtNew : WMap                -- PG_EVT bits latched since the page's previous EQ entry, by page (R340)
  snap   : WMap                -- snapshot latch by address (R56)
  dev    : Dev
  clk    : Clk
  pwr    : Pwr
  dbg    : Dbg
  cmt    : Cmt
  chans  : Vector Chan 24
  outs   : Vector OutUnit 32
  tbs    : Vector Timebase 8
  pairs  : Vector Pair 16
  trips  : Vector TripIn 4
  tachs  : Vector Tach 4
  dl     : Dline
  thm    : Thallus
  limp   : Limp
  port   : Port
  rings  : Rings
  ops    : List LongOp         -- long operations not ended, oldest first
  opLast : List (Nat × LongOp) -- latest ended instance by kind
  mst    : Mst
  site   : Site
  zc     : Zc
  otp    : Otp
  frq    : List FrItem         -- the fault-record queue
  jnl    : Jnl
  sec    : Sec
deriving DecidableEq, Repr

/-- The state of the block. -/
structure State where
  pending : List Instr         -- commands waiting, first in, first out
  sram    : List Host.Cell     -- SRAM bytes by byte address; an unlisted byte reads 0x00 (R453)
  eccBad  : List (Nat × Bool)  -- SRAM words whose stored cells hold an error: word index, double-bit (R46)
  nv      : NonVol
  m       : Mach
deriving DecidableEq, Repr

/-! ## Reset -/

def Stage.reset : Stage := ⟨false, false, none, false, false, false, 0⟩
def Prot.reset : Prot :=
  { est := 0, clReg := false, epStart := 0, epEnergy := 0, eacc := 0, scCmp := false, bsCmp := false,
    check := false, tripped := false, clCnt := 0, tripCnt := 0, cycCnt := 0, i2tX := 0, i2tWarn := false, olOn := false,
    olOff := false, svbb := false, winRun := 0, winLow := false, escCnt := 0, clim := false }
def Flt.reset : Flt := ⟨0, 0, 0, 0, false, []⟩
def Inr.reset : Inr :=
  { phase := .idle, profile := 0, cause := 0, clper := 0, clSeen := false, startAt := 0, phaseAt := 0, order := 0,
    chopJ := 0, chopRun := false, retry := false, lim := 0, t1 := 0, t2 := 0, duty := 0, endw := 0, cfg := 0,
    ilim := 0, last := 0 }
/-- R156: after any reset TOKENS equals the capacity, 4 at reset (CHn.RTY_BKT = 0x0404). -/
def Rty.reset : Rty :=
  { count := 0, tokens := 4, refill := false, refillAt := 0, waitAt := 0, waitMs := 0, gated := false, tGate := 0, elapsed := false,
    total := 0, cause := 0, causeDet := 0, goodRun := false }
def Meas.reset : Meas :=
  { i := 0, iAvg := 0, iPeak := 0, vout := 0, vds := 0, vdsUv := 0, pdiss := 0, vdsRng := false, iOvr := false,
    vOvr := false, stale := false, pfInv := false, eGap := false, energy := 0,
    eRes := 0, iWin := [], hist := [], winBad := true, stopped := true, heats := [], offset := 0, offAt := 0 }
def Sig.reset : Sig :=
  { cap := none, armed := false, edged := false, result := 0, reason := 0, envErr := false, nfail := 0, first := 0, ipk := 0,
    iend := 0, cnt := 0, fcnt := 0 }
def Thm.reset : Thm :=
  { tts := 0xFFFF, tjMax := none, fresh := none, pLast := 0, age := 4, pfStale := false, pHist := [],
    ownOver := false, ownHold := false, thCnt := 0, stopHold := false }
def LimpGen.reset : LimpGen :=
  { run := false, lvl := false, cut := false, hadCut := false, rose := false, siteHold := false, shedCnt := 0, thrSeen := false,
    safeFlt := false, uvHeld := false }
/-- R294: from POR until the latches are driven, channels are off. -/
def Chan.reset : Chan :=
  { st := .off, stage := .reset, prot := .reset, flt := .reset, inr := .reset, rty := .reset, meas := .reset,
    sig := .reset, thm := .reset, limp := .reset }

/-- The compare value NEVER (R195). -/
def Cmp.never : Cmp := ⟨0xFFFFFF, 0⟩
def OutUnit.reset : OutUnit :=
  { rise := .never, fall := .never, level := false, pend := none, pendAt := 0, pendNow := false, held := false,
    riseEl := 0, fallEl := 0, ldcnt := 0, incons := false, clampRun := false, loaded := false,
    whole := false, minpw := false, slot := 0, slotPend := none, slotAt := 0, slotNow := false, slotHeld := none,
    weight := 0, cut := false, hadCut := false, hadRise := false, blank := false, joined := false, atCmp := false,
    dithBlk := false, drive := false }
/-- R216: PER_ACT resets to 2400. -/
def Timebase.reset : Timebase :=
  { running := false, stopping := false, stopNext := false, restarted := false, zeroAt := 0, pcnt := 0, perBase := 2400, perAct := 2400,
    presc := 0, pend := none, pendAt := 0, pendNow := false, ulk := false, ulkZeros := 0, ulkWait := 0,
    ulkEnd := false, ulkEndAt := 0, lfsr := 0, startReq := false, halt := none }
def Pair.reset : Pair :=
  { aswp := false, eff := false, changeAt := 0, swapAt := 0, pendNow := false, swapIn := false, aswpAt := 0,
    aswpIn := false, clrReq := false, dtSup := false }
def Tach.reset : Tach := ⟨false, none, 0, false, false, false, 0, false, false, 0⟩
def Dline.reset : Dline := ⟨false, false, false, false, [], 0, none⟩
def Sensor.reset : Sensor := ⟨0, false, 0, false, 0, false⟩
def BankT.reset : BankT := ⟨0, 0, 0, false, 0xFFFF, none⟩
def ThmLog.reset : ThmLog :=
  { tts := 0xFFFF, node := 0, tpk := 0, pkn := 0, cls := [0xFFFF, 0xFFFF, 0xFFFF, 0xFFFF], last := 0xFFFF,
    jnl := 0, time := 0, exit := 0, cause := 0 }
def Thallus.reset : Thallus :=
  { temps := .replicate 31 0, cP := 0, banks := .replicate 6 .reset, sensors := .replicate 7 .reset, init := false,
    sums := [], devStep := 0, tts := 0xFFFF, ttsNode := 0x3F, hot := 0, hotNode := 0, stop := false, cause := 0,
    orderly := false, nextCls := 0, trigAt := 0, holds := false, jnlHold := false, stopCnt := 0, idValid := false,
    idRba := 0, idChs := 0, idRes := 0, log := .reset, edgesDue := false, sweep := [] }
def Limp.reset : Limp :=
  { cause := 0, lh := .replicate 2 false, lhAssert := .replicate 2 false, entryCnt := 0, causeHist := 0,
    entryTime := 0, entryAt := 0, lastDur := 0, wdgRun := false, wdgNext := false, wdgAt := 0,
    wdgBad := 0 }
def Port.reset : Port :=
  { crcErr := false, frameErr := false, pastEnd := false, late := false, wdisc := false, errAddr := 0, errCmd := 0,
    crcCnt := 0, frmCnt := 0, udrCnt := 0, frames := 0, chain := false, enum := false, pos := 0, len := 0,
    rstArmed := false, txStatus := 0, tx := [], txCrc := [], lanes := 1, rdyFalls := [], ignore := false, respAddr := 0, respData := 0, respStat := 0,
    lastAddr := 0, lastData := 0 }
def Rings.reset : Rings :=
  { en := 0, clr := 0, head := .replicate 8 0, tail := .replicate 8 0, eqOvf := false, ovfDue := false, eqLost := 0,
    dbErr := 0, infl := [], compl := [], evq := [], dpTurn := false, snaps := [] }
def Mst.reset : Mst :=
  { grant := false, wdgGrant := false, active := none, second := false, halt := false, sel := 0, csn := true,
    collCnt := 0, xferCnt := 0, errSel := 0, errStat := 0, revoke := false, tx := [], dummy := 0 }
/-- R382: after any reset the published table holds main budget 0 and an unlimited auxiliary budget. -/
def Site.reset : Site :=
  { joined := false, ladder := 0, acting := false, conflict := false, keyver := false, overBud := false,
    pubPend := false, cyc6 := false, ncKnown := false, auxBud := 0xFFF, mainKw := 0, auxLoad := 0, shedLoad := 0,
    lost := 0, frond := 0, fc := 0, fcValid := false, stime := 0, ltick := 0, lastAt := 0, lastMain := 0, lastAux := 0xFFF,
    coord := 0, coordKey := 0, bcnOfs := [], ackNow := 0, ack := 0, cntOk := 0, cntLost := 0, cntAuth := 0,
    cntReplay := 0, cntEras := 0, cntRs := 0, table := List.replicate 31 (0, 0xFFF),
    beacon := List.replicate 31 (0, 0xFFF), built := List.replicate 31 (0, 0xFFF), pinFc := [], join := none,
    timedOut := false, hoLeft := 0, hoSeen := 0, fcNext := 0, fcBlock := 0, txFrame := [], bcnThis := false, crcLost := false,
    send := none, feed := 0xFFF, feedLvl := 0, stale := false }
def Zc.reset : Zc :=
  { st := .unlocked, outl := 0, run := 0, per16 := 0, lastAt := none, predAt := 0, bases := [], six := false, pherr := 0, holdAt := 0,
    cntAcc := 0, cntOutl := 0, cntRel := 0, lastT := 0 }
/-- Before the sense sequencer has run, nothing is latched (R396); the defaults of R405 stand in. -/
def Otp.reset : Otp :=
  { words := [], checks := [], region := [0, 0, 0, 0, 0, 0, 0], crcs := [], src := 2, kdConf := false,
    skConf := false, kdOne := false, skOne := false, kdValid := false, skValid := false, kd := 0, sk := 0,
    skVer := 0, rlSeal := false, custClose := false, marg := 0, corr := 0, uncorr := 0, drift := 0, written := 0,
    driftCnt := 0, driftLast := 0, weakCnt := 0, failK := 0, refresh := 0, winVdd := true, winSup := true }
def Jnl.reset : Jnl :=
  { ready := false, busy := none, split := false, seq := 1, rel := 0, last := 0, ovwCnt := 0,
    splitCnt := 0, corrCnt := 0, retired := 0, wfailCnt := 0, wrCnt := 0, supp := [], porTotal := 0,
    limpTotal := 0, stopTotal := 0 }
def Sec.reset : Sec :=
  { unlocked := false, attBusy := false, attMsg := [], result := 0, fails := 0, backoff := false, backAt := 0,
    unlCnt := 0, failTot := 0, denyCnt := 0, attCnt := 0, keys := [], tag := List.replicate 16 0,
    cfgDig := List.replicate 32 0, compare := false }
def Dev.reset (p : Part) : Dev :=
  { part := p, phase := .sensing, governed := false, frz := false, rstKind := 1, refLate := false,
    rstCnt := 0, frLost := 0, startupAt := 0, startupT := 0, latched := false, prevState := 0, seenState := 1 }
/-- R461: LF_OK resets to 1, the other status bits to 0. -/
def Clk.reset : Clk :=
  { refOk := false, refExt := false, lfOk := true, cpOk := false, refLossCnt := 0, lfLossCnt := 0,
    cpLossCnt := 0, rlossT := 0, rlossAt := 0, rlossDur := 0, lfStop := 0, lfGone := 0, refSafe := true, lfSafe := false, epwmSafe := true }
def Pwr.reset (vdd : Bool) : Pwr :=
  { vddOk := vdd, vbbUv := false, vbbLow := false, vbbWl := false, vbbWh := false, vbbOv := false, vppMv := 0,
    vcpOk := false, vbb := 0, vbbMin := 0xFFFF, vbbMax := 0, vddLossCnt := 0, uvCnt := 0, ovCnt := 0 }
def Dbg.reset : Dbg := ⟨0, 0, 0, 0, List.replicate 24 0, 0⟩
def Cmt.reset : Cmt :=
  { pend := none, takeArmed := false, seq := 0, laSeq := 0, laTag := 0, laPcnt := 0, laTick := 0, lrSeq := 0,
    lrTag := 0, lrReason := 0, lrChmask := 0, pulseRate := 0, curSum := 0 }

/-- The machine at POR release (R452, R453): every volatile register at its reset value. -/
def Mach.por (p : Part) (vdd : Bool) : Mach :=
  { now := 0, time := 0, free := 0, active := [], staged := [], held := [], evt := [], evtNew := [], snap := [],
    dev := .reset p, clk := .reset, pwr := .reset vdd, dbg := .reset, cmt := .reset,
    chans := .replicate 24 .reset, outs := .replicate 32 .reset, tbs := .replicate 8 .reset,
    pairs := .replicate 16 .reset, trips := .replicate 4 ⟨false, false, false⟩, tachs := .replicate 4 .reset, dl := .reset,
    thm := .reset, limp := .reset, port := .reset, rings := .reset, ops := [], opLast := [], mst := .reset,
    site := .reset, zc := .reset, otp := .reset, frq := [], jnl := .reset, sec := .reset }

/-- The array of a part as it leaves production with its customer regions BLANK (the worked example of
14_otp.md): FT and ID sealed over data words of zero (log entry 10), every other cell 0. W120 and W121 are the
seal words of FT and ID: CRC-32 of 256 and of 64 zero bytes, LOCK blown, SECDED check bits. -/
def NonVol.factory : NonVol :=
  { otp := [(120, ⟨0x6DFFFF00001AA169B0#72, 0, 0, 0, 0, 0⟩),
            (121, ⟨0xE0FFFF00006CC6B1AE#72, 0, 0, 0, 0, 0⟩)],
    jnl := [] }

/-- The block right after a power-on reset: STARTUP begins (R452), with VDD present and nothing queued. -/
def State.reset : State :=
  { pending := [], sram := [], eccBad := [], nv := .factory, m := .por .krp2448x true }

end Sys2Proof.Machine
end

