-- ==== Sys2Proof/Machine/Bits.lean ====
section
/-! DEFINITION. Small pieces every other file uses: bit fields, saturating counts, entries of vectors and lists, and
sorted word maps. -/

namespace Sys2Proof.Machine

/-- The field of `w` with `n` bits from bit `lo`, as a number. -/
def fld (w : Word) (lo n : Nat) : Nat := (w.toNat >>> lo) % 2 ^ n

/-- Bit `i` of a word. -/
def bit (w : Word) (i : Nat) : Bool := w.getLsbD i

/-- A flag as a number at bit `i`. -/
def flag (b : Bool) (i : Nat) : Nat := if b then 2 ^ i else 0

/-- A word from a number, bits above 15 dropped. -/
def wd (n : Nat) : Word := BitVec.ofNat 16 n

/-- Word `k` of a multi-word value, least significant word first (R10). -/
def wordOf (v k : Nat) : Word := BitVec.ofNat 16 (v >>> (16 * k))

/-- A count saturating at 0xFFFF. -/
def sat16 (n : Nat) : Word := wd (min n 0xFFFF)

/-- A signed value saturating in 16-bit two's complement. -/
def satS16 (i : Int) : Word := BitVec.ofInt 16 (max (-32768) (min 32767 i))

/-- One more, saturating at 0xFFFF. -/
def inc16 (n : Nat) : Nat := min (n + 1) 0xFFFF

/-- Nearest integer, halves upward. -/
def roundHalfUp (q : Rat) : Int := (q + 1 / 2).floor

/-- A quotient in whole units where the manual states no rounding: one of its two neighbours (log entry 13). -/
def inUnits (q : Rat) : Int :=
  if q.floor = q then q.floor else q.floor + (if Config.roundUp q then 1 else 0)

/-- Nearest integer of a non-negative quotient, halves upward. -/
def divRound (a b : Nat) : Nat := (2 * a + b) / (2 * b)

/-- `n` reckoned between two ends: codes outside count as the nearer end. -/
def clampNat (lo hi n : Nat) : Nat := max lo (min hi n)

/-- Entry `i` of a list, or `d` past its end. -/
def nth {α : Type} (l : List α) (i : Nat) (d : α) : α := l.getD i d

/-- Change entry `i` of a list. -/
def modNth {α : Type} (l : List α) (i : Nat) (f : α → α) : List α := l.modify i f

/-- Change entry `i` of a vector. -/
def vmod {α : Type} {n : Nat} (v : Vector α n) (i : Fin n) (f : α → α) : Vector α n := v.set i (f v[i])

/-- Change every entry of a vector, with its index. -/
def vmap {α : Type} {n : Nat} (v : Vector α n) (f : Fin n → α → α) : Vector α n := Vector.ofFn fun i => f i v[i]

/-- Apply `f` for each index below `n` in turn, from 0. -/
def forFin {σ : Type} (n : Nat) (f : Fin n → σ → σ) (s : σ) : σ := (List.finRange n).foldl (fun s i => f i s) s

/-- Apply `f` for each member of a list in turn. -/
def forList {α σ : Type} (l : List α) (f : α → σ → σ) (s : σ) : σ := l.foldl (fun s a => f a s) s

/-- Apply `f` when `b` holds. -/
def onlyIf {σ : Type} (b : Bool) (f : σ → σ) (s : σ) : σ := if b then f s else s

namespace WMap

/-- The word stored under a key. -/
def get? (l : WMap) (k : Nat) : Option Word :=
  match l with
  | [] => none
  | (k', w) :: t => if k' = k then some w else WMap.get? t k

/-- Store a word under a key, keeping the keys strictly rising. -/
def set (l : WMap) (k : Nat) (w : Word) : WMap :=
  match l with
  | [] => [(k, w)]
  | (k', w') :: t =>
    if k < k' then (k, w) :: (k', w') :: t
    else if k = k' then (k, w) :: t
    else (k', w') :: WMap.set t k w

/-- Remove a key. -/
def del (l : WMap) (k : Nat) : WMap := l.filter fun p => p.1 != k

end WMap

/-- The page of a word address (R43). -/
def pageOf (a : Nat) : Nat := a / 256

/-- The offset of a word address within its page (R43). -/
def offOf (a : Nat) : Nat := a % 256

/-- A word address. -/
def adr (page off : Nat) : Nat := page * 256 + off

/-- The page of channel `n` (R44). -/
def chPage (n : Nat) : Nat := 0x20 + n

end Sys2Proof.Machine
end

