-- ==== Sys2Proof/Machine/Regs.lean ====
section
/-! DEFINITION. The register maps: for every implemented word its access type, its reset value where the maps give
one for RW, RS and RL words, and the bits a write can set (R11, R44, R47, R50, and the map of each page). -/

namespace Sys2Proof.Machine

/-- Access types (R50). -/
inductive Acc where
  | ro | rw | rs | w1c | wo | rl
deriving DecidableEq, Repr

/-- An implemented word: its access type, reset value and writable bits. -/
structure Reg where
  acc   : Acc
  reset : Word
  mask  : Word
deriving DecidableEq, Repr

/-- A run of words of one kind. -/
structure Row where
  lo  : Nat
  hi  : Nat
  reg : Reg
deriving DecidableEq, Repr

def roRow (lo hi : Nat) : Row := ⟨lo, hi, ⟨.ro, 0, 0⟩⟩
def woRow (lo hi : Nat) : Row := ⟨lo, hi, ⟨.wo, 0, 0xFFFF⟩⟩
def rsRow (lo hi : Nat) (reset mask : Word) : Row := ⟨lo, hi, ⟨.rs, reset, mask⟩⟩
def rwRow (lo hi : Nat) (reset mask : Word) : Row := ⟨lo, hi, ⟨.rw, reset, mask⟩⟩
def rlRow (lo hi : Nat) (reset mask : Word) : Row := ⟨lo, hi, ⟨.rl, reset, mask⟩⟩

/-- The page-specific event bits of a page (R460, R461, R462, R330, R356, R59, R217, R248, R246, R247, R283, R299,
R419, R437, R438, R390, R392, R357, R463; channel pages R102, R136, R162, R186, R219, R245). -/
def evtBits (page : Nat) : Word :=
  match page with
  | 0x00 => 0x003F | 0x01 => 0x000F | 0x02 => 0x003F | 0x03 => 0x003F | 0x04 => 0x003F | 0x05 => 0x0007
  | 0x06 => 0x0FFF | 0x07 => 0x03FF | 0x08 => 0x000F | 0x09 => 0x00FF | 0x0A => 0x01FF | 0x0B => 0x0007
  | 0x0C => 0x00FF | 0x0D => 0x003F | 0x0E => 0x001F | 0x0F => 0x07FF | 0x10 => 0x001F | 0x11 => 0x000F
  | 0x12 => 0x0003 | _ => 0x0FFF

/-- The header words of a page (R47). -/
def headerRows (page : Nat) : List Row :=
  [roRow 0x00 0x02, ⟨0x03, 0x03, ⟨.w1c, 0, 0x8000 ||| evtBits page⟩⟩, rwRow 0x04 0x04 0 (0x8000 ||| evtBits page),
   rwRow 0x05 0x05 0x0003 0x0003, roRow 0x06 0x07]

/-- The words of one timebase block (R216), offsets from the block's base. -/
def tbBlock (b : Nat) : List Row :=
  [rsRow b b 0 0x01F1, rsRow (b + 1) (b + 1) 0x0960 0xFFFF, rsRow (b + 2) (b + 2) 0 0x00FF,
   rsRow (b + 3) (b + 3) 0 0x0FFF, rsRow (b + 4) (b + 4) 0 0x001F, rsRow (b + 5) (b + 5) 0x0010 0xFFFF,
   roRow (b + 6) (b + 14)]

/-- The words of one EPWM block (R248). -/
def xpwmBlock (b : Nat) : List Row :=
  [rsRow b b 0 0x0737, rsRow (b + 1) (b + 1) 0xFFFF 0xFFFF, rsRow (b + 2) (b + 2) 0xFF00 0xFFFF,
   rsRow (b + 3) (b + 3) 0xFFFF 0xFFFF, rsRow (b + 4) (b + 4) 0xFF00 0xFFFF, roRow (b + 5) (b + 6),
   rsRow (b + 7) (b + 7) 0x0030 0x1FFF]

/-- The words of one pair of external outputs (R248). -/
def xpairBlock (b : Nat) : List Row := [rsRow b b 0 0xFF07, roRow (b + 1) (b + 1), woRow (b + 2) (b + 2)]

/-- The words of one tach input (R247). -/
def tachBlock (b : Nat) : List Row :=
  [rsRow b b 0 0x1F3F, rsRow (b + 1) (b + 1) 0x0032 0x00FF, rsRow (b + 2) (b + 2) 0 0xFFFF,
   rsRow (b + 3) (b + 3) 0x0A0A 0xFFFF, roRow (b + 4) (b + 7)]

/-- The channel words (R101, R135, R161, R185, R218, R245, R280, R300, R391, R138). CHn.PAIR is RS on even channels
and RO on odd ones; CHn.SIG_BUF resets to ((24 + n) << 8) + n. -/
def chanRows (n : Nat) : List Row :=
  [rsRow 0x08 0x08 0 0x0003, rsRow 0x09 0x09 0x0088 0x03FF, rsRow 0x0A 0x0A 0 0x01FF, rsRow 0x0B 0x0B 0x0013 0x007F,
   roRow 0x0C 0x0E, woRow 0x0F 0x0F,
   rsRow 0x10 0x10 0x0FF0 0x0FFF, rsRow 0x11 0x11 0x008C 0x00FF, rsRow 0x12 0x12 0 0x01FF, rsRow 0x13 0x13 0x0005 0x000F,
   rsRow 0x14 0x14 0x0220 0x037F, rsRow 0x15 0x15 0x0008 0x00FF, rsRow 0x16 0x16 0x2E4E 0xFFFF,
   roRow 0x18 0x1F, woRow 0x20 0x20, roRow 0x21 0x22,
   rsRow 0x28 0x28 0 0x0077, rsRow 0x29 0x29 0 0x0FFF, rsRow 0x2A 0x2B 0x0064 0xFFFF, rsRow 0x2C 0x2C 0x0020 0xFFFF,
   rsRow 0x2D 0x2D 0x0A00 0xFFFF, roRow 0x2E 0x2F, rsRow 0x30 0x30 0x0872 0x0FF7, rsRow 0x31 0x31 0x000A 0x03FF,
   rsRow 0x32 0x32 0x6400 0xFFFF, rsRow 0x33 0x33 0x0404 0xFFFF, roRow 0x34 0x36, woRow 0x37 0x37,
   roRow 0x38 0x3D, rsRow 0x3E 0x3E 0x0015 0x001F, roRow 0x3F 0x42, rsRow 0x43 0x43 0x008B 0x03FF,
   rsRow 0x44 0x44 (wd ((24 + n) * 256 + n)) 0x3F3F, roRow 0x45 0x4A, woRow 0x4B 0x4B,
   rsRow 0x50 0x50 0 0x0037, rsRow 0x51 0x51 0xFFFF 0xFFFF, rsRow 0x52 0x52 0xFF00 0xFFFF,
   rsRow 0x53 0x53 0xFFFF 0xFFFF, rsRow 0x54 0x54 0xFF00 0xFFFF, roRow 0x55 0x56,
   (if n % 2 = 0 then rsRow 0x5A 0x5A 0 0xFF07 else roRow 0x5A 0x5A), roRow 0x5B 0x5B, woRow 0x5C 0x5C,
   rsRow 0x5D 0x5D 0 0xFF01, roRow 0x5E 0x5E,
   roRow 0x60 0x63, rsRow 0x64 0x64 0x0096 0x00FF, roRow 0x65 0x66, woRow 0x67 0x67,
   rsRow 0x70 0x70 0 0x0003, roRow 0x71 0x72, rsRow 0x74 0x74 0 0x1FFF, roRow 0x75 0x76, roRow 0x78 0x7E,
   woRow 0x7F 0x7F]

/-- The words of a device page above its header. Words latched from OTP carry reset 0 here; the sense sequencer
writes their value when it drives the latches (R397). -/
def deviceRows (page : Nat) : List Row :=
  match page with
  | 0x00 => [roRow 0x08 0x0E, woRow 0x0F 0x0F, roRow 0x10 0x12, rwRow 0x13 0x15 0 0xFFFF]
  | 0x01 => [rsRow 0x08 0x08 0x0002 0x000F, roRow 0x09 0x0E, woRow 0x0F 0x0F, roRow 0x10 0x13]
  | 0x02 => [rsRow 0x08 0x08 0x7850 0xFFFF, roRow 0x09 0x13, woRow 0x14 0x14]
  | 0x03 => [rwRow 0x08 0x08 0x0008 0x00FF, roRow 0x09 0x11, woRow 0x12 0x12]
  | 0x04 => [rwRow 0x08 0x08 0 0x00FF, woRow 0x09 0x09, roRow 0x0A 0x0D, woRow 0x0E 0x0E,
      rwRow 0x10 0x10 0x00B0 0x07FF, rwRow 0x11 0x11 0x0180 0x07FF, rwRow 0x12 0x12 0x0190 0x07FF,
      rwRow 0x13 0x13 0x00B8 0x07FF, rwRow 0x14 0x14 0x02C0 0x07FF, rwRow 0x15 0x15 0x01E0 0x07FF,
      rwRow 0x16 0x16 0x0300 0x07FF, rwRow 0x17 0x17 0x0340 0x07FF, roRow 0x18 0x2B, roRow 0x30 0x3F]
  | 0x05 => [rwRow 0x08 0x0A 0 0xFFFF, rwRow 0x0B 0x0B 0 0x00FF, rwRow 0x0C 0x0C 0 0x0073, rwRow 0x0D 0x0F 0 0xFFFF,
      woRow 0x10 0x12, rwRow 0x13 0x13 0 0x0001, roRow 0x14 0x23]
  | 0x06 => [rsRow 0x08 0x08 0 0x0001, roRow 0x09 0x0C] ++ tbBlock 0x10 ++ tbBlock 0x20 ++ tbBlock 0x30 ++
      tbBlock 0x40 ++ tbBlock 0x50 ++ tbBlock 0x60 ++ tbBlock 0x70 ++ tbBlock 0x80
  | 0x07 => [roRow 0x08 0x09] ++ xpwmBlock 0x10 ++ xpwmBlock 0x18 ++ xpwmBlock 0x20 ++ xpwmBlock 0x28 ++
      xpwmBlock 0x30 ++ xpwmBlock 0x38 ++ xpwmBlock 0x40 ++ xpwmBlock 0x48 ++
      [rsRow 0x50 0x57 0 0xFF01, roRow 0x58 0x5F] ++
      xpairBlock 0x60 ++ xpairBlock 0x63 ++ xpairBlock 0x66 ++ xpairBlock 0x69
  | 0x08 => [rsRow 0x08 0x0B 0 0x011F, rsRow 0x0C 0x0C 0x0004 0x001F, roRow 0x0D 0x0D, rsRow 0x10 0x17 0 0xFFFF,
      rsRow 0x18 0x23 0 0xFFFF, rsRow 0x24 0x3B 0x0030 0x1FFF, rsRow 0x3C 0x3F 0 0x1F1F]
  | 0x09 => [roRow 0x08 0x08] ++ tachBlock 0x10 ++ tachBlock 0x18 ++ tachBlock 0x20 ++ tachBlock 0x28
  | 0x0A => [rsRow 0x08 0x08 0 0x0001, rsRow 0x09 0x09 0x0028 0x01FF, rsRow 0x0A 0x0A 0x3296 0xFFFF,
      rsRow 0x0B 0x0B 0x0087 0x00FF, rsRow 0x0C 0x0C 0x0091 0x00FF, rsRow 0x0D 0x0D 0x009B 0x00FF,
      rsRow 0x0E 0x0E 0x1405 0xFFFF, rsRow 0x0F 0x0F 0x07D0 0xFFFF, rsRow 0x10 0x10 0x01F4 0xFFFF,
      rsRow 0x11 0x11 0x0064 0xFFFF, rsRow 0x12 0x13 0 0xFFFF, rsRow 0x14 0x14 0 0x00FF, rsRow 0x15 0x16 0 0xFFFF,
      rsRow 0x17 0x17 0x008C 0xFFFF, woRow 0x18 0x18, roRow 0x19 0x28,
      roRow 0x30 0x35, roRow 0x38 0x3D, roRow 0x40 0x45, roRow 0x48 0x4D, roRow 0x50 0x55, roRow 0x58 0x5D,
      roRow 0x60 0x65, roRow 0x70 0x9F, roRow 0xB0 0xBF]
  | 0x0B => [rsRow 0x08 0x08 0 0x001F, rsRow 0x09 0x09 0x0064 0x0FFF, woRow 0x0A 0x0A, roRow 0x0B 0x0D,
      rsRow 0x0E 0x0E 0x0A0A 0xFFFF, roRow 0x0F 0x17, woRow 0x18 0x18, roRow 0x20 0x25]
  | 0x0C => [roRow 0x08 0x0B, rlRow 0x0C 0x0C 0x0032 0x00FF, rwRow 0x0D 0x0D 0 0x007F, roRow 0x0E 0x12,
      woRow 0x13 0x13, roRow 0x14 0x17, roRow 0x20 0x3F, roRow 0x50 0x5F]
  | 0x0D => [rwRow 0x08 0x08 0 0x01FF, roRow 0x09 0x09, woRow 0x0A 0x0A, rwRow 0x0B 0x0B 0 0x033F, roRow 0x0C 0x19,
      roRow 0x20 0x3F]
  | 0x0E => [roRow 0x08 0x08, woRow 0x09 0x09, roRow 0x0A 0x0D, woRow 0x10 0x1F, rwRow 0x20 0x27 0 0xFFFF,
      roRow 0x28 0x52, roRow 0x5F 0x5F]
  | 0x0F => [rsRow 0x08 0x08 0 0x03FF, rsRow 0x09 0x09 0 0xFFFF, rsRow 0x0A 0x0A 0 0x01FF, rsRow 0x0B 0x0B 0 0x0FFF,
      rsRow 0x0C 0x0C 0 0x0FFF, rsRow 0x0D 0x0D 0 0x000F, rsRow 0x0E 0x0E 0x0008 0x000F, rsRow 0x0F 0x0F 0x0A01 0xFF01,
      woRow 0x10 0x10, roRow 0x11 0x23, rwRow 0x24 0x24 0 0x0FFF, rwRow 0x25 0x25 0x0030 0x013F, roRow 0x26 0x2E] ++
      (List.range 31).flatMap fun i => [rwRow (0x30 + 2 * i) (0x30 + 2 * i) 0 0x0FFF,
                                        rwRow (0x31 + 2 * i) (0x31 + 2 * i) 0x0FFF 0x0FFF]
  | 0x10 => [rwRow 0x08 0x08 0x1401 0xFF01, rwRow 0x09 0x09 0 0xFFFF, roRow 0x0A 0x12, woRow 0x13 0x13, roRow 0x14 0x16]
  | 0x11 => [woRow 0x08 0x08, rlRow 0x09 0x09 0x00A3 0x1FFF, roRow 0x0A 0x0A, woRow 0x0B 0x0B, roRow 0x0C 0x0E,
      rwRow 0x10 0x17 0x0020 0x03FF]
  | 0x12 => [woRow 0x08 0x08, rlRow 0x09 0x09 0x003C 0x00FF, roRow 0x0A 0x17]
  | _ => []

/-- The implemented words of a page. -/
def rowsOf (page : Nat) : List Row :=
  headerRows page ++ (if 0x20 ≤ page && page ≤ 0x37 then chanRows (page - 0x20) else deviceRows page)

/-- The last implemented offset of a page (R44). -/
def lastOff (page : Nat) : Nat :=
  match page with
  | 0x00 => 0x3F | 0x01 => 0x2F | 0x02 => 0x3F | 0x03 => 0x3F | 0x04 => 0x7F | 0x05 => 0x23 | 0x06 => 0x8F
  | 0x07 => 0x7F | 0x08 => 0x3F | 0x09 => 0x3F | 0x0A => 0xBF | 0x0B => 0x3F | 0x0C => 0x5F | 0x0D => 0x3F
  | 0x0E => 0x5F | 0x0F => 0xBF | 0x10 => 0x2F | 0x11 => 0x5F | 0x12 => 0x3F
  | _ => if 0x80 ≤ page && page ≤ 0xBF then 0xFF else 0x7F

/-- Channels a part has (R1). -/
def Part.channels : Part → Nat
  | .krp0848 => 8 | .krp1648 => 16 | .krp2448 => 24 | .krp2448x => 24

/-- Banks a part has (R1). -/
def Part.banks (p : Part) : Nat := p.channels / 4

/-- The full part, with site link, external PWM and tach, journal, security and port master (R1). -/
def Part.isX (p : Part) : Bool := p == .krp2448x

/-- A page of the register file that the part has (R2, R44). -/
def headerPage (p : Part) (page : Nat) : Bool :=
  if 0x20 ≤ page && page ≤ 0x37 then decide (page - 0x20 < p.channels)
  else if page = 0x07 || page = 0x09 || page = 0x0D || page = 0x0E || page = 0x0F || page = 0x10 || page = 0x11 then
    p.isX
  else decide (page ≤ 0x12)

/-- A page of the SRAM window (R45). -/
def sramPage (page : Nat) : Bool := 0x80 ≤ page && page ≤ 0xBF

/-- A page that is neither reserved nor absent on the part (R3). -/
def pagePresent (p : Part) (page : Nat) : Bool := headerPage p page || sramPage page

/-- The page has a bit in the commit page mask (R44): the pages with staged words. -/
def maskPage (page : Nat) : Bool :=
  (0x20 ≤ page && page ≤ 0x37) ||
  [0x01, 0x02, 0x06, 0x07, 0x08, 0x09, 0x0A, 0x0B, 0x0F].contains page

/-- The page a commit-mask bit names (R44, R59): bits 0 to 31 device pages 0x00 to 0x1F, bits 32 to 55 channels. -/
def maskBitPage (b : Nat) : Nat := if b < 32 then b else 0x20 + (b - 32)

/-- The implemented word at an offset of a page. -/
def regAt (page off : Nat) : Option Reg := ((rowsOf page).find? fun r => r.lo ≤ off && off ≤ r.hi).map (·.reg)

/-- The implemented word at a word address. -/
def regOf (a : Nat) : Option Reg := regAt (pageOf a) (offOf a)

/-- The reset value of an RW, RS or RL word; 0 elsewhere. -/
def resetWord (a : Nat) : Word := ((regOf a).map (·.reset)).getD 0

/-- The snapshot groups and multi-word values of 32 and 48 bits (R56, R10): first and last offset (log entry 11). -/
def snapGroups (page : Nat) : List (Nat × Nat) :=
  match page with
  | 0x00 => [(0x10, 0x12), (0x13, 0x15)]
  | 0x01 => [(0x10, 0x12)]
  | 0x03 => [(0x0F, 0x10)]
  | 0x05 => [(0x0D, 0x0F), (0x16, 0x1C), (0x1D, 0x21)]
  | 0x06 => (List.range 8).flatMap fun k => [(0x17 + 16 * k, 0x1A + 16 * k), (0x1D + 16 * k, 0x1E + 16 * k)]
  | 0x09 => (List.range 4).map fun i => (0x14 + 8 * i, 0x15 + 8 * i)
  | 0x0A => [(0xBA, 0xBC)]
  | 0x0B => [(0x13, 0x15)]
  | 0x0C => [(0x0E, 0x11)] ++ (List.range 7).map fun r => (0x50 + 2 * r, 0x51 + 2 * r)
  | 0x0D => [(0x0D, 0x0E), (0x10, 0x11), (0x20, 0x3F)]
  | 0x0F => [(0x1A, 0x21), (0x26, 0x27)]
  | 0x10 => [(0x0C, 0x0D), (0x14, 0x16)]
  | 0x12 => [(0x0D, 0x0F)]
  | _ => if 0x20 ≤ page && page ≤ 0x37 then [(0x40, 0x42), (0x7B, 0x7D)] else []

/-- The snapshot group an offset belongs to. -/
def snapGroup (page off : Nat) : Option (Nat × Nat) := (snapGroups page).find? fun g => g.1 ≤ off && off ≤ g.2

/-- RW multi-word values (R57): DEV.TSET and CMT.TICK. -/
def heldGroup (a : Nat) : Option (Nat × Nat) :=
  if 0x0013 ≤ a && a ≤ 0x0015 then some (0x0013, 0x0015)
  else if 0x050D ≤ a && a ≤ 0x050F then some (0x050D, 0x050F) else none

end Sys2Proof.Machine
end

