-- ==== Sys2Proof/Machine/Operands.lean ====
section
/-! DEFINITION. Every operand the configuration gives: active register words, the customer configuration latched
from OTP (R403 to R405), the grouping (R93, R94), the mode and class in force, and the typed fields of the staged
words, each taken as the value its code counts as. -/

namespace Sys2Proof.Machine

/-- The active value of an RS, RW or RL word. -/
def Mach.cfg (m : Mach) (a : Nat) : Word := (m.active.get? a).getD (resetWord a)

/-- Make a value active, keeping the store canonical: a word at its reset value is not listed. -/
def Mach.setCfg (a : Nat) (w : Word) (m : Mach) : Mach :=
  { m with active := if w = resetWord a then m.active.del a else m.active.set a w }

/-- Entry `n` of the channels, for any number. -/
def Mach.ch (m : Mach) (n : Nat) : Chan := if h : n < 24 then m.chans[n] else .reset

/-- Change channel `n`. -/
def Mach.modCh (n : Nat) (f : Chan → Chan) (m : Mach) : Mach :=
  if h : n < 24 then { m with chans := vmod m.chans ⟨n, h⟩ f } else m

/-- Output unit `o`, for any number. -/
def Mach.out (m : Mach) (o : Nat) : OutUnit := if h : o < 32 then m.outs[o] else .reset
def Mach.modOut (o : Nat) (f : OutUnit → OutUnit) (m : Mach) : Mach :=
  if h : o < 32 then { m with outs := vmod m.outs ⟨o, h⟩ f } else m

/-- Timebase `k`. -/
def Mach.tb (m : Mach) (k : Nat) : Timebase := if h : k < 8 then m.tbs[k] else .reset
def Mach.modTb (k : Nat) (f : Timebase → Timebase) (m : Mach) : Mach :=
  if h : k < 8 then { m with tbs := vmod m.tbs ⟨k, h⟩ f } else m

/-- Pair `k`. -/
def Mach.pair (m : Mach) (k : Nat) : Pair := if h : k < 16 then m.pairs[k] else .reset
def Mach.modPair (k : Nat) (f : Pair → Pair) (m : Mach) : Mach :=
  if h : k < 16 then { m with pairs := vmod m.pairs ⟨k, h⟩ f } else m

/-- Tach input `i`. -/
def Mach.tach (m : Mach) (i : Nat) : Tach := if h : i < 4 then m.tachs[i] else .reset
def Mach.modTach (i : Nat) (f : Tach → Tach) (m : Mach) : Mach :=
  if h : i < 4 then { m with tachs := vmod m.tachs ⟨i, h⟩ f } else m

/-- Bank `b` of the thallus model. -/
def Mach.bank (m : Mach) (b : Nat) : BankT := if h : b < 6 then m.thm.banks[b] else .reset
def Mach.modBank (b : Nat) (f : BankT → BankT) (m : Mach) : Mach :=
  if h : b < 6 then { m with thm := { m.thm with banks := vmod m.thm.banks ⟨b, h⟩ f } } else m

/-- Sensor `x`: 0 to 5 the die diodes, 6 the NTC. -/
def Mach.sensor (m : Mach) (x : Nat) : Sensor := if h : x < 7 then m.thm.sensors[x] else .reset
def Mach.modSensor (x : Nat) (f : Sensor → Sensor) (m : Mach) : Mach :=
  if h : x < 7 then { m with thm := { m.thm with sensors := vmod m.thm.sensors ⟨x, h⟩ f } } else m

/-- Channels the part has. -/
def Mach.nch (m : Mach) : Nat := m.dev.part.channels
/-- The channels of the part. -/
def Mach.allCh (m : Mach) : List Nat := List.range m.nch
/-- The banks of the part. -/
def Mach.allBanks (m : Mach) : List Nat := List.range m.dev.part.banks
/-- The outputs of the part: its channels and, on the KRP2448X, EPWM0 to EPWM7. -/
def Mach.allOuts (m : Mach) : List Nat := m.allCh ++ (if m.dev.part.isX then (List.range 8).map (24 + ·) else [])

/-! ## Latched OTP content -/

/-- The latched value of OTP word `i` (R397). -/
def Mach.otpWord (m : Mach) (i : Nat) : Nat := (nth m.otp.words i 0).toNat

/-- The state of region `r` (R400). -/
def Mach.region (m : Mach) (r : Nat) : Nat := nth m.otp.region r 0

/-- Word Ci of the active customer region, none with DEFAULTS (R401, R403). -/
def Mach.cust (m : Mach) (i : Nat) : Option Nat :=
  match m.otp.src with
  | 0 => some (m.otpWord (40 + i))
  | 1 => some (m.otpWord (56 + i))
  | _ => none

/-- Bits of Ci, or the default of R405. -/
def Mach.custBits (m : Mach) (i lo n d : Nat) : Nat :=
  match m.cust i with
  | some w => (w >>> lo) % 2 ^ n
  | none => d

/-- Channel entry with DEFAULTS (R405): code OFF, safe OFF, class 3, ceilings 120 A, code 15, 150 A. -/
def defaultEntry : Nat := 3 * 2 ^ 10 + 240 * 2 ^ 12 + 15 * 2 ^ 20

/-- The OTP entry of channel `n` (R403, R404). -/
def Mach.entry (m : Mach) (n : Nat) : Nat := m.custBits (n / 2) (32 * (n % 2)) 32 defaultEntry

/-- A field of the OTP entry of channel `n`. -/
def Mach.entryFld (m : Mach) (n lo k : Nat) : Nat := (m.entry n >>> lo) % 2 ^ k

/-- Grouping nibble of bank `b` (R403). -/
def Mach.groupNibble (m : Mach) (b : Nat) : Nat := m.custBits 12 (4 * b) 4 0

/-- CHn.GRP.PAR: 0 single, 1 pair, 2 quad; a quad takes precedence (R93). -/
def Mach.par (m : Mach) (n : Nat) : Nat :=
  let g := m.groupNibble (n / 4)
  if n ≥ m.nch then 0
  else if g.testBit 2 then 2 else if g.testBit ((n % 4) / 2) then 1 else 0

/-- The leader of channel `n`'s group; `n` itself when single (R94). -/
def Mach.leader (m : Mach) (n : Nat) : Nat :=
  match m.par n with
  | 2 => n - n % 4
  | 1 => n - n % 2
  | _ => n

/-- The members of channel `n`'s group, in ascending order. -/
def Mach.members (m : Mach) (n : Nat) : List Nat :=
  match m.par n with
  | 2 => (List.range 4).map (n - n % 4 + ·)
  | 1 => (List.range 2).map (n - n % 2 + ·)
  | _ => [n]

/-- The leaders and single channels of the part. -/
def Mach.leaders (m : Mach) : List Nat := m.allCh.filter fun n => m.leader n == n

/-- An active word of the leader of channel `n`, which configures the whole group (R94). -/
def Mach.lw (m : Mach) (n off : Nat) : Word := m.cfg (adr (chPage (m.leader n)) off)

/-- Limp code of channel `n`: its leader's, 4 to 7 counting as OFF (R289). -/
def Mach.limpCode (m : Mach) (n : Nat) : Nat :=
  let c := m.entryFld (m.leader n) 0 3
  if c ≥ 4 then 0 else c
/-- Limp period in LFOSC cycles (R289). -/
def Mach.limpPeriod (m : Mach) (n : Nat) : Nat :=
  match m.entryFld (m.leader n) 3 2 with
  | 0 => 10000 | 1 => 2500 | 2 => 1000 | _ => 250
def Mach.limpDuty (m : Mach) (n : Nat) : Nat := m.entryFld (m.leader n) 5 4
/-- On-time of a limp period in LFOSC cycles (R289). -/
def Mach.limpOnTime (m : Mach) (n : Nat) : Nat := m.limpPeriod n * (m.limpDuty n + 1) / 16
/-- Safe state ON (R404), the leader's for a group (R94). -/
def Mach.safeOn (m : Mach) (n : Nat) : Bool := m.entryFld (m.leader n) 9 1 == 1
def Mach.otpClass (m : Mach) (n : Nat) : Nat := m.entryFld (m.leader n) 10 2
/-- ILIM ceiling as the value its code counts as (R404), in 0.5 A. -/
def Mach.ilimCeil (m : Mach) (n : Nat) : Nat := clampNat 8 240 (m.entryFld (m.leader n) 12 8)
def Mach.clCeil (m : Mach) (n : Nat) : Nat := m.entryFld (m.leader n) 20 4
/-- ITRIP ceiling in A: 10 to 140, or 150 (R404). -/
def Mach.itripCeil (m : Mach) (n : Nat) : Nat :=
  let c := m.entryFld (m.leader n) 24 8
  if c = 0 ∨ c > 140 then 150 else max 10 c

def Mach.lhEnabled (m : Mach) (i : Nat) : Bool := m.custBits 12 (24 + i) 1 1 == 1
def Mach.wdgReq (m : Mach) : Bool := m.custBits 12 26 1 0 == 1
def Mach.wdgCeil (m : Mach) : Nat := m.custBits 12 27 12 4095
def Mach.crcReq (m : Mach) : Bool := m.custBits 12 39 1 0 == 1
/-- XPWM.SAFE (R248). -/
def Mach.xpwmSafe (m : Mach) : Nat := m.custBits 12 40 16 0
def Mach.limpAux (m : Mach) : Nat := m.custBits 15 0 12 0xFFF

/-! ## Mode, class and holds -/

/-- The limp map governs the channels: limp-home in force, STARTUP over and no stop hold on the channel (R276). -/
def Mach.limpGoverns (m : Mach) (n : Nat) : Bool :=
  !m.dev.governed && m.dev.phase == .running && !(m.ch (m.leader n)).thm.stopHold

/-- Mode in force: CHn.CTL.MODE in governed mode, the limp code's in limp-home (R87, R138). -/
def Mach.mode (m : Mach) (n : Nat) : Nat := if m.dev.governed then fld (m.lw n 0x08) 0 2 else m.limpCode n

/-- The priority class in use (R292): the OTP class while the limp map governs the channel, CHn.CLASS otherwise. -/
def Mach.cls (m : Mach) (n : Nat) : Nat := if m.limpGoverns n then m.otpClass n else fld (m.lw n 0x70) 0 2

/-- The state of channel `n`: its leader's (R96). -/
def Mach.st (m : Mach) (n : Nat) : ChSt := (m.ch (m.leader n)).st

/-- Channel state codes (R89). -/
def ChSt.code : ChSt → Nat
  | .off => 0 | .inrush => 1 | .on => 2 | .pwm => 3 | .hold => 4 | .retryWait => 5 | .latched => 6 | .shed => 7
  | .safe => 8

/-- INRUSH, ON, PWM or HOLD. -/
def ChSt.running : ChSt → Bool
  | .inrush | .on | .pwm | .hold => true
  | _ => false

/-- PWM or HOLD. -/
def ChSt.follows : ChSt → Bool
  | .pwm | .hold => true
  | _ => false

/-- ON, PWM or HOLD. -/
def ChSt.steady : ChSt → Bool
  | .on | .pwm | .hold => true
  | _ => false

/-- "Conducting" (R104): the gate commanded on or an edge in progress. -/
def Stage.conducting (g : Stage) : Bool := g.gateOn || g.edge.isSome

/-- A member of the group conducts. -/
def Mach.conducting (m : Mach) (n : Nat) : Bool := (m.members n).any fun k => (m.ch k).stage.conducting

/-! ## Thermal configuration -/

def Mach.thmCfg (m : Mach) (off : Nat) : Word := m.cfg (adr 0x0A off)
/-- Orderly-stop window W in 125 µs (R281). -/
def Mach.stopWin (m : Mach) : Nat := clampNat 4 400 (fld (m.thmCfg 0x09) 0 9)
def Mach.exitLvl (m : Mach) : Nat := clampNat 120 155 (fld (m.thmCfg 0x0A) 0 8)
/-- THM.TGTk in °C, k = 1 to 3. -/
def Mach.tgt (m : Mach) (k : Nat) : Nat := clampNat 60 165 (fld (m.thmCfg (0x0A + k)) 0 8)
def Mach.hyst (m : Mach) : Nat := clampNat 1 20 (fld (m.thmCfg 0x0E) 0 8)
/-- THM.Hk in 125 µs units; 0 disables. -/
def Mach.horizon (m : Mach) (k : Nat) : Nat := 8 * min 8191 (m.thmCfg (0x0E + k)).toNat
/-- TJ_OFF in °C (R266, R280), the leader's in a group. -/
def Mach.tjOff (m : Mach) (n : Nat) : Nat := clampNat 100 165 (fld (m.lw n 0x64) 0 8)

/-- A sensor counts as too hot while it is failed or diverged (R265). -/
def Sensor.bad (x : Sensor) : Bool := x.fail || x.diverge

/-- Effective step of bank `b` (R265). -/
def Mach.effStep (m : Mach) (b : Nat) : Nat :=
  if (m.sensor b).bad || (m.sensor 6).bad then 3 else max (m.bank b).ownStep m.thm.devStep

/-- A throttle hold on channel `n` (R261, R267): an effective step holds off its class, or a member's own limit. -/
def Mach.throttleHold (m : Mach) (n : Nat) : Bool :=
  let c := m.cls n
  (c != 0) && (4 ≤ c + m.effStep (n / 4) || (m.members n).any fun k => (m.ch k).thm.ownHold)

/-- The thermal-stop condition or a stop hold holds channel `n` (R274, R276). -/
def Mach.stopHeld (m : Mach) (n : Nat) : Bool := m.thm.stop || (m.ch (m.leader n)).thm.stopHold

/-- A site-budget hold (R387). -/
def Mach.siteHeld (m : Mach) (n : Nat) : Bool := (m.ch (m.leader n)).limp.siteHold

/-- Any device-level hold. -/
def Mach.held? (m : Mach) (n : Nat) : Bool := m.throttleHold n || m.stopHeld n || m.siteHeld n

/-- SHED code of the strongest hold: 0x8 stop, then 0x7 throttle, then 0xE site budget (R267, R387). -/
def Mach.holdCode (m : Mach) (n : Nat) : Nat :=
  if m.stopHeld n then 0x8 else if m.throttleHold n then 0x7 else if m.siteHeld n then 0xE else 0

/-! ## Protection and inrush fields -/

/-- ILIM code as the value it counts as (R111). -/
def ilimValue (c : Nat) : Nat := clampNat 8 240 c
/-- ITRIP in A as the code counts (R108): none when disabled. -/
def itripValue (c : Nat) : Option Nat := if c = 0 then none else some (clampNat 10 140 c)
/-- ITRIP for a comparison with the ceiling: a disabled fast trip counts as 150 A (R105). -/
def itripCount (c : Nat) : Nat := (itripValue c).getD 150

/-- Effective ILIM and CL_TIME of a channel (R105, R113, R143), the leader's; while a sequence runs, its own limit, or the
one active at its start (R148). -/
def Mach.ilimEff (m : Mach) (n : Nat) : Nat × Nat :=
  let l := m.ch (m.leader n)
  let w := m.lw n 0x10
  let w := if l.st == .inrush then l.inr.ilim else w
  let (i, t) :=
    if l.st == .inrush && fld l.inr.lim 0 8 != 0 then (ilimValue (fld l.inr.lim 0 8), fld l.inr.lim 8 4)
    else (ilimValue (fld w 0 8), fld w 8 4)
  (min i (m.ilimCeil n), min t (m.clCeil n))

/-- Effective fast trip in A (R105): none when disabled. -/
def Mach.itripEff (m : Mach) (n : Nat) : Option Nat :=
  match itripValue (fld (m.lw n 0x11) 0 8) with
  | some v => some (min v (m.itripCeil n))
  | none => if m.itripCeil n ≥ 150 then none else some (m.itripCeil n)

/-- Timeout of a CL_TIME code in µs (R112). -/
def clTimeUs (code : Nat) : Nat :=
  nth [10, 20, 50, 100, 200, 500, 1000, 2000, 5000, 10000, 20000, 50000, 100000, 200000, 500000, 1000000] code 1000000

/-- Slew and S-curve of a turn-on (R79, R82). -/
def Mach.onSlew (m : Mach) (n : Nat) : Nat × Bool := let w := m.lw n 0x09; (fld w 0 4, bit w 8)
/-- Slew and S-curve of a programmed turn-off. -/
def Mach.offSlew (m : Mach) (n : Nat) : Nat × Bool := let w := m.lw n 0x09; (fld w 4 4, bit w 9)

/-- Inrush profile, 6 and 7 counting as NONE (R161). -/
def profileOf (w : Word) : Nat := let p := fld w 0 3; if p ≥ 6 then 0 else p
/-- The profile a start in `mode` runs: COIL for mode COIL (R139), a COIL profile in ON and PWM as written. -/
def Mach.startProfile (m : Mach) (n mode : Nat) : Nat :=
  if mode = 3 then 5 else profileOf (m.lw n 0x28)

/-- Chop rates in Hz by code (R141). -/
def chopRate : Nat → Nat
  | 0 => 1000 | 1 => 2000 | 2 => 5000 | _ => 10000

/-- The present phase of a sequence chops (R140). -/
def Inr.chopping (r : Inr) : Bool :=
  match r.profile, r.phase with
  | 1, .a | 1, .b | 2, .a | 4, .a => true
  | _, _ => false

/-- A profile that chops (R150). -/
def chops (profile : Nat) : Bool := profile == 1 || profile == 2 || profile == 4

/-! ## Retry fields -/

/-- POLICY, 5 to 7 counting as LATCH (R152). -/
def Mach.policy (m : Mach) (n : Nat) : Nat := let p := fld (m.lw n 0x30) 0 3; if p ≥ 5 then 0 else p
def Mach.maxExp (m : Mach) (n : Nat) : Nat := min 10 (fld (m.lw n 0x30) 4 4)
def Mach.goodMs (m : Mach) (n : Nat) : Nat := 10 * 2 ^ fld (m.lw n 0x30) 8 4
def Mach.waitMs (m : Mach) (n : Nat) : Nat := 10 * max 1 (fld (m.lw n 0x31) 0 10)
def Mach.retryN (m : Mach) (n : Nat) : Nat := fld (m.lw n 0x32) 0 8
def Mach.tGate (m : Mach) (n : Nat) : Nat := clampNat 25 150 (fld (m.lw n 0x32) 8 8)
def Mach.bktCap (m : Mach) (n : Nat) : Nat := max 1 (fld (m.lw n 0x33) 0 8)
def Mach.bktRate (m : Mach) (n : Nat) : Nat := fld (m.lw n 0x33) 8 8

/-- The reading of a sensor in °C. -/
def Sensor.temp (q : Sensor) : Rat := (q.reading : Rat) / 16

/-! ## OTP regions (R393) -/

/-- First word and number of words of region `r`; 7 is the lifecycle word. -/
def regionBase (r : Nat) : Nat := nth [0, 32, 40, 56, 72, 80, 88, 127] r 127
def regionLen (r : Nat) : Nat := nth [32, 8, 16, 16, 8, 8, 32, 1] r 1

/-! ## Edges -/

/-- Slope of a slew code in V/µs (R80). -/
def slopeOf (code : Nat) : Rat :=
  nth [1/4, 7/20, 1/2, 7/10, 1, 7/5, 2, 14/5, 4, 28/5, 8, 11, 16, 22, 32, 40] code 40

/-- Energy of an edge in µJ (R172): VBB × I × t / 6 × f, with VBB in 10 mV and the current in 5 mA codes. -/
def edgeEnergy (vbb : Nat) (i : Int) (e : Edge) : Rat :=
  let v : Rat := (vbb : Rat) / 100
  let f : Rat := if e.scurve then 7 / 5 else 1
  v * ((i : Rat) / 200) * (v / slopeOf (if e.discharge then 15 else e.slew)) / 6 * f

/-! ## PWM fields -/

/-- The configuration word of output `o` that selects its timebase: CHn.PWM_CFG, the leader's in a group, or
XPWMj.CFG (R218, R248). -/
def Mach.outCfg (m : Mach) (o : Nat) : Word :=
  if o < 24 then m.lw o 0x50 else m.cfg (adr 0x07 (0x10 + 8 * (o - 24)))

/-- Addresses of the four compare words of output `o`: RISE_HI first (R195). -/
def Mach.cmpBase (m : Mach) (o : Nat) : Nat :=
  if o < 24 then adr (chPage (m.leader o)) 0x51 else adr 0x07 (0x11 + 8 * (o - 24))

/-- A compare from its two words (R195). -/
def cmpOf (hi lo : Word) : Cmp := ⟨hi.toNat * 256 + lo.toNat / 256, lo.toNat % 256⟩

/-- The address of pair word `k` (R220). -/
def pairAddr (k : Nat) : Nat := if k < 12 then adr (chPage (2 * k)) 0x5A else adr 0x07 (0x60 + 3 * (k - 12))
def Mach.pairWord (m : Mach) (k : Nat) : Word := m.cfg (pairAddr k)
/-- FN = INVERT (R220, R245). -/
def Mach.inverts (m : Mach) (k : Nat) : Bool := fld (m.pairWord k) 0 2 == 1

def Mach.tachWord (m : Mach) (i off : Nat) : Word := m.cfg (adr 0x09 (0x10 + 8 * i + off))

/-- Pair `k` lies within a paralleled pair or quad (R224). -/
def Mach.pairGrouped (m : Mach) (k : Nat) : Bool := decide (k < 12) && m.par (2 * k) != 0

/-- A TACH input with action SWAP names the pair; on a paralleled pair it acts as REPORT (R221, R224). -/
def Mach.tachSwaps (m : Mach) (k : Nat) : Bool :=
  m.dev.part.isX && !m.pairGrouped k &&
  (List.range 4).any fun i => let c := m.tachWord i 0; bit c 8 && fld c 9 4 == k

/-- Both members run on the even member's timebase and update point (R221). -/
def Mach.pairJoint (m : Mach) (k : Nat) : Bool := m.inverts k || (m.pair k).eff || m.tachSwaps k

/-- The timebase and update point in use: TB, UPD (R196, R221). -/
def Mach.tbSel (m : Mach) (o : Nat) : Nat × Nat :=
  let e := if o % 2 = 1 && m.pairJoint (o / 2) then o - 1 else o
  let w := m.outCfg e
  (fld w 0 3, fld w 4 2)

/-- Dither amplitude and SCALE of timebase `k` (R239, R246: AMP above 8 counts as 8). -/
def Mach.dither (m : Mach) (k : Nat) : Nat × Bool :=
  let w := m.cfg (adr 0x08 (0x3C + k / 2))
  (min 8 (fld w (8 * (k % 2)) 4), bit w (4 + 8 * (k % 2)))

/-- An output is enabled (R100, R242): a mode PWM or COIL of the channel or leader; EN with an undithered
timebase. -/
def Mach.outEnabled (m : Mach) (o : Nat) : Bool :=
  if o < 24 then (let md := fld (m.lw o 0x08) 0 2; md == 2 || md == 3)
  else bit (m.outCfg o) 8 && (m.dither (m.tbSel o).1).1 == 0

/-- Blanking window of output `o` in ticks (R232). -/
def Mach.blankTicks (m : Mach) (o : Nat) : Nat :=
  fld (if o < 24 then m.cfg (adr 0x08 (0x24 + o)) else m.cfg (adr 0x07 (0x17 + 8 * (o - 24)))) 0 13

/-- Interleave word of output `o` (R245, R248), the leader's in a group. -/
def Mach.ilvWord (m : Mach) (o : Nat) : Word := if o < 24 then m.lw o 0x5D else m.cfg (adr 0x07 (0x50 + (o - 24)))

/-! ## Watchdog fields -/

/-- Effective watchdog enable (R296). -/
def Mach.wdgEn (m : Mach) : Bool := bit (m.cfg 0x0B08) 0 || m.wdgReq
/-- The timeout in use, in ms (R296, R298). -/
def Mach.wdgT (m : Mach) : Nat :=
  let t := max 1 (fld (m.cfg 0x0B09) 0 12)
  if m.wdgReq then min t m.wdgCeil else t

end Sys2Proof.Machine
end

