-- ==== Sys2Proof/Machine/Ops.lean ====
section
/-! DEFINITION. The operations every command family shares: SRAM bytes and words, page events and the event
collector, the fault record, IRQN and FLTN, the device state, sealing of free values. -/

namespace Sys2Proof.Machine

/-! ## SRAM (R45, R46, R453): canonical list of the bytes that differ from 0x00 -/

/-- The byte at an address: 0x00 where none is listed. -/
def Memory.read (l : List Host.Cell) (a : Nat) : Byte :=
  match l with
  | [] => 0
  | (k, v) :: t => if k = a then v else Memory.read t a

/-- Remove address `a`. -/
def Memory.erase (l : List Host.Cell) (a : Nat) : List Host.Cell := l.filter fun c => c.1 != a

/-- Insert a cell at its place among strictly rising addresses, replacing one at the same address. -/
def Memory.insert (l : List Host.Cell) (a : Nat) (v : Byte) : List Host.Cell :=
  match l with
  | [] => [(a, v)]
  | (k, w) :: t =>
    if a < k then (a, v) :: (k, w) :: t
    else if a = k then (a, v) :: t
    else (k, w) :: Memory.insert t a v

/-- Write a byte, keeping the form: writing 0x00 unlists the address. -/
def Memory.write (l : List Host.Cell) (a : Nat) (v : Byte) : List Host.Cell :=
  if v = 0 then Memory.erase l a else Memory.insert l a v

/-- The canonical form: addresses strictly rising, no byte equal to what an unlisted address reads as. -/
abbrev Memory.wf (l : List Host.Cell) : Prop := (l.Pairwise fun x y => x.1 < y.1) ∧ ∀ c ∈ l, c.2 ≠ 0

/-- Word `w` of the SRAM, w = 0 to 16383: the byte at 2w in [7:0], the byte above it in [15:8] (R45). -/
def State.sramWord (s : State) (w : Nat) : Word := Memory.read s.sram (2 * w + 1) ++ Memory.read s.sram (2 * w)

/-- Store a word in the SRAM; its check bits are written with it, so an error of the old cells is gone. -/
def State.sramSet (w : Nat) (v : Word) (s : State) : State :=
  { s with sram := Memory.write (Memory.write s.sram (2 * w) (v.extractLsb' 0 8)) (2 * w + 1) (v.extractLsb' 8 8),
           eccBad := s.eccBad.filter fun e => e.1 != w }

/-- Store words from word `w` upward. -/
def State.sramSetList (w : Nat) (vs : List Word) (s : State) : State :=
  match vs with
  | [] => s
  | v :: t => State.sramSetList (w + 1) t (s.sramSet w v)

/-- Word index of the SRAM word at a window address, or of word `k` of window page `0x80 + p` (R45). -/
def sramIndex (p k : Nat) : Nat := 256 * p + k

/-- Apply an effect on the machine alone. -/
def State.on (f : Mach → Mach) (s : State) : State := { s with m := f s.m }

/-! ## Time -/

/-- LFOSC cycles elapsed (log entry 4). While LFOSC is lost the count stands (R34). -/
def Mach.lf (m : Mach) : Nat := if m.clk.lfOk then Config.lfCycles m.now - m.clk.lfGone else m.clk.lfStop

/-- A free value, and the counter that keeps the next one apart from it (log entry 3). -/
def Mach.freeVal (m : Mach) : Nat := Config.freeNat m.free
def Mach.nextFree (m : Mach) : Mach := { m with free := m.free + 1 }

/-! ## The device state -/

/-- DEV.STATE.STATE (R37). -/
def Mach.devState (m : Mach) : Nat :=
  match m.dev.phase with
  | .powerOff => 0
  | .running => if m.thm.stop then 4 else if m.dev.frz then 5 else if m.dev.governed then 3 else 2
  | _ => 1

/-! ## Ring geometry (R332, R334) -/

def Mach.ringCfg (m : Mach) (r : Nat) : Word := m.cfg (adr 0x04 (0x10 + r))
/-- First descriptor of ring `r`. -/
def Mach.ringBase (m : Mach) (r : Nat) : Nat := fld (m.ringCfg r) 0 8
/-- Entries of ring `r`: 8, 16, 32, 64 or 128. -/
def Mach.ringSize (m : Mach) (r : Nat) : Nat := 8 * 2 ^ min 4 (fld (m.ringCfg r) 8 3)
def Mach.ringHead (m : Mach) (r : Nat) : Nat := if h : r < 8 then m.rings.head[r] else 0
def Mach.ringTail (m : Mach) (r : Nat) : Nat := if h : r < 8 then m.rings.tail[r] else 0
def Mach.setHead (r v : Nat) (m : Mach) : Mach :=
  if h : r < 8 then { m with rings := { m.rings with head := m.rings.head.set r (v % 256) } } else m
def Mach.setTail (r v : Nat) (m : Mach) : Mach :=
  if h : r < 8 then { m with rings := { m.rings with tail := m.rings.tail.set r (v % 256) } } else m
/-- Entries a ring holds (R334). -/
def Mach.ringCount (m : Mach) (r : Nat) : Nat := (m.ringTail r + 256 - m.ringHead r) % 256
def Mach.ringOn (m : Mach) (r : Nat) : Bool := m.rings.en.getLsbD r
/-- The ring has no free slot. -/
def Mach.ringFull (m : Mach) (r : Nat) : Bool := m.ringSize r ≤ m.ringCount r

/-! ## Page events (R47, R49) -/

def Mach.evtWord (m : Mach) (page : Nat) : Word := (m.evt.get? page).getD 0
def Mach.evtEn (m : Mach) (page : Nat) : Word := m.cfg (adr page 0x04)
def Mach.pgCtl (m : Mach) (page : Nat) : Word := m.cfg (adr page 0x05)

/-- Store a PG_EVT word, listing only words that are not 0. -/
def Mach.setEvtWord (page : Nat) (w : Word) (m : Mach) : Mach :=
  { m with evt := if w = 0 then m.evt.del page else m.evt.set page w }

/-- Bits latched since the page's previous EQ entry (R340). -/
def Mach.evtFresh (m : Mach) (page : Nat) : Word := (m.evtNew.get? page).getD 0
def Mach.setEvtFresh (page : Nat) (w : Word) (m : Mach) : Mach :=
  { m with evtNew := if w = 0 then m.evtNew.del page else m.evtNew.set page w }

/-- Latch event bits of a page. -/
def Mach.latchEvt (page : Nat) (bits : Word) (m : Mach) : Mach :=
  (m.setEvtWord page (m.evtWord page ||| bits)).setEvtFresh page (m.evtFresh page ||| bits)

/-- An entry that finds no slot: it counts as lost, and a full EQ is marked (R341). -/
def Mach.eqLose (full : Bool) (m : Mach) : Mach :=
  let m := { m with rings := { m.rings with eqLost := inc16 m.rings.eqLost } }
  if full then
    let m := if m.rings.eqOvf then m else m.latchEvt 0x04 0x0008
    { m with rings := { m.rings with eqOvf := true, ovfDue := true } }
  else m

/-- Hand an entry to the event collector: it waits for EQ_POST, or is lost when EQ is full or not enabled (R341). -/
def Mach.collect (e : EqEv) (m : Mach) : Mach :=
  if !m.ringOn 7 then m.eqLose false
  else if m.ringSize 7 ≤ m.ringCount 7 + m.rings.evq.length then m.eqLose true
  else { m with rings := { m.rings with evq := m.rings.evq ++ [e] } }

/-- Event bits of a page that are posted as entries of their own kind: CMT.PG_EVT.APPLIED, REFUSED and CANCELLED as
COMMIT entries, TB.PG_EVT.EV0 to EV7 as TB entries (R209, R340; log entry 14). -/
def ownEntryBits (page : Nat) : Word := if page = 0x05 then 0x0007 else if page = 0x06 then 0x00FF else 0

/-- A PAGE entry of the page waits already; later bits merge into it (R340). -/
def Mach.pageWaits (m : Mach) (page : Nat) : Bool := m.rings.evq.any fun e => e.page == page && e.type == 0

/-- Route event bits that are enabled: a PAGE entry when the page posts to EQ. -/
def Mach.routePage (page : Nat) (bits : Word) (m : Mach) : Mach :=
  let b := bits &&& m.evtEn page &&& ~~~ ownEntryBits page
  if b != 0 && bit (m.pgCtl page) 1 && page != 0x04 && !m.pageWaits page then
    m.collect ⟨page, 0, 0, 0, 0, 0, m.time⟩
  else m

/-- An event of a page occurs: its bits latch, enabled or not, and are routed as PG_EVTEN and PG_CTL select (R49).
A page absent on the part has no events. -/
def Mach.event (page : Nat) (bits : Word) (m : Mach) : Mach :=
  if headerPage m.dev.part page then (m.latchEvt page bits).routePage page bits else m

/-- An event with an entry of its own kind (R209, R340). -/
def Mach.eventOwn (page : Nat) (bits : Word) (e : EqEv) (m : Mach) : Mach :=
  let m := m.latchEvt page bits
  if (bits &&& m.evtEn page) != 0 && bit (m.pgCtl page) 1 then m.collect e else m

/-- WDISC of a page: a write to it was discarded (R47, R50, R52). -/
def Mach.wdisc (page : Nat) (m : Mach) : Mach := m.event page 0x8000

/-- IRQN is asserted: an enabled event of a page that routes to IRQN is latched (R47, R49). -/
def Mach.irqn (m : Mach) : Bool :=
  m.dev.phase == .running && m.pwr.vddOk &&
  m.evt.any fun p => (p.2 &&& m.evtEn p.1) != 0 && bit (m.pgCtl p.1) 0

/-- FLTN is asserted: a channel requests it, outside reset and STARTUP (R132, R133), with VDD present (R443). -/
def Mach.fltn (m : Mach) : Bool :=
  m.dev.phase == .running && m.pwr.vddOk && m.allCh.any fun n => (m.ch n).flt.fltnReq

/-- DEV.PG_EVT.STATE when DEV.STATE.STATE has changed (R460). -/
def Mach.noteState (m : Mach) : Mach :=
  if m.devState = m.dev.seenState then m
  else ({ m with dev := { m.dev with seenState := m.devState } }).event 0x00 0x0020

/-! ## The fault record (R22, R131) -/

/-- Queue an item, or count it as lost when 32 wait (R22). -/
def Mach.frPush (it : FrItem) (m : Mach) : Mach :=
  if !it.eqDue && !it.jnlDue then m
  else if m.frq.length ≥ 32 then
    ({ m with dev := { m.dev with frLost := inc16 m.dev.frLost } }).event 0x00 0x0004
  else { m with frq := m.frq ++ [it] }

/-- Drop the items both takers have had. -/
def Mach.frClean (m : Mach) : Mach := { m with frq := m.frq.filter fun it => it.eqDue || it.jnlDue }

/-- Corrected temperature of a node: model value + c_P (+ c_b for junctions and dies) (R254). -/
def Mach.nodeTemp (m : Mach) (i : Nat) : Rat :=
  let t := if h : i < 31 then m.thm.temps[i] else 0
  if i < 24 then t + m.thm.cP + (m.bank (i / 4)).corr
  else if i < 30 then t + m.thm.cP + (m.bank (i - 24)).corr
  else t + m.thm.cP

/-- A temperature in 1/16 °C. -/
def temp16 (t : Rat) : Int := inUnits (t * 16)

/-- Suppressed FAULT records of a channel (R423). -/
def Mach.suppOf (m : Mach) (n : Nat) : Nat := ((m.jnl.supp.find? fun p => p.1 == n).map (·.2)).getD 0
def Mach.setSupp (n k : Nat) (m : Mach) : Mach :=
  { m with jnl := { m.jnl with supp := (if k = 0 then [] else [(n, k)]) ++ m.jnl.supp.filter fun p => p.1 != n } }

/-- A number as `k` bytes, most significant first (R421). -/
def beBytes (k n : Nat) : List Byte := (List.range k).map fun i => BitVec.ofNat 8 (n >>> (8 * (k - 1 - i)))

/-- Pass a channel's fault event through the fault record (R131): the EQ takes it while it is enabled (R341), the
journal when R423 keeps it. `first` says that the code was 0x0 before. -/
def Mach.passFault (n code detail : Nat) (first : Bool) (m : Mach) : Mach :=
  let keep := first || code == 0xD || bit (m.cfg 0x0D08) 8
  let jnl := m.dev.part.isX && keep
  let st := (m.st n).code
  let est := (m.ch n).prot.est
  let pay := beBytes 1 n ++ beBytes 1 (code + 16 * detail) ++ beBytes 1 st ++ beBytes 2 est ++
    beBytes 1 (m.suppOf n) ++ beBytes 1 m.devState ++ beBytes 2 (Word.ofInt (temp16 (m.nodeTemp n))).toNat ++
    beBytes 2 m.thm.tts
  let it : FrItem :=
    { kind := 0, ch := n, code := code, detail := detail, st := st, est := est, aux := 0, tts := 0, time := m.time,
      pay := pay, eqDue := m.ringOn 7, jnlDue := jnl }
  let m := if m.dev.part.isX then (if keep then m.setSupp n 0 else m.setSupp n (min 255 (m.suppOf n + 1))) else m
  m.frPush it

/-- Pass a device event: a limp-home entry (kind 1) or a thermal stop (kind 2) (R270, R285, R340, R422). `before` is
DEV.STATE before a limp-home entry. -/
def Mach.passDevice (kind cause before : Nat) (m : Mach) : Mach :=
  let pay :=
    if kind = 1 then
      beBytes 1 cause ++ beBytes 1 before ++ beBytes 2 m.limp.entryCnt ++ beBytes 2 m.limp.causeHist.toNat
    else beBytes 1 0xFF ++ beBytes 1 0x8 ++ beBytes 4 0 ++ beBytes 1 cause ++ beBytes 2 0 ++ beBytes 2 m.thm.tts
  m.frPush { kind := kind, ch := 0xFF, code := if kind = 2 then 0x8 else 0, detail := 0, st := 0, est := 0,
             aux := cause, tts := m.thm.tts, time := m.time, pay := pay, eqDue := m.ringOn 7,
             jnlDue := m.dev.part.isX }

/-- Queue a record of the journal alone: 3 ENERGY, 4 COUNTERS, 5 BOOT, with its payload (R424, R425). -/
def Mach.passJournal (kind : Nat) (pay : List Byte) (m : Mach) : Mach :=
  if m.dev.part.isX then
    m.frPush { kind := kind, ch := 0, code := 0, detail := 0, st := 0, est := 0, aux := 0, tts := 0, time := m.time,
               pay := pay, eqDue := false, jnlDue := true }
  else m

/-- Payload of a COUNTERS record (R422). -/
def Mach.countersPay (m : Mach) : List Byte :=
  beBytes 4 m.jnl.porTotal ++ beBytes 2 m.sec.fails ++ [0, 0] ++ beBytes 4 m.jnl.rel ++ beBytes 4 m.site.fcBlock ++
    beBytes 4 m.jnl.stopTotal ++ beBytes 4 m.jnl.limpTotal
/-- A value of the COUNTERS record has changed (R422, R425). Until the journal has been read the counters are not known;
the record follows then (R427). -/
def Mach.queueCounters (m : Mach) : Mach := if m.jnl.ready then m.passJournal 4 m.countersPay else m

/-! ## Outcomes -/

/-- A command that always takes effect. -/
abbrev Out := Host.Outcome State Fault Refusal

/-- A command with operands the hardware cannot produce is refused. -/
def guardWf (i : Instr) (o : Out) : Out := if i.WellFormed then o else .refused .illFormed

end Sys2Proof.Machine
end

