-- ==== Sys2Proof/Machine/Channel.lean ====
section
/-! DEFINITION. The channel's state element and its power stage: edges, states, starts, inrush sequences, retry,
faults, holds, and the passages between governed mode, limp-home and SAFE (R79 to R97, R123 to R162, R261 to R276,
R290 to R295, R387). The shared operations of every family that acts on a channel. -/

namespace Sys2Proof.Machine

/-! ## Gate and edges -/

/-- Kinds of turn-off (R82). -/
inductive TurnOff where
  | programmed | cut | discharge
deriving DecidableEq, Repr

/-- An edge enters the dissipation calculator (R172). -/
def Meas.addHeat (h : Heat) (q : Meas) : Meas := { q with heats := q.heats ++ [h] }
/-- The interval of the edge that runs ends (R172). -/
def Meas.endHeat (now : Nat) (q : Meas) : Meas :=
  { q with heats := q.heats.map fun h => if h.till.isNone then { h with till := some now } else h }

/-- The gate of one channel is commanded on: a turn-on edge starts at ON_SLEW, the comparators re-arm (R79, R82,
R109). Nothing happens when it is on already, before VCP is ready (R444), or while the bank's analog comparator holds
the gates low (R269). -/
def Mach.gateOn1 (k : Nat) (m : Mach) : Mach :=
  if (m.ch k).stage.gateOn || !m.pwr.vcpOk || (m.bank (k / 4)).analog then m
  else
    let e : Edge := ⟨true, (m.onSlew k).1, (m.onSlew k).2, false, m.now⟩
    let m := m.modCh k fun c =>
      { c with stage := { c.stage with gateOn := true, vgsOk := false, edge := some e, clampSeen := false },
               meas := (c.meas.endHeat m.now).addHeat ⟨e, m.pwr.vbb, none, none, false⟩,
               prot := { c.prot with scCmp := false, bsCmp := false, tripped := false },
               limp := { c.limp with rose := true },
               sig := { c.sig with edged := c.sig.edged || c.sig.armed } }
    m.modOut k fun u => { u with blank := m.blankTicks k != 0, hadRise := true }

/-- The gate of one channel is commanded off with the slope of the kind of turn-off (R82). Fault discharge overrides a
turn-off edge in progress (R83). -/
def Mach.gateOff1 (kind : TurnOff) (k : Nat) (m : Mach) : Mach :=
  let g := (m.ch k).stage
  let e : Edge :=
    match kind with
    | .programmed => ⟨false, (m.offSlew k).1, (m.offSlew k).2, false, m.now⟩
    | .cut => ⟨false, (m.offSlew k).1, false, false, m.now⟩
    | .discharge => ⟨false, 15, false, true, m.now⟩
  let running := (g.edge.map fun x => !x.discharge).getD false
  -- a turn-off edge counts with the last current sample before it; a turn-on edge it cuts short has ended (R172)
  let heat (c : Chan) : Meas :=
    { (c.meas.endHeat m.now).addHeat ⟨e, m.pwr.vbb, some c.meas.i, none, false⟩ with offAt := m.now }
  if g.gateOn then
    let m := m.modCh k fun c =>
      { c with stage := { c.stage with gateOn := false, vgsOk := false, edge := some e, clampSeen := false },
               meas := heat c }
    m.modOut k fun u => { u with blank := m.blankTicks k != 0 }
  else if kind == .discharge && running then
    m.modCh k fun c => { c with stage := { c.stage with edge := some e }, meas := heat c }
  else m

/-- The members of a group switch together (R95). -/
def Mach.gateOn (n : Nat) (m : Mach) : Mach := forList (m.members n) Mach.gateOn1 m
def Mach.gateOff (kind : TurnOff) (n : Nat) (m : Mach) : Mach := forList (m.members n) (Mach.gateOff1 kind) m

/-- The gate command of a group: its leader's. -/
def Mach.isOn (m : Mach) (n : Nat) : Bool := (m.ch (m.leader n)).stage.gateOn

/-! ## State -/

/-- Set the state of a channel or group. Leaving PWM and HOLD resets the escalation count (R124) and detaches the
output from its unit and limp generator; the good-run timer runs in ON, PWM and HOLD (R157). -/
def Mach.setSt (n : Nat) (st : ChSt) (m : Mach) : Mach :=
  let l := m.leader n
  let old := (m.ch l).st
  let m := m.modCh l fun c =>
    { c with st := st,
             prot := if st.follows then c.prot else { c.prot with escCnt := 0 },
             rty := { c.rty with goodRun := if st.steady then (c.rty.goodRun || !old.steady) else false },
             limp := if st.follows then c.limp else { c.limp with run := false, lvl := false, cut := false, hadCut := false } }
  if st.follows && old.follows then m
  else forList (m.members l)
    (fun k m => m.modOut k fun u => { u with joined := false, atCmp := false, cut := false, hadCut := false }) m

/-- An inrush sequence ends early (R147): 4 FAULT, 5 ABORTED. -/
def Mach.endInrush (n cause : Nat) (m : Mach) : Mach :=
  if m.st n == .inrush then
    m.modCh (m.leader n) fun c => { c with inr := { c.inr with phase := .idle, cause := cause } }
  else m

/-! ## Codes -/

/-- Write a code, its detail and time on one channel; its history bit is set and PG_EVT.FAULT (R127, R131). -/
def Mach.writeCode (k code detail : Nat) (m : Mach) : Mach :=
  (m.modCh k fun c =>
    { c with flt := { c.flt with code := code, detail := detail, time := m.time,
                                 hist := c.flt.hist ||| BitVec.ofNat 16 (2 ^ code) } }).event (chPage k) 0x0001

/-- Set history bits without writing a code (R125, R127). -/
def Mach.addHist (k : Nat) (bits : BitVec 16) (m : Mach) : Mach :=
  m.modCh k fun c => { c with flt := { c.flt with hist := c.flt.hist ||| bits } }

/-- A fault event passes the fault record and may request FLTN (R131, R132); bits 0, 12 and 15 of the leader's
CHn.FLTN_EN have no effect. -/
def Mach.recordFault (k code detail : Nat) (first : Bool) (m : Mach) : Mach :=
  let m := m.passFault k code detail first
  if bit (m.lw k 0x16) code && code != 0 && code != 12 && code != 15 then
    m.modCh k fun c => { c with flt := { c.flt with fltnReq := true } }
  else m

/-- The code of one channel returns to 0x0, and FLTN_REQ with it (R128, R132). -/
def Mach.clearCode (k : Nat) (m : Mach) : Mach :=
  m.modCh k fun c => { c with flt := { c.flt with code := 0, detail := 0, fltnReq := false } }

/-- Code, detail and time of every member clear (R96, R134). -/
def Mach.clearFault (n : Nat) (m : Mach) : Mach :=
  forList (m.members n) (fun k m => (m.clearCode k).modCh k fun c => { c with flt := { c.flt with time := 0 } }) m

/-- A code that a device-level hold or a UV wait wrote clears without its time. -/
def Mach.clearIf (k : Nat) (codes : List Nat) (m : Mach) : Mach :=
  if codes.contains (m.ch k).flt.code then m.clearCode k else m

/-- A diagnostic code is detected: written only over 0x0, always in the history and the fault record (R127, R131). -/
def Mach.diagnose (k code detail : Nat) (m : Mach) : Mach :=
  let first := (m.ch k).flt.code == 0
  let m := if first then m.writeCode k code detail else m.addHist k (BitVec.ofNat 16 (2 ^ code))
  m.recordFault k code detail first

/-! ## Retry (R152, R153, R156) -/

/-- The retries of leader `l` are exhausted (R153). -/
def Mach.exhausted (m : Mach) (l : Nat) : Bool :=
  let r := (m.ch l).rty
  if m.policy l = 4 then r.tokens == 0 else m.retryN l != 0 && r.count == m.retryN l

/-- Leader `l` is latched: no retry follows. -/
def Mach.latch (l : Nat) (m : Mach) : Mach :=
  (m.setSt l .latched).modCh l fun c => { c with rty := { c.rty with cause := 0, causeDet := 0 } }

/-- The retry policy acts on a turn-off fault of leader `l`: LATCHED, RETRY_WAIT with its wait and its gate (R159), or
LATCHED exhausted. The answer says whether the retries are exhausted. -/
def Mach.retryAct (l code detail : Nat) (m : Mach) : Mach × Bool :=
  let r := (m.ch l).rty
  let p := m.policy l
  if p = 0 then (m.latch l, false)
  else if m.exhausted l then (m.latch l, true)
  else
    let k := min 255 (r.count + 1)
    let w := if p = 2 then m.waitMs l * 2 ^ min (k - 1) (m.maxExp l) else m.waitMs l
    let starts := p == 4 && !r.refill && r.tokens - 1 < m.bktCap l
    ((m.setSt l .retryWait).modCh l fun c =>
      { c with rty := { c.rty with count := k, waitAt := m.lf, waitMs := w, elapsed := false, cause := code,
                                   causeDet := detail, gated := p == 3, tGate := m.tGate l,
                                   tokens := if p = 4 then r.tokens - 1 else r.tokens,
                                   refill := r.refill || starts,
                                   refillAt := if starts then m.now else r.refillAt } }, false)

/-! ## Turn-off faults (R125 to R131) -/

/-- A fault of a SAFE channel during reset and STARTUP is recorded when STARTUP ends (R133). -/
def Mach.recordsLate (m : Mach) (k : Nat) : Bool := m.st k == .safe && m.dev.phase != .running

/-- The order of the protections of one round (R125). -/
def protRank (x : Nat × Nat) : Nat :=
  match x.1 with
  | 0x1 => if x.2 = 1 then 0 else 1
  | 0xA => 2 | 0xB => 3 | 0x2 => 4 | 0x3 => 5 | 0x9 => 6 | 0x6 => 7 | 0x4 => 8 | 0x5 => 9
  | _ => 10

/-- The codes and details a mask of a round's protections names on channel `k`: bit 0 is the backstop, 0x6 is PWM_OFF in
PWM and HOLD, 0x2 is a timeout that has been reached, else the energy limit. -/
def Mach.alsoFound (m : Mach) (k : Nat) (also : BitVec 16) : List (Nat × Nat) :=
  let late := decide (48 * clTimeUs (m.ilimEff k).2 < m.now - (m.ch k).prot.epStart)
  let detail (c : Nat) : Nat := if c = 0x6 then (if (m.st k).follows then 1 else 0) else if c = 0x2 && !late then 1 else 0
  (if also.getLsbD 0 then [(1, 1)] else []) ++
    (([0x1, 0xA, 0xB, 0x2, 0x3, 0x9, 0x6, 0x4, 0x5].filter fun c => also.getLsbD c).map fun c => (c, detail c))

/-- The code and detail that one round's event carries: the first in the order of R125. -/
def Mach.firstFound (m : Mach) (k code detail : Nat) (also : BitVec 16) : Nat × Nat :=
  (m.alsoFound k also).foldl (fun best x => if protRank x < protRank best then x else best) (code, detail)

/-- History bits of a round: of the code the command names, and of those detected with it. -/
def foundBits (code : Nat) (also : BitVec 16) : BitVec 16 :=
  ((also ||| BitVec.ofNat 16 (2 ^ code)) &&& 0xFFFE) ||| (if also.getLsbD 0 then 0x0002 else 0)

/-- Bits of the turn-off codes (R127): 0x6 is one in PWM and HOLD. -/
def turnOffBits (st : ChSt) : BitVec 16 := if st.follows then 0x0E4E else 0x0E0E

/-- The faults of channel `k` that STARTUP held back are recorded (R133). -/
def Mach.recordLate (k : Nat) (m : Mach) : Mach :=
  let l := m.leader k
  let now := (m.ch k).prot.est
  let est (e : Nat) (m : Mach) : Mach := m.modCh k fun c => { c with prot := { c.prot with est := e } }
  let one (x : LateFault) (m : Mach) : Mach :=
    let first := (m.ch k).flt.code == 0
    let m := (m.addHist k x.also).writeCode k x.code x.detail
    let m := if l == k then m else (m.addHist l (x.also &&& turnOffBits .safe)).writeCode l x.code x.detail
    (est x.est m).recordFault k x.code x.detail first
  let due := (m.ch k).flt.late
  let m := est now (forList due one m)
  if due.isEmpty then m else m.modCh k fun c => { c with flt := { c.flt with late := [] } }

/-- A turn-off fault of channel `k` is granted: the event carries the first code of the round (R125); its group turns off
with fault discharge, the code is written (and copied to the leader, R96), the state follows R90, R123, R129 or R130, and
the event passes the fault record, followed by 0xD when the retries are exhausted. `also` names what else the round
detected. A fault of a group that waits in RETRY_WAIT while its gates still discharge belongs to that turn-off. -/
def Mach.turnOffFault (k code detail : Nat) (also : BitVec 16) (m : Mach) : Mach :=
  let l := m.leader k
  let st := m.st k
  let bits := foundBits code also
  let (code, detail) := m.firstFound k code detail also
  let first := (m.ch k).flt.code == 0
  let conducts := (m.ch k).stage.conducting
  let m := (m.gateOff .discharge k).modCh k fun c => { c with prot := { c.prot with tripped := true } }
  if m.recordsLate k then
    let m := m.modCh k fun c =>
      { c with flt := { c.flt with late := c.flt.late ++ [⟨code, detail, bits, c.prot.est⟩] } }
    if code = 0xA then m else m.modCh l fun c => { c with limp := { c.limp with safeFlt := true } }
  else
  let m := (m.addHist k bits).writeCode k code detail
  let m := if l == k then m else (m.addHist l (bits &&& turnOffBits st)).writeCode l code detail
  let m := m.endInrush l 4
  let (m, exhausted) :=
    if st.running then
      if code = 0xA then
        ((m.setSt l .retryWait).modCh l fun c =>
          { c with rty := { c.rty with elapsed := false, waitAt := m.lf, waitMs := 0, cause := 0xA, causeDet := 0 } }, false)
      else m.retryAct l code detail
    else if st == .retryWait && code != 0xA && m.policy l == 0 then (m.latch l, false)
    else if st == .retryWait && code != 0xA && m.exhausted l && !conducts then (m.latch l, true)
    else if st == .safe && code != 0xA then
      (m.modCh l fun c => { c with limp := { c.limp with safeFlt := true } }, false)
    else (m, false)
  let m := m.recordFault k code detail first
  if exhausted then
    ((m.writeCode l 0xD 0).event (chPage l) 0x0040).recordFault l 0xD 0 false
  else m

/-! ## Cuts of a channel's output (R124, R231, R233, R234, R292) -/

/-- TRIP inputs that act on output `o` or on a member of its group (R231, R246). -/
def Mach.tripOn (m : Mach) (o : Nat) : Bool :=
  (if o < 24 then m.members o else [o]).any fun k => (List.range 4).any fun j =>
    (if h : j < 4 then m.trips[j].asserted else false) &&
    bit (m.cfg (adr 0x08 (0x10 + k / 4))) (4 * (k % 4) + j)

/-- A cycle limit of the output's channel or group counts (R231). -/
def Mach.climOn (m : Mach) (o : Nat) : Bool := decide (o < 24) && (m.members o).any fun k => (m.ch k).prot.clim

/-- A source acts on output `o` unless its blanking window is open (R232). -/
def Mach.sourceActs (m : Mach) (o : Nat) : Bool := !(m.out o).blank && (m.tripOn o || m.climOn o)

/-- The timebase, not the limp generator, rules the output of channel `n` (R290): governed mode, or a channel that still
awaits its class of an orderly stop that limp-home met (R276). -/
def Mach.pwmRules (m : Mach) (n : Nat) : Bool := m.dev.governed || (m.ch (m.leader n)).thm.stopHold

/-- Hold a channel's output off for the rest of its period (R233): for its timebase's, or its limp generator's (R292). -/
def Mach.holdCutCh (n : Nat) (m : Mach) : Mach :=
  let l := m.leader n
  let m := if m.pwmRules l then m.modOut l fun u => { u with cut := true }
           else m.modCh l fun c => { c with limp := { c.limp with cut := true } }
  if (m.st l).follows then m.gateOff .cut l else m

/-- The count of consecutive cut periods grows and escalates at CHn.ESC.K (R124): DETAIL 3 TRIP_INPUT where a TRIP input
cuts, 2 CYCLE_LIMIT otherwise. -/
def Mach.countEsc (l : Nat) (m : Mach) : Mach :=
  let k := fld (m.lw l 0x15) 0 8
  let n := min 255 ((m.ch l).prot.escCnt + 1)
  let m := m.modCh l fun c => { c with prot := { c.prot with escCnt := n } }
  if k != 0 && k ≤ n then m.turnOffFault l 0x2 (if m.tripOn l then 3 else 2) 0 else m

/-- A cut of a channel begins in the present period (R233): counted once. -/
def Mach.countCutCh (n : Nat) (m : Mach) : Mach :=
  let l := m.leader n
  let had := if m.pwmRules l then (m.out l).hadCut else (m.ch l).limp.hadCut
  if had then m
  else
    let m := if m.pwmRules l then m.modOut l fun u => { u with hadCut := true }
             else m.modCh l fun c => { c with limp := { c.limp with hadCut := true } }
    (m.modCh l fun c => { c with prot := { c.prot with cycCnt := inc16 c.prot.cycCnt } }).countEsc l

/-- An acting source cuts a channel in PWM or HOLD (R233); both outputs of an INVERT pair are held off (R234), where pair
functions reach the channel (R220, R290). -/
def Mach.cutCh (n : Nat) (m : Mach) : Mach :=
  if (m.st n).follows then
    let m := m.holdCutCh n
    let other := if n % 2 = 0 then n + 1 else n - 1
    let m := if m.pwmRules n && m.inverts (n / 2) && (m.st other).follows then m.holdCutCh other else m
    m.countCutCh n
  else m

/-- A channel enters PWM or HOLD: a source that is active already cuts it (R233). -/
def Mach.enterFollowing (l : Nat) (st : ChSt) (m : Mach) : Mach :=
  let was := (m.ch l).st.follows
  let m := m.setSt l st
  if !was && m.sourceActs l then m.cutCh l else m

/-! ## Starts and inrush sequences (R90, R139 to R149) -/

/-- Another channel runs, or waits for, a serial HEATER phase A (R146). -/
def Mach.heaterBusy (m : Mach) (n : Nat) : Bool :=
  m.leaders.any fun j => j != n && (let c := m.ch j
    c.st == .inrush && c.inr.profile == 4 && bit c.inr.cfg 6 && (c.inr.phase == .a || c.inr.phase == .queued))

/-- The order number of the sequence that begins next. -/
def Mach.nextOrder (m : Mach) : Nat := 1 + m.leaders.foldl (fun x j => max x (m.ch j).inr.order) 0

/-- Begin an inrush sequence with the words active now (R139, R148). While the limp map governs, the chop rate is 1 kHz
(R291). Fully-on phases turn the output on, chopped ones keep it off until the first chop period (R141). -/
def Mach.startInrush (l profile : Nat) (retry : Bool) (m : Mach) : Mach :=
  let cfg := if m.dev.governed then m.lw l 0x28 else m.lw l 0x28 &&& 0xFFCF
  let queued := profile == 4 && bit cfg 6 && m.heaterBusy l
  let ord := m.nextOrder
  let r : Inr :=
    { phase := if queued then .queued else .a, profile := profile, cause := (m.ch l).inr.cause, clper := 0, clSeen := false,
      startAt := m.now, phaseAt := m.now, order := ord, chopJ := 0, chopRun := false, retry := retry, lim := m.lw l 0x29,
      t1 := m.lw l 0x2A, t2 := m.lw l 0x2B, duty := m.lw l 0x2C, endw := m.lw l 0x2D, cfg := cfg, ilim := m.lw l 0x10,
      last := (m.ch l).inr.last }
  let m := (m.setSt l .inrush).modCh l fun c => { c with inr := r }
  let m := forList (m.members l)
    (fun k m => if k == l then m else m.modCh k fun c => { c with inr := { c.inr with clper := 0, clSeen := false } }) m
  if profile = 3 ∨ profile = 5 then m.gateOn l else m.gateOff .programmed l

/-- Arm the turn-on signature capture of a channel or leader where CHn.SIG_CFG.CAP_EN asks for one (R139, R176,
R178). -/
def Mach.armSig (l : Nat) (m : Mach) : Mach :=
  m.modCh l fun c => { c with sig := { c.sig with armed := bit (m.lw l 0x43) 3 && c.sig.cap.isNone, edged := false } }

/-- VBB undervoltage meets a channel that runs: code 0xA on each member (R123), or an earlier code of the round (R125). The
first grant changes the state; the other members record their own event. -/
def Mach.uvFault (l : Nat) (also : List (BitVec 16)) (m : Mach) : Mach :=
  if (m.ch l).st.running && m.pwr.vbbUv then forList (m.members l) (fun k m => m.turnOffFault k 0xA 0 (nth also k 0)) m
  else m

/-- A start as from OFF per the mode in force (R90). With mode OFF, or while a hold remains, the channel enters OFF
(R267). In limp-home a start without a sequence keeps an output that is on only where the first limp period opens at
once (R290; log entry 15). -/
def Mach.startFromOff (l : Nat) (retry : Bool) (m : Mach) : Mach :=
  let m := m.modCh l fun c => { c with limp := { c.limp with safeFlt := false },
                                       rty := { c.rty with elapsed := false } }
  let md := m.mode l
  if md = 0 || m.held? l then (m.gateOff .programmed l).setSt l .off
  else
    let p := m.startProfile l md
    let m := m.armSig l
    let m :=
      if p != 0 then m.startInrush l p retry
      else if md = 1 then (m.setSt l .on).gateOn l
      else
        let m := if m.dev.governed || l % 8 != 0 then m.gateOff .programmed l else m
        m.enterFollowing l .pwm
    m.uvFault l []

/-- A retry starts (R153, R154): counted, then as from OFF; in mode OFF the channel enters OFF (R159). -/
def Mach.runRetry (l : Nat) (m : Mach) : Mach :=
  if m.mode l = 0 then (m.modCh l fun c => { c with rty := { c.rty with elapsed := false } }).setSt l .off
  else
    (m.modCh l fun c => { c with rty := { c.rty with total := inc16 c.rty.total } }).startFromOff l true

/-- The thermal gate is open (R155): every member at or below the T_GATE of the fault (R159), and the bank not held at its
strongest step by a sensor. -/
def Mach.gateOpen (m : Mach) (l : Nat) : Bool :=
  let r := (m.ch l).rty
  !r.gated ||
  ((m.members l).all (fun k => decide (m.nodeTemp k ≤ (r.tGate : Rat))) && !((m.sensor (l / 4)).bad || (m.sensor 6).bad))

/-- Each full millisecond of a fully-on phase counts in CLPER of every member in which regulation occurred in it (R144,
R151). -/
def Mach.countMs (l : Nat) (m : Mach) : Mach :=
  let r := (m.ch l).inr
  let ms := (m.now - r.phaseAt) / 48000
  if m.st l == .inrush && r.phase != .queued && !r.chopping && decide (r.chopJ < ms) then
    let one (k : Nat) (m : Mach) : Mach := m.modCh k fun c =>
      let n := (if c.inr.clSeen then 1 else 0) + (if c.prot.clReg then ms - r.chopJ - 1 else 0)
      { c with inr := { c.inr with clper := min 255 (c.inr.clper + n), clSeen := c.prot.clReg } }
    (forList (m.members l) one m).modCh l fun c => { c with inr := { c.inr with chopJ := ms } }
  else m

/-- The output of a channel that has been switched by its state joins its unit at a compare that gives the other level
(R88, R145, R295). -/
def Mach.joinAtCmp (l : Nat) (m : Mach) : Mach := m.modOut l fun u => { u with atCmp := true }

/-- A sequence completes (R145): 1 TIMER, 2 CURRENT, 3 VOLTAGE. -/
def Mach.completeInrush (l cause : Nat) (m : Mach) : Mach :=
  if m.st l == .inrush then
    let m := m.countMs l
    let m := m.modCh l fun c =>
      { c with inr := { c.inr with phase := .idle, cause := cause,
                                   last := min 0xFFFF (inUnits (((m.now - c.inr.startAt : Nat) : Rat) / 48000)).toNat } }
    let m := m.event (chPage l) 0x0020
    match m.mode l with
    | 1 => (m.setSt l .on).gateOn l
    | 2 => (m.enterFollowing l .pwm).joinAtCmp l
    | 3 => (m.enterFollowing l .hold).joinAtCmp l
    | _ => (m.gateOff .programmed l).setSt l .off
  else m

/-! ## SAFE -/

/-- A SAFE channel is commanded on (R92): safe state ON, no throttle or stop hold, no undervoltage and no fault. -/
def Mach.safeWants (m : Mach) (l : Nat) : Bool :=
  let c := m.ch l
  m.dev.latched && m.safeOn l && !m.throttleHold l && !m.stopHeld l && !c.limp.uvHeld && !c.limp.safeFlt

/-- Drive a SAFE channel to its safe state as the holds allow. -/
def Mach.safeDrive (l : Nat) (m : Mach) : Mach :=
  if m.safeWants l then m.gateOn l else m.gateOff .programmed l

/-- A channel enters SAFE (R90, R92). A SHED code stands only while a throttle or stop hold acts on a safe-ON channel;
such a hold writes its code on a channel that enters SAFE under it (R128, R267, R274). What follows SAFE is no retry, so
no good run clears the code a retry was to clear (R157). -/
def Mach.enterSafe (l : Nat) (m : Mach) : Mach :=
  if (m.ch l).st == .safe then m
  else
    let m := (m.endInrush l 5).setSt l .safe
    let m := m.modCh l fun c => { c with limp := { c.limp with safeFlt := false, uvHeld := m.pwr.vbbUv },
                                         rty := { c.rty with elapsed := false, cause := 0, causeDet := 0 } }
    let acting := m.safeOn l && (m.throttleHold l || m.stopHeld l)
    let code := if m.stopHeld l then 0x8 else 0x7
    let m :=
      if acting then
        if [0x7, 0x8].contains (m.ch l).flt.code then m
        else let first := (m.ch l).flt.code == 0
             (m.writeCode l code 0).recordFault l code 0 first
      else m.clearIf l [0x7, 0x8, 0xE]
    m.safeDrive l

/-- Some interval still holds the channels in SAFE (R294). -/
def Mach.safeReason (m : Mach) : Bool := m.clk.refSafe || m.clk.lfSafe || m.dev.phase != .running

/-- SAFE ends for a channel: as from OFF per the mode in force (R90). -/
def Mach.leaveSafe (l : Nat) (m : Mach) : Mach :=
  if (m.ch l).st == .safe then m.startFromOff l false else m

/-- Every channel leaves SAFE once no interval holds it there. -/
def Mach.endSafe (m : Mach) : Mach := if m.safeReason then m else forList m.leaders Mach.leaveSafe m

/-! ## Device-level holds (R91, R267, R271, R274, R387) -/

/-- A hold begins on a channel: `code` 0x7 throttle, 0x8 thermal stop, 0xE site budget. -/
def Mach.applyHold (l code : Nat) (m : Mach) : Mach :=
  let c := m.ch l
  let first := c.flt.code == 0
  let count (m : Mach) : Mach := m.modCh l fun c =>
    if code = 0x7 then { c with thm := { c.thm with thCnt := inc16 c.thm.thCnt } }
    else if code = 0xE then { c with limp := { c.limp with shedCnt := inc16 c.limp.shedCnt } } else c
  if c.st.running then
    let m := ((m.endInrush l 5).gateOff .programmed l).setSt l .shed
    count ((m.writeCode l code 0).recordFault l code 0 first)
  else if c.st == .shed then (m.writeCode l code 0).recordFault l code 0 first
  else if c.st == .safe && m.safeOn l && code != 0xE then
    count (((m.writeCode l code 0).recordFault l code 0 first).safeDrive l)
  else m

/-- A hold may have ended: with none left, a SHED channel leaves as from OFF, a SAFE one resumes its safe state, a
deferred start or retry runs; with another left, the code names it (R128, R267, R387). -/
def Mach.releaseHold (l : Nat) (m : Mach) : Mach :=
  match (m.ch l).st with
  | .shed =>
    if m.held? l then
      if (m.ch l).flt.code = m.holdCode l then m
      else if [0x7, 0x8, 0xE].contains (m.ch l).flt.code then m.writeCode l (m.holdCode l) 0
      else m
    else (m.clearIf l [0x7, 0x8, 0xE]).startFromOff l false
  | .safe =>
    let m := if m.throttleHold l || m.stopHeld l then m else m.clearIf l [0x7, 0x8]
    m.safeDrive l
  | .off =>
    let m := if m.throttleHold l || m.stopHeld l then m else m.clearIf l [0x7, 0x8]
    if m.mode l != 0 && !m.held? l && m.dev.phase == .running then m.startFromOff l false else m
  | .retryWait => if (m.ch l).rty.elapsed && !m.held? l && m.gateOpen l then m.runRetry l else m
  | _ => m

/-- Judge the throttle hold of a channel (R261, R266, R267): it begins, or ends. -/
def Mach.judgeThrottle (l : Nat) (m : Mach) : Mach :=
  let now := m.throttleHold l
  let was := (m.ch l).limp.thrSeen
  let m := m.modCh l fun c => { c with limp := { c.limp with thrSeen := now } }
  if now && !was then m.applyHold l 0x7 else if was && !now then m.releaseHold l else m

/-- Judge the throttle holds of all channels: those that begin first, then those that end. -/
def Mach.judgeAll (m : Mach) : Mach :=
  let begins := m.leaders.filter fun l => m.throttleHold l
  let ends := m.leaders.filter fun l => !m.throttleHold l
  forList ends Mach.judgeThrottle (forList begins Mach.judgeThrottle m)

/-! ## The end of an orderly stop's edges (R271, R272) -/

/-- The last edge of a thermal stop has ended: LOG_END in µs after the trigger. Journal copies wait until then, and
until the device TTS is 0xFFFF or at least 4.5 ms. -/
def Mach.noteStopEdges (m : Mach) : Mach :=
  let t := m.thm
  let ended := t.edgesDue && !t.orderly && m.allCh.all fun n => (m.ch n).stage.edge.isNone
  let log := if ended then { t.log with last := min 0xFFFE ((m.now - t.trigAt) / 48) } else t.log
  let due := t.edgesDue && !ended
  let hold := t.jnlHold && !(!due && (t.tts == 0xFFFF || 36 ≤ t.tts))
  { m with thm := { t with log := log, edgesDue := due, jnlHold := hold } }

/-! ## Modes (R88, R293, R295) -/

/-- A mode change applied to channel `l` in governed mode: `old` is the mode before (R88, R147). -/
def Mach.applyMode (l old : Nat) (m : Mach) : Mach :=
  let md := m.mode l
  match (m.ch l).st with
  | .off => if md != 0 && old = 0 then m.startFromOff l false else m
  | .inrush => if md = 0 then ((m.endInrush l 5).gateOff .programmed l).setSt l .off else m
  | .on | .pwm | .hold =>
    if md = 0 then (m.gateOff .programmed l).setSt l .off
    else if md = 1 then (m.setSt l .on).gateOn l
    else
      let from? := !(m.ch l).st.follows
      let m := m.enterFollowing l (if md = 2 then .pwm else .hold)
      if from? then m.joinAtCmp l else m
  | _ => m

/-- A channel passes from its PWM stages to its limp generator at the level `lvl` (R293); a source that is active already
cuts it (R233). -/
def Mach.limpFollow (l : Nat) (st : ChSt) (lvl : Bool) (m : Mach) : Mach :=
  let m := m.setSt l st
  let m := forList (m.members l)
    (fun k m => m.modOut k fun u => { u with joined := false, cut := false, hadCut := false }) m
  let m := m.modCh l fun c => { c with limp := { c.limp with run := true, lvl := lvl, rose := false } }
  if m.sourceActs l then m.cutCh l else m

/-- Limp-home entry of one channel (R293). -/
def Mach.limpEnter (l : Nat) (m : Mach) : Mach :=
  let code := m.limpCode l
  let on := (m.ch l).stage.gateOn
  let st := (m.ch l).st
  match st with
  | .on | .pwm | .hold =>
    match code with
    | 0 => (m.gateOff .programmed l).setSt l .off
    | 1 => (m.setSt l .on).gateOn l
    | 2 => m.limpFollow l .pwm (on || st == .on)
    | _ => m.limpFollow l .hold (on || st == .on)
  | .inrush =>
    let m := m.endInrush l 5
    if code = 0 then (m.gateOff .programmed l).setSt l .off else m.startFromOff l false
  | .off | .retryWait | .latched =>
    let m := m.modCh l fun c => { c with rty := { c.rty with elapsed := false, cause := 0, causeDet := 0 } }
    if code = 0 then m.setSt l .off else m.startFromOff l false
  | _ => m

/-- Limp-home ends for one channel (R295): its limp code stands for the previous mode. A channel still in SAFE is
released by the commit itself. -/
def Mach.limpLeave (l : Nat) (m : Mach) : Mach :=
  let m := m.modCh l fun c => { c with limp := { c.limp with run := false, lvl := false, cut := false, hadCut := false } }
  let m := forList (m.members l) (fun k m => m.modOut k fun u => { u with joined := false, atCmp := true }) m
  match (m.ch l).st with
  | .off => if m.mode l != 0 then m.startFromOff l false else m
  | _ => m.applyMode l (m.limpCode l)

/-! ## What an output wants once VCP is ready (R444) -/

/-- The level a channel's state gives its output now; none while its unit or generator decides at its next edge. -/
def Mach.wantsOn (m : Mach) (l : Nat) : Bool :=
  let c := m.ch l
  match c.st with
  | .on => true
  | .safe => m.safeWants l
  | .inrush => c.inr.profile == 3 || c.inr.profile == 5 || (c.inr.profile == 2 && c.inr.phase == .b)
  | .pwm | .hold =>
    if m.dev.governed then (m.out l).joined && (m.out l).drive && !(m.out l).cut
    else c.limp.lvl && !c.limp.cut
  | _ => false

end Sys2Proof.Machine
end

