-- ==== Sys2Proof/Machine/LongOps.lean ====
section
/-! DEFINITION. Commands in flight, their completions, and the long operations' state elements (R339, R342 to R349):
what every family that starts, suspends or ends one shares. -/

namespace Sys2Proof.Machine

/-! ## Status codes (R339) -/

def stOk : Nat := 0x00
def stBadOpcode : Nat := 0x01
def stBadParam : Nat := 0x02
def stTagBusy : Nat := 0x03
def stTagUnknown : Nat := 0x04
def stNotSuspendable : Nat := 0x05
def stWrongState : Nat := 0x06
def stCondition : Nat := 0x07
def stRefused : Nat := 0x08
def stLocked : Nat := 0x09
def stBusCollision : Nat := 0x0A
def stBusError : Nat := 0x0B
def stAbsent : Nat := 0x0C
def stDescEcc : Nat := 0x0D
def stOpFailed : Nat := 0x0E
def stCancelled : Nat := 0x0F

/-- Codes of the long-operation states (R347). -/
def OpSt.code : OpSt → Nat
  | .none => 0 | .queued => 1 | .running => 2 | .suspended => 3 | .cancelled => 4 | .done => 5 | .failed => 6

/-! ## Commands in flight -/

/-- Word `k` of a descriptor. -/
def Infl.word (i : Infl) (k : Nat) : Word := nth i.words k 0
/-- Its opcode and tag (R337). -/
def Infl.opcode (i : Infl) : Nat := fld (i.word 0) 0 8
def Infl.tag (i : Infl) : Nat := fld (i.word 0) 8 6

/-- A ring of the data-plane engine (R17). -/
def dpRing (r : Nat) : Bool := r == 2 || r == 4

/-- The command in flight under a tag whose completion has not been formed. -/
def Mach.inFlight (m : Mach) (t : Nat) : Option Infl :=
  if m.rings.compl.any (fun c => c.tag.toNat == t && c.own) then none
  else m.rings.infl.find? fun i => i.tag == t

/-- A command in flight has started: it has completed, or become a long operation, a pending commit, a payload being sent; a
MEAS_SNAP starts at its fetch, and SQ5 holds one command at a time. -/
def Mach.started (m : Mach) (i : Infl) : Bool :=
  (m.rings.compl.any fun c => c.tag.toNat == i.tag && c.own) || (m.ops.any fun o => o.tag.toNat == i.tag && !o.auto) ||
  (m.cmt.pend.bind (·.ringTag)).any (·.toNat == i.tag) || (m.site.send.any fun x => x.infl.tag == i.tag) ||
  i.opcode == 0x51 || i.opcode == 0x70

/-- Every command fetched before `i` from its ring has started (R343). -/
def Mach.turnOf (m : Mach) (i : Infl) : Bool :=
  (m.rings.infl.takeWhile fun j => j.tag != i.tag).all fun j => j.ring != i.ring || m.started j

/-- The command of a given opcode in flight under a tag, unless it has become a long operation already. -/
def Mach.executing (m : Mach) (t : Tag) (opcode : Nat) : Option Infl :=
  if m.ops.any fun o => o.tag == t && !o.auto then none
  else match m.inFlight t.toNat with
  | some i => if i.opcode = opcode && m.turnOf i then some i else none
  | none => none

/-- Form a completion with the time it carries: it waits for a CQ slot (R339, R343). -/
def Mach.addComplAt (i : Infl) (own : Bool) (status state : Nat) (res0 res1 : Word) (time : Time) (m : Mach) : Mach :=
  let c : Compl :=
    { opcode := i.opcode, tag := BitVec.ofNat 6 i.tag, status := status, state := state, ring := i.ring, idx := i.idx,
      time := time, res0 := res0, res1 := res1, dp := dpRing i.ring, own := own }
  { m with rings := { m.rings with compl := m.rings.compl ++ [c] } }

/-- Form a completion of the present time. -/
def Mach.addCompl (i : Infl) (own : Bool) (status state : Nat) (res0 res1 : Word) (m : Mach) : Mach :=
  m.addComplAt i own status state res0 res1 m.time

/-- A short command ends: state DONE with status OK, FAILED with any other (R339). -/
def Mach.complete (i : Infl) (status : Nat) (res0 res1 : Word) (m : Mach) : Mach :=
  m.addCompl i true status (if status = stOk then 5 else 6) res0 res1

/-! ## Long operations -/

/-- Kinds of R346 that can be suspended. -/
def suspendable (kind : Nat) : Bool := kind == 0 || kind == 1 || kind == 2 || kind == 5 || kind == 7

/-- Opcode of a kind (R338). -/
def opcodeOf (kind : Nat) : Nat :=
  match kind with
  | 0 => 0x40 | 1 => 0x41 | 2 => 0x42 | 3 => 0x43 | 4 => 0x44 | 5 => 0x50 | 6 => 0x60 | _ => 0x71

/-- Word `k` of the operation's descriptor. -/
def LongOp.word (o : LongOp) (k : Nat) : Word := nth o.words k 0

/-- The descriptor an operation came from. -/
def LongOp.infl (o : LongOp) : Infl := ⟨o.ring, o.idx, o.words⟩

/-- The live operation under a tag. -/
def Mach.opOf (m : Mach) (t : Nat) : Option LongOp := m.ops.find? fun o => o.tag.toNat == t && !o.auto

/-- The live instance of a kind that is RUNNING or SUSPENDED. -/
def Mach.opBusy (m : Mach) (kind : Nat) : Option LongOp :=
  m.ops.find? fun o => o.kind == kind && (o.st == .running || o.st == .suspended)

/-- The RUNNING instance of a kind. -/
def Mach.opRunning (m : Mach) (kind : Nat) : Option LongOp := m.ops.find? fun o => o.kind == kind && o.st == .running

/-- The oldest QUEUED instance of a kind. -/
def Mach.opQueued (m : Mach) (kind : Nat) : Option LongOp := m.ops.find? fun o => o.kind == kind && o.st == .queued

/-- Seconds a sweep has run, counted on LFOSC, at most its run time. -/
def Mach.sweepSeconds (m : Mach) (o : LongOp) : Nat :=
  min (o.word 2).toNat ((m.lf - (nth o.aux 0 0).toNat) / 1000000)

/-- Words an OTP_VERIFY reads: its region's and the seal's (R417). -/
def LongOp.verifyLen (o : LongOp) : Nat := let r := fld (o.word 2) 0 3; regionLen r + (if r = 7 then 0 else 1)

/-- Progress in the unit of R346. A running sweep counts seconds; how far a running recalibration or verify has come since it
started or resumed is open (log entry 77). -/
def Mach.opProg (m : Mach) (o : LongOp) : Nat :=
  let steps := Config.opSteps o.kind (m.now - (nth o.aux 0 0).toNat)
  if o.st != .running then min 0xFFFF o.prog
  else match o.kind with
  | 1 => min o.verifyLen (o.prog + steps)
  | 3 => min 512 steps
  | 4 => m.sweepSeconds o
  | _ => min 0xFFFF o.prog

/-- Change the live operation that `o` is (same kind, tag and origin). -/
def Mach.modOp (o : LongOp) (f : LongOp → LongOp) (m : Mach) : Mach :=
  { m with ops := m.ops.map fun x => if x.kind = o.kind ∧ x.tag = o.tag ∧ x.auto = o.auto then f x else x }

/-- An operation ends in state `st`: it leaves the live list, the latest instance of its kind is kept for
RING.OPk_STAT, and its completion is formed (R346, R347, R375: AUTO_JOIN has none). -/
def Mach.endOp (o : LongOp) (st : OpSt) (status : Nat) (res0 res1 : Word) (m : Mach) : Mach :=
  let o' := { o with st := st }
  let m := { m with ops := m.ops.filter fun x => !(x.kind == o.kind && x.tag == o.tag && x.auto == o.auto),
                    opLast := (o.kind, o') :: m.opLast.filter fun p => p.1 != o.kind }
  if o.auto then m else m.addCompl o.infl true status st.code res0 res1

/-- RUNNING to FAILED with the operation's reason (R339, R347). -/
def Mach.failOp (o : LongOp) (reason : Word) (m : Mach) : Mach := m.endOp o .failed stOpFailed reason (wd o.prog)

/-- An entry into SUSPENDED, which sets RING.PG_EVT.OP_SUSP (R347). Causes: 1 HOST, 2 WINDOW, 3 VDD, 4 REFCLK. -/
def Mach.suspendOp (o : LongOp) (cause : Nat) (m : Mach) : Mach :=
  (m.modOp o fun x => { x with st := .suspended, cause := cause }).event 0x04 0x0010

/-- A forced suspension of the running instance of a kind (R347). -/
def Mach.forceSuspend (kind cause : Nat) (m : Mach) : Mach :=
  match m.opRunning kind with
  | some o => m.suspendOp o cause
  | none => m

/-- The running instance of a kind fails (R346). -/
def Mach.forceFail (kind : Nat) (reason : Word) (m : Mach) : Mach :=
  match m.opRunning kind with
  | some o => m.failOp { o with prog := m.opProg o } reason
  | none => m

/-- A new operation from the descriptor in flight (R347). -/
def Mach.submitOp (i : Infl) (kind : Nat) (aux : List Int) (m : Mach) : Mach :=
  let o : LongOp :=
    { kind := kind, tag := BitVec.ofNat 6 i.tag, st := .queued, cause := 0, ran := false, prog := 0, words := i.words,
      ring := i.ring, idx := i.idx, auto := false, aux := aux }
  { m with ops := m.ops ++ [o] }

end Sys2Proof.Machine
end

