-- ==== Sys2Proof/Machine/PwmCore.lean ====
section
/-! DEFINITION. The compare units and what stands between them and the terminals: levels, clamps, pairs, cuts and
interleave slots (R187 to R202, R220 to R243). -/

namespace Sys2Proof.Machine

/-! ## Periods -/

/-- A period that lasts at least 48 ticks with its prescaler (R187). -/
def minPeriod (per p : Nat) : Nat := if per * 2 ^ p < 48 then (48 + 2 ^ p - 1) / 2 ^ p else per

/-- Base address of timebase block `k` (R215). -/
def tbBase (k : Nat) : Nat := adr 0x06 (0x10 + 16 * k)

def Mach.tbCtl (m : Mach) (k : Nat) : Word := m.cfg (tbBase k)
/-- The configured period of timebase `k` and its prescaler (R187, R216). -/
def Mach.tbCfgPer (m : Mach) (k : Nat) : Nat × Nat :=
  let p := fld (m.tbCtl k) 4 4
  (minPeriod ((m.cfg (tbBase k + 1)).toNat + 65536 * fld (m.cfg (tbBase k + 2)) 0 8) p, p)
def Mach.tbRun (m : Mach) (k : Nat) : Bool := bit (m.tbCtl k) 0
def Mach.tbUlock (m : Mach) (k : Nat) : Bool := bit (m.tbCtl k) 8

/-- The counter runs: started, and not held by a REFCLK loss (R214). -/
def Timebase.counting (t : Timebase) : Bool := t.running && t.halt.isNone

/-- The present count (R187, R190, R214). -/
def Mach.tbCount (m : Mach) (k : Nat) : Nat :=
  let t := m.tb k
  match t.halt with
  | some c => c
  | none => if t.running then min ((m.now - t.zeroAt) / 2 ^ t.presc) (t.perAct - 1) else 0

/-! ## Levels (R195, R199 to R201, R235, R240) -/

/-- NEVER (R195). -/
def Cmp.isNever (c : Cmp) : Bool := c.coarse == 0xFFFFFF

/-- A compare in a period of `per` counts: none where it is NEVER or at or above the period (R199). -/
def Cmp.within (c : Cmp) (per : Nat) : Option Cmp := if c.isNever || per ≤ c.coarse then none else some c

/-- It is clamped (R200). -/
def Cmp.clamped (c : Cmp) (per : Nat) : Bool := !c.isNever && per ≤ c.coarse

/-- A compare whose fine value takes effect only where `fine` says so (R197, R205). -/
def Cmp.taps (c : Cmp) (fine : Bool) : Nat := c.coarse * 256 + (if fine then c.fine else 0)

/-- The shape of a pulse: never on, always on, or on from one count to another, wrapping where the second is not the
later; and whether a pulse or gap below one tick was suppressed (R199, R201). -/
inductive Shape where
  | off
  | on
  | pulse (r f : Nat)
deriving DecidableEq, Repr

def pulseShape (rise fall : Cmp) (per : Nat) (fine : Bool) : Shape × Bool :=
  match rise.within per with
  | none => (.off, false)
  | some r =>
    let f : Cmp := (fall.within per).getD ⟨per, 0⟩
    let whole := per * 256
    let rt := r.taps fine
    let ft := f.taps fine
    if rt = ft then (.off, false)
    else if r.coarse = f.coarse then (.off, true)
    else
      let len := if rt < ft then ft - rt else whole - (rt - ft)
      if len < 256 then (.off, true)
      else if len = whole then (.on, false)
      else if whole - len < 256 then (.on, true)
      else (.pulse r.coarse f.coarse, false)

/-- The level of a shape at a count. -/
def Shape.at (s : Shape) (c : Nat) : Bool :=
  match s with
  | .off => false
  | .on => true
  | .pulse r f => if r < f then decide (r ≤ c) && decide (c < f) else decide (r ≤ c) || decide (c < f)

/-- Counts of a period during which a shape is on. -/
def Shape.onCounts (s : Shape) (per : Nat) : Nat :=
  match s with
  | .off => 0
  | .on => per
  | .pulse r f => if r < f then f - r else per - (r - f)

/-- A pulse per period (R202). -/
def Shape.pulses (s : Shape) : Bool :=
  match s with
  | .pulse _ _ => true
  | _ => false

/-- Fine values take effect on a timebase with prescaler `p` (R197, R205). -/
def Mach.fineOn (m : Mach) (p : Nat) : Bool := p == 0 && m.dl.valid

/-- A compare as it stands in the present period of its timebase: scaled with dither and SCALE (R240). -/
def Timebase.scaled (t : Timebase) (scale : Bool) (c : Cmp) : Cmp :=
  if scale && !c.isNever && t.perAct != t.perBase && t.perBase != 0 then
    ⟨divRound (c.coarse * t.perAct) t.perBase, c.fine⟩
  else c

/-- The compares of output `o` in the present period. -/
def Mach.cmpNow (m : Mach) (o : Nat) : Cmp × Cmp :=
  let k := (m.tbSel o).1
  let s := (m.dither k).2
  ((m.tb k).scaled s (m.out o).rise, (m.tb k).scaled s (m.out o).fall)

/-- The pulse of unit `o` in the present period, before its interleave shift. -/
def Mach.unitShape (m : Mach) (o : Nat) : Shape × Bool :=
  let t := m.tb (m.tbSel o).1
  pulseShape (m.cmpNow o).1 (m.cmpNow o).2 t.perAct (m.fineOn t.presc)

/-- The level unit `o` takes at the present count (R199, R235); a stopped timebase has its units off (R190). -/
def Mach.unitLevel (m : Mach) (o : Nat) : Bool :=
  let k := (m.tbSel o).1
  let t := m.tb k
  if !t.running then false
  else
    let sh := (m.out o).slot * (t.perAct / 64)
    (m.unitShape o).1.at ((m.tbCount k + t.perAct - sh % max 1 t.perAct) % max 1 t.perAct)

/-- A compare of unit `o` in force is clamped (R200). -/
def Mach.unitClamped (m : Mach) (o : Nat) : Bool :=
  let per := (m.tb (m.tbSel o).1).perAct
  (m.cmpNow o).1.clamped per || (m.cmpNow o).2.clamped per

/-! ## Pairs (R220 to R223, R243) -/

/-- Dead time of pair `k` in ticks (R245). -/
def Mach.deadTime (m : Mach) (k : Nat) : Nat := fld (m.pairWord k) 8 8

/-- The level pair function gives output `o` before a cut (R220, R222, R223). A pair's stopped timebase leaves both
outputs off (R190). -/
def Mach.stageLevel (m : Mach) (o : Nat) : Bool :=
  let k := o / 2
  let src := if (m.pair k).eff then (if o % 2 = 0 then o + 1 else o - 1) else o
  if m.inverts k then
    let l := (m.out (2 * k)).level
    let t := m.tb (m.tbSel (2 * k)).1
    let want := if src % 2 = 0 then l else !l
    t.running && want && decide ((m.pair k).changeAt + m.deadTime k ≤ m.now)
  else (m.out src).level

/-- Output `o` follows its PWM stages (R198, R243): an internal one in PWM or HOLD in governed mode (or
still awaiting its class of an orderly stop that limp-home met, R276), an external one enabled in governed mode and
released from its safe level. -/
def Mach.followsPwm (m : Mach) (o : Nat) : Bool :=
  if o < 24 then (m.st o).follows && (m.dev.governed || (m.ch (m.leader o)).thm.stopHold)
  else m.dev.governed && m.outEnabled o && !m.clk.epwmSafe && m.dev.phase == .running

/-- The level of terminal EPWMj (R243): 0 low, 1 high, 2 high impedance. -/
def Mach.epwmPin (m : Mach) (j : Nat) : Nat :=
  let code (c : Nat) : Nat := if c = 3 then 0 else c
  let safe := code (m.xpwmSafe / 4 ^ j % 4)
  if !m.dev.latched then 2
  else if m.dev.phase != .running || !m.clk.refOk || m.clk.epwmSafe || !m.dev.governed then safe
  else if !m.outEnabled (24 + j) then code (fld (m.outCfg (24 + j)) 9 2)
  else if (m.out (24 + j)).drive && !(m.out (24 + j)).cut then 1 else 0

/-- Terminals EPWM0 to EPWM7 whose level differs from that of `old` open their blanking windows (R232): an edge made by
enabling, disabling, or the passage to or from the safe level. -/
def Mach.edgePins (old : Mach) (m : Mach) : Mach :=
  forList ((List.range 8).filter fun j => m.epwmPin j != old.epwmPin j)
    (fun j m => m.modOut (24 + j) fun u => { u with blank := m.blankTicks (24 + j) != 0 }) m

/-- Bring output `o` to the level its stages give (R198): a change joins the output to the stages; an output held off by
a cut stays off (R233). -/
def Mach.driveOut (o : Nat) (m : Mach) : Mach :=
  let lvl := m.stageLevel o
  let u := m.out o
  let changed := lvl != u.drive
  let m := m.modOut o fun u => { u with drive := lvl, joined := u.joined || changed }
  if o < 24 then
    if m.leader o = o && m.followsPwm o && (m.out o).joined && !(m.out o).cut then
      if lvl then m.gateOn o else m.gateOff .programmed o
    else m
  else if changed && !u.cut then
    m.modOut o fun u => { u with blank := m.blankTicks o != 0, hadRise := u.hadRise || lvl }
  else m

/-- Bring both outputs of the pair of `o` to their levels: those that turn off first. -/
def Mach.drivePair (o : Nat) (m : Mach) : Mach :=
  let a := 2 * (o / 2)
  if m.stageLevel a then (m.driveOut (a + 1)).driveOut a else (m.driveOut a).driveOut (a + 1)

/-- Deliver an event of timebase `k` (R208, R209): type 0 ZERO, 1 PERIOD, 2 RISE, 3 FALL, in a period whose count is a
multiple of NDIV + 1 and with its enable bit set. -/
def Mach.deliver (k type : Nat) (m : Mach) : Mach :=
  let w := m.cfg (tbBase k + 3)
  let pc := (m.tb k).pcnt
  if bit w (8 + type) && pc.toNat % (fld w 0 8 + 1) = 0 then
    m.eventOwn 0x06 (wd (2 ^ k)) ⟨0x06, 3, wd (k + 16 * type), pc.setWidth 16, 0, 0, m.time⟩
  else m

/-- An edge of unit `o`: the RISE and FALL events of the timebase that names it (R208); a group has its leader's unit. -/
def Mach.edgeEvents (o : Nat) (rising : Bool) (m : Mach) : Mach :=
  let k := (m.tbSel o).1
  let src := fld (m.cfg (tbBase k + 4)) 0 5
  if (if src < 24 then m.leader src else src) = o then m.deliver k (if rising then 2 else 3) else m

/-- The unit of output `o` takes the level its compares give at the present count; a change of an even unit starts the
pair's dead time (R222). -/
def Mach.setUnit (o : Nat) (m : Mach) : Mach :=
  let lvl := m.unitLevel o
  if lvl = (m.out o).level then m
  else
    let m := (m.modOut o fun u => { u with level := lvl }).edgeEvents o lvl
    if o % 2 = 0 then m.modPair (o / 2) fun q => { q with changeAt := m.now } else m

/-- Units that exist: leaders and single channels, and the external outputs of the part (R218). -/
def Mach.units (m : Mach) : List Nat := m.allOuts.filter fun o => 24 ≤ o || m.leader o == o

/-- The units that run on timebase `k` (R221). -/
def Mach.unitsOn (m : Mach) (k : Nat) : List Nat := m.units.filter fun o => (m.tbSel o).1 == k

/-! ## Joining at a compare (R88, R145, R295) -/

/-- The unit that gives output `o` its level (R222, R223). -/
def Mach.srcUnit (m : Mach) (o : Nat) : Nat :=
  let k := o / 2
  if m.inverts k then 2 * k else if (m.pair k).eff then (if o % 2 = 0 then o + 1 else o - 1) else o

/-- The count stands at RISE or FALL of unit `o` (R199, R235); a FALL beyond the period falls at its end, the zero. -/
def Mach.atCompare (m : Mach) (o : Nat) : Bool :=
  let k := (m.tbSel o).1
  let t := m.tb k
  let per := max 1 t.perAct
  let c := (m.tbCount k + per - ((m.out o).slot * (t.perAct / 64)) % per) % per
  let (r, f) := m.cmpNow o
  t.counting && (((r.within t.perAct).map fun x => x.coarse == c).getD false ||
    ((f.within t.perAct).map fun x => x.coarse == c).getD (c == 0))

/-- At a compare of unit `o` the outputs it feeds that have kept another level since they entered PWM or HOLD join it. -/
def Mach.joinCmp (o : Nat) (m : Mach) : Mach :=
  if m.atCompare o then
    forList ([2 * (o / 2), 2 * (o / 2) + 1].filter fun x => decide (x < 24) && m.srcUnit x == o) (fun x m =>
      let u := m.out x
      if u.atCmp && !u.joined && m.followsPwm x && m.stageLevel x != m.isOn x then
        (m.modOut x fun u => { u with joined := true }).driveOut x
      else m) m
  else m

/-! ## Loads (R191, R196, R200) -/

/-- INCONS of output `o` becomes 1: event PWM_CLAMP of its page (R200, R248). -/
def Mach.noteClamp (o : Nat) (m : Mach) : Mach :=
  if (m.out o).incons then m.modOut o fun u => { u with clampRun := true }
  else
    let m := m.modOut o fun u => { u with incons := true, clampRun := true, loaded := false }
    if o < 24 then m.event (chPage o) 0x0200 else m.event 0x07 0x0100

/-- An on-interval of an INVERT pair in the present period is shorter than its dead time (R222). A level that does not
change in the period has no such interval. -/
def Mach.dtSuppressed (m : Mach) (k : Nat) : Bool :=
  let t := m.tb (m.tbSel (2 * k)).1
  let x := (m.unitShape (2 * k)).1
  let n := x.onCounts t.perAct
  let short (c : Nat) : Bool := decide (c * 2 ^ t.presc < m.deadTime k)
  m.inverts k && t.counting && x.pulses && (short n || short (t.perAct - n))

/-- DT_SUP stands for the rest of the period in which an on-interval is suppressed (R222). -/
def Mach.judgeDt (k : Nat) (m : Mach) : Mach :=
  let sup := m.dtSuppressed k
  m.modPair k fun q => { q with dtSup := q.dtSup || sup }

/-- Judge the compares now in force: a clamp (R200), a pulse or gap that is not produced in the present period (R201), and
an on-interval shorter than the dead time (R222). -/
def Mach.judgeClamp (o : Nat) (m : Mach) : Mach :=
  let m := if m.unitClamped o then m.noteClamp o else m
  let short := (m.tb (m.tbSel o).1).counting && (m.unitShape o).2
  (m.modOut o fun u => { u with minpw := u.minpw || short }).judgeDt (o / 2)

/-- The element count of fine value `f` (R203, R207): from the map once one is in force, else round(f × E / 256) with E in
1/16 element. -/
def Mach.elemOf (m : Mach) (f : Nat) : Nat := if m.dl.map then nth m.dl.fine f 0 else divRound (f * m.dl.elem) 4096

/-- The compare unit of output `o` receives the element counts of its fine values (R203, R207). -/
def Mach.takeElems (o : Nat) (m : Mach) : Mach :=
  m.modOut o fun u => { u with riseEl := m.elemOf u.rise.fine, fallEl := m.elemOf u.fall.fine }

/-- The transferred compares of output `o` load (R196): LDCNT receives the period count. -/
def Mach.loadCmp (o : Nat) (m : Mach) : Mach :=
  match (m.out o).pend with
  | some (r, f) =>
    let pc := (m.tb (m.tbSel o).1).pcnt
    (m.modOut o fun u => { u with rise := r, fall := f, pend := none, pendNow := false, held := false,
                                  ldcnt := pc.setWidth 16, loaded := true, whole := false }).takeElems o
  | none => m

/-- The placed slot of output `o` loads (R238). -/
def Mach.loadSlot (o : Nat) (m : Mach) : Mach :=
  m.modOut o fun u => { u with slot := u.slotPend.getD u.slot, slotPend := none, slotNow := false }

/-- The slot that an update-lock hold kept loads when the hold ends, over one placed meanwhile (R238). -/
def Mach.loadHeldSlot (o : Nat) (m : Mach) : Mach :=
  let m := m.loadSlot o
  m.modOut o fun u => { u with slot := u.slotHeld.getD u.slot, slotHeld := none }

/-- The transferred period and prescaler of timebase `k` load (R191). -/
def Mach.loadPer (k : Nat) (m : Mach) : Mach :=
  match (m.tb k).pend with
  | some (per, p) =>
    let m := m.modTb k fun t => { t with perBase := per, perAct := per, presc := p, pend := none, pendNow := false }
    forList (m.unitsOn k) (fun o m => m.modOut o fun u => { u with loaded := true }) m
  | none => m

/-- A transfer at tick `at` is sampled before the point that falls now (R192): its sampling edge came after it. -/
def Mach.sampled (m : Mach) (tick : Nat) : Bool := decide (tick + 16 < m.now)

/-- Load the compares of `o` at once and bring its pair to the new levels (R196, R199). -/
def Mach.loadNow (o : Nat) (m : Mach) : Mach :=
  if (m.out o).pend.isNone then m
  else (((m.loadCmp o).judgeClamp o).setUnit o).drivePair o

/-! ## Tach arming (R226 to R228) -/

/-- Speed of tach input `i` in rpm (R226). -/
def Mach.rpm (m : Mach) (i : Nat) : Nat :=
  let t := m.tach i
  let c := m.tachWord i 0
  let e := (fld c 3 3 + 1) * (if fld c 1 2 = 2 then 2 else 1)
  if t.hasPer then
    let el := match t.last with
      | some a => m.now - a
      | none => 0
    min 0xFFFF (2880000000 / max 1 (max t.per.toNat el * e))
  else 0

/-- The pair tach input `i` names. -/
def Mach.tachPair (m : Mach) (i : Nat) : Nat := fld (m.tachWord i 0) 9 4

/-- Its action is SWAP; on a pair inside a group it acts as REPORT (R224). -/
def Mach.tachActs (m : Mach) (i : Nat) : Bool := bit (m.tachWord i 0) 8 && !m.pairGrouped (m.tachPair i)

/-- The arming condition (R227), with REFCLK present (R230): an external driven output counts as on while it is
enabled and released. -/
def Mach.tachReady (m : Mach) (i : Nat) : Bool :=
  let k := m.tachPair i
  let o := 2 * k + (if (m.pair k).eff then 1 else 0)
  let pulses := (m.unitShape (if k < 12 then m.leader (2 * k) else 2 * k)).1.pulses
  bit (m.tachWord i 0) 0 && m.clk.refOk &&
  (if o < 24 then
     decide (o < m.nch) && m.mode o != 0 && m.st o != .shed && m.st o != .safe && (pulses || m.mode o == 1)
   else m.followsPwm o && pulses)

/-- Loss time of tach input `i` in ticks (R228). -/
def Mach.tachTmo (m : Mach) (i : Nat) : Nat := max 1 (fld (m.tachWord i 1) 0 8) * 480000

/-- SLOW of input `i` takes a value (R228). -/
def Mach.setSlow (i : Nat) (slow : Bool) (m : Mach) : Mach :=
  m.modTach i fun t => { t with slow := slow, slowAt := if slow && !t.slow then m.now else t.slowAt }

/-- SLOW of an armed input follows its speed (R228), and LOSS stays 1 while one of its two cases holds: no edge, or SLOW,
for TMO × 10 ms. -/
def Mach.judgeSlow (i : Nat) (m : Mach) : Mach :=
  let m := m.setSlow i ((m.tach i).armed && decide (m.rpm i < (m.tachWord i 2).toNat))
  let still := ((m.tach i).slow && decide (m.tachTmo i ≤ m.now - (m.tach i).slowAt)) ||
    ((m.tach i).last.map fun a => decide (m.tachTmo i ≤ m.now - a)).getD true
  m.modTach i fun t => { t with loss := t.loss && still }

/-- Disarming clears SLOW and LOSS (R228). -/
def Mach.tachDisarm (i : Nat) (m : Mach) : Mach :=
  m.modTach i fun t => { t with armed := false, slow := false, loss := false }

/-- Any break in the arming condition disarms (R227). -/
def Mach.tachSettle (m : Mach) : Mach :=
  forList (List.range 4) (fun i m => if (m.tach i).armed && !m.tachReady i then m.tachDisarm i else m) m

/-! ## Interleave placement (R236, R237) -/

/-- Weight of output `o` in 0.25 A (R236). -/
def Mach.ilvWeight (m : Mach) (o : Nat) : Rat :=
  let fixed := fld (m.ilvWord o) 8 8
  if fixed != 0 then fixed
  else if o < 24 then ((m.members o).map fun k => (m.out k).weight).foldl (· + ·) 0
  else 1

/-- Output `o` takes part in interleaving (R235). -/
def Mach.ilvPart (m : Mach) (o : Nat) : Bool :=
  bit (m.ilvWord o) 0 && m.outEnabled o && !(o % 2 == 1 && m.inverts (o / 2))

/-- Counts two arcs of a circle of `per` counts share: start and length each. -/
def arcOverlap (per : Nat) (a b : Nat × Nat) : Nat :=
  -- measured from the start of `a`, `b` begins at `d`
  let d := (b.1 + per - a.1) % max 1 per
  let lin := min a.2 (d + b.2) - d
  let wrap := min a.2 (d + b.2 - per)
  (if d < a.2 then lin else 0) + (if per < d + b.2 then wrap else 0)

/-- A participant of a placement: output, weight and arc. -/
structure IlvArc where
  o   : Nat
  w   : Rat
  arc : Nat × Nat
deriving Repr

/-- The arc of a shape. -/
def Shape.arc (s : Shape) (per : Nat) : Nat × Nat :=
  match s with
  | .off => (0, 0)
  | .on => (0, per)
  | .pulse r _ => (r, s.onCounts per)

/-- An arc shifted by slot `s` (R235). -/
def shiftArc (per s : Nat) (a : Nat × Nat) : Nat × Nat := ((a.1 + s * (per / 64)) % max 1 per, a.2)

/-- The weighted overlap of an arc with those placed. -/
def overlapWith (per : Nat) (placed : List IlvArc) (w : Rat) (a : Nat × Nat) : Rat :=
  (placed.map fun q => w * q.w * arcOverlap per a q.arc).foldl (· + ·) 0

/-- The lowest slot of least overlap (R237). -/
def bestSlot (per : Nat) (placed : List IlvArc) (x : IlvArc) : Nat :=
  ((List.range 64).foldl (fun (best : Nat × Rat) s =>
    let c := overlapWith per placed x.w (shiftArc per s x.arc)
    if c < best.2 then (s, c) else best) (0, overlapWith per placed x.w x.arc)).1

/-- Insert by descending weight × on-time, ties to the lower output (R237). -/
def ilvInsert (x : IlvArc) : List IlvArc → List IlvArc
  | [] => [x]
  | y :: t => if y.w * y.arc.2 < x.w * x.arc.2 then x :: y :: t else y :: ilvInsert x t

/-- Place participants in turn (R237): the slot each receives. -/
def ilvPlace (per : Nat) : List IlvArc → List IlvArc → List (Nat × Nat)
  | _, [] => []
  | placed, x :: t =>
    let s := if placed.isEmpty then 0 else bestSlot per placed x
    (x.o, s) :: ilvPlace per (placed ++ [{ x with arc := shiftArc per s x.arc }]) t

/-- Total weighted overlap of placed arcs. -/
def totalOverlap (per : Nat) : List IlvArc → Rat
  | [] => 0
  | x :: t => overlapWith per t x.w x.arc + totalOverlap per t

/-- Participants among some units with their unshifted arcs, given each unit's weight and shape (R235, R236). -/
def Mach.ilvArcs (m : Mach) (os : List Nat) (per : Nat) (weight : Nat → Rat) (shape : Nat → Shape) : List IlvArc :=
  (os.filter m.ilvPart).map fun o => ⟨o, weight o, (shape o).arc per⟩

/-- The slots a placement gives (R237). -/
def Mach.placeSlots (m : Mach) (os : List Nat) (per : Nat) (weight : Nat → Rat) (shape : Nat → Shape) : List (Nat × Nat) :=
  ilvPlace per [] ((m.ilvArcs os per weight shape).foldl (fun l x => ilvInsert x l) [])

end Sys2Proof.Machine
end

