-- ==== Sys2Proof/Machine/Signature.lean ====
section
/-! DEFINITION. The turn-on signature engine (R176 to R184): captures, their early end, the compare and the learning
store. Every meaning that can move a channel's state ends through `settle`, which ends the captures the move cut
short. -/

namespace Sys2Proof.Machine

/-! ## Reading SRAM -/

/-- Read an SRAM word (R46): a single-bit error is corrected and written back, a double-bit error reads 0x0000. The
answer says whether the word was uncorrectable. -/
def State.sramRead (w : Nat) (s : State) : Word × Bool × State :=
  match s.eccBad.find? fun e => e.1 == w with
  | none => (s.sramWord w, false, s)
  | some (_, false) =>
    (s.sramWord w, false,
     { s with eccBad := s.eccBad.filter fun e => e.1 != w, m := s.m.event 0x00 0x0001 })
  | some (_, true) => (0, true, s.on (Mach.event 0x00 0x0002))

/-- What a read of an SRAM word gives (R46). -/
def State.sramVal (w : Nat) (s : State) : Word := (s.sramRead w).1

/-- Read `n` words from word `w` upward, and whether one of them was uncorrectable. -/
def State.sramReads (w n : Nat) (s : State) : List Word × Bool × State :=
  match n with
  | 0 => ([], false, s)
  | n + 1 =>
    let (v, bad, s) := s.sramRead w
    let (vs, bads, s) := s.sramReads (w + 1) n
    (v :: vs, bad || bads, s)

/-! ## Captures -/

/-- Change the signature words of channel `n`. -/
def Mach.modSig (n : Nat) (f : Sig → Sig) (m : Mach) : Mach := m.modCh n fun c => { c with sig := f c.sig }

/-- A capture ends incomplete (R178): its untaken words are written 0x8000, no compare runs. -/
def State.sigCut (n : Nat) (c : Capture) (s : State) : State :=
  let s := s.sramSetList (sramIndex c.page c.k) (List.replicate (256 - c.k) 0x8000)
  s.on fun m =>
    (m.modSig n fun g => { g with cap := none, result := 3, reason := 1 }).event (chPage n) 0x0080

/-- What follows from every move of a channel's state: a tach input whose arming condition broke is disarmed (R227); and
it ends the captures of channels that have left INRUSH, ON, PWM and HOLD, or that lost REFCLK, before sample 255
was formed (R178); a turn-on that ended before its capture began leaves none. -/
def State.settle (s : State) : State :=
  let s := s.on Mach.tachSettle
  forList s.m.allCh (fun n s =>
    let g := (s.m.ch n).sig
    if (s.m.st n).running && s.m.clk.refOk then s
    else
      let s := s.on (Mach.modSig n fun g => { g with armed := false, edged := false })
      match g.cap with
      | some c => if c.k < 256 then s.sigCut n c else s
      | none => s) s

/-- A control-plane effect, with the captures it cuts short ended. -/
def State.ctl (f : Mach → Mach) (s : State) : State := (s.on f).settle

/-- A sample of 5 mA codes kept in the format of CHn.I (R163, R171): ±32 000 codes at most. -/
def iClamp (x : Int) : Int := max (-32000) (min 32000 x)

/-- One grid sample of a group's current enters the capture of its leader (R176, R178): a sample formed of 2^d of them
is written to its word of the capture page. A waiting capture begins at the grid boundary that ends this sample. -/
def State.sigSample (n : Nat) (i : Int) (s : State) : State :=
  let g := (s.m.ch n).sig
  match g.cap with
  | some c =>
    if 256 ≤ c.k then s
    else
      let acc := c.acc + i
      if c.n + 1 < 2 ^ c.d then s.on (Mach.modSig n fun g => { g with cap := some { c with n := c.n + 1, acc := acc } })
      else
        let v := iClamp (inUnits ((acc : Rat) / (2 ^ c.d : Nat)))
        let s := s.sramSet (sramIndex c.page c.k) (Word.ofInt v)
        s.on (Mach.modSig n fun g =>
          { g with cap := some { c with n := 0, acc := 0, k := c.k + 1, data := c.data ++ [v] } })
  | none =>
    if g.armed && g.edged then
      let c : Capture :=
        { d := fld (s.m.lw n 0x43) 0 3, k := 0, n := 0, acc := 0, page := fld (s.m.lw n 0x44) 0 6, data := [],
          skip := false }
      s.on (Mach.modSig n fun g => { g with cap := some c, armed := false, edged := false })
    else s

/-! ## Compare -/

/-- Sample `x` passes the bounds of an envelope word at unit `l` codes (R179). -/
def sigPass (x : Int) (w : Word) (l : Nat) : Bool :=
  (fld w 8 8 == 0xFF || decide (x ≤ (fld w 8 8 * l : Nat))) && (fld w 0 8 == 0 || decide ((fld w 0 8 * l : Nat) ≤ x))

/-- Compare samples `k` upward with their envelope words, reading each once (R180, R182): failures counted, the first
failing index kept. -/
def State.sigScan (n page l : Nat) (k : Nat) (xs : List Int) (nfail first : Nat) (s : State) : Nat × Nat × State :=
  match xs with
  | [] => (nfail, first, s)
  | x :: t =>
    let (w, bad, s) := s.sramRead (sramIndex page k)
    if bad then
      (s.on (Mach.modSig n fun g => { g with envErr := true })).sigScan n page l (k + 1) t nfail first
    else if sigPass x w l then s.sigScan n page l (k + 1) t nfail first
    else s.sigScan n page l (k + 1) t (nfail + 1) (if nfail = 0 then k else first)

/-- A signature failure (R181): counted, event SIG_FAIL, code 0xC under the diagnostic rule; no fault record. -/
def Mach.sigFail (n : Nat) (m : Mach) : Mach :=
  let m := (m.modSig n fun g => { g with fcnt := inc16 g.fcnt }).event (chPage n) 0x0100
  if (m.ch n).flt.code = 0 then m.writeCode n 0xC 0 else m.addHist n 0x1000

/-- The compare of a complete capture (R180): results 1 PASS, 2 FAIL, 3 NOT_COMPARED with reason 2 CMP_OFF,
3 NO_ENV, 4 INTERVAL_MISMATCH. -/
def State.sigCompare (n : Nat) (c : Capture) (s : State) : State :=
  let w := s.m.lw n 0x43
  let set (result reason : Nat) (s : State) : State :=
    s.on (Mach.modSig n fun g => { g with result := result, reason := reason })
  if !bit w 4 then set 3 2 s
  else
    let page := fld (s.m.lw n 0x44) 8 6
    let (h, bad, s) := s.sramRead (sramIndex page 0)
    if bad || fld h 8 8 != 0xE5 then set 3 3 s
    else if fld h 4 3 != c.d then set 3 4 s
    else
      let (nfail, first, s) := s.sigScan n page (2 ^ fld h 0 3) 1 (c.data.drop 1) 0 0
      let s := s.on (Mach.modSig n fun g => { g with nfail := nfail, first := first })
      if nfail > fld w 5 5 then (set 2 0 s).on (Mach.sigFail n) else set 1 0 s

/-! ## Learning (R183, R184) -/

/-- The channel a learning operation names, the leader of its group. -/
def LongOp.learnCh (o : LongOp) : Nat := fld (o.word 2) 0 5

/-- The learning store of an operation: interval of the first capture, then minimum, maximum and sum of each sample. -/
def learnTake (d : Nat) (data : List Int) (aux : List Int) : List Int :=
  match aux with
  | [] => (d : Int) :: (data.flatMap fun x => [x, x, x])
  | d0 :: store => d0 :: learnMerge data store
where
  /-- Merge one capture into the store. -/
  learnMerge : List Int → List Int → List Int
    | x :: xs, lo :: hi :: sum :: t => min lo x :: max hi x :: (sum + x) :: learnMerge xs t
    | _, rest => rest

/-- The bounds HI_k and LO_k in 5 mA codes (R183) of samples in a store, with REL in 2.5 % and ABS in 10 mA. -/
def learnBounds (rel abs : Nat) : List Int → List (Rat × Rat)
  | lo :: hi :: sum :: t =>
    let mk : Rat := (sum : Rat) / 8
    let mag : Rat := if mk < 0 then -mk else mk
    let margin : Rat := (rel : Rat) * mag / 40 + 2 * (abs : Rat)
    ((hi : Rat) + margin, (lo : Rat) - margin) :: learnBounds rel abs t
  | _ => []

/-- The smallest ESCALE from `e` upward for which every HI is at most 254 × L; 7 at last. -/
def learnScale (his : List Rat) : Nat → Nat → Nat
  | 0, e => e
  | fuel + 1, e => if his.all fun h => decide (h ≤ (254 * 2 ^ e : Nat)) then e else learnScale his fuel (e + 1)

/-- An envelope word at ESCALE `e`: HI rounded up, LO rounded down; LO below 1 is 0x00, HI above 254 × L is 0xFF. A HI
below 0 is written 0x00, the nearest code. -/
def learnWord (e : Nat) (b : Rat × Rat) : Word :=
  let l : Rat := (2 ^ e : Nat)
  let hi : Nat := if b.1 > 254 * l then 0xFF else (max 0 (b.1 / l).ceil).toNat
  let lo : Nat := if b.2 / l < 1 then 0 else min 255 (b.2 / l).floor.toNat
  wd (hi * 256 + lo)

/-- The running learning operation takes a complete capture; after the eighth it writes the envelope in one pass and
ends DONE (R183). -/
def State.learn (n : Nat) (c : Capture) (s : State) : State :=
  match s.m.opRunning 5 with
  | none => s
  | some o =>
    let same := match o.aux with
      | [] => true
      | d :: _ => d == (c.d : Int)
    if s.m.leader o.learnCh != n || !same || c.skip then s
    else
      let aux := learnTake c.d c.data o.aux
      let o' := { o with aux := aux, prog := o.prog + 1 }
      if o'.prog < 8 then s.on (Mach.modOp o fun _ => o')
      else
        let bounds := (learnBounds (fld (o.word 2) 8 4) (fld (o.word 3) 0 8) aux.tail).drop 1
        let e := learnScale (bounds.map (·.1)) 7 0
        let page := fld (s.m.lw n 0x44) 8 6
        let header := wd (0xE500 + 16 * c.d + e)
        let s := s.sramSetList (sramIndex page 0) (header :: bounds.map (learnWord e))
        s.on fun m => (m.modOp o fun _ => o').endOp o' .done stOk 0 0

/-- Learning ends FAILED where CAP_EN of its channel has become 0 (R184); the manual gives its reason no number. -/
def Mach.learnCheck (m : Mach) : Mach :=
  match m.opRunning 5 with
  | some o => if bit (m.lw o.learnCh 0x43) 3 then m else (m.failOp o (wd m.freeVal)).nextFree
  | none => m

/-- Sample 255 of a capture has been formed (R180): the capture is compared, its results recorded, learning takes it. -/
def execSigCaptureComplete (ch : Ch) (s : State) : Out :=
  match (s.m.ch ch).sig.cap with
  | some c =>
    if c.k < 256 then .next s
    else
      let peak := c.data.foldl max (c.data.headD 0)
      let iend := inUnits (((c.data.drop 240).foldl (· + ·) 0 : Int) / (16 : Rat))
      let s := s.sigCompare ch c
      let s := s.on fun m =>
        (m.modSig ch fun g => { g with cap := none, ipk := peak, iend := iend, cnt := inc16 g.cnt }).event (chPage ch) 0x0080
      .next (s.learn ch c)
  | none => .next s

end Sys2Proof.Machine
end

