-- ==== Sys2Proof/Machine/Stage.lean ====
section
/-! DEFINITION. The events of the power stage: gate-drive faults, edge ends, the clamp, reverse current (R78 to R86,
R102). -/

namespace Sys2Proof.Machine

/-- An effect on a channel the part has; absent channels have none (R3). -/
def ctlCh (n : Nat) (f : Mach → Mach) (s : State) : Out := .next (if n < s.m.nch then s.ctl f else s)

/-- An effect that only a single channel or a leader takes: on a member's page the command is ignored (R96, R160). -/
def ctlLead (n : Nat) (f : Mach → Mach) (s : State) : Out :=
  .next (if n < s.m.nch ∧ s.m.leader n = n then s.ctl f else s)

/-- The protections of a conducting channel detect (R104): none does once a turn-off fault has been granted, until its next
turn-on edge (R109, R125). -/
def Mach.detects (m : Mach) (n : Nat) : Bool := (m.ch n).stage.conducting && !(m.ch n).prot.tripped

/-- Every conducting channel turns off with fault 0xB; one that a granted fault is turning off already raises none (R125). -/
def Mach.gateFaultAll (also : BitVec 16) (m : Mach) : Mach :=
  forList (m.allCh.filter m.detects) (fun k m => m.turnOffFault k 0xB 0 also) m

/-- Gate-drive fault of one channel that is judged by its own VGS; a channel on which no turn-off is due any more only
records the fault. -/
def Mach.gateFaultOne (k : Nat) (also : BitVec 16) (m : Mach) : Mach :=
  if k < m.nch then m.turnOffFault k 0xB 0 also else m

/-- A VCP or VGS check fails for its duration (R78); CPCLK loss is detected through VCP (R34) and counted. -/
def execGateDriveFault (f : GateFault) (also : BitVec 16) (s : State) : Out :=
  .next (s.ctl fun m =>
    match f with
    | .vcpLow => if m.allCh.any fun k => (m.ch k).stage.gateOn then m.gateFaultAll also else m
    | .cpclkLost =>
      if m.clk.cpOk then
        let m := { m with clk := { m.clk with cpOk := false, cpLossCnt := inc16 m.clk.cpLossCnt },
                          pwr := { m.pwr with vcpOk := false } }
        (m.event 0x01 0x0008).gateFaultAll also
      else m
    | .vgsLow ch =>
      if (m.ch ch).stage.gateOn then
        (m.modCh ch fun c => { c with stage := { c.stage with vgsOk := false } }).gateFaultOne ch also
      else m
    | .vgsStuck ch => if (m.ch ch).stage.gateOn then m else m.gateFaultOne ch also)

/-- A channel's edge interval elapses (R78, R79): EDGE reads 0. A finished turn-on edge waits for its first current
sample (R172); after a turn-off edge the current has left the trip thresholds. -/
def execEdgeEnd (ch : Ch) (s : State) : Out :=
  ctlCh ch (fun m =>
    match (m.ch ch).stage.edge with
    | some e =>
      Mach.noteStopEdges <| m.modCh ch fun c =>
        { c with stage := { c.stage with edge := none, vgsOk := if e.rising then true else c.stage.vgsOk },
                 meas := if e.rising then c.meas.endHeat m.now else { c.meas.endHeat m.now with offAt := m.now },
                 prot := if e.rising then c.prot else { c.prot with scCmp := false, bsCmp := false } }
    | none => m) s

/-- VDS reaches VDS(CL) with the gate commanded off (R84): the edge's interval ends for the dissipation (R172). -/
def execClampStart (ch : Ch) (s : State) : Out :=
  ctlCh ch (fun m =>
    if (m.ch ch).stage.gateOn then m
    else m.modCh ch fun c =>
      { c with stage := { c.stage with clamp := true }, meas := c.meas.endHeat m.now }) s

/-- The load current has decayed (R84): the turn-off counts once in CHn.CLAMP_CNT. -/
def execClampEnd (ch : Ch) (s : State) : Out :=
  ctlCh ch (fun m =>
    if (m.ch ch).stage.clamp then
      m.modCh ch fun c =>
        { c with stage := { c.stage with clamp := false, clampSeen := true,
                                         clampCnt := if c.stage.clampSeen then c.stage.clampCnt
                                                     else inc16 c.stage.clampCnt } }
    else m) s

/-- CHn.STG_CMD CLR_CLAMP (R102). -/
def execClrClamp (ch : Ch) (s : State) : Out :=
  ctlCh ch (Mach.modCh ch fun c => { c with stage := { c.stage with clampCnt := 0 } }) s

/-- Reverse current crosses RTH (`above`), and has exceeded it for the filter time (`filtered`) (R86): REPORT sets
REVERSE; FAULT_OFF records fault 0x9 in INRUSH, ON, PWM and HOLD and sets REVERSE elsewhere. -/
def execReverseCurrent (ch : Ch) (above filtered : Bool) (also : BitVec 16) (s : State) : Out :=
  ctlCh ch (fun m =>
    let m := m.modCh ch fun c => { c with stage := { c.stage with rev := above } }
    if above && filtered then
      if bit (m.lw ch 0x0B) 6 && (m.st ch).running then m.turnOffFault ch 0x9 0 also
      else m.event (chPage ch) 0x0800
    else m) s

end Sys2Proof.Machine
end

