-- ==== Sys2Proof/Machine/Protect.lean ====
section
/-! DEFINITION. The events of channel protection and diagnosis and the commands that clear their records (R103 to
R122, R125 to R135). The update of the estimate stands in Machine/Tach.lean. -/

namespace Sys2Proof.Machine

/-- Change the protection words of channel `n`. -/
def Mach.modProt (n : Nat) (f : Prot → Prot) (m : Mach) : Mach := m.modCh n fun c => { c with prot := f c.prot }

/-- The current of a conducting channel crosses 150 A (R107): the chain discharges the gate, code 0x1 BACKSTOP. -/
def execBackstopTrip (ch : Ch) (also : BitVec 16) (s : State) : Out :=
  ctlCh ch (fun m =>
    if m.detects ch then
      (m.modProt ch fun p => { p with bsCmp := true, tripCnt := inc16 p.tripCnt }).turnOffFault ch 0x1 1 also
    else m) s

/-- The current of a conducting channel crosses the effective fast-trip threshold (R107, R108): code 0x1 FAST. With
the fast trip disabled there is no threshold. -/
def execFastTrip (ch : Ch) (also : BitVec 16) (s : State) : Out :=
  ctlCh ch (fun m =>
    if m.detects ch && (m.itripEff ch).isSome then
      (m.modProt ch fun p => { p with scCmp := true, tripCnt := inc16 p.tripCnt }).turnOffFault ch 0x1 0 also
    else m) s

/-- Regulation occurs in the present chop period or millisecond of channel `n` (R144): CLPER counts a chop period once, at
once; a millisecond of a fully-on phase when it is full. -/
def Mach.countChop (n : Nat) (reg : Bool) (m : Mach) : Mach :=
  let chops := (m.ch (m.leader n)).inr.chopping
  m.modCh n fun c =>
    { c with inr := { c.inr with clper := if chops && reg && !c.inr.clSeen then min 255 (c.inr.clper + 1) else c.inr.clper,
                                 clSeen := c.inr.clSeen || reg } }

/-- The current of a conducting channel reaches the effective limit (R111): an episode begins. During an inrush
sequence it is counted by CLPER alone (R144). -/
def execClRegStart (ch : Ch) (s : State) : Out :=
  ctlCh ch (fun m =>
    if (m.ch ch).stage.conducting && !(m.ch ch).prot.clReg then
      let m := m.modProt ch fun p => { p with clReg := true, epStart := m.now, epEnergy := 0, eacc := 0 }
      if m.st ch == .inrush then m.countChop ch true
      else (m.modProt ch fun p => { p with clCnt := inc16 p.clCnt }).event (chPage ch) 0x0010
    else m) s

/-- The demanded current has stayed below the limit for 10 µs (R111): the episode ends. -/
def execClRegEnd (ch : Ch) (s : State) : Out := ctlCh ch (Mach.modProt ch fun p => { p with clReg := false }) s

/-- An episode has lasted longer than the effective CL_TIME (R112): code 0x2 TIMEOUT. -/
def execClTimeout (ch : Ch) (also : BitVec 16) (s : State) : Out :=
  ctlCh ch (fun m =>
    if m.detects ch && (m.ch ch).prot.clReg then m.turnOffFault ch 0x2 0 also else m) s

/-- A diagnosis finds its condition (R119, R121): it is recorded when its flag was 0 before, and again once a clear has
emptied the code (R134). -/
def Mach.find (k : Nat) (was : Bool) (bits : Word) (code detail : Nat) (m : Mach) : Mach :=
  let m := if was then m else m.event (chPage k) bits
  if was && (m.ch k).flt.code != 0 then m else m.diagnose k code detail

/-- The on-state comparator (R119): `below`, the accumulated unblanked on-time without a sample at the threshold has
reached OL_FILT; otherwise a sample at or above it. -/
def execOpenLoadOn (ch : Ch) (below : Bool) (s : State) : Out :=
  ctlCh ch (fun m =>
    if below then
      if fld (m.lw ch 0x14) 0 5 != 0 && (m.st ch).steady then
        let was := (m.ch ch).prot.olOn
        (m.modProt ch fun p => { p with olOn := true }).find ch was 0x0004 0x4 0
      else m
    else m.modProt ch fun p => { p with olOn := false }) s

/-- The off states in which the off-state circuits work (R104), on the leader alone (R106). -/
def Mach.offDiag (m : Mach) (n : Nat) : Bool :=
  m.leader n == n &&
  match m.st n with
  | .off | .latched | .shed => true
  | .safe => !m.safeOn n
  | _ => false

/-- A check window (R120, R121): it opens, and 1 ms later finds OUTn above or below VBB − 2 V. Two in a row above report
a short to VBB. -/
def execSvbbCheckWindow (ch : Ch) (p : WindowPhase) (s : State) : Out :=
  ctlCh ch (fun m =>
    match p with
    | .opens =>
      if m.offDiag ch && bit (m.lw ch 0x14) 9 then m.modProt ch fun q => { q with check := true } else m
    | .ends above =>
      if (m.ch ch).prot.check then
        let m := m.modProt ch fun q => { q with check := false }
        if !(m.offDiag ch) then m
        else if above then
          let was := (m.ch ch).prot.svbb
          let run := min 2 ((m.ch ch).prot.winRun + 1)
          let m := m.modProt ch fun q => { q with winRun := run, winLow := false, svbb := q.svbb || run == 2 }
          if run = 2 then m.find ch was 0x0008 0x6 0 else m
        else m.modProt ch fun q => { q with winRun := 0, winLow := true, svbb := false }
      else m) s

/-- The off-state comparator (R121): with the pull-up, OUTn above 3.0 V for OL_FILT while the latest window was low, or
a comparison that shows a load again. -/
def execOpenLoadOff (ch : Ch) (above : Bool) (s : State) : Out :=
  ctlCh ch (fun m =>
    if above then
      if m.offDiag ch && bit (m.lw ch 0x14) 8 && !(m.ch ch).prot.check &&
          (!bit (m.lw ch 0x14) 9 || (m.ch ch).prot.winLow) then
        let was := (m.ch ch).prot.olOff
        (m.modProt ch fun p => { p with olOff := true }).find ch was 0x0004 0x5 0
      else m
    else m.modProt ch fun p => { p with olOff := false }) s

/-- OUTn has stayed above VBB − 2 V for 50 µs of an off-interval in PWM or HOLD (R122): code 0x6 PWM_OFF. -/
def execSvbbPwmOff (ch : Ch) (also : BitVec 16) (s : State) : Out :=
  ctlCh ch (fun m =>
    if (m.st ch).follows && bit (m.lw ch 0x14) 9 && !(m.ch ch).stage.conducting then m.turnOffFault ch 0x6 1 also
    else m) s

/-! ## Clearing records -/

/-- The fault-clear command acts on a leader's group: code, detail and time; RETRY_WAIT and LATCHED proceed as from OFF
with COUNT cleared (R134, R159). -/
def Mach.cmdFaultClear (l : Nat) (m : Mach) : Mach :=
  let m := m.clearFault l
  match (m.ch l).st with
  | .retryWait | .latched =>
    let m := m.modCh l fun c => { c with rty := { c.rty with count := 0, cause := 0, causeDet := 0, elapsed := false } }
    m.startFromOff l false
  | _ => m

/-- The history clear of a leader clears the history of every member. -/
def Mach.cmdHistoryClear (l : Nat) (m : Mach) : Mach :=
  forList (m.members l) (fun k m => m.modCh k fun c => { c with flt := { c.flt with hist := 0 } }) m

/-- 0xFC01 to CHn.FLT_CMD (R134). -/
def execFaultClear (ch : Ch) (s : State) : Out := ctlLead ch (Mach.cmdFaultClear ch) s

/-- 0xFC02 to CHn.FLT_CMD (R134). -/
def execHistoryClear (ch : Ch) (s : State) : Out := ctlLead ch (Mach.cmdHistoryClear ch) s

/-- 0xFC03 to CHn.FLT_CMD (R134). -/
def execFaultHistoryClear (ch : Ch) (s : State) : Out :=
  ctlLead ch (fun m => (m.cmdHistoryClear ch).cmdFaultClear ch) s

/-- CHn.PROT_CMD CLR_CNT (R135). -/
def Mach.cmdProtClr (n : Nat) (m : Mach) : Mach :=
  m.modProt n fun p => { p with clCnt := 0, tripCnt := 0, cycCnt := 0, eacc := 0 }

/-- CHn.PROT_CMD CLR_CNT (R135). -/
def execProtClrCnt (ch : Ch) (s : State) : Out := ctlCh ch (Mach.cmdProtClr ch) s

end Sys2Proof.Machine
end

