-- ==== Sys2Proof/Machine/Inrush.lean ====
section
/-! DEFINITION. Inrush sequences and retries: phase ends, chop periods, the heater queue, the retry wait, the bucket
and the good run (R139 to R160). -/

namespace Sys2Proof.Machine

/-! ## Chopping (R141, R142) -/

/-- Phase time in ms, 0 counting as 1 (R161). -/
def phaseMs (w : Word) : Nat := max 1 w.toNat

/-- The duty code of chop period `j` = 1, 2, … of the present phase (R142), none in a phase that does not chop. -/
def Inr.dutyCode (r : Inr) (j : Nat) : Option Nat :=
  let d0 := fld r.duty 0 8
  let d1 := if fld r.duty 8 8 = 0 then 256 else fld r.duty 8 8
  let ramp (target t : Nat) : Nat :=
    let big := max 1 (t * chopRate (fld r.cfg 4 2) / 1000)
    (max 0 (min 256 ((d0 : Int) + ((target : Int) - (d0 : Int)) * (min j big : Nat) / (big : Int)))).toNat
  match r.profile, r.phase with
  | 1, .a => some d0
  | 1, .b => some (ramp d1 (phaseMs r.t2))
  | 2, .a => some (ramp 256 (phaseMs r.t1))
  | 4, .a => some (ramp d1 (phaseMs r.t1))
  | _, _ => none

/-- The chop period in reference ticks (R141). -/
def Inr.chopPeriod (r : Inr) : Nat := 48000000 / chopRate (fld r.cfg 4 2)

/-- On-time of a chop period in reference ticks (R142). -/
def Inr.onTime (r : Inr) (d : Nat) : Nat := r.chopPeriod * d / 256

/-- A chop period begins on every member (R144, R151): one in which regulation goes on counts in CLPER. -/
def Mach.beginChop (l : Nat) (m : Mach) : Mach :=
  forList (m.members l) (fun k m =>
    (m.modCh k fun c => { c with inr := { c.inr with clSeen := false } }).countChop k (m.ch k).prot.clReg) m

/-- The edges of a chop period (R141): it opens with a turn-on edge unless its on-time is 0, and its on-time ends with
a turn-off edge unless the duty code is 256. -/
def Mach.chop (l : Nat) (opens : Bool) (m : Mach) : Mach :=
  let r := (m.ch l).inr
  if m.st l != .inrush then m
  else if opens then
    match r.dutyCode (r.chopJ + 1) with
    | some d =>
      let m := (m.beginChop l).modCh l fun c => { c with inr := { c.inr with chopJ := c.inr.chopJ + 1, chopRun := true } }
      if r.onTime d = 0 then m.gateOff .programmed l else m.gateOn l
    | none => m
  else
    match r.dutyCode r.chopJ with
    | some d => if r.chopJ = 0 || d = 256 then m else m.gateOff .programmed l
    | none => m

/-- A chop period starts, or its on-time ends (R141, R142). -/
def execChopPeriod (ch : Ch) (opens : Bool) (s : State) : Out := ctlLead ch (Mach.chop ch opens) s

/-! ## Phases (R140, R145, R146) -/

/-- Phase B begins (R140): LAMP ramps on, MOTOR is fully on. -/
def Mach.phaseB (l : Nat) (m : Mach) : Mach :=
  let m := m.modCh l fun c => { c with inr := { c.inr with phase := .b, phaseAt := m.now, chopJ := 0, chopRun := false } }
  let m := forList (m.members l) (fun k m => m.modCh k fun c => { c with inr := { c.inr with clSeen := c.prot.clReg } }) m
  if (m.ch l).inr.profile = 2 then m.gateOn l else m

/-- The time of the present phase has elapsed (R140): the next phase, or completion with CAUSE TIMER. In QUEUED the
timers stand (R146). -/
def Mach.phaseEnd (l : Nat) (m : Mach) : Mach :=
  let r := (m.ch l).inr
  if m.st l != .inrush then m
  else match r.phase with
    | .a => if r.profile = 1 || r.profile = 2 then m.phaseB l else m.completeInrush l 1
    | .b => m.completeInrush l 1
    | _ => m

/-- An inrush phase time elapses (R140). -/
def execInrushPhaseEnd (ch : Ch) (s : State) : Out := ctlLead ch (Mach.phaseEnd ch) s

/-- The I_END criterion of a sequence holds now (R140, R151): the sum of the members' estimates is below I_END in phase B of
MOTOR, at or above it in COIL; I_END = 0 disables it. -/
def Mach.currentEnds (m : Mach) (l : Nat) : Bool :=
  let r := (m.ch l).inr
  let iEnd := fld r.endw 0 8
  let sum := ((m.members l).map fun k => (m.ch k).prot.est).foldl (· + ·) 0
  iEnd != 0 && ((r.profile == 2 && r.phase == .b && decide (sum < iEnd)) ||
    (r.profile == 5 && r.phase == .a && decide (iEnd ≤ sum)))

/-- The I_END criterion has held for its time (R140). -/
def execInrushCurrentEnd (ch : Ch) (s : State) : Out :=
  ctlLead ch (fun m => if m.currentEnds ch then m.completeInrush ch 2 else m) s

/-- The margin V_END of a sequence in 10 mV (R140, R161): 0 counts as 0.1 V. -/
def Inr.vEnd (r : Inr) : Nat := 10 * max 1 (fld r.endw 8 8)

/-- OUTn has stayed within `gap` of VBB for 100 µs (R140): where V_END allows it, a CAPACITIVE sequence ends with CAUSE
VOLTAGE. -/
def execInrushVoltageEnd (ch : Ch) (gap : Nat) (s : State) : Out :=
  ctlLead ch (fun m =>
    let r := (m.ch ch).inr
    if r.profile == 3 && r.phase == .a && decide (gap ≤ r.vEnd) then m.completeInrush ch 3 else m) s

/-- Among queued heaters, the one whose sequence began first (R146). -/
def Mach.oldestQueued (m : Mach) : Option Nat :=
  (m.leaders.filter fun l => (m.ch l).st == .inrush && (m.ch l).inr.phase == .queued).foldl
    (fun best l => match best with
      | none => some l
      | some b => if (m.ch l).inr.order < (m.ch b).inr.order then some l else some b) none

/-- A serial heater is in phase A (R146). -/
def Mach.heaterInA (m : Mach) : Bool :=
  m.leaders.any fun l => let c := m.ch l
    c.st == .inrush && c.inr.profile == 4 && bit c.inr.cfg 6 && c.inr.phase == .a

/-- The oldest queued HEATER sequence starts phase A once no serial heater is in it (R146). -/
def execHeaterQueueRelease (s : State) : Out :=
  .next (s.ctl fun m =>
    if m.heaterInA then m
    else match m.oldestQueued with
      | some l => m.modCh l fun c => { c with inr := { c.inr with phase := .a, phaseAt := m.now } }
      | none => m)

/-! ## Retry (R153 to R160) -/

/-- The wait has elapsed (R154). The undervoltage wait of R123 has no due time; a shut gate or a device-level hold
keeps the channel waiting. -/
def Mach.retryDue (l : Nat) (m : Mach) : Mach :=
  let c := m.ch l
  if c.st == .retryWait && c.rty.cause != 0xA then
    let m := m.modCh l fun c => { c with rty := { c.rty with elapsed := true } }
    if m.gateOpen l && !m.held? l then m.runRetry l else m
  else m

/-- The retry wait has elapsed and any thermal gate is open (R154). -/
def execRetryDue (ch : Ch) (s : State) : Out := ctlLead ch (Mach.retryDue ch) s

/-- The refill timer of a BUDGETED channel expires: one token; the timer restarts until the bucket is full (R156). -/
def execBucketRefill (ch : Ch) (s : State) : Out :=
  ctlLead ch (fun m =>
    let r := (m.ch ch).rty
    if m.policy ch = 4 && r.refill && m.bktRate ch != 0 && r.tokens < m.bktCap ch then
      m.modCh ch fun c => { c with rty := { c.rty with tokens := c.rty.tokens + 1, refillAt := m.now,
                                                       refill := decide (c.rty.tokens + 1 < m.bktCap ch) } }
    else m) s

/-- The good-run time passes without a fault (R157): COUNT clears, and the code with its FLTN request on every member
when the leader still holds the code of the fault that led to the retry. FLT_TIME stays; in a group it clears on every member
(R96). -/
def Mach.goodRun (l : Nat) (m : Mach) : Mach :=
  let c := m.ch l
  if c.st.steady && c.rty.goodRun then
    let still := c.rty.cause != 0 && c.flt.code == c.rty.cause && c.flt.detail == c.rty.causeDet
    let m := if !still then m else if (m.members l).length = 1 then m.clearCode l else m.clearFault l
    m.modCh l fun c => { c with rty := { c.rty with count := 0, goodRun := false, cause := 0, causeDet := 0 } }
  else m

/-- The good-run time has passed (R157). -/
def execGoodRun (ch : Ch) (s : State) : Out := ctlLead ch (Mach.goodRun ch) s

/-- COUNT clears (R160). -/
def Mach.cmdCountClear (l : Nat) (m : Mach) : Mach := m.modCh l fun c => { c with rty := { c.rty with count := 0 } }

/-- TOKENS takes the capacity and the refill timer stops (R160). -/
def Mach.cmdBucketFill (l : Nat) (m : Mach) : Mach :=
  m.modCh l fun c => { c with rty := { c.rty with tokens := m.bktCap l, refill := false } }

/-- 0x5201 to CHn.RTY_CMD (R160). -/
def execRetryCountClear (ch : Ch) (s : State) : Out := ctlLead ch (Mach.cmdCountClear ch) s
/-- 0x5202 to CHn.RTY_CMD (R160). -/
def execBucketFill (ch : Ch) (s : State) : Out := ctlLead ch (Mach.cmdBucketFill ch) s
/-- 0x5203 to CHn.RTY_CMD (R160). -/
def execRetryCountClearFill (ch : Ch) (s : State) : Out :=
  ctlLead ch (fun m => (m.cmdCountClear ch).cmdBucketFill ch) s

end Sys2Proof.Machine
end

