-- ==== Sys2Proof/Machine/Measure.lean ====
section
/-! DEFINITION. Measurement, energy and the power feed (R163 to R175) and the commands of CHn.MEAS_CMD (R185). -/

namespace Sys2Proof.Machine

/-- Change the measurement words of channel `n`. -/
def Mach.modMeas (n : Nat) (f : Meas → Meas) (m : Mach) : Mach := m.modCh n fun c => { c with meas := f c.meas }

/-- The off-state pull-up of channel `n` is connected (R120). -/
def Mach.pullup (m : Mach) (n : Nat) : Bool :=
  m.offDiag n && bit (m.lw n 0x14) 8 && !(m.ch n).prot.check

/-- The low drain–source range is in use (R164): the last sample in 50 µV within ±1.5 V. -/
def Chan.lowRange (c : Chan) : Bool :=
  c.stage.gateOn && c.stage.edge.isNone && !c.stage.clamp &&
  decide (-30000 ≤ c.meas.vdsUv) && decide (c.meas.vdsUv ≤ 30000)

/-- The temperature in °C that corrects the current gain of channel `n` (R167): its bank's die diode, or the baseplate NTC
while that diode is failed or in MODEL_DIVERGE. -/
def Mach.gainTemp (m : Mach) (n : Nat) : Rat :=
  (m.sensor (if (m.sensor (n / 4)).bad then 6 else n / 4)).temp

/-- A converter's reading with its factory gain and offset, the current's corrected for temperature; as it is when the FT
trim words are unusable (R167). -/
def Mach.trimmed (m : Mach) (conv n : Nat) (raw : Int) : Int :=
  if m.region 0 != 2 then raw
  else
    let heat := if conv = 0 then Config.gainAtTemp n (m.gainTemp n) else 1
    inUnits ((raw : Rat) * Config.convTrim conv n 0 * heat + Config.convTrim conv n 1)

/-- The nulled current reading (R168): the offset integrator is taken off. A reading saturated before that reports
±32 000 codes (R171). -/
def Meas.nulled (q : Meas) (x : Int) : Int :=
  if x ≤ -32000 then -32000 else if 32000 ≤ x then 32000 else iClamp (inUnits ((x : Rat) - q.offset))

/-- The offset integrator after one sample (R168): a 1 s time constant at 48 kS/s, bounded at ±50 mA. -/
def Meas.integrate (q : Meas) (raw : Int) : Rat :=
  max (-10) (min 10 (q.offset + ((raw : Rat) - q.offset) / 48000))

/-- A sample saturates (R163, R171). -/
def iSat (i : Int) : Bool := decide (i ≤ -32000) || decide (32000 ≤ i)

/-- The drain–source sample in its range: the code, and whether it saturated (R163, R164). -/
def vdsCode (low : Bool) (uv : Int) : Int × Bool :=
  let code := if low then uv else inUnits ((uv : Rat) / 50)
  let c := max (-32768) (min 32767 code)
  (c, decide (c ≠ code))

/-- One grid sample of one channel (R170, R171): its words, the waiting edges' currents, the window flags. -/
def Mach.sampleCh (n : Nat) (iIn vdsIn : Int) (m : Mach) : Mach :=
  let c := m.ch n
  let q := c.meas
  let raw := m.trimmed 0 n iIn
  let vds := m.trimmed 2 n vdsIn
  let i := q.nulled raw
  let low := c.lowRange
  let (v, vsat) := vdsCode low vds
  let hist := (i :: q.hist).take 1024
  let avg := hist.take (2 ^ min 10 (fld (m.lw n 0x3E) 0 4))
  let null := !c.stage.gateOn && c.stage.edge.isNone && decide (q.offAt + 48000 ≤ m.now) && !m.pullup n
  m.modMeas n fun q =>
    { q with i := i, hist := hist, iAvg := inUnits ((avg.foldl (· + ·) 0 : Int) / (avg.length : Rat)),
             iPeak := max q.iPeak i.natAbs, vds := v, vdsUv := vds, vdsRng := !low,
             iOvr := q.iOvr || iSat i, vOvr := q.vOvr || vsat, stale := false, stopped := false,
             offset := if null then q.integrate raw else q.offset,
             iWin := (q.iWin ++ [i]).drop (q.iWin.length - 3),
             winBad := q.winBad || q.stopped || iSat i || vsat,
             heats := q.heats.map fun h => if h.i.isNone && h.till.isSome then { h with i := some i } else h }

/-- The output-voltage sample of one channel closes the interval of the last four current samples (R163, R174): the
product is added to the energy residue, in 1/960 000 mJ, unless it is negative. -/
def Mach.sampleVout (n : Nat) (vIn : Int) (m : Mach) : Mach :=
  let raw := m.trimmed 1 n vIn
  let v := max (-8192) (min 8191 raw)
  let en := bit (m.lw n 0x3E) 4
  m.modMeas n fun q =>
    let prod : Int := v * q.iWin.foldl (· + ·) 0
    let res := q.eRes + (if en && q.iWin.length == 4 then prod.toNat else 0)
    { q with vout := v, vOvr := q.vOvr || decide (v ≠ raw), iWin := [], eRes := res % 960000,
             energy := q.energy + BitVec.ofNat 48 (res / 960000) }

/-- The bus measurement (R445, R462): PWR.VBB, its extremes and the report thresholds. -/
def Mach.sampleVbb (vbb : Nat) (m : Mach) : Mach :=
  let v := min 0xFFFF vbb
  let w := m.cfg 0x0208
  let lo := decide (v < 50 * clampNat 16 124 (fld w 0 8))
  let hi := decide (v > 50 * clampNat 16 124 (fld w 8 8))
  let bits := flag (lo && !m.pwr.vbbWl) 3 + flag (hi && !m.pwr.vbbWh) 4
  let m := { m with pwr := { m.pwr with vbb := v, vbbMin := min m.pwr.vbbMin v, vbbMax := max m.pwr.vbbMax v,
                                        vbbWl := lo, vbbWh := hi } }
  if bits = 0 then m else m.event 0x02 (wd bits)

/-- The sample of a group's leader for its capture: the sum of the members' samples (R178). -/
def Mach.groupI (m : Mach) (n : Nat) : Int := ((m.members n).map fun k => (m.ch k).meas.i).foldl (· + ·) 0

/-- A grid sample is that of every MEAS_SNAP fetched before it that has none yet (R338). -/
def Mach.takeSnaps (m : Mach) : Mach :=
  let due := m.rings.infl.filter fun i =>
    i.opcode == 0x51 && (m.inFlight i.tag).isSome && !m.rings.snaps.any fun x => x.tag == i.tag
  let is := (List.range 24).map fun n => (m.ch n).meas.i
  { m with rings := { m.rings with snaps := m.rings.snaps ++ due.map fun i => ⟨i.tag, is, m.time⟩ } }

/-- A converter sample completes on the 48 kS/s grid (R163, R170); the converters stand while REFCLK is absent. -/
def sampleAll (x : Sample) (s : State) : State :=
  if !s.m.clk.refOk then s
  else
    let s := s.on fun m =>
      let m := m.sampleVbb x.vbb
      let m := forList m.allCh (fun n m => m.sampleCh n (nth x.i n 0) (nth x.vds n 0)) m
      let m := if x.vout.isEmpty then m else forList m.allCh (fun n m => m.sampleVout n (nth x.vout n 0)) m
      m.takeSnaps
    forList s.m.leaders (fun n s => s.sigSample n (s.m.groupI n)) s

/-- CONVERTER_SAMPLE (R170). -/
def execConverterSample (x : Sample) (s : State) : Out := guardWf (.converterSample x) (.next (sampleAll x s))

/-- Product sample `k`, of the ticks from 64 k to 64 k + 64, overlaps an edge interval (R172). -/
def Meas.inEdge (q : Meas) (now k : Nat) : Bool :=
  q.heats.any fun h => decide (64 * k < h.till.getD now) && decide (h.edge.start < 64 * (k + 1))

/-- The conduction energy of the window that ends now, in nJ (R172): its 750 kS/s product samples in mW, oldest first,
without those that overlap an edge interval. -/
def Meas.conduction (q : Meas) (now : Nat) (prods : List Int) : Rat :=
  (4 / 3 : Rat) *
    ((prods.zipIdx ((now - 6000) / 64)).foldl (fun sum p => if q.inEdge now p.2 then sum else sum + p.1) 0 : Int)

/-- The energy in µJ of the edges that start in the present window (R172); `iOpen` is the current of a turn-on edge whose
first sample is still to come. -/
def Meas.edgeHeat (q : Meas) (iOpen : Int) : Rat :=
  ((q.heats.filter fun h => !h.fed).map fun h => edgeEnergy h.vbb (h.i.getD iOpen) h.edge).foldl (· + ·) 0

/-- The power-feed entry of one channel (R172, R173): the energies of the window over 125 µs, in mW; a negative sum counts
as 0. The current of a turn-on edge that no sample has followed yet is open (log entry 75). -/
def Mach.feedCh (n : Nat) (prods : List Int) (m : Mach) : Mach :=
  let q := (m.ch n).meas
  let heat := q.edgeHeat ((m.freeVal % 64001 : Nat) - 32000)
  let mw : Nat := (inUnits (q.conduction m.now prods / 125 + 8 * heat)).toNat
  let valid := !(q.winBad || q.stopped || m.region 0 != 2)
  let m := if q.heats.any fun h => !h.fed && h.i.isNone then m.nextFree else m
  m.modCh n fun c =>
    { c with meas := { c.meas with pdiss := min 0xFFFF (inUnits ((mw : Rat) / 10)).toNat, pfInv := !valid,
                                   winBad := c.meas.stopped,
                                   heats := (c.meas.heats.filter fun h => h.till.isNone).map ({ · with fed := true }) },
             thm := { c.thm with fresh := some (mw, valid) } }

/-- POWER_FEED_DELIVERY (R173): one entry per channel at the end of a 125 µs window, while the converters run; from each
channel's product samples of the window. -/
def execPowerFeedDelivery (prods : List (List Int)) (s : State) : Out :=
  guardWf (.powerFeedDelivery prods) (.next (s.on fun m =>
    if m.clk.refOk then forList m.allCh (fun n m => m.feedCh n (nth prods n [])) m else m))

/-! ## CHn.MEAS_CMD (R175, R185) -/

/-- CLR_PEAK clears I_PEAK, I_OVR, V_OVR, E_GAP and ENV_ERR. -/
def Mach.cmdClrPeak (n : Nat) (m : Mach) : Mach :=
  m.modCh n fun c => { c with meas := { c.meas with iPeak := 0, iOvr := false, vOvr := false, eGap := false },
                              sig := { c.sig with envErr := false } }

/-- CLR_E clears the energy count and its residue. -/
def Mach.cmdClrE (n : Nat) (m : Mach) : Mach := m.modMeas n fun q => { q with energy := 0, eRes := 0 }

/-- CLR_SIG clears CHn.SIG_CNT and CHn.SIG_FCNT. -/
def Mach.cmdClrSig (n : Nat) (m : Mach) : Mach := m.modSig n fun g => { g with cnt := 0, fcnt := 0 }

/-- MEAS_CMD CLR_PEAK with key 0x4D (R185). -/
def execClrPeak (ch : Ch) (s : State) : Out := .next (s.on fun m => if ch < m.nch then m.cmdClrPeak ch else m)
/-- The count of a channel cleared together with an increment: the increment stays in the residue (R175). -/
def Meas.intoResidue (q : Meas) : Meas := { q with energy := 0, eRes := q.eRes + 960000 * q.energy.toNat }

/-- MEAS_CMD CLR_E with key 0x4D (R175), alone or in the step of a converter sample. -/
def execClrE (ch : Ch) (x : Option Sample) (s : State) : Out :=
  guardWf (.clrE ch x) (
    let s := s.on fun m => if ch < m.nch then m.cmdClrE ch else m
    .next (match x with
      | some x => (sampleAll x s).on fun m => if ch < m.nch then m.modMeas ch Meas.intoResidue else m
      | none => s))
/-- MEAS_CMD CLR_SIG with key 0x4D (R185). -/
def execClrSig (ch : Ch) (s : State) : Out := .next (s.on fun m => if ch < m.nch then m.cmdClrSig ch else m)

end Sys2Proof.Machine
end

