-- ==== Sys2Proof/Machine/Pwm.lean ====
section
/-! DEFINITION. The events of the timebases, compare units and delay line (R187 to R214), the course of cuts (R231 to
R234, R124), and the interleave rebalance (R238). -/

namespace Sys2Proof.Machine

/-! ## Cuts (R231, R233, R234, R124) -/

/-- The output can be cut (R233): an internal one in PWM or HOLD, an enabled external one. -/
def Mach.cuttable (m : Mach) (o : Nat) : Bool := if o < 24 then (m.st o).follows else m.outEnabled o

/-- Hold an output off for the rest of its period (R233): for its timebase's, or its limp generator's (R292). -/
def Mach.holdCut (o : Nat) (m : Mach) : Mach :=
  if o < 24 then m.holdCutCh o
  else
    let on := m.followsPwm o && (m.out o).drive && !(m.out o).cut
    m.modOut o fun u => { u with cut := true, blank := u.blank || (on && m.blankTicks o != 0) }

/-- A cut begins in the present period (R233): counted once. -/
def Mach.countCut (o : Nat) (m : Mach) : Mach :=
  if o < 24 then m.countCutCh o
  else if (m.out o).hadCut then m
  else (m.modOut o fun u => { u with hadCut := true }).event 0x07 (wd (2 ^ (o - 24)))

/-- An acting source cuts output `o` (R233); both outputs of an INVERT pair are held off (R234). -/
def Mach.cutOut (o : Nat) (m : Mach) : Mach :=
  if o < 24 then m.cutCh o
  else if m.cuttable o then
    let m := m.holdCut o
    let other := if o % 2 = 0 then o + 1 else o - 1
    let m := if m.inverts (o / 2) && m.cuttable other then m.holdCut other else m
    m.countCut o
  else m

/-- A source acts on output `o` unless its blanking window is open (R232). -/
def Mach.actCut (o : Nat) (m : Mach) : Mach :=
  if m.sourceActs o then m.cutOut o else m

/-! ## Zeros (R188 to R191, R196, R200, R208, R210 to R213, R223, R233, R239) -/

/-- The next state of the 16-bit LFSR of polynomial x^16 + x^14 + x^13 + x^11 + 1 (R239; log entry 16). -/
def lfsrNext (l : BitVec 16) : BitVec 16 :=
  let b := l ^^^ (l >>> 2) ^^^ (l >>> 3) ^^^ (l >>> 5)
  (l >>> 1) ||| (b <<< 15)

/-- The dithered period (R239): PER / (1 + AMP / 128 × (L − 32 768) / 32 768), rounded. -/
def ditherPeriod (per amp : Nat) (l : BitVec 16) : Nat :=
  let u : Rat := ((l.toNat : Rat) - 32768) / 32768
  (roundHalfUp ((per : Rat) / (1 + (amp : Rat) / 128 * u))).toNat

/-- The period in force for the period that starts at this zero (R239, R241). -/
def Mach.ditherStep (k : Nat) (m : Mach) : Mach :=
  let amp := (m.dither k).1
  let t := m.tb k
  if amp = 0 || m.dev.frz || t.ulk then m.modTb k fun t => { t with perAct := t.perBase }
  else
    let l := lfsrNext t.lfsr
    m.modTb k fun t => { t with lfsr := l, perAct := ditherPeriod t.perBase amp l }

/-- The period that ends is judged (R124, R200): a rising edge without a cut resets the escalation count; a whole period
without a clamp after a load ends INCONS. -/
def Mach.endPeriod (o : Nat) (m : Mach) : Mach :=
  let u := m.out o
  let m := if o < 24 && m.pwmRules o && u.hadRise && !u.hadCut then m.modCh o fun c => { c with prot := { c.prot with escCnt := 0 } }
           else m
  m.modOut o fun u =>
    { u with incons := u.incons && !(u.loaded && u.whole && !u.clampRun), hadRise := false, hadCut := false, cut := false,
             drive := u.drive && !(24 ≤ o && u.cut), clampRun := false, whole := true }

/-- Output `o` at a zero or half-period point: what it awaits loads. `all` loads what is pending whenever it came, `unheld`
what the update lock held as well. -/
def Mach.loadAt (o : Nat) (all unheld zero : Bool) (m : Mach) : Mach :=
  let u := m.out o
  let due := unheld ||
    (!u.held && (all || ((zero || (m.tbSel o).2 == 1) && (u.pendNow || m.sampled u.pendAt))))
  let m := if due then m.loadCmp o else m
  if unheld then m.loadHeldSlot o
  else if zero && (all || u.slotNow || m.sampled u.slotAt) then m.loadSlot o else m

/-- An external output is blocked by dither (R242): event DITH_BLK when the bit changes to 1. -/
def Mach.judgeDith (o : Nat) (m : Mach) : Mach :=
  let blk := decide (24 ≤ o) && m.dev.part.isX && bit (m.outCfg o) 8 && (m.dither (m.tbSel o).1).1 != 0
  let was := (m.out o).dithBlk
  let m := m.modOut o fun u => { u with dithBlk := blk }
  if blk && !was then m.event 0x07 0x0200 else m

/-- SWAP and ASWP of pair `k` come into effect with these values. A change of the effective swap ends a cut of either
output (R233), disarms the tach inputs that name the pair (R227), and may move the odd output between timebases (R221,
R242). -/
def Mach.setSwap (k : Nat) (sw asw : Bool) (m : Mach) : Mach :=
  let eff := sw != asw
  let changed := eff != (m.pair k).eff
  let m := m.modPair k fun q => { q with eff := eff, swapIn := sw, aswpIn := asw }
  if changed then
    let m := forList (List.range 4) (fun i m => if m.tachPair i = k then m.tachDisarm i else m) m
    forList [2 * k, 2 * k + 1] (fun o m => (m.modOut o fun u => { u with cut := false }).judgeDith o) m
  else m

/-- The swap of pair `k` at a zero of its timebase (R223, R229): a change of SWAP and one of ASWP each take effect when
their own time has come; a requested clear of ASWP ends the SWAPPED of the input that swapped the pair. -/
def Mach.swapAtZero (k : Nat) (all : Bool) (m : Mach) : Mach :=
  let p := m.pair k
  let sw := if all || p.pendNow || m.sampled p.swapAt then bit (m.pairWord k) 2 else p.swapIn
  let due := all || m.sampled p.aswpAt
  let m := if due && p.clrReq then
      let m := m.modPair k fun q => { q with aswp := false, clrReq := false }
      forList (List.range 4) (fun i m =>
        if (m.tach i).swapOf = k then m.modTach i fun t => { t with swapped := false } else m) m
    else m
  (m.modPair k fun q => { q with pendNow := false }).setSwap k sw (if due then (m.pair k).aswp else p.aswpIn)

/-- The zero of timebase `k`. What was sampled loads; at a start (`all`) everything that awaits a zero does, and at the
common restart or the end of an update-lock hold (`unheld`) what the lock held too. -/
def Mach.zeroCore (k : Nat) (all unheld : Bool) (m : Mach) : Mach :=
  let us := m.unitsOn k
  let m := forList us Mach.endPeriod m
  let t := m.tb k
  let unheld := unheld || (t.ulk && t.ulkEnd && (all || t.pendNow || m.sampled t.ulkEndAt))
  let m := if unheld then m.modTb k fun t => { t with ulk := false, ulkEnd := false, ulkZeros := 0, ulkWait := 0 } else m
  let m := if unheld || (!(m.tb k).ulk && (all || t.pendNow || m.sampled t.pendAt)) then m.loadPer k else m
  let m := (m.ditherStep k).modTb k fun t =>
    -- the zero at which a hold begins is none of those it lasts
    let zeros := if !t.ulk || (t.pendNow && t.ulkZeros = 0) then 0 else t.ulkZeros + 1
    { t with zeroAt := m.now, pendNow := false, ulkZeros := zeros }
  let m := forList us (fun o m => m.loadAt o all unheld true) m
  let pairs := (List.range 16).filter fun p => (m.tbSel (2 * p)).1 == k
  let m := forList pairs (fun p m => m.swapAtZero p (all || unheld)) m
  let m := forList pairs (fun p m => m.modPair p fun q => { q with dtSup := false }) m
  -- a swap may have brought an odd unit to this timebase, or sent it back to its own
  let here := m.unitsOn k
  let touched := m.units.filter fun o => us.contains o || here.contains o
  let m := forList here (fun o m =>
    (m.modOut o fun u => { u with minpw := false, whole := true }).judgeClamp o) m
  let m := forList touched Mach.setUnit m
  let m := m.deliver k 0
  let m := forList touched (fun o m => (m.drivePair o).joinCmp o) m
  forList touched Mach.actCut m

/-- The compare units of timebase `k` go off, and what awaits a zero loads, an update-lock hold included (R190). -/
def Mach.stopTb (k : Nat) (m : Mach) : Mach :=
  let m := m.modTb k fun t => { t with running := false, stopping := false, stopNext := false, ulk := false, ulkEnd := false, ulkZeros := 0,
                                       ulkWait := 0 }
  let us := m.unitsOn k
  let m := m.loadPer k
  let m := forList us (fun o m =>
    ((((m.endPeriod o).loadCmp o).loadHeldSlot o).judgeClamp o).modOut o fun u => { u with whole := false }) m
  let m := forList ((List.range 16).filter fun p => (m.tbSel (2 * p)).1 == k) (fun p m => m.swapAtZero p true) m
  forList us Mach.drivePair (forList us Mach.setUnit m)

/-- A timebase counter reaches a zero (R188): the first after a start (R189), the next of a running timebase, or the end
of its last period (R190). -/
def Mach.tbZero (k : Nat) (m : Mach) : Mach :=
  let t := m.tb k
  if !m.clk.refOk || t.halt.isSome then m
  else if t.startReq then
    (m.modTb k fun t =>
      { t with running := true, stopping := false, stopNext := false, startReq := false, restarted := false, pcnt := 0,
               lfsr := BitVec.ofNat 16 (0xACE1 + k) }).zeroCore k true false
  else if !t.running then m
  else if t.stopping && !t.stopNext then m.stopTb k
  else (m.modTb k fun t => { t with pcnt := t.pcnt + 1, stopNext := false }).zeroCore k false false

/-- TB_ZERO (R188). -/
def execTbZero (k : Tb) (s : State) : Out := .next (s.ctl (Mach.tbZero k))

/-- The half-period point, where ZERO_MID compares load (R188, R196). -/
def execTbHalfPeriod (k : Tb) (s : State) : Out :=
  .next (s.ctl fun m =>
    if m.clk.refOk && (m.tb k).counting then
      let us := m.unitsOn k
      let m := forList us (fun o m => if (m.out o).pend.isSome then (m.loadAt o false false false).judgeClamp o else m) m
      forList us Mach.drivePair (forList us Mach.setUnit m)
    else m)

/-- The last count of a period (R208). -/
def execTbPeriodEvent (k : Tb) (s : State) : Out :=
  .next (s.ctl fun m => if m.clk.refOk && (m.tb k).counting then m.deliver k 1 else m)

/-- The count reaches a compare, or a delayed edge of an INVERT pair falls due (R197, R199, R222). -/
def execCompareEdge (o : OutIx) (s : State) : Out :=
  .next (s.ctl fun m =>
    if m.clk.refOk && (m.tb (m.tbSel o).1).counting && m.units.contains o.val then ((m.setUnit o).drivePair o).joinCmp o else m)

/-- A timebase whose RUN was cleared reaches the end of its period (R190). -/
def execTbStop (k : Tb) (s : State) : Out :=
  .next (s.ctl fun m => if m.clk.refOk && (m.tb k).counting && (m.tb k).stopping && !(m.tb k).stopNext then m.stopTb k else m)

/-- An update-lock hold has lasted ULOCK_TMO zeros with the zero that falls now (R213): it ends at this zero, whose
TB_ZERO follows, and ULK_TMO is set. -/
def execUlockTimeout (k : Tb) (s : State) : Out :=
  .next (s.ctl fun m =>
    let t := m.tb k
    let tmo := (m.cfg (tbBase k + 5)).toNat
    if t.ulk && t.counting && !t.pendNow && tmo != 0 && tmo ≤ t.ulkZeros + 1 then
      (m.modTb k fun t => { t with ulkEnd := true, pendNow := true }).event 0x06 0x0100
    else m)

/-- Every timebase whose RUN is 1 restarts at one common zero, with VALID set (R214): counts from 0, period counts on by
one, everything held or pending loads. -/
def execTbRestart (s : State) : Out :=
  .next (s.ctl fun m =>
    if m.clk.refOk && m.dl.valid then
      let ks := (List.range 8).filter fun k => m.tbRun k && (m.tb k).halt.isSome
      let m := forList ((List.range 8).filter fun k => !m.tbRun k && (m.tb k).halt.isSome)
        (fun k m => (m.modTb k fun t => { t with halt := none }).stopTb k) m
      let m := forList ks (fun k m =>
        (m.modTb k fun t => { t with halt := none, running := true, stopping := false, stopNext := false, startReq := false,
                                     restarted := true, pcnt := t.pcnt + 1,
                                     lfsr := BitVec.ofNat 16 (0xACE1 + k) }).zeroCore k true true) m
      if ks.isEmpty then m else m.event 0x06 0x0800
    else m)

/-! ## The delay line (R203 to R206) -/

/-- A measurement of the replica line: E in 1/16 element. It pauses while HOLD holds a valid result (R206) and during a
full recalibration (R207). -/
def execDlMeasure (elem16 : BitVec 16) (s : State) : Out :=
  .next (s.ctl fun m =>
    if !m.clk.refOk || m.dl.busy || (m.dl.valid && bit (m.cfg 0x0608) 0) then m
    else
      let e := elem16.toNat
      let warn := m.dl.lastAt.isSome && (decide (m.dl.elem + 32 < e) || decide (e + 32 < m.dl.elem))
      let m' := { m with dl := { m.dl with valid := true, slew := warn, elem := e, lastAt := some m.now } }
      let m' := forList m'.units Mach.takeElems m'
      let m' := if m.dl.valid then m' else m'.event 0x06 0x0400
      if warn then m'.event 0x06 0x0200 else m')

/-! ## Trips and blanking (R231 to R233) -/

/-- Bring the cut sources to bear on every output of the part. -/
def Mach.actCuts (m : Mach) : Mach := forList m.units Mach.actCut m

/-- A TRIP input is at a level, high for its filter time where `filtered` says so (R231): with EN it is then asserted and
cuts the outputs mapped to it. Without VDD the terminal is ignored (R443). -/
def execTripInputAssert (j : Fin 4) (high filtered : Bool) (s : State) : Out :=
  .next (s.ctl fun m =>
    if !m.pwr.vddOk || !m.clk.refOk then m
    else
      let filt := high && (filtered || m.trips[j].filt)
      let on := filt && bit (m.cfg (adr 0x08 (0x08 + j))) 8
      let was := m.trips[j].asserted
      let m := { m with trips := m.trips.set j ⟨high, filt, on⟩ }
      if on && !was then (m.event 0x08 (wd (2 ^ j.val))).actCuts else m)

/-- A cycle-limit comparator has been above its threshold for CLFILT ticks, or falls below it (R231): code 0 disables
it. -/
def execCycleLimitAssert (ch : Ch) (above : Bool) (s : State) : Out :=
  ctlCh ch (fun m =>
    let code := fld (m.cfg (adr 0x08 (0x18 + ch.val / 2))) (8 * (ch.val % 2)) 8
    let m := m.modProt ch fun p => { p with clim := above && code != 0 }
    m.actCut (m.leader ch)) s

/-- The blanking window of an output closes (R232): a source still active acts. -/
def execBlankingEnd (o : OutIx) (s : State) : Out :=
  .next (s.ctl fun m => if m.allOuts.contains o.val then (m.modOut o fun u => { u with blank := false }).actCut o else m)

/-! ## Pairs and interleaving (R229, R238) -/

/-- 0xA501 to a pair command (R229, R245): ASWP clears at the first zero whose sampling edge follows. -/
def Mach.cmdAswpClear (k : Nat) (m : Mach) : Mach :=
  if (m.pair k).aswp && !(m.pair k).clrReq then m.modPair k fun q => { q with clrReq := true, aswpAt := m.now } else m

/-- 0xA501 to CHn.PAIR_CMD of the even page or to XPWM.PAIR_CMD. -/
def execAswpClear (pair : Fin 16) (s : State) : Out :=
  .next (s.ctl fun m => if m.allOuts.contains (2 * pair.val) then m.cmdAswpClear pair else m)

/-- Every 1 s each timebase is placed again; the result loads when it lowers the total overlap by at least 10 %
(R238). -/
def Mach.rebalance (k : Nat) (m : Mach) : Mach :=
  let us := m.unitsOn k
  let per := (m.tb k).perBase
  let shape (o : Nat) : Shape := (pulseShape (m.out o).rise (m.out o).fall per (m.fineOn (m.tb k).presc)).1
  let arcs := m.ilvArcs us per m.ilvWeight shape
  let slots := m.placeSlots us per m.ilvWeight shape
  let now := totalOverlap per (arcs.map fun a => { a with arc := shiftArc per (m.out a.o).slot a.arc })
  let new := totalOverlap per (arcs.map fun a =>
    { a with arc := shiftArc per (((slots.find? fun p => p.1 == a.o).map (·.2)).getD 0) a.arc })
  if 0 < now && new * 10 ≤ now * 9 then
    forList slots (fun p m => m.modOut p.1 fun u => { u with slotPend := some p.2, slotAt := m.now, slotNow := false }) m
  else m

/-- ILV_REBALANCE (R238): suspended without REFCLK and during FROZEN. Slots an update-lock hold keeps stay held. -/
def execIlvRebalance (s : State) : Out :=
  .next (s.ctl fun m =>
    if !m.clk.refOk || m.dev.frz then m
    else forList (List.range 8) (fun k m => if (m.tb k).counting then m.rebalance k else m) m)

end Sys2Proof.Machine
end

