-- ==== Sys2Proof/Machine/Tach.lean ====
section
/-! DEFINITION. The tach inputs (R226 to R230) and the protection-estimate update (R103, R112, R116, R117, R144,
R236). -/

namespace Sys2Proof.Machine

/-! ## Tach -/

/-- A debounced level change (R226): a qualifying edge gives the period, speed and SLOW anew. Without VDD the terminal is
ignored (R443), without REFCLK capture stands (R230). -/
def execTachEdge (i : Fin 4) (rising : Bool) (s : State) : Out :=
  .next (s.ctl fun m =>
    let c := m.tachWord i 0
    if !m.dev.part.isX || !bit c 0 || !m.clk.refOk || !m.pwr.vddOk then m
    else
      let m := m.modTach i fun t => { t with level := rising }
      let q := match fld c 1 2 with
        | 1 => !rising
        | 2 => true
        | _ => rising
      if !q then m
      else
        let m := m.modTach i fun t =>
          match t.last with
          | some a => { t with per := BitVec.ofNat 32 (min 0xFFFFFFFF (m.now - a)), hasPer := true, last := some m.now }
          | none => { t with last := some m.now }
        m.judgeSlow i)

/-- The arming condition has held for ARM × 100 ms (R227). -/
def execTachArmed (i : Fin 4) (s : State) : Out :=
  .next (s.ctl fun m =>
    if m.dev.part.isX && m.tachReady i then (m.modTach i fun t => { t with armed := true }).judgeSlow i else m)

/-- The elapsed count drives RPM below TACHi.MIN (R228). -/
def execTachSlow (i : Fin 4) (s : State) : Out :=
  .next (s.ctl fun m =>
    if (m.tach i).armed && m.clk.refOk && decide (m.rpm i < (m.tachWord i 2).toNat) then m.setSlow i true else m)

/-- No edge, or SLOW, has persisted for TMO × 10 ms (R228): LOSS, and with action SWAP an automatic swap while ASWP is 0
(R229). -/
def execTachLoss (i : Fin 4) (s : State) : Out :=
  .next (s.ctl fun m =>
    let t := m.tach i
    if !t.armed || t.loss || !m.clk.refOk then m
    else
      let k := m.tachPair i
      let m := (m.modTach i fun t => { t with loss := true }).event 0x09 (wd (2 ^ i.val))
      if m.tachActs i && !(m.pair k).aswp then
        let m := m.modPair k fun q => { q with aswp := true, clrReq := false, aswpAt := m.now }
        let m := (m.modTach i fun t => { t with swapped := true, swapOf := k }).event 0x09 (wd (16 * 2 ^ i.val))
        if k < 12 then m.event (chPage (2 * k)) 0x0400 else m
      else m)

/-! ## The protection current estimate -/

/-- Level of the harness model, X / I_NOM² in 2^−12, whole units reached (R116); 0 while I_NOM is 0. -/
def Mach.i2tLevel (m : Mach) (n : Nat) : Nat :=
  let nom := fld (m.lw n 0x12) 0 9
  if nom = 0 then 0
  else min 0xFFFF ((m.ch n).prot.i2tX * 100 * 4096 / (nom * nom : Nat)).floor.toNat

/-- Time constant of the harness model in s (R116). -/
def Mach.i2tTau (m : Mach) (n : Nat) : Rat := (2 ^ min 11 (fld (m.lw n 0x13) 0 4) : Nat) / 2

/-- One update of one channel (R103, R112, R116, R236): `est` in 0.25 A, the mean square in (0.25 A)², over `dt` ns. The
energy of a running episode grows by estimate × `vds`, the drop the protection path measures (R16), in 10 mV; X follows
the mean square; the on-time mean for the interleave weight follows the estimate. -/
def Mach.estimateCh (n : Nat) (dt est msq vds : Nat) (m : Mach) : Mach :=
  let sec : Rat := (dt : Rat) / 1000000000
  let nom := fld (m.lw n 0x12) 0 9
  let tau := m.i2tTau n
  let m := m.modCh n fun c =>
    let vds : Rat := (vds : Rat) / 100
    let e := c.prot.epEnergy + (est : Rat) / 4 * vds * sec * 1000
    let x := c.prot.i2tX
    { c with prot := { c.prot with est := est,
                                   epEnergy := if c.prot.clReg then e else c.prot.epEnergy,
                                   eacc := if c.prot.clReg then e else c.prot.eacc,
                                   i2tX := if nom = 0 then x else x + ((msq : Rat) / 16 - x) * sec / tau } }
  let m := if (m.ch n).stage.gateOn then
      m.modOut n fun u => { u with weight := u.weight + ((est : Rat) - u.weight) * sec }
    else m
  let lvl := m.i2tLevel n
  if lvl ≥ 0x0CF6 then
    if (m.ch n).prot.i2tWarn then m
    else (m.modProt n fun p => { p with i2tWarn := true }).event (chPage n) 0x0002
  else if lvl < 0x0C00 then m.modProt n fun p => { p with i2tWarn := false }
  else m

/-- What an update detects on a conducting channel (R112, R117, R125): the energy limit, with DETAIL TIMEOUT where the
timeout is reached with it, before the harness trip, whose history bit it then sets. -/
def Mach.estimateTrip (n : Nat) (m : Mach) : Mach :=
  let p := (m.ch n).prot
  let i2t := fld (m.lw n 0x12) 0 9 != 0 && decide (0x1000 ≤ m.i2tLevel n)
  if p.clReg && decide (3000 < p.epEnergy) then
    let late := decide (48 * clTimeUs (m.ilimEff n).2 < m.now - p.epStart)
    m.turnOffFault n 0x2 (if late then 0 else 1) (if i2t then 0x0008 else 0)
  else if i2t then m.turnOffFault n 0x3 0 0
  else m

/-- PROT_ESTIMATE_UPDATE: every 32 LFOSC cycles (R103). -/
def Mach.estimate (dt : Nat) (est msq vds : List Nat) (m : Mach) : Mach :=
  if !m.clk.lfOk then m
  else
    let m := forList m.allCh (fun n m => m.estimateCh n dt (nth est n 0) (nth msq n 0) (nth vds n 0)) m
    let m := forList m.leaders Mach.countMs m
    forList (m.allCh.filter m.detects) Mach.estimateTrip m

/-- The protection current estimates and their mean squares update (R103). -/
def execProtEstimateUpdate (dtNs : Nat) (est msq vds : List Nat) (s : State) : Out :=
  guardWf (.protEstimateUpdate dtNs est msq vds) (.next (s.ctl (Mach.estimate dtNs est msq vds)))

end Sys2Proof.Machine
end

