-- ==== Sys2Proof/Machine/Network.lean ====
section
/-! DEFINITION. The thermal network, its correction against the sensors, and the predictions (R249 to R260). -/

namespace Sys2Proof.Machine

/-! ## Parameters (R250) -/

/-- The FT region supplies the factory values (R250, R400): SEALED. -/
def Mach.ftSealed (m : Mach) : Bool := m.region 0 == 2

/-- A factory parameter of a node: its trim, or the typical value where FT holds none (log entry 5). -/
def Mach.ftPar (m : Mach) (par node : Nat) (typ : Rat) : Rat := if m.ftSealed then Config.ftTrim par node else typ

/-- C_J in J/K, R_JD, R_L, C_D, R_DB and C_B. -/
def Mach.cJ (m : Mach) (n : Nat) : Rat := m.ftPar 0 n (1 / 125)
def Mach.rJD (m : Mach) (n : Nat) : Rat := m.ftPar 1 n (8 / 5)
def Mach.rL (m : Mach) (n : Nat) : Rat := m.ftPar 2 n 10
def Mach.cD (m : Mach) (b : Nat) : Rat := m.ftPar 3 b (1 / 4)
def Mach.rDB (m : Mach) (b : Nat) : Rat := m.ftPar 4 b 2
def Mach.cB (m : Mach) : Rat := m.ftPar 5 30 30

/-- The identified values are in use (R279). -/
def Mach.useId (m : Mach) : Bool := bit (m.thmCfg 0x08) 0 && m.thm.idValid
/-- R_BA in K/W and C_HS in J/K, as committed or as identified (R279, R281). -/
def Mach.rBA (m : Mach) : Rat := (max 1 (if m.useId then m.thm.idRba else m.thmCfg 0x12).toNat : Nat) / 1000
def Mach.cHS (m : Mach) : Rat := (if m.useId then m.thm.idChs else m.thmCfg 0x13).toNat
/-- T_AMB in °C. -/
def Mach.tAmb (m : Mach) : Rat := (((m.thmCfg 0x14).extractLsb' 0 8).toInt : Int)

/-! ## One forward step (R251) -/

/-- Node temperatures as a list: junctions 0 to 23, dies 24 to 29, baseplate 30. -/
abbrev Temps := Vector Rat 31

/-- Temperature of node `i`. -/
def Temps.get' (t : Temps) (i : Nat) : Rat := if h : i < 31 then t[i] else 0

/-- One step of `dt` seconds with channel `n` dissipating `p n` W, every node from the temperatures before it. -/
def Mach.netStep (m : Mach) (dt : Rat) (p : Nat → Rat) (t : Temps) : Temps :=
  let g := t.get'
  Vector.ofFn fun i =>
    let n := i.val
    let x := g n
    if n < 24 then
      if n < m.nch then
        let left := if n % 4 = 0 then 0 else (g (n - 1) - x) / m.rL (n - 1)
        let right := if n % 4 = 3 then 0 else (g (n + 1) - x) / m.rL n
        x + dt / m.cJ n * (p n + (g (24 + n / 4) - x) / m.rJD n + left + right)
      else x
    else if n < 30 then
      let b := n - 24
      if b < m.dev.part.banks then
        let js := ((List.range 4).map fun j => (g (4 * b + j) - x) / m.rJD (4 * b + j)).foldl (· + ·) 0
        x + dt / m.cD b * (js + (g 30 - x) / m.rDB b)
      else x
    else
      let ds := (m.allBanks.map fun b => (g (24 + b) - x) / m.rDB b).foldl (· + ·) 0
      x + dt / (m.cB + m.cHS) * (ds + (m.tAmb - x) / m.rBA)

/-! ## Sensors (R253, R256) -/

/-- Range of a sensor's readings in 1/16 °C: the NTC (6) and the die diodes. -/
def sensorMax (x : Nat) : Int := if x = 6 then 2400 else 3200
/-- Largest jump between successive readings in 1/16 K. -/
def sensorJump (x : Nat) : Int := if x = 6 then 80 else 160

/-- Failure reason of one conversion (R256): 1 RANGE, 2 NO_RESULT at the fourth update without one, 3 JUMP; 0 none. -/
def Sensor.judge (q : Sensor) (x : Nat) (r : Option Int) : Nat :=
  match r with
  | none => if 4 ≤ q.noRes + 1 then 2 else 0
  | some v =>
    if v < -800 ∨ sensorMax x < v then 1
    else if q.got && decide (sensorJump x < (v - q.reading).natAbs) then 3 else 0

/-- A sensor takes the result of one conversion. -/
def Sensor.take (q : Sensor) (x : Nat) (r : Option Int) : Sensor :=
  let why := q.judge x r
  let q' := match r with
    | none => { q with noRes := min 4 (q.noRes + 1) }
    | some v => { q with reading := v, got := true, noRes := 0 }
  if why = 0 then q' else { q' with fail := true, reason := why }

/-- Sensors the part has: its banks' diodes and the NTC. -/
def Mach.sensorsOn (m : Mach) : List Nat := m.allBanks ++ [6]

/-- All sensors take their conversions; a new failure sets SNS_FAIL, and a failed diode's analog comparator is disabled
(R257). -/
def Mach.takeReadings (diode : List (Option Int)) (ntc : Option Int) (m : Mach) : Mach :=
  forList m.sensorsOn (fun x m =>
    let was := (m.sensor x).fail
    let m := m.modSensor x fun q => q.take x (if x = 6 then ntc else nth diode x none)
    let now := (m.sensor x).fail
    let m := if now && x < 6 then m.modBank x fun b => { b with analog := false } else m
    if now && !was then m.event 0x0A 0x0008 else m) m

/-- A diode that takes part in prediction, shutdown and exit (R257). -/
def Mach.healthyDiode (m : Mach) (b : Nat) : Bool := (m.sensor b).got && !(m.sensor b).bad

/-- The node a sensor corrects. -/
def sensorNode (x : Nat) : Nat := if x = 6 then 30 else 24 + x

/-- A sensor's disagreement with its corrected node in K (R255). -/
def Mach.disagree (m : Mach) (x : Nat) : Rat :=
  let d := (m.sensor x).temp - m.nodeTemp (sensorNode x)
  if d < 0 then -d else d

/-- One advance of a correction, bounded at ±8 K (R254). -/
def advance (c err dt : Rat) : Rat := max (-8) (min 8 (c + err * dt / 2))

/-- The corrections advance unless frozen (R254, R257): each from the corrections before this update. -/
def Mach.correct (dt : Rat) (m : Mach) : Mach :=
  let c0 := m.thm.cP
  let ok (x : Nat) : Bool := (m.sensor x).got && !(m.sensor x).bad
  let err (x : Nat) : Rat := (m.sensor x).temp - m.nodeTemp (sensorNode x)
  let m' := { m with thm := { m.thm with cP := if ok 6 then advance c0 (err 6) dt else c0 } }
  forList m.allBanks (fun b m' =>
    m'.modBank b fun k => { k with corr := if ok b then advance k.corr (err b) dt else k.corr }) m'

/-! ## The power feed (R22, R173, R251) -/

/-- The dissipation used for a channel in this update: a fresh valid entry, else the last value for 4 updates, then 1.0 W
with PFEED_STALE. -/
def Mach.useFeed (n : Nat) (m : Mach) : Mach :=
  let t := (m.ch n).thm
  let age := match t.fresh with
    | some (_, true) => 0
    | _ => min 5 (t.age + 1)
  let last := match t.fresh with
    | some (mw, true) => mw
    | _ => t.pLast
  let used := if 4 < age then 1000 else last
  let m := m.modCh n fun c =>
    { c with thm := { c.thm with fresh := none, age := age, pLast := last, pfStale := age != 0,
                                 pHist := (used :: c.thm.pHist).take 8 } }
  if age = 5 && t.age != 5 then m.event 0x0A 0x0040 else m

/-- The dissipation used in the latest update, mW. -/
def Thm.used (t : Thm) : Nat := t.pHist.headD 0

/-! ## Prediction (R259, R260) -/

/-- Mean dissipation over the last 8 updates in W. -/
def Thm.meanW (t : Thm) : Rat :=
  if t.pHist.isEmpty then 0 else (t.pHist.foldl (· + ·) 0 : Nat) / ((t.pHist.length : Nat) * 1000 : Rat)

/-- What a prediction watches: a code as THM.TTS_NODE codes it, the node, and the model temperature at which it has
reached 170 °C with the corrections held. -/
structure Watch where
  code  : Nat
  node  : Nat
  limit : Rat

/-- The nodes and healthy diodes of bank `b` (R259): a diode crosses when its die node's run reaches 170 °C less their
difference. -/
def Mach.watches (m : Mach) (b : Nat) : List Watch :=
  let c := m.thm.cP + (m.bank b).corr
  let node (i : Nat) : Watch := ⟨i, i, 170 - c⟩
  (List.range 4).map (fun j => node (4 * b + j)) ++ [node (24 + b)] ++
  (if m.healthyDiode b then [⟨32 + b, 24 + b, 170 - ((m.sensor b).temp - m.nodeTemp (24 + b)) - c⟩] else [])

/-- The forward run in steps of 125 µs: the first step at which each watch has crossed. Watches that have crossed are
taken off; the run ends after 8.19 s. -/
def Mach.forward (m : Mach) (p : Nat → Rat) : Nat → Nat → Temps → List Watch → List (Nat × Nat)
  | 0, _, _, _ => []
  | fuel + 1, k, t, ws =>
    let hit := ws.filter fun w => decide (w.limit ≤ t.get' w.node)
    let rest := ws.filter fun w => !decide (w.limit ≤ t.get' w.node)
    (hit.map fun w => (w.code, k)) ++
      (if rest.isEmpty then [] else m.forward p fuel (k + 1) (m.netStep (1 / 8000) p t) rest)

/-- A reported value between 0.9 × the exact result − 125 µs and the exact result, in 125 µs (R259; log entry 6). -/
def ttsReport (free exact : Nat) : Nat :=
  let lo := (9 * exact + 9) / 10 - 1
  lo + Config.ttsPick free % (exact + 1 - lo)

/-- The predictions of one watched code among those found: 0xFFFF without a crossing. -/
def ttsOf (found : List (Nat × Nat)) (free code : Nat) : Nat :=
  match found.find? fun p => p.1 == code with
  | some (_, k) => ttsReport (free + code) k
  | none => 0xFFFF

/-- The smallest of some (code, TTS) pairs, the first where several are smallest. -/
def ttsMin (l : List (Nat × Nat)) : Nat × Nat :=
  l.foldl (fun best x => if x.2 < best.2 then x else best) (0x3F, 0xFFFF)

/-- All predictions of an update (R259, R260). -/
def Mach.predict (m : Mach) : Mach :=
  let p (n : Nat) : Rat := (m.ch n).thm.meanW
  let ws := m.allBanks.flatMap m.watches
  let found := m.forward p 65521 0 m.thm.temps ws
  let f := m.free
  let m := forList m.allCh (fun n m => m.modCh n fun c => { c with thm := { c.thm with tts := ttsOf found f n } }) m
  let m := forList m.allBanks (fun b m =>
    let t := (ttsMin ((ws.filter fun w => w.node / 4 == b || w.node == 24 + b).map fun w => (w.code, ttsOf found f w.code))).2
    m.modBank b fun k => { k with tts := t }) m
  let best := ttsMin (ws.map fun w => (w.code, ttsOf found f w.code))
  { m with thm := { m.thm with tts := best.2, ttsNode := best.1 }, free := f + 64 }

/-- The hottest corrected temperature among some watches' nodes and diodes, with its code. -/
def Mach.hottest (m : Mach) (ws : List Watch) : Rat × Nat :=
  let val (w : Watch) : Rat := if 32 ≤ w.code then (m.sensor (w.code - 32)).temp else m.nodeTemp w.node
  match ws with
  | [] => (0, 0)
  | w :: t => t.foldl (fun best x => if best.1 < val x then (val x, x.code) else best) (val w, w.code)

/-- Hottest corrected temperature of bank `b` (R262). -/
def Mach.bankHot (m : Mach) (b : Nat) : Rat := (m.hottest (m.watches b)).1

/-! ## Start values (R252) -/

/-- The reading a die starts from: its own diode's, or the NTC's where that diode counts as failed. -/
def startReading (x : Nat) (r : Option Int) : Option Rat :=
  match r with
  | some v => if v < -800 ∨ sensorMax x < v then none else some ((v : Rat) / 16)
  | none => none

/-- The model is initialised from the first conversions (R252); the corrections start at 0. -/
def Mach.thermInit (diode : List (Option Int)) (ntc : Option Int) (m : Mach) : Mach :=
  let ds := m.allBanks.filterMap fun b => startReading b (nth diode b none)
  let base : Rat :=
    match startReading 6 ntc with
    | some t => t
    | none => if ds.isEmpty then m.tAmb else ds.foldl (· + ·) 0 / (ds.length : Rat)
  let die (b : Nat) : Rat := (startReading b (nth diode b none)).getD base
  let temps : Temps := Vector.ofFn fun i =>
    if i.val < 24 then die (i.val / 4) else if i.val < 30 then die (i.val - 24) else base
  let m := { m with thm := { m.thm with temps := temps, cP := 0, init := true, sums := [],
                                        banks := vmap m.thm.banks fun _ b => { b with corr := 0 } } }
  forList m.sensorsOn (fun x m =>
    match if x = 6 then ntc else nth diode x none with
    | some v => m.modSensor x fun q => { q with reading := v, got := true }
    | none => m) m

end Sys2Proof.Machine
end

