-- ==== Sys2Proof/Machine/Thermal.lean ====
section
/-! DEFINITION. The thallus update, throttling, the thermal stop and its exit, and the commands of THM.CMD and
CHn.TH_CMD (R251, R257 to R283). -/

namespace Sys2Proof.Machine

/-- Change the thallus words. -/
def Mach.modThm (f : Thallus → Thallus) (m : Mach) : Mach := { m with thm := f m.thm }

/-! ## Package power (R264) -/

/-- Mean of the sums of the last second, or of those made so far, in W. -/
def Mach.pMean (m : Mach) : Rat :=
  if m.thm.sums.isEmpty then 0
  else ((m.thm.sums.foldl (· + ·) 0 : Nat) : Rat) / ((m.thm.sums.length : Nat) * 1000 : Rat)

/-- The limit P_MAX in W, from the corrected baseplate temperature. -/
def Mach.pMax (m : Mach) : Rat :=
  let lim : Rat := ((min 140 (m.thmCfg 0x17).toNat : Nat) : Rat) / 10
  let t := m.nodeTemp 30
  if t ≤ 85 then lim else if 150 ≤ t then 0 else lim * (150 - t) / 65

/-- The sum of the dissipations used in an update enters the mean of the last 8000. -/
def Mach.sumPower (m : Mach) : Mach :=
  let s := m.allCh.foldl (fun x n => x + (m.ch n).thm.used) 0
  m.modThm fun t => { t with sums := (s :: t.sums).take 8000 }

/-- A running sweep records P_MEAN and the NTC reading (R279). -/
def Mach.recordSweep (m : Mach) : Mach :=
  if (m.opRunning 4).isSome then m.modThm fun t => { t with sweep := (m.pMean, (m.sensor 6).temp) :: t.sweep } else m

/-! ## Steps (R261 to R265) -/

/-- Report the effective steps: STEP_UP at every rise (R283). -/
def Mach.noteSteps (m : Mach) : Mach :=
  let rise := m.allBanks.any fun b => decide ((m.bank b).effSeen < m.effStep b)
  let m' := forList m.allBanks (fun b m' => m'.modBank b fun k => { k with effSeen := m.effStep b }) m
  if rise then m'.event 0x0A 0x0001 else m'

/-- The condition for step `k` of bank `b` (R262). -/
def Mach.stepCond (m : Mach) (b k : Nat) : Bool :=
  (m.horizon k != 0 && decide ((m.bank b).tts < m.horizon k)) || decide ((m.tgt k : Rat) ≤ m.bankHot b)

/-- The highest step whose condition holds. -/
def Mach.stepWanted (m : Mach) (b : Nat) : Nat :=
  if m.stepCond b 3 then 3 else if m.stepCond b 2 then 2 else if m.stepCond b 1 then 1 else 0

/-- A bank's own step rises at once (R262). -/
def Mach.raiseStep (b : Nat) (m : Mach) : Mach :=
  let w := m.stepWanted b
  if (m.bank b).ownStep < w then (m.modBank b fun k => { k with ownStep := w }).event 0x0A 0x0001 else m

/-- A channel's own limit at an update (R266). -/
def Mach.judgeOwn (n : Nat) (m : Mach) : Mach :=
  let over? := decide ((m.tjOff n : Rat) ≤ m.nodeTemp n)
  m.modCh n fun c =>
    { c with thm := { c.thm with ownOver := over?, ownHold := c.thm.ownHold || (over? && m.cls n != 0) } }

/-- The highest CHn.TJ since it was cleared (R280). -/
def Mach.noteTj (n : Nat) (m : Mach) : Mach :=
  let t := temp16 (m.nodeTemp n)
  m.modCh n fun c => { c with thm := { c.thm with tjMax := some (max t (c.thm.tjMax.getD t)) } }

/-- The hottest temperature of the module and of each bank, and the peak of a stop (R281, R282). -/
def Mach.noteHot (m : Mach) : Mach :=
  let (t, node) := m.hottest (m.allBanks.flatMap m.watches)
  let hot := temp16 t
  let m' := forList m.allBanks (fun b m' =>
    let h := temp16 (m.bankHot b)
    m'.modBank b fun k => { k with tMax := some (max h (k.tMax.getD h)) }) m
  m'.modThm fun x =>
    let log := if (x.stop || x.holds) && x.log.tpk < hot then { x.log with tpk := hot, pkn := node } else x.log
    { x with hot := hot, hotNode := node, log := log }

/-! ## The thermal stop (R268 to R274) -/

/-- Every conducting channel turns off with fault discharge (R268, R273). -/
def Mach.dischargeAll (m : Mach) : Mach :=
  forList (m.allCh.filter fun k => (m.ch k).stage.conducting) (Mach.gateOff1 .discharge) m

/-- What becomes of a journal copy in progress at the trigger (R268, R272): 0 none, 1 it finishes, 2 it is abandoned. A
copy takes 2.0 to 2.1 ms (R420); where the two ends decide differently the choice is free (log entry 3). -/
def Mach.copyFate (m : Mach) (shutdown : Bool) : Nat :=
  match m.jnl.busy with
  | none => 0
  | some w =>
    if w.wait then 0
    else if shutdown then 2
    else if m.thm.tts = 0xFFFF then 1
    else
      let gone := m.now - w.since
      let left (copy : Nat) : Nat := (copy - gone) + 24000
      let have' := m.thm.tts * 6000
      if left 100800 ≤ have' then 1 else if have' < left 96000 then 2 else 1 + m.freeVal % 2

/-- The copy in progress is abandoned; its record waits and is written again from copy A with its SEQ (R272, R425). -/
def Mach.abandonCopy (m : Mach) : Mach :=
  match m.jnl.busy with
  | some w =>
    if w.wait then m
    else { m with jnl := { m.jnl with busy := some { w with wait := true, copyB := false, tried := false } } }
  | none => m

/-- A pending commit will be refused at its apply point (R67). -/
def Mach.holdPending (m : Mach) : Mach :=
  { m with cmt := { m.cmt with pend := m.cmt.pend.map fun p => { p with held := true } } }

/-- The device enters the thermal-stop condition: 1 ORDERLY, 2 SHUTDOWN, 3 ANALOG, 4 HOT_START. The stop passes the
fault record (R270) and its log is begun (R281). -/
def Mach.enterStop (cause : Nat) (m : Mach) : Mach :=
  let fate := m.copyFate (cause == 2)
  let m := if fate = 2 then m.abandonCopy else m
  let m := m.nextFree.modThm fun t =>
    { t with stop := true, cause := cause, orderly := cause == 1, nextCls := 3, trigAt := m.now, holds := false,
             jnlHold := m.dev.part.isX, stopCnt := inc16 t.stopCnt, edgesDue := true,
             log := { tts := t.tts, node := t.ttsNode, tpk := t.hot, pkn := t.hotNode,
                      cls := [0xFFFF, 0xFFFF, 0xFFFF, 0xFFFF], last := 0xFFFF, jnl := fate, time := m.time, exit := 0,
                      cause := cause } }
  let m := { m with jnl := { m.jnl with stopTotal := m.jnl.stopTotal + 1 } }
  ((((m.event 0x0A 0x0002).passDevice 2 cause 0).queueCounters).holdPending).noteState

/-- The stop acts on every channel at once: SHED with code 0x8, SAFE channels held off (R274). -/
def Mach.stopAll (m : Mach) : Mach := forList m.leaders (fun l m => m.applyHold l 0x8) m

/-- A conducting channel is not in a fault discharge yet. -/
def Mach.discharges (m : Mach) : Bool :=
  m.allCh.any fun k =>
    let g := (m.ch k).stage
    g.conducting && !((g.edge.map (·.discharge)).getD false)

/-- A shutdown under R268 (cause 2) or R269 (cause 3): conducting channels discharge; the condition begins, or an
orderly stop becomes this one and its remaining classes are not started (R273). While the condition holds it acts again only
where it has something to end. -/
def Mach.shutdown (cause : Nat) (m : Mach) : Mach :=
  if m.thm.stop then
    let ends := m.thm.cause == 1
    let cut := cause == 2 && (m.jnl.busy.map fun w => !w.wait).getD false
    if ends || cut || m.discharges then
      let m := m.dischargeAll
      let m := if cut then m.abandonCopy else m
      let m := m.modThm fun t =>
        { t with cause := if ends then cause else t.cause, orderly := false,
                 log := { t.log with cause := if ends then cause else t.log.cause, jnl := if cut then 2 else t.log.jnl } }
      (m.stopAll).event 0x0A 0x0100
    else m
  else (((m.dischargeAll).enterStop cause).stopAll).event 0x0A 0x0100

/-- R268: a healthy diode reads 170 °C or more, or a corrected junction or die node has reached it. -/
def Mach.reached170 (m : Mach) : Bool :=
  m.allBanks.any fun b =>
    (m.healthyDiode b && decide (2720 ≤ (m.sensor b).reading)) ||
    decide ((170 : Rat) ≤ m.nodeTemp (24 + b)) || (List.range 4).any fun j => decide ((170 : Rat) ≤ m.nodeTemp (4 * b + j))

/-- Class `c` of an orderly stop starts now (R271): its start is recorded, its channels turn off or are held off. -/
def Mach.startClass (c : Nat) (m : Mach) : Mach :=
  let t := min 0xFFFE ((m.now - m.thm.trigAt) / 48)
  let m := m.modThm fun x =>
    { x with nextCls := c - 1, orderly := c != 0, log := { x.log with cls := x.log.cls.set (3 - c) t } }
  forList (m.leaders.filter fun l => m.cls l == c) (fun l m => m.applyHold l 0x8) m

/-- A class that an orderly stop would act on has a conducting channel. -/
def Mach.classConducts (m : Mach) (c : Nat) : Bool := m.leaders.any fun l => m.cls l == c && m.conducting l

/-- The next class starts, and the classes after one with nothing conducting are passed at once. -/
def Mach.startClasses : Nat → Mach → Mach
  | 0, m => if m.thm.orderly then m.startClass 0 else m
  | c + 1, m =>
    if m.thm.nextCls = c + 1 then
      if m.classConducts (c + 1) then m.startClass (c + 1) else Mach.startClasses c (m.startClass (c + 1))
    else Mach.startClasses c m

/-- The next class of an orderly stop starts turning off (R271). -/
def execOrderlyClassStart (s : State) : Out :=
  .next (s.ctl fun m => if m.thm.orderly then (Mach.startClasses 3 m).noteStopEdges else m)

/-- The orderly stop begins: the device TTS is below W, with no stop or stop hold in force (R270). -/
def Mach.judgeStop (m : Mach) : Mach :=
  let m := if m.reached170 then m.shutdown 2 else m
  if m.thm.tts < m.stopWin && !m.thm.stop && !m.thm.holds then m.enterStop 1 else m

/-! ## The update (R251) -/

/-- A channel whose retry waits only for its thermal gate starts it (R155). -/
def Mach.gateRetry (l : Nat) (m : Mach) : Mach :=
  let c := m.ch l
  if c.st == .retryWait && c.rty.elapsed && m.gateOpen l && !m.held? l then m.runRetry l else m

/-- One update of `dt` seconds. -/
def Mach.thallus (dt : Rat) (diode : List (Option Int)) (ntc : Option Int) (m : Mach) : Mach :=
  let m := m.takeReadings diode ntc
  let m := forList m.allCh Mach.useFeed m
  let t := m.netStep dt (fun n => ((m.ch n).thm.used : Rat) / 1000) m.thm.temps
  let m := m.modThm fun x => { x with temps := t }
  let m := ((m.correct dt).sumPower.recordSweep).predict
  let m := forList m.allCh Mach.noteTj m.noteHot
  let m := (forList m.allBanks Mach.raiseStep m).noteSteps
  let m := ((forList m.allCh Mach.judgeOwn m).judgeAll).judgeStop
  forList m.leaders Mach.gateRetry m.noteStopEdges

/-- The thallus model updates on a reference or LFOSC interval (R42, R251, R278). -/
def execThallusUpdate (dtNs : Nat) (diode : List (Option Int)) (ntc : Option Int) (s : State) : Out :=
  guardWf (.thallusUpdate dtNs diode ntc) (.next (s.ctl fun m =>
    if m.dev.phase == .running && m.thm.init && (m.clk.refOk || m.clk.lfOk) then
      m.thallus ((dtNs : Rat) / 1000000000) diode ntc
    else m))

/-! ## Releases (R263 to R266) -/

/-- A step has changed: report it and judge the holds. -/
def Mach.stepsChanged (m : Mach) : Mach := (m.noteSteps).judgeAll

/-- The release condition of the bank's step (R263). -/
def Mach.releaseCond (m : Mach) (b : Nat) : Bool :=
  let k := (m.bank b).ownStep
  (m.horizon k == 0 || (m.bank b).tts == 0xFFFF || decide (2 * m.horizon k ≤ (m.bank b).tts)) &&
  decide (m.bankHot b ≤ ((m.tgt k : Nat) : Rat) - (m.hyst : Nat))

/-- A bank falls one step (R263). -/
def execStepRelease (b : Bank) (s : State) : Out :=
  .next (s.ctl fun m =>
    if decide (b < m.dev.part.banks) && (m.bank b).ownStep != 0 && m.releaseCond b then
      (m.modBank b fun k => { k with ownStep := k.ownStep - 1 }).stepsChanged
    else m)

/-- P_MEAN has exceeded P_MAX for 1 s (R264). -/
def execDeviceStepUp (s : State) : Out :=
  .next (s.ctl fun m =>
    if m.thm.devStep < 3 ∧ m.pMax < m.pMean then
      ((m.modThm fun t => { t with devStep := t.devStep + 1 }).event 0x0A 0x0080).stepsChanged
    else m)

/-- P_MEAN has stayed at or below 0.9 × P_MAX for REL (R264). -/
def execDeviceStepDown (s : State) : Out :=
  .next (s.ctl fun m =>
    if m.thm.devStep ≠ 0 ∧ m.pMean ≤ 9 / 10 * m.pMax then
      (m.modThm fun t => { t with devStep := t.devStep - 1 }).stepsChanged
    else m)

/-- A channel's own limit releases it (R266). -/
def execOwnLimitRelease (ch : Ch) (s : State) : Out :=
  .next (s.ctl fun m =>
    if (m.ch ch).thm.ownHold ∧ m.nodeTemp ch ≤ ((m.tjOff ch : Nat) : Rat) - (m.hyst : Nat) then
      (m.modCh ch fun c => { c with thm := { c.thm with ownHold := false } }).judgeAll
    else m)

/-! ## Sensors (R255 to R257) -/

/-- A sensor of the part. -/
def Mach.hasSensor (m : Mach) (x : Nat) : Bool := m.sensorsOn.contains x

/-- A divergence begins (R255); a diode's disables its bank's analog comparator as a failure does (R257). -/
def execModelDiverge (x : SensorIx) (s : State) : Out :=
  .next (s.ctl fun m =>
    if m.hasSensor x && (m.sensor x).got && !(m.sensor x).diverge && decide (15 < m.disagree x) then
      let m := m.modSensor x fun q => { q with diverge := true }
      let m := if x.val < 6 then m.modBank x fun b => { b with analog := false } else m
      (m.event 0x0A 0x0010).stepsChanged
    else m)

/-- A divergence ends (R255). -/
def execDivergeEnd (x : SensorIx) (s : State) : Out :=
  .next (s.ctl fun m =>
    if m.hasSensor x && (m.sensor x).diverge && decide (m.disagree x ≤ 8) then
      ((m.modSensor x fun q => { q with diverge := false }).event 0x0A 0x0020).stepsChanged
    else m)

/-- The sensor meets no condition of R256 now: fewer than 4 updates without a result, and its reading in range. -/
def Sensor.inRange (q : Sensor) (x : Nat) : Bool :=
  q.got && decide (q.noRes < 4) && decide (-800 ≤ q.reading) && decide (q.reading ≤ sensorMax x)

/-- A failure ends (R256). -/
def execSensorOk (x : SensorIx) (s : State) : Out :=
  .next (s.ctl fun m =>
    if m.hasSensor x && (m.sensor x).fail && (m.sensor x).inRange x && decide (m.disagree x ≤ 8) then
      ((m.modSensor x fun q => { q with fail := false, reason := 0 }).event 0x0A 0x0020).stepsChanged
    else m)

/-! ## The analog comparators (R269) -/

/-- A bank's analog comparator, disabled while its diode is failed or diverged (R257), trips: its gates discharge and the
device stops. -/
def execAnalogThermalTrip (b : Bank) (s : State) : Out :=
  .next (s.ctl fun m =>
    if decide (b < m.dev.part.banks) && !(m.sensor b).bad && !(m.bank b).analog && m.dev.phase != .powerOff then
      let m := forList ((List.range 4).map (4 * b.val + ·)) (Mach.gateOff1 .discharge) m
      let m := m.modBank b fun k => { k with analog := true }
      (m.shutdown 3).noteStopEdges
    else m)

/-- A bank's analog comparator releases. -/
def execAnalogThermalRelease (b : Bank) (s : State) : Out :=
  .next (s.ctl fun m =>
    if (m.bank b).analog then m.modBank b fun k => { k with analog := false } else m)

/-! ## The exit (R275, R276) -/

/-- The exit conditions, held for EXIT_HOLD when the command comes. -/
def Mach.exitCond (m : Mach) : Bool :=
  m.allBanks.all fun b =>
    !(m.bank b).analog && (!m.healthyDiode b || decide ((m.sensor b).reading ≤ 16 * (m.exitLvl : Nat))) &&
    decide (m.nodeTemp (24 + b) ≤ ((m.exitLvl : Nat) : Rat)) &&
    (List.range 4).all fun j => decide (m.nodeTemp (4 * b + j) ≤ ((m.exitLvl : Nat) : Rat))

/-- The stop, or its stop holds, end: every bank at step 3, and the channels no hold remains on start. -/
def Mach.exitStop (m : Mach) : Mach :=
  let m := forList m.allBanks (fun b m => m.modBank b fun k => { k with ownStep := 3 }) m
  let m := m.stepsChanged
  let m := m.modThm fun t =>
    { t with stop := false, cause := 0, holds := false, orderly := false, jnlHold := false,
             log := { t.log with exit := min 0xFFFF ((m.now - t.trigAt) / 480000) } }
  let m := forList m.leaders (fun l m => m.modCh l fun c => { c with thm := { c.thm with stopHold := false } }) m
  (forList m.leaders Mach.releaseHold (m.event 0x0A 0x0004)).noteState

/-- The exit conditions have held for EXIT_HOLD at an update (R275, R276). -/
def execThermalStopExit (s : State) : Out :=
  .next (s.ctl fun m => if (m.thm.stop || m.thm.holds) && m.exitCond then m.exitStop else m)

/-! ## Commands (R258, R280, R281) -/

/-- RESYNC of bank `b`: its nodes take the diode's reading less c_P, c_b clears, a divergence ends; a failed sensor's
RESYNC is ignored. -/
def Mach.cmdResync (b : Nat) (m : Mach) : Mach :=
  let q := m.sensor b
  if b < m.dev.part.banks ∧ q.got ∧ ¬ q.fail then
    let t := q.temp - m.thm.cP
    let m := m.modBank b fun k => { k with corr := 0 }
    let m := m.modThm fun x =>
      { x with temps := Vector.ofFn fun i => if i.val = 24 + b ∨ (i.val < 24 ∧ i.val / 4 = b) then t else x.temps[i] }
    if q.diverge then ((m.modSensor b fun q => { q with diverge := false }).event 0x0A 0x0020).stepsChanged else m
  else m

/-- RESYNC_BP: the baseplate node takes the NTC's reading, c_P clears, a divergence ends. -/
def Mach.cmdResyncBp (m : Mach) : Mach :=
  let q := m.sensor 6
  if q.got ∧ ¬ q.fail then
    let m := m.modThm fun x => { x with cP := 0, temps := x.temps.set 30 q.temp }
    if q.diverge then ((m.modSensor 6 fun q => { q with diverge := false }).event 0x0A 0x0020).stepsChanged else m
  else m

/-- CLR_LOG: the log words and every Bb.T_MAX return to their reset values (R281). -/
def Mach.cmdClrLog (m : Mach) : Mach :=
  forList m.allBanks (fun b m => m.modBank b fun k => { k with tMax := none }) (m.modThm fun t => { t with log := .reset })

/-- 0x7401 to CHn.TH_CMD (R280). -/
def Mach.cmdThClear (n : Nat) (m : Mach) : Mach :=
  m.modCh n fun c => { c with thm := { c.thm with tjMax := none, thCnt := 0 } }

/-- THM.CMD RESYNC of a bank (R258). -/
def execResync (b : Bank) (s : State) : Out := .next (s.ctl (Mach.cmdResync b))
/-- THM.CMD RESYNC_BP (R258). -/
def execResyncBp (s : State) : Out := .next (s.ctl Mach.cmdResyncBp)
/-- THM.CMD CLR_LOG (R281). -/
def execClrLog (s : State) : Out := .next (s.on Mach.cmdClrLog)
/-- CHn.TH_CMD (R280). -/
def execThClear (ch : Ch) (s : State) : Out := ctlCh ch (Mach.cmdThClear ch) s

end Sys2Proof.Machine
end

