-- ==== Sys2Proof/Machine/Limp.lean ====
section
/-! DEFINITION. The record of refused and cancelled commits (R64, R67), limp-home entry and its triggers, the host
watchdog, the limp generators (R284 to R299), and debug freeze (R456 to R458). -/

namespace Sys2Proof.Machine

/-! ## Refused and cancelled commits (R64, R67) -/

/-- The COMMIT entry of the event ring (R340). -/
def commitEntry (m : Mach) (kind seq reason tag : Word) : EqEv := ⟨0x05, 4, kind, seq, reason, tag, m.time⟩

/-- The COMMIT descriptor in flight under a tag ends with the commit's outcome (R338). -/
def Mach.endCommitTag (t : Option Tag) (status : Nat) (seq reason : Word) (m : Mach) : Mach :=
  match t with
  | some t =>
    match m.executing t 0x03 with
    | some i => m.complete i status seq reason
    | none => m
  | none => m

/-- Fill the LR group: a request refused (event bit 1) or a pending commit cancelled (event bit 2). -/
def Mach.recordLr (bits seq tag reason : Word) (chmask : BitVec 24) (t : Option Tag) (m : Mach) : Mach :=
  let m := { m with cmt := { m.cmt with lrSeq := seq, lrTag := tag, lrReason := reason, lrChmask := chmask } }
  (m.eventOwn 0x05 bits (commitEntry m bits seq reason tag)).endCommitTag t stRefused seq reason

/-- Drop the pending commit with a reason (R64, R67): 0x03 HELD refuses it, 0x0D CANCELLED and 0x0E ABORTED cancel it. -/
def Mach.dropPending (reason : Word) (m : Mach) : Mach :=
  match m.cmt.pend with
  | some p =>
    ({ m with cmt := { m.cmt with pend := none } }).recordLr (if reason = 0x03 then 0x0002 else 0x0004) p.seq p.tag
      reason 0 p.ringTag
  | none => m

/-! ## Debug freeze: its end (R458) -/

/-- The host watchdog starts with its full timeout, expecting 0x5AC3 (R296). -/
def Mach.startWdg (m : Mach) : Mach :=
  { m with limp := { m.limp with wdgRun := m.dev.governed && m.wdgEn && !m.dev.frz, wdgNext := false, wdgAt := m.lf } }

/-- The freeze ends: 1 RELEASE, 2 TIMEOUT, 3 LIMP. The watchdog restarts (R296). -/
def Mach.endFreeze (cause : Nat) (m : Mach) : Mach :=
  if m.dev.frz then
    let m := { m with dev := { m.dev with frz := false }, dbg := { m.dbg with endCause := cause } }
    ((m.startWdg).event 0x12 0x0002).noteState
  else m

/-! ## Limp-home entry (R285, R286, R39, R276) -/

/-- Channel `l` passes to the limp map (R293). A stop hold keeps a channel that runs where it is (R276), and defers the
start of one that does not. -/
def Mach.toLimpMap (l : Nat) (m : Mach) : Mach :=
  match m.st l with
  | .off | .retryWait | .latched => m.limpEnter l
  | _ => if m.limpGoverns l then m.limpEnter l else m

/-- A limp-home trigger ends the thermal-stop condition: every channel under a stop hold (R276). -/
def Mach.stopToHolds (m : Mach) : Mach :=
  if m.thm.stop then
    let m := m.modThm fun t => { t with stop := false, cause := 0, holds := true }
    forList m.leaders (fun l m => m.modCh l fun c => { c with thm := { c.thm with stopHold := true } }) m
  else m

/-- The mode changes from governed to limp-home: the pending commit is cancelled, TAKE_CONTROL disarms, the watchdog
stops, the limp map takes over (R286, R293). A commit granted after the entry in the same round is not cancelled: its own
command applies it in LIMP (R286). -/
def Mach.enterLimp (cause before : Nat) (granted : Bool) (m : Mach) : Mach :=
  let m := if granted then m else m.dropPending 0x0D
  let m := { m with dev := { m.dev with governed := false },
                    limp := { m.limp with wdgRun := false, entryTime := m.time, entryAt := m.lf },
                    jnl := { m.jnl with limpTotal := m.jnl.limpTotal + 1 } }
  let m := ((m.event 0x0B 0x0001).passDevice 1 cause before).queueCounters
  (forList m.leaders Mach.toLimpMap m).judgeAll

/-- The limp-home triggers of one arbitration round, lowest code first (R285): 3 VDD_LOSS, 4 LH0, 5 LH1, 6 WATCHDOG. CAUSE
takes the lowest, and every one sets its bit. -/
def Mach.limpTrigger (codes : List Nat) (granted : Bool) (m : Mach) : Mach :=
  match codes with
  | [] => m
  | cause :: _ =>
    if m.dev.phase == .running then
      let before := m.devState
      let hist := codes.foldl (fun x c => x ||| BitVec.ofNat 16 (2 ^ c)) m.limp.causeHist
      let m := { m with limp := { m.limp with cause := cause, entryCnt := inc16 m.limp.entryCnt, causeHist := hist },
                        cmt := { m.cmt with takeArmed := false } }
      let m := m.stopToHolds
      let m := if m.dev.governed then m.enterLimp cause before granted else m
      (m.endFreeze 3).noteState
    else m

/-! ## LH0 and LH1 (R285, R287) -/

/-- The watchdog's count ends: the watchdog grant of the port master (R354). -/
def Mach.wdgEnd (m : Mach) : Mach :=
  let m := { m with limp := { m.limp with wdgRun := false } }
  if bit (m.cfg 0x1109) 12 && m.dev.part.isX then
    ({ m with mst := { m.mst with wdgGrant := true } }).event 0x11 0x0008
  else m

/-- LH input `i` has been high for its debounce time: an enabled one is asserted, a disabled one reports its level alone
(R287). -/
def Mach.lhHeld (i : Fin 2) (m : Mach) : Mach :=
  { m with limp := { m.limp with lh := m.limp.lh.set i true, lhAssert := m.limp.lhAssert.set i (m.lhEnabled i) } }

/-- LH input `i` is a trigger when its debounce time ends (R285, R287). -/
def Mach.lhTriggers (m : Mach) (i : Fin 2) : Bool := m.lhEnabled i && !m.limp.lhAssert[i]

/-- The watchdog expires when T has passed (R296): it counts, and LFOSC runs (R34). -/
def Mach.wdgDue (m : Mach) : Bool := m.limp.wdgRun && m.clk.lfOk

/-- The triggers among those a mask names, bit c for code c, with what each does beside the entry. -/
def Mach.roundTriggers (mask : BitVec 8) (m : Mach) : Mach × List Nat :=
  let codes := (if mask.getLsbD 4 && m.lhTriggers 0 then [4] else []) ++
    (if mask.getLsbD 5 && m.lhTriggers 1 then [5] else []) ++ (if mask.getLsbD 6 && m.wdgDue then [6] else [])
  let m := onlyIf (mask.getLsbD 4) (Mach.lhHeld 0) m
  let m := onlyIf (mask.getLsbD 5) (Mach.lhHeld 1) m
  (onlyIf (codes.contains 6) Mach.wdgEnd m, codes)

/-- An LH input goes high, and has `held` for its debounce time (R287, R298); `also` names the other triggers of the round,
`granted` that a commit is granted after the entry in it (R285, R286). -/
def execLhAssert (i : Fin 2) (held : Bool) (also : BitVec 8) (granted : Bool) (s : State) : Out :=
  .next (s.ctl fun m =>
    if !m.pwr.vddOk || m.dev.phase == .powerOff then m
    else if !held || m.dev.phase != .running then { m with limp := { m.limp with lh := m.limp.lh.set i true } }
    else
      let (m, codes) := m.roundTriggers (also ||| BitVec.ofNat 8 (2 ^ (4 + i.val)))
      m.limpTrigger codes granted)

/-- An LH input returns low (R287). -/
def execLhRelease (i : Fin 2) (s : State) : Out :=
  .next (s.ctl fun m =>
    if !m.pwr.vddOk || m.dev.phase == .powerOff then m
    else { m with limp := { m.limp with lh := m.limp.lh.set i false, lhAssert := m.limp.lhAssert.set i false } })

/-- An enabled LH input is asserted: LIMP.STAT.TAKE_BLOCK (R287). -/
def Mach.takeBlock (m : Mach) : Bool := m.limp.lhAssert[0] || m.limp.lhAssert[1]

/-! ## The host watchdog (R296, R297) -/

/-- The watchdog expires: its count ends, and limp-home begins. -/
def Mach.wdgExpire (granted : Bool) (m : Mach) : Mach :=
  if m.limp.wdgRun then (m.wdgEnd).limpTrigger [6] granted else m

/-- T has elapsed on LFOSC without a valid kick (R296); while LFOSC is lost the watchdog's time stands (R34). -/
def execWatchdogExpiry (granted : Bool) (s : State) : Out :=
  .next (s.ctl fun m => if m.wdgDue then m.wdgExpire granted else m)

/-- A kick is valid (R297): the expected key, and not before WIN / 8 × T. -/
def Mach.kickValid (m : Mach) (key : Word) : Bool :=
  key == (if m.limp.wdgNext then 0xA53C else 0x5AC3) &&
  decide (fld (m.cfg 0x0B08) 2 3 * (m.wdgT * 1000) ≤ 8 * (m.lf - m.limp.wdgAt))

/-- A write to LIMP.WDG_KICK (R297). -/
def Mach.cmdKick (key : Word) (m : Mach) : Mach :=
  if m.limp.wdgRun then
    if m.kickValid key then { m with limp := { m.limp with wdgNext := !m.limp.wdgNext, wdgAt := m.lf } }
    else
      let m := ({ m with limp := { m.limp with wdgBad := inc16 m.limp.wdgBad } }).event 0x0B 0x0004
      if bit (m.cfg 0x0B08) 1 then m.wdgExpire false else m
  else m

/-- A kick (R297). -/
def execWatchdogKick (key : Word) (s : State) : Out := .next (s.ctl (Mach.cmdKick key))

/-- CLR_HIST clears CAUSE_HIST and WDG_BAD (R298). -/
def Mach.cmdLimpClr (m : Mach) : Mach := { m with limp := { m.limp with causeHist := 0, wdgBad := 0 } }

/-- LIMP.CMD CLR_HIST (R298). -/
def execLimpClrHist (s : State) : Out := .next (s.on Mach.cmdLimpClr)

/-! ## The limp generators (R290, R292) -/

/-- A limp period opens: the period that ends, if it had a turn-on edge and no cut, clears the escalation count (R124), then
the on-time begins. -/
def Mach.limpOpen (l : Nat) (m : Mach) : Mach :=
  let m := m.modCh l fun c =>
    { c with prot := if c.limp.run && c.limp.rose && !c.limp.hadCut then { c.prot with escCnt := 0 } else c.prot,
             limp := { c.limp with run := true, lvl := true, cut := false, hadCut := false, rose := false } }
  -- an acting source cuts the new period as well (R233)
  m.gateOn l |> Mach.actCut l

/-- The LFOSC cycle of the limp generator's period: a period opens at cycle 0, and its on-time ends at the cycle of R289
unless that is the whole period (R290). Other cycles have no effect. -/
def execLimpPeriod (ch : Ch) (cycle : Nat) (s : State) : Out :=
  ctlLead ch (fun m =>
    if m.limpGoverns ch && (m.st ch).follows && m.clk.lfOk then
      if cycle = 0 then m.limpOpen ch
      else if cycle = m.limpOnTime ch && cycle != m.limpPeriod ch then
        (m.modCh ch fun c => { c with limp := { c.limp with lvl := false } }).gateOff .programmed ch
      else m
    else m) s

/-! ## Debug freeze (R456 to R458) -/

/-- Protection of R431 is in force: the KD region is valid or locked out, and owner unlock is not. -/
def Mach.protected? (m : Mach) : Bool := m.dev.part.isX && (m.otp.kdValid || m.otp.kdConf) && !m.sec.unlocked

/-- PG_LOCK.STATE of a page is KEY_LOCKED (R48, R431): DBG while protection is in force. -/
def Mach.keyLocked (m : Mach) (page : Nat) : Bool := page == 0x12 && m.protected?

/-- A refusal under R431 is counted (R438). -/
def Mach.deny (m : Mach) : Mach := { m with sec := { m.sec with denyCnt := inc16 m.sec.denyCnt } }

/-- A write that a key-locked DBG page discards (R52, R431). -/
def Mach.dbgGuard (f : Mach → Mach) (m : Mach) : Mach := if m.keyLocked 0x12 then (m.deny).wdisc 0x12 else f m

/-- 0xD501 to DBG.CMD: the freeze starts in LIMP, GOVERNED or THERMAL_STOP, with its copies (R456). -/
def Mach.cmdFreeze (m : Mach) : Mach :=
  if m.dev.phase == .running && !m.dev.frz then
    let chst := (List.range 24).map fun n => if n < m.nch then (m.st n).code else 0
    let gates := (List.range 24).foldl (fun x n =>
      if n < m.nch && (m.ch n).stage.gateOn then x ||| BitVec.ofNat 24 (2 ^ n) else x) (0 : BitVec 24)
    let m := { m with dev := { m.dev with frz := true },
                      limp := { m.limp with wdgRun := false },
                      dbg := { m.dbg with frzCnt := inc16 m.dbg.frzCnt, frzAt := m.lf, frzT := m.time, chst := chst,
                                          gates := gates } }
    ((m.holdPending).event 0x12 0x0001).noteState
  else m

/-- 0xD501 to DBG.CMD (R456). -/
def execFreeze (s : State) : Out := .next (s.ctl (Mach.dbgGuard Mach.cmdFreeze))
/-- 0xD502 to DBG.CMD (R456). -/
def execRelease (s : State) : Out := .next (s.ctl (Mach.dbgGuard (Mach.endFreeze 1)))
/-- FRZ_TMO elapses (R458); 0 is no timeout. -/
def execFreezeTimeout (s : State) : Out :=
  .next (s.ctl fun m => if fld (m.cfg 0x1209) 0 8 = 0 then m else m.endFreeze 2)

end Sys2Proof.Machine
end

