-- ==== Sys2Proof/Machine/Crypto.lean ====
section
/-! DEFINITION. Checks and cryptography on bytes: the CRCs of R314, R369 and R399, SHA-256 (R432, R435), AES-128-CMAC
(R369, R370, R436), and the line coding of site-link frames (R360). SHA-256, AES-128 and CMAC are the published
standards the manual names (log entry 17). -/

namespace Sys2Proof.Machine

/-! ## CRCs -/

/-- One bit through a CRC register of `w` bits, most significant bit first. -/
def crcBit {w : Nat} (poly : BitVec w) (r : BitVec w) (b : Bool) : BitVec w :=
  if r.msb != b then (r <<< 1) ^^^ poly else r <<< 1

/-- The bits of a byte, most significant first. -/
def bitsOf (b : Byte) : List Bool := (List.range 8).map fun i => b.getLsbD (7 - i)

/-- A CRC over bytes, without reflection. -/
def crcBytes {w : Nat} (poly init : BitVec w) (l : List Byte) : BitVec w :=
  l.foldl (fun r b => (bitsOf b).foldl (crcBit poly) r) init

/-- CRC-8 of the host port and of pinnae (R314, R370). -/
def crc8 (l : List Byte) : Byte := crcBytes 0x2F 0xFF l
/-- CRC-16 of beacons (R369). -/
def crc16 (l : List Byte) : Word := crcBytes 0x1021 0xFFFF l
/-- CRC-32 of seals and journal records (R399, R421). -/
def crc32 (l : List Byte) : BitVec 32 := crcBytes (0x04C11DB7 : BitVec 32) 0xFFFFFFFF l ^^^ 0xFFFFFFFF

/-- A number from bytes, most significant first. -/
def beNat (l : List Byte) : Nat := l.foldl (fun n b => n * 256 + b.toNat) 0

/-- Bytes `i` to `i + k − 1`. -/
def slice (l : List Byte) (i k : Nat) : List Byte := (l.drop i).take k

/-! ## SHA-256 -/

def shaK0 : List (BitVec 32) := [0x428A2F98, 0x71374491, 0xB5C0FBCF, 0xE9B5DBA5, 0x3956C25B, 0x59F111F1, 0x923F82A4, 0xAB1C5ED5]
def shaK1 : List (BitVec 32) := [0xD807AA98, 0x12835B01, 0x243185BE, 0x550C7DC3, 0x72BE5D74, 0x80DEB1FE, 0x9BDC06A7, 0xC19BF174]
def shaK2 : List (BitVec 32) := [0xE49B69C1, 0xEFBE4786, 0x0FC19DC6, 0x240CA1CC, 0x2DE92C6F, 0x4A7484AA, 0x5CB0A9DC, 0x76F988DA]
def shaK3 : List (BitVec 32) := [0x983E5152, 0xA831C66D, 0xB00327C8, 0xBF597FC7, 0xC6E00BF3, 0xD5A79147, 0x06CA6351, 0x14292967]
def shaK4 : List (BitVec 32) := [0x27B70A85, 0x2E1B2138, 0x4D2C6DFC, 0x53380D13, 0x650A7354, 0x766A0ABB, 0x81C2C92E, 0x92722C85]
def shaK5 : List (BitVec 32) := [0xA2BFE8A1, 0xA81A664B, 0xC24B8B70, 0xC76C51A3, 0xD192E819, 0xD6990624, 0xF40E3585, 0x106AA070]
def shaK6 : List (BitVec 32) := [0x19A4C116, 0x1E376C08, 0x2748774C, 0x34B0BCB5, 0x391C0CB3, 0x4ED8AA4A, 0x5B9CCA4F, 0x682E6FF3]
def shaK7 : List (BitVec 32) := [0x748F82EE, 0x78A5636F, 0x84C87814, 0x8CC70208, 0x90BEFFFA, 0xA4506CEB, 0xBEF9A3F7, 0xC67178F2]
def shaK : List (BitVec 32) := shaK0 ++ shaK1 ++ shaK2 ++ shaK3 ++ shaK4 ++ shaK5 ++ shaK6 ++ shaK7
def shaH0 : List (BitVec 32) := [0x6A09E667, 0xBB67AE85, 0x3C6EF372, 0xA54FF53A, 0x510E527F, 0x9B05688C, 0x1F83D9AB, 0x5BE0CD19]

/-- Padding to whole blocks of 64 bytes, the length in bits at the end. -/
def shaPad (l : List Byte) : List Byte :=
  l ++ [0x80] ++ List.replicate ((119 - l.length % 64) % 64) 0 ++ beBytes 8 (8 * l.length)

/-- The words of a block. -/
def shaWords (l : List Byte) : List (BitVec 32) := (List.range 16).map fun i => BitVec.ofNat 32 (beNat (slice l (4 * i) 4))

/-- The message schedule, newest word first. -/
def shaSched : Nat → List (BitVec 32) → List (BitVec 32)
  | 0, ws => ws
  | n + 1, ws =>
    let g (i : Nat) : BitVec 32 := nth ws i 0
    let a := g 14
    let b := g 1
    let s0 := a.rotateRight 7 ^^^ a.rotateRight 18 ^^^ (a >>> 3)
    let s1 := b.rotateRight 17 ^^^ b.rotateRight 19 ^^^ (b >>> 10)
    shaSched n ((g 15 + s0 + g 6 + s1) :: ws)

/-- One round on the working variables. -/
def shaRound (v : List (BitVec 32)) (kw : BitVec 32) : List (BitVec 32) :=
  match v with
  | [a, b, c, d, e, f, g, h] =>
    let t1 := h + (e.rotateRight 6 ^^^ e.rotateRight 11 ^^^ e.rotateRight 25) + ((e &&& f) ^^^ (~~~e &&& g)) + kw
    let t2 := (a.rotateRight 2 ^^^ a.rotateRight 13 ^^^ a.rotateRight 22) + ((a &&& b) ^^^ (a &&& c) ^^^ (b &&& c))
    [t1 + t2, a, b, c, d + t1, e, f, g]
  | _ => v

/-- One block into the digest state. -/
def shaBlock (h : List (BitVec 32)) (l : List Byte) : List (BitVec 32) :=
  let ws := (shaSched 48 (shaWords l).reverse).reverse
  let v := (List.zipWith (· + ·) shaK ws).foldl shaRound h
  List.zipWith (· + ·) h v

/-- All whole blocks of a message, at most `n`. -/
def shaBlocks : Nat → List (BitVec 32) → List Byte → List (BitVec 32)
  | 0, h, _ => h
  | n + 1, h, l => if l.isEmpty then h else shaBlocks n (shaBlock h (l.take 64)) (l.drop 64)

/-- SHA-256 of a byte string. -/
def sha256 (l : List Byte) : List Byte :=
  let p := shaPad l
  (shaBlocks (p.length / 64) shaH0 p).flatMap fun w => beBytes 4 w.toNat

/-! ## AES-128 and CMAC -/

def sboxRow0 : List Nat := [0x63, 0x7C, 0x77, 0x7B, 0xF2, 0x6B, 0x6F, 0xC5, 0x30, 0x01, 0x67, 0x2B, 0xFE, 0xD7, 0xAB, 0x76]
def sboxRow1 : List Nat := [0xCA, 0x82, 0xC9, 0x7D, 0xFA, 0x59, 0x47, 0xF0, 0xAD, 0xD4, 0xA2, 0xAF, 0x9C, 0xA4, 0x72, 0xC0]
def sboxRow2 : List Nat := [0xB7, 0xFD, 0x93, 0x26, 0x36, 0x3F, 0xF7, 0xCC, 0x34, 0xA5, 0xE5, 0xF1, 0x71, 0xD8, 0x31, 0x15]
def sboxRow3 : List Nat := [0x04, 0xC7, 0x23, 0xC3, 0x18, 0x96, 0x05, 0x9A, 0x07, 0x12, 0x80, 0xE2, 0xEB, 0x27, 0xB2, 0x75]
def sboxRow4 : List Nat := [0x09, 0x83, 0x2C, 0x1A, 0x1B, 0x6E, 0x5A, 0xA0, 0x52, 0x3B, 0xD6, 0xB3, 0x29, 0xE3, 0x2F, 0x84]
def sboxRow5 : List Nat := [0x53, 0xD1, 0x00, 0xED, 0x20, 0xFC, 0xB1, 0x5B, 0x6A, 0xCB, 0xBE, 0x39, 0x4A, 0x4C, 0x58, 0xCF]
def sboxRow6 : List Nat := [0xD0, 0xEF, 0xAA, 0xFB, 0x43, 0x4D, 0x33, 0x85, 0x45, 0xF9, 0x02, 0x7F, 0x50, 0x3C, 0x9F, 0xA8]
def sboxRow7 : List Nat := [0x51, 0xA3, 0x40, 0x8F, 0x92, 0x9D, 0x38, 0xF5, 0xBC, 0xB6, 0xDA, 0x21, 0x10, 0xFF, 0xF3, 0xD2]
def sboxRow8 : List Nat := [0xCD, 0x0C, 0x13, 0xEC, 0x5F, 0x97, 0x44, 0x17, 0xC4, 0xA7, 0x7E, 0x3D, 0x64, 0x5D, 0x19, 0x73]
def sboxRow9 : List Nat := [0x60, 0x81, 0x4F, 0xDC, 0x22, 0x2A, 0x90, 0x88, 0x46, 0xEE, 0xB8, 0x14, 0xDE, 0x5E, 0x0B, 0xDB]
def sboxRowA : List Nat := [0xE0, 0x32, 0x3A, 0x0A, 0x49, 0x06, 0x24, 0x5C, 0xC2, 0xD3, 0xAC, 0x62, 0x91, 0x95, 0xE4, 0x79]
def sboxRowB : List Nat := [0xE7, 0xC8, 0x37, 0x6D, 0x8D, 0xD5, 0x4E, 0xA9, 0x6C, 0x56, 0xF4, 0xEA, 0x65, 0x7A, 0xAE, 0x08]
def sboxRowC : List Nat := [0xBA, 0x78, 0x25, 0x2E, 0x1C, 0xA6, 0xB4, 0xC6, 0xE8, 0xDD, 0x74, 0x1F, 0x4B, 0xBD, 0x8B, 0x8A]
def sboxRowD : List Nat := [0x70, 0x3E, 0xB5, 0x66, 0x48, 0x03, 0xF6, 0x0E, 0x61, 0x35, 0x57, 0xB9, 0x86, 0xC1, 0x1D, 0x9E]
def sboxRowE : List Nat := [0xE1, 0xF8, 0x98, 0x11, 0x69, 0xD9, 0x8E, 0x94, 0x9B, 0x1E, 0x87, 0xE9, 0xCE, 0x55, 0x28, 0xDF]
def sboxRowF : List Nat := [0x8C, 0xA1, 0x89, 0x0D, 0xBF, 0xE6, 0x42, 0x68, 0x41, 0x99, 0x2D, 0x0F, 0xB0, 0x54, 0xBB, 0x16]
def sbox : List Nat :=
  sboxRow0 ++ sboxRow1 ++ sboxRow2 ++ sboxRow3 ++ sboxRow4 ++ sboxRow5 ++ sboxRow6 ++ sboxRow7 ++
  sboxRow8 ++ sboxRow9 ++ sboxRowA ++ sboxRowB ++ sboxRowC ++ sboxRowD ++ sboxRowE ++ sboxRowF

def subByte (b : Byte) : Byte := BitVec.ofNat 8 (nth sbox b.toNat 0)
/-- Doubling in the field of AES. -/
def xtime (b : Byte) : Byte := if b.msb then (b <<< 1) ^^^ 0x1B else b <<< 1
def xorBytes (a b : List Byte) : List Byte := List.zipWith (· ^^^ ·) a b

/-- The next round key. -/
def nextKey (rcon : Byte) (k : List Byte) : List Byte :=
  let w (i : Nat) := slice k (4 * i) 4
  let t := (slice (w 3) 1 3 ++ slice (w 3) 0 1).map subByte
  let w0 := xorBytes (xorBytes (w 0) t) [rcon, 0, 0, 0]
  let w1 := xorBytes (w 1) w0
  let w2 := xorBytes (w 2) w1
  w0 ++ w1 ++ w2 ++ xorBytes (w 3) w2

def shiftRows (s : List Byte) : List Byte := (List.range 16).map fun i => nth s ((i + 4 * (i % 4)) % 16) 0

def mixColumn (c : List Byte) : List Byte :=
  (List.range 4).map fun i =>
    let g (j : Nat) : Byte := nth c ((i + j) % 4) 0
    xtime (g 0) ^^^ (xtime (g 1) ^^^ g 1) ^^^ g 2 ^^^ g 3

def mixColumns (s : List Byte) : List Byte := (List.range 4).flatMap fun i => mixColumn (slice s (4 * i) 4)

/-- The rounds after the first key addition. -/
def aesRounds : Nat → Byte → List Byte → List Byte → List Byte
  | 0, _, _, s => s
  | n + 1, rcon, k, s =>
    let k' := nextKey rcon k
    let t := shiftRows (s.map subByte)
    aesRounds n (xtime rcon) k' (xorBytes (if n = 0 then t else mixColumns t) k')

/-- AES-128 of one block. -/
def aes128 (key block : List Byte) : List Byte := aesRounds 10 1 key (xorBytes block key)

/-- Doubling of a 128-bit block, for the subkeys of CMAC. -/
def cmacDouble (l : List Byte) : List Byte :=
  let v := BitVec.ofNat 128 (beNat l)
  beBytes 16 ((if v.msb then (v <<< 1) ^^^ 0x87 else v <<< 1).toNat)

/-- The CBC chain of CMAC over a message whose last block has been prepared. -/
def cbcMac (key : List Byte) : Nat → List Byte → List Byte → List Byte
  | 0, x, _ => x
  | n + 1, x, l => if l.isEmpty then x else cbcMac key n (aes128 key (xorBytes x (l.take 16))) (l.drop 16)

/-- AES-128-CMAC. -/
def cmac (key : BitVec 128) (l : List Byte) : List Byte :=
  let k := beBytes 16 key.toNat
  let k1 := cmacDouble (aes128 k (List.replicate 16 0))
  let n := max 1 ((l.length + 15) / 16)
  let last := l.drop (16 * (n - 1))
  let last' :=
    if last.length = 16 then xorBytes last k1
    else xorBytes (last ++ [0x80] ++ List.replicate (15 - last.length) 0) (cmacDouble k1)
  cbcMac k n (List.replicate 16 0) (l.take (16 * (n - 1)) ++ last')

/-! ## Line coding (R360, R361) -/

/-- Product in GF(2^8) with field polynomial 0x11D. -/
def gfMul (a b : Nat) : Nat :=
  (List.range 8).foldl (fun acc i =>
    let acc2 := if 128 ≤ acc then (2 * acc) ^^^ 0x11D else 2 * acc
    if b.testBit (7 - i) then acc2 ^^^ a else acc2) 0

/-- Coefficients of the RS generator with roots α^0 to α^15, highest power first without the leading 1. -/
def rsGen : List Nat :=
  let step (p : List Nat) (root : Nat) : List Nat :=
    List.zipWith (· ^^^ ·) (p ++ [0]) (0 :: p.map (gfMul root))
  let roots := (List.range 15).foldl (fun l _ => l ++ [gfMul 2 (l.getLastD 1)]) [1]
  (roots.foldl step [1]).drop 1

/-- The 16 parity bytes of the shortened RS(152, 136) code. -/
def rsParity (l : List Byte) : List Byte :=
  (l.foldl (fun (r : List Nat) b =>
    let f := b.toNat ^^^ r.headD 0
    List.zipWith (· ^^^ ·) (r.drop 1 ++ [0]) (rsGen.map (gfMul f))) (List.replicate 16 0)).map (BitVec.ofNat 8)

/-- The convolutional code, generators 133 and 171 octal, punctured to rate 2/3: both outputs of even input bits, the
first of odd ones. -/
def convCode : Nat → Nat → List Bool → List Bool
  | _, _, [] => []
  | i, reg, b :: t =>
    let r := (reg * 2 + (if b then 1 else 0)) % 128
    let par (g : Nat) : Bool := ((List.range 7).filter fun j => (r &&& g).testBit (6 - j)).length % 2 == 1
    -- bit 0 of the register is the newest input, which the generators take as their first tap
    let rev (g : Nat) : Nat := (List.range 7).foldl (fun n j => if g.testBit j then n + 2 ^ (6 - j) else n) 0
    let x := par (rev 0o133)
    let y := par (rev 0o171)
    (if i % 2 = 0 then [x, y] else [x]) ++ convCode (i + 1) r t

/-- The inner-code input of a frame: its bytes, `pad` zero bits and 6 tail bits. -/
def innerBits (l : List Byte) (pad : Nat) : List Bool := l.flatMap bitsOf ++ List.replicate (pad + 6) false

/-- The bits of data symbol `j` of `s` (R360): coded bit i stands in symbol i mod s. -/
def symbolBits (coded : List Bool) (s j : Nat) : List Bool :=
  ((coded.zipIdx).filter fun p => p.2 % s == j).map (·.1)

/-- Phase steps of a data symbol in 45°, for three bits at a time (Gray values). -/
def grayStep (a b c : Bool) : Nat :=
  match a, b, c with
  | false, false, false => 0 | false, false, true => 1 | false, true, true => 2 | false, true, false => 3
  | true, true, false => 4 | true, true, true => 5 | true, false, true => 6 | true, false, false => 7

/-- The phases of subcarriers 0 to 34 of a data symbol in 45°. -/
def symbolPhases : Nat → List Bool → List Nat
  | ph, a :: b :: c :: t => ph :: symbolPhases ((ph + grayStep a b c) % 8) t
  | ph, _ => [ph]

/-- The sync symbol's phases. -/
def syncPhases : List Nat := (List.range 35).map fun m => m * (m + 1) / 2 % 8

/-- The symbols of a sent frame, as phases: a beacon has 2 sync and 18 data symbols, a pinna 3 data symbols (R361). -/
def linePhases (frame : List Byte) : List (List Nat) :=
  if frame.length = 136 then
    let coded := convCode 0 0 (innerBits (frame ++ rsParity frame) 2)
    [syncPhases, syncPhases] ++ (List.range 18).map fun j => symbolPhases 0 (symbolBits coded 18 j)
  else
    let coded := convCode 0 0 (innerBits frame 6)
    (List.range 3).map fun j => symbolPhases 0 (symbolBits coded 3 j)

end Sys2Proof.Machine
end

