-- ==== Sys2Proof/Machine/Shed.lean ====
section
/-! DEFINITION. The shedding engine (R385 to R387) and the delivery of the budget feed (R22, R374, R381). -/

namespace Sys2Proof.Machine

/-- Change the site-link words. -/
def Mach.modSite (f : Site → Site) (m : Mach) : Mach := { m with site := f m.site }

/-! ## Classes of channels (R385) -/

/-- A channel or leader is demanding. -/
def Mach.demanding (m : Mach) (l : Nat) : Bool :=
  m.mode l != 0 && m.st l != .latched && !(m.st l == .safe && !m.safeOn l)
/-- CHn.SHED.EXEMPT of the leader. -/
def Mach.shedExempt (m : Mach) (l : Nat) : Bool := bit (m.lw l 0x74) 12
def Mach.eligible (m : Mach) (l : Nat) : Bool := m.demanding l && !m.shedExempt l && m.st l != .safe
/-- Shed power W in 10 W. -/
def Mach.shedPwr (m : Mach) (l : Nat) : Nat := fld (m.lw l 0x74) 0 12

/-- Eligible channels by class from 3 to 0 and descending number within a class. -/
def Mach.shedOrder (m : Mach) : List Nat :=
  [3, 2, 1, 0].flatMap fun c => (m.leaders.filter fun l => m.eligible l && m.cls l == c).reverse

/-- SITE.SHED_CFG (R389). -/
def Mach.shedEn (m : Mach) : Bool := bit (m.cfg 0x0F0F) 0
def Mach.shedHyst (m : Mach) : Nat := fld (m.cfg 0x0F0F) 8 8

/-- The budget B: the latest entry's, or the limp-level budget under the stale rule. -/
def Mach.shedBudget (m : Mach) : Nat := if m.site.stale then m.limpAux else m.site.feed

/-- Demand of some channels. -/
def Mach.pwrSum (m : Mach) (ls : List Nat) : Nat := ls.foldl (fun n l => n + m.shedPwr l) 0

/-! ## The shed set (R386) -/

/-- Channels join the set in shed order until the load fits. -/
def Mach.shedAdd (m : Mach) (load b : Nat) : List Nat → List Nat → List Nat
  | [], s => s
  | ch :: t, s =>
    if s.contains ch then m.shedAdd load b t s
    else if load - m.pwrSum s ≤ b then s
    else m.shedAdd load b t (s ++ [ch])

/-- The reverse pass: channels added in this evaluation return where the load allows it; of the channels shed before, a
restoring evaluation returns at most one. -/
def Mach.shedReturn (m : Mach) (load b hyst : Nat) (before : List Nat) (restoring : Bool) :
    Bool → List Nat → List Nat → List Nat
  | _, [], s => s
  | restored, ch :: t, s =>
    let back := load - m.pwrSum s + m.shedPwr ch
    if before.contains ch then
      if restoring && !restored && decide (back + hyst ≤ b) then
        m.shedReturn load b hyst before restoring true t (s.filter fun x => x != ch)
      else m.shedReturn load b hyst before restoring restored t s
    else if back ≤ b then m.shedReturn load b hyst before restoring restored t (s.filter fun x => x != ch)
    else m.shedReturn load b hyst before restoring restored t s

/-- The shed set an evaluation forms. -/
def Mach.shedSet (m : Mach) (restoring : Bool) : List Nat :=
  let b := m.shedBudget
  if !m.shedEn || b = 0xFFF then []
  else
    let load := m.pwrSum (m.leaders.filter m.demanding)
    let before := m.leaders.filter fun l => (m.ch l).limp.siteHold
    let keep := before.filter m.eligible
    let s := m.shedAdd load b m.shedOrder keep
    m.shedReturn load b m.shedHyst before restoring false (m.shedOrder.filter s.contains).reverse s

/-- A channel enters or leaves the set (R387). -/
def Mach.setShed (s : List Nat) (l : Nat) (m : Mach) : Mach :=
  let was := (m.ch l).limp.siteHold
  let now := s.contains l
  if was = now then m
  else
    let m := m.modCh l fun c => { c with limp := { c.limp with siteHold := now } }
    if now then m.applyHold l 0xE else m.releaseHold l

/-- One evaluation: the reports, the events SHED and OVER, and the holds. -/
def Mach.shedEval (restoring : Bool) (m : Mach) : Mach :=
  let s := m.shedSet restoring
  let dem := m.leaders.filter m.demanding
  let load := m.pwrSum dem
  let fixed := m.pwrSum (dem.filter fun l => !m.eligible l)
  let b := m.shedBudget
  let ov := b != 0xFFF && decide (b < fixed)
  let changed := m.leaders.any fun l => (m.ch l).limp.siteHold != s.contains l
  let m' := m.modSite fun x => { x with auxLoad := load, shedLoad := load - m.pwrSum s, overBud := ov }
  let m' := if ov && !m.site.overBud then m'.event 0x0F 0x0200 else m'
  let m' := if changed then m'.event 0x0F 0x0100 else m'
  -- channels that enter the set first, then those that leave it
  forList (m.leaders.filter fun l => !s.contains l) (Mach.setShed s) (forList s (Mach.setShed s) m')

/-- SHED_EVALUATION (R386): in every state from LIMP onward (R41). -/
def execShedEvaluation (restoring : Bool) (s : State) : Out :=
  .next (s.ctl fun m => if m.dev.part.isX && m.dev.phase == .running then m.shedEval restoring else m)

/-! ## Role and feed (R374, R380, R381) -/

/-- The role in force: 0 OFF, 1 MEMBER, 2 COORDINATOR, 3 STANDBY; identities 0 and 31 count a member or standby as OFF. -/
def Mach.siteRole (m : Mach) : Nat :=
  let w := m.cfg 0x0F08
  let r := fld w 0 2
  let id := fld w 2 5
  if (r = 1 ∨ r = 3) ∧ (id = 0 ∨ id = 31) then 0 else r
def Mach.siteIdent (m : Mach) : Nat := fld (m.cfg 0x0F08) 2 5
def Mach.siteRank (m : Mach) : Nat := fld (m.cfg 0x0F08) 7 2
def Mach.siteAuto (m : Mach) : Bool := bit (m.cfg 0x0F08) 9

/-- The device sends the beacons: a joined coordinator or an acting standby. -/
def Mach.coordinating (m : Mach) : Bool := (m.siteRole == 2 && m.site.joined) || m.site.acting

/-- The ladder level (R374, R380). -/
def Mach.ladderNow (m : Mach) : Nat :=
  if m.siteRole = 0 then 0
  else if !m.site.joined then 3
  else if m.coordinating then 0
  else if m.site.lost = 0 then 0 else if m.site.lost ≤ 3 then 1 else if m.site.lost ≤ 13 then 2 else 3

/-- The auxiliary budget in force (R374, R380). -/
def Mach.auxNow (m : Mach) : Nat :=
  if m.siteRole = 0 then 0xFFF
  else if !m.site.joined then m.limpAux
  else if m.site.acting then (nth m.site.table m.siteIdent (0, 0xFFF)).2
  else if m.siteRole = 2 then (nth m.site.table 0 (0, 0xFFF)).2
  else match m.ladderNow with
    | 2 => fld (m.cfg 0x0F0B) 0 12
    | 3 => m.limpAux
    | _ => m.site.lastAux

/-- The main budget in force (R380, R388). -/
def Mach.mainNow (m : Mach) : Nat :=
  if m.siteRole = 0 || !m.site.joined then 0
  else if m.site.acting then (nth m.site.table m.siteIdent (0, 0xFFF)).1
  else if m.siteRole = 2 then (nth m.site.table 0 (0, 0xFFF)).1
  else match m.ladderNow with
    | 2 => fld (m.cfg 0x0F0C) 0 12
    | 3 => 0
    | _ => m.site.lastMain

/-- Report the level and the budgets, with their events (R388, R390). -/
def Mach.siteReport (m : Mach) : Mach :=
  let lad := m.ladderNow
  let aux := m.auxNow
  let main := m.mainNow
  let old := m.site
  let m := m.modSite fun x => { x with ladder := lad, auxBud := aux, mainKw := main }
  let m := if lad = old.ladder then m else m.event 0x0F 0x0004
  let m := if aux = old.auxBud then m else m.event 0x0F 0x0001
  if main = old.mainKw then m else m.event 0x0F 0x0002

/-- Deliver an entry to the budget feed: the budget in force and the ladder level, unless REFCLK is absent (R379, R381). -/
def Mach.feedBudget (m : Mach) : Mach :=
  if m.clk.refOk then m.modSite fun x => { x with feed := m.auxNow, feedLvl := m.ladderNow, stale := false } else m

/-- The reports, and an entry to the budget feed. -/
def Mach.siteRefresh (m : Mach) : Mach := (m.siteReport).feedBudget

/-- JOINED changes (R390). -/
def Mach.setJoined (j : Bool) (m : Mach) : Mach :=
  if m.site.joined = j then m else (m.modSite fun x => { x with joined := j }).event 0x0F 0x0020
/-- ACTING changes. -/
def Mach.setActing (a : Bool) (m : Mach) : Mach :=
  if m.site.acting = a then m else (m.modSite fun x => { x with acting := a }).event 0x0F 0x0040
/-- CONFLICT changes. -/
def Mach.setConflict (c : Bool) (m : Mach) : Mach :=
  if m.site.conflict = c then m else (m.modSite fun x => { x with conflict := c }).event 0x0F 0x0040

/-- The budget feed is stale (R22): the limp-level budget, as a restoring evaluation. The rule does not apply with role
OFF. -/
def execBudgetFeedStale (s : State) : Out :=
  .next (s.ctl fun m =>
    if m.dev.part.isX && m.dev.phase == .running && m.siteRole != 0 then
      (m.modSite fun x => { x with stale := true }).shedEval true
    else m)

end Sys2Proof.Machine
end

