-- ==== Sys2Proof/Machine/Zc.lean ====
section
/-! DEFINITION. The zero-crossing tracker (R363 to R367, R392) and what a site membership loses with it (R496). -/

namespace Sys2Proof.Machine

/-- Change the tracker. -/
def Mach.modZc (f : Zc → Zc) (m : Mach) : Mach := { m with zc := f m.zc }

/-- Predictions exist: LOCKED or HOLDOVER. -/
def Mach.tracking (m : Mach) : Bool := m.zc.st == .locked || m.zc.st == .holdover

/-- Tracked frequency in mHz; 0 without a lock (R392). -/
def Mach.zcFreq (m : Mach) : Nat := if m.tracking then 768000000000 / max 1 m.zc.per16 else 0

/-- Mains periods of a frond (R365). -/
def Mach.cycles (m : Mach) : Nat := if m.site.cyc6 then 6 else 5

/-- Frond length in ticks as the device tracks it; 100 ms without a tracked period (R380). -/
def Mach.frondTicks (m : Mach) : Nat :=
  if m.tracking then max 1 (m.cycles * m.zc.per16 / 16) else 4800000

/-- Usable pinnae (R367): 20 ms + 2.6 ms × j + 0.3 ms within the frond; none outside a membership without a tracked period
(log entry 79). -/
def Mach.npin (m : Mach) : Nat := if m.tracking || m.site.joined then min 30 ((m.frondTicks - 974400) / 124800) else 0

/-! ## Leaving (R376) -/

/-- The membership ends: nothing is sent, the ladder level is LIMP_LEVEL. A HOST payload in progress ends NOT_JOINED
(R383). -/
def Mach.siteLeave (m : Mach) : Mach :=
  let m := (m.setJoined false).setActing false
  let m := match m.site.send with
    | some q => (m.modSite fun x => { x with send := none }).complete q.infl stOk (wd q.used) 2
    | none => m
  (m.modSite fun x => { x with pubPend := false, hoLeft := 0 }).siteRefresh

/-- SITE.STAT.KEY_ERR: SK in conflict, or no sealed key (R372). -/
def Mach.keyErr (m : Mach) : Bool := m.otp.skConf || !m.otp.skValid

/-- A join that starts by itself (R375): it writes no completion. -/
def Mach.autoJoin (m : Mach) : Mach :=
  if m.siteAuto && m.siteRole != 0 && !(m.ops.any fun o => o.kind == 6 && o.auto) then
    let free := (m.opBusy 6).isNone
    let o : LongOp :=
      { kind := 6, tag := 0, st := if free then .running else .queued, cause := 0, ran := free, prog := 0, words := [],
        ring := 4, idx := 0, auto := true, aux := [] }
    if m.keyErr then m.failOp o 3
    else
    let m := { m with ops := m.ops ++ [o] }
    if free then m.modSite fun x => { x with join := some ⟨0, 0, false, m.zc.st == .locked⟩ } else m
  else m

/-- A coordinator's N_C is the one of the frequency at which its tracker entered LOCKED (R365). -/
def Mach.fixCycles (m : Mach) : Mach :=
  if m.siteRole = 2 && m.tracking then m.modSite fun x => { x with cyc6 := m.zc.six, ncKnown := true } else m

/-- A commit has changed SITE.CFG, SITE.SITE_ID or SITE.OFFSET (R376). -/
def Mach.siteChanged (m : Mach) : Mach := ((m.siteLeave).fixCycles).autoJoin

/-- A join that waited for the lock listens (R375). -/
def Mach.joinListens (m : Mach) : Mach :=
  m.modSite fun x => { x with join := x.join.map fun j => { j with listening := true } }

/-! ## The tracker (R364) -/

/-- A coordinator whose tracker goes to UNLOCKED, and an acting standby, end their membership; with AUTO_JOIN the
coordinator joins again (R496). -/
def Mach.trackLost (m : Mach) : Mach :=
  if m.site.acting then m.siteLeave
  else if m.siteRole = 2 && m.site.joined then (m.siteLeave).autoJoin
  else m

/-- The tracker goes to UNLOCKED. -/
def Mach.zcUnlocked (m : Mach) : Mach :=
  if m.zc.st == .unlocked then m
  else (m.modZc fun z => { z with st := .unlocked, outl := 0, run := 0, lastAt := none }).trackLost

/-- The instant of the crossing behind an edge qualified now (R363), on the monotone scale. -/
def Mach.crossing (m : Mach) : Nat :=
  m.now - 48 * (fld (m.cfg 0x1008) 8 8 + min 4000 (m.cfg 0x1009).toNat)

/-- A mains period of 45 Hz to 65 Hz, in ticks. -/
def mainsPeriod (p : Nat) : Bool := decide (48000000 ≤ 65 * p) && decide (45 * p ≤ 48000000)

/-- The tracker locks on the crossing at `t`; a coordinator fixes its frond length (R365), and a join that waited for
the lock listens (R375). -/
def Mach.zcLock (t per : Nat) (m : Mach) : Mach :=
  let m := m.modZc fun z =>
    { z with st := .locked, per16 := 16 * per, lastAt := some t, predAt := t, bases := [], outl := 0, run := 0,
             six := decide (55000 ≤ 768000000000 / max 1 (16 * per)) }
  ((m.fixCycles).joinListens).event 0x10 0x0001

/-- A crossing in ACQUIRE: ten in a row within 200 µs of the one before plus the previous period lock the tracker. -/
def Mach.zcAcquire (t : Nat) (m : Mach) : Mach :=
  match m.zc.lastAt with
  | none => m.modZc fun z => { z with lastAt := some t, run := 0, per16 := 0 }
  | some a =>
    let per := t - a
    let due := m.zc.per16 / 16
    let good := m.zc.per16 != 0 && mainsPeriod per && decide (per ≤ due + 9600) && decide (due ≤ per + 9600)
    let run := if good then m.zc.run + 1 else 0
    if 10 ≤ run then m.zcLock t per
    else m.modZc fun z => { z with lastAt := some t, run := run, per16 := 16 * per }

/-- Distance in ticks of instant `t` from the nearest prediction, with the prediction's number after the base. -/
def Zc.nearest (z : Zc) (t : Nat) : Nat × Int :=
  let per := max 1 z.per16
  let k := (2 * 16 * (t - z.predAt) + per) / (2 * per)
  (k, (t : Int) - (z.predAt + (k * per) / 16 : Nat))

/-- A crossing while predictions exist (R364). -/
def Mach.zcTrack (t : Nat) (m : Mach) : Mach :=
  let (k, err) := m.zc.nearest t
  if err.natAbs ≤ 9600 then
    if k = 0 then m   -- a later crossing in the window of the one already used
    else
      Mach.joinListens <| m.modZc fun z =>
        { z with st := .locked, outl := 0, bases := ((z.predAt, z.per16) :: z.bases).take 2, cntAcc := inc16 z.cntAcc, lastAt := some t,
                 lastT := m.time - BitVec.ofNat 48 (m.now - t), pherr := inUnits ((err : Rat) / 48),
                 per16 := Config.zcPeriod z.per16 err,
                 predAt := ((z.predAt + (k * z.per16) / 16 : Nat) + Config.zcPhase z.per16 err).toNat }
  else if m.zc.st == .locked then
    let m := (m.modZc fun z => { z with outl := z.outl + 1, cntOutl := inc16 z.cntOutl }).event 0x10 0x0008
    if 5 ≤ m.zc.outl then
      let m := m.modZc fun z => { z with st := .acquire, outl := 0, run := 0, per16 := 0, lastAt := some t, cntRel := inc16 z.cntRel }
      m.event 0x10 0x0010
    else m
  else m

/-- The tracker runs: ZC.CFG.EN with REFCLK present (R364, R379). -/
def Mach.zcOn (m : Mach) : Bool :=
  m.dev.part.isX && m.dev.phase == .running && bit (m.cfg 0x1008) 0 && m.clk.refOk

/-- A qualifying edge on ZCI (R363, R364). -/
def execZcEdge (s : State) : Out :=
  .next (s.on fun m =>
    if !m.zcOn then m
    else
      let t := m.crossing
      match m.zc.st with
      | .unlocked => m.modZc fun z => { z with st := .acquire, lastAt := some t, run := 0, per16 := 0, outl := 0 }
      | .acquire => m.zcAcquire t
      | _ => m.zcTrack t)

/-- 100 ms without a qualifying edge in ACQUIRE (R364). -/
def execZcAcquireTimeout (s : State) : Out :=
  .next (s.on fun m => if m.zc.st == .acquire then m.zcUnlocked else m)

/-- Two predicted periods without a qualifying edge (R364). -/
def execZcHoldover (s : State) : Out :=
  .next (s.on fun m =>
    if m.zc.st == .locked then (m.modZc fun z => { z with st := .holdover, holdAt := m.now }).event 0x10 0x0002 else m)

/-- 5 s in HOLDOVER without an accepted crossing (R364, R496). -/
def execZcUnlock (s : State) : Out :=
  .next (s.ctl fun m => if m.zc.st == .holdover then (m.event 0x10 0x0004).zcUnlocked else m)

/-- CLR_CNT (R392). -/
def Mach.cmdZcClr (m : Mach) : Mach := m.modZc fun z => { z with cntAcc := 0, cntOutl := 0, cntRel := 0 }

/-- ZC.CMD CLR_CNT (R392). -/
def execZcClrCnt (s : State) : Out := .next (s.on fun m => if m.dev.part.isX then m.cmdZcClr else m)

end Sys2Proof.Machine
end

