-- ==== Sys2Proof/Machine/Site.lean ====
section
/-! DEFINITION. The Camson site link: beacons, pinnae, authentication, joining, takeover, publishing and host payloads
(R366 to R391). -/

namespace Sys2Proof.Machine

/-- Byte `i` of a frame, as a number. -/
def byteAt (l : List Byte) (i : Nat) : Nat := (nth l i 0).toNat

/-- The link works: the part has it, the device is past STARTUP, and PLCCLK runs (R379). -/
def Mach.siteOn (m : Mach) : Bool := m.dev.part.isX && m.dev.phase == .running && m.clk.refOk
/-- It may transmit: VDD present, a valid key (R372, R379). -/
def Mach.siteTx (m : Mach) : Bool := m.siteOn && m.pwr.vddOk && !m.keyErr

/-- The site's running time in µs at instant `t` (R377; log entry 18 for a coordinator that never heard a beacon). -/
def Mach.siteTime (m : Mach) (t : Nat) : Nat := m.site.stime.toNat + (t - m.site.lastAt) / 48

/-! ## Joining (R375) -/

/-- A join starts: it fails at once with ROLE_OFF or KEY; a coordinator listens from the lock on. -/
def Mach.startJoin (o : LongOp) (m : Mach) : Mach :=
  if m.siteRole = 0 then m.failOp o 5
  else if m.keyErr then m.failOp o 3
  else
    (m.modOp o fun x => { x with st := .running, ran := true }).modSite fun x =>
      { x with join := some ⟨0, 0, false, m.zc.st == .locked⟩, timedOut := false }

/-- The join ends DONE: RESULT0 the frond counter, RESULT1 the acting coordinator's unit. A coordinator's CONFLICT ends with
its silence (log entry 79). -/
def Mach.joinDone (o : LongOp) (fc unit : Nat) (m : Mach) : Mach :=
  let m := (m.modSite fun x => { x with join := none, lost := 0 }).endOp o .done stOk (wordOf fc 0) (wd unit)
  ((m.setConflict false).setJoined true).siteRefresh

/-- The join ends FAILED. -/
def Mach.joinFail (o : LongOp) (reason : Word) (m : Mach) : Mach :=
  (m.modSite fun x => { x with join := none }).failOp o reason

/-- The device coordinates as unit `u` with its own key (R389). -/
def Mach.ownCoord (u : Nat) (m : Mach) : Mach := m.modSite fun x => { x with coord := u, coordKey := m.otp.skVer }

/-- A member's or standby's join takes an accepted beacon with counter `fc` that began at `start`: three in a row, each
later one greater by the fronds elapsed. `prev` is the start of the beacon before. -/
def Mach.joinBeacon (fc start prev unit : Nat) (m : Mach) : Mach :=
  match m.opRunning 6, m.site.join with
  | some o, some j =>
    let f := m.frondTicks
    let elapsed := max 1 ((2 * (start - prev) + f) / (2 * f))
    let n := if j.count != 0 && fc = j.lastFc + elapsed then j.count + 1 else 1
    let m := m.modOp o fun x => { x with prog := x.prog + 1 }
    let o := { o with prog := o.prog + 1 }
    if 3 ≤ n then m.joinDone o fc unit
    else m.modSite fun x => { x with join := some { j with count := n, lastFc := fc } }
  | _, _ => m

/-- Three fronds listened without a conflict: the coordinator's join ends DONE (R375). -/
def execJoinListenEnd (s : State) : Out :=
  .next (s.ctl fun m =>
    match m.opRunning 6, m.site.join with
    | some o, some j =>
      if m.siteOn && m.siteRole == 2 && j.listening && m.tracking then
        let o' := { o with prog := 3 }
        let m := m.modOp o fun x => { x with prog := 3 }
        (m.ownCoord 0).joinDone o' m.site.fcNext 0
      else m
    | _, _ => m)

/-- The join's timeout (R375): TIMEOUT, or NO_LOCK for a coordinator that still waits for its tracker. -/
def execJoinTimeout (s : State) : Out :=
  .next (s.ctl fun m =>
    match m.opRunning 6, m.site.join with
    | some o, some j =>
      if o.auto then m else m.joinFail o (if m.siteRole == 2 && !j.listening then 4 else 1)
    | _, _ => m)

/-! ## Receiving a beacon (R371, R380) -/

/-- The 12-bit pairs of ALLOC: entry 0 has none in a beacon. -/
def beaconTable (l : List Byte) : List (Nat × Nat) :=
  (0, 0xFFF) :: (List.range 30).map fun i =>
    let b (k : Nat) := byteAt l (22 + 3 * i + k)
    (b 0 * 16 + b 1 / 16, b 1 % 16 * 256 + b 2)

/-- A frame is rejected for its key version, tag or counter (R371). -/
def Mach.rejectAuth (replay : Bool) (m : Mach) : Mach :=
  (m.modSite fun x =>
    if replay then { x with cntReplay := inc16 x.cntReplay } else { x with cntAuth := inc16 x.cntAuth }).event 0x0F 0x0010

/-- A HOST payload in progress is judged at a beacon that is accepted or lost (R383): acknowledged, or its repeat limit
is reached. -/
def Mach.judgeSend (ackBit : Bool) (m : Mach) : Mach :=
  match m.site.send with
  | some q =>
    if q.sent && ackBit then (m.modSite fun x => { x with send := none }).complete q.infl stOk (wd q.used) 0
    else if fld (q.infl.word 3) 0 5 ≤ q.used then
      (m.modSite fun x => { x with send := none }).complete q.infl stOk (wd q.used) 1
    else m.modSite fun x => { x with send := some { q with sent := false } }
  | none => m

/-- Mean of the recent beacon offsets in µs (R368). -/
def Site.ofsMean (x : Site) : Int :=
  if x.bcnOfs.isEmpty then 0 else inUnits ((x.bcnOfs.foldl (· + ·) 0 : Int) / (x.bcnOfs.length : Rat))

/-- The predictions in force at instant `start`: the latest base not after it, with its period. -/
def Zc.baseAt (z : Zc) (start : Nat) : Nat × Nat :=
  (((z.predAt, z.per16) :: z.bases).find? fun b => b.1 ≤ start).getD (z.bases.getLastD (z.predAt, z.per16))

/-- The beacon's start less the own predicted crossing nearest to it, in µs (R368; log entry 79). -/
def Mach.startOfs (m : Mach) (start : Nat) : Int :=
  let b := m.zc.baseAt start
  let per : Int := max 1 b.2
  let d : Int := 16 * ((start : Int) - b.1)
  inUnits (((d - (2 * d + per) / (2 * per) * per : Int) : Rat) / 768)

/-- The words an accepted beacon leaves (R368, R371, R380, R389). -/
def Mach.takeBeacon (f : BeaconRx) (m : Mach) : Mach :=
  let l := f.bytes
  let start := m.now - f.ago
  let id := m.siteIdent
  let tab := beaconTable l
  m.modSite fun x =>
    { x with cntOk := inc16 x.cntOk, cntRs := if f.rs then inc16 x.cntRs else x.cntRs,
             frond := beNat (slice l 4 4), fc := beNat (slice l 4 4), fcValid := true, crcLost := false,
             stime := BitVec.ofNat 48 (beNat (slice l 8 6)),
             ltick := m.time - BitVec.ofNat 48 f.ago, lastAt := start, coord := byteAt l 3 % 32, coordKey := byteAt l 14,
             bcnOfs := if m.tracking then (m.startOfs start :: x.bcnOfs).take 16 else x.bcnOfs,
             beacon := tab, lastMain := (nth tab id (0, 0xFFF)).1, lastAux := (nth tab id (0, 0xFFF)).2,
             lost := 0, bcnThis := true, keyver := false,
             cyc6 := if m.siteRole = 2 then x.cyc6 else (byteAt l 15).testBit 0, ncKnown := true }

/-- What an accepted beacon does in the role in force (R375, R378, R381, R383). -/
def Mach.useBeacon (f : BeaconRx) (m : Mach) : Mach :=
  let l := f.bytes
  let start := m.now - f.ago
  let prev := m.site.lastAt
  let m := m.takeBeacon f
  let m :=
    if m.siteRole = 2 then
      match m.opRunning 6, m.site.join with
      | some o, some j => if j.listening then (m.setConflict true).joinFail o 2 else m
      | _, _ =>
        let ho := m.site.conflict && (byteAt l 15).testBit 1 && byteAt l 16 == 0
        m.modSite fun x => { x with hoSeen := if ho then x.hoSeen + 1 else 0 }
    else
      let ack := (beNat (slice l 18 4)).testBit m.siteIdent
      (m.joinBeacon (beNat (slice l 4 4)) start prev (byteAt l 3 % 32)).judgeSend ack
  m.siteRefresh

/-- Erased symbols of a received frame (R362). -/
def Mach.countErased (k : Nat) (m : Mach) : Mach := m.modSite fun x => { x with cntEras := min 0xFFFF (x.cntEras + k) }

/-- A received beacon passes the checks of R371 in the table's order, or is rejected. -/
def Mach.checkBeacon (f : BeaconRx) (m : Mach) : Mach :=
  let l := f.bytes
  let m := m.countErased f.erased
  if crc16 (l.take 116) != BitVec.ofNat 16 (beNat (slice l 116 2)) then
    m.modSite fun x => { x with cntLost := inc16 x.cntLost, crcLost := true }
  else if byteAt l 0 != 0x11 || BitVec.ofNat 16 (beNat (slice l 1 2)) != m.cfg 0x0F09 then m
  else if m.keyErr then (m.modSite fun x => { x with keyver := false }).rejectAuth false
  else if byteAt l 14 != m.otp.skVer then (m.modSite fun x => { x with keyver := true }).rejectAuth false
  else if (cmac m.otp.sk (l.take 112)).take 4 != slice l 112 4 then
    (m.modSite fun x => { x with keyver := false }).rejectAuth false
  else if m.site.fcValid && decide (beNat (slice l 4 4) ≤ m.site.fc) then
    (m.modSite fun x => { x with keyver := false }).rejectAuth true
  else m.useBeacon f

/-- The device receives beacons: a member or standby that is not acting, and a coordinator that is not coordinating
(R374, R375, R378). -/
def Mach.listens (m : Mach) : Bool := m.siteOn && m.siteRole != 0 && !m.coordinating

/-- BEACON_RECEIVE (R371). -/
def execBeaconReceive (f : BeaconRx) (s : State) : Out :=
  guardWf (.beaconReceive f) (.next (s.ctl fun m => if m.listens then m.checkBeacon f else m))

/-- No beacon was accepted 17 ms after the frond's beacon start (R380): a member or standby counts it; a listening
coordinator has listened to one more frond. -/
def execBeaconLost (s : State) : Out :=
  .next (s.ctl fun m =>
    if !m.listens then m
    else if m.siteRole = 2 then
      let m := m.modSite fun x =>
        { x with crcLost := false, bcnThis := false, frond := x.frond + 1,
                 hoSeen := if x.hoSeen = 0 then 0 else x.hoSeen + 1 }
      let m := match m.opRunning 6, m.site.join with
        | some o, some j => if j.listening then m.modOp o fun x => { x with prog := x.prog + 1 } else m
        | _, _ => m
      m.siteRefresh
    else
      let m := m.modSite fun x =>
        { x with lost := min 255 (x.lost + 1), frond := x.frond + 1, bcnThis := false, crcLost := false,
                 cntLost := if x.crcLost then x.cntLost else inc16 x.cntLost,
                 join := x.join.map fun j => { j with count := 0 } }
      ((m.event 0x0F 0x0008).judgeSend false).siteRefresh)

/-! ## Coordinating (R366, R377, R378, R382) -/

/-- An SL_SEND in progress ends with ROLE: the device coordinates (R383). -/
def Mach.endSend (m : Mach) : Mach :=
  match m.site.send with
  | some q => (m.modSite fun x => { x with send := none }).complete q.infl stOk (wd q.used) 3
  | none => m

/-- A joined standby of rank R takes over (R377). -/
def execStandbyTakeover (s : State) : Out :=
  .next (s.ctl fun m =>
    if m.siteTx && m.siteRole == 3 && m.site.joined && !m.site.acting && decide (3 + m.siteRank ≤ m.site.lost) &&
       m.tracking && m.site.ncKnown then
      let m := m.modSite fun x =>
        { x with table := x.beacon, built := x.beacon, fcNext := x.frond + 1, ack := 0, ackNow := 0 }
      (((m.endSend).ownCoord m.siteIdent).setActing true).siteRefresh
    else m)

/-- The words of the allocation table (R382, R389). -/
def Mach.allocWords (m : Mach) : List (Nat × Nat) :=
  (List.range 31).map fun i => (fld (m.cfg (0x0F30 + 2 * i)) 0 12, fld (m.cfg (0x0F31 + 2 * i)) 0 12)

/-- FREEZE_POINT (R382): a pending publication copies the words into the beacon and the own budget feed. -/
def execFreezePoint (s : State) : Out :=
  .next (s.ctl fun m =>
    if m.siteOn && m.coordinating then
      if m.site.pubPend then
        let m := m.modSite fun x => { x with table := m.allocWords, built := m.allocWords, pubPend := false }
        (m.event 0x0F 0x0400).siteRefresh
      else m.modSite fun x => { x with built := x.table }
    else m)

/-- The data bytes of the own beacon (R369). -/
def Mach.beaconBytes (m : Mach) (fc : Nat) : List Byte :=
  let x := m.site
  let alloc := (List.range 30).flatMap fun i =>
    let e := nth x.built (i + 1) (0, 0xFFF)
    beBytes 3 (e.1 * 4096 + e.2)
  let head := [(0x11 : Byte)] ++ beBytes 2 (m.cfg 0x0F09).toNat ++ beBytes 1 (if x.acting then m.siteIdent else 0) ++
    beBytes 4 fc ++ beBytes 6 (m.siteTime m.now) ++ beBytes 1 m.otp.skVer ++
    beBytes 1 (flag x.cyc6 0 + flag (x.hoLeft != 0) 1) ++ [0, 0] ++ beBytes 4 x.ackNow.toNat ++ alloc
  let tagged := head ++ (cmac m.otp.sk head).take 4
  tagged ++ beBytes 2 (crc16 tagged).toNat ++ List.replicate 18 0

/-- A primary coordinator silent under CONFLICT resumes after a handover: in the fourth frond from the first beacon that
announced it (R378; log entry 79). -/
def Mach.resumeCoord (m : Mach) : Mach :=
  if m.siteRole = 2 && m.site.conflict && decide (3 ≤ m.site.hoSeen) then
    let next := max (max m.site.fcNext m.site.fcBlock) (m.site.frond + 1)
    (((m.modSite fun x => { x with hoSeen := 0, fcNext := next }).ownCoord 0).setConflict false).setJoined true
  else m

/-- Reserve the next block of frond counters where the next one lies past the last (R373). -/
def Mach.reserve (m : Mach) : Mach :=
  if m.site.fcBlock ≤ m.site.fcNext then
    (m.modSite fun x => { x with fcBlock := x.fcNext / 65536 * 65536 + 65536 }).queueCounters
  else m

/-- BEACON_TRANSMIT (R366): the frond's beacon is sent at its start. The third beacon that announces a handover is the
last (R378). -/
def execBeaconTransmit (s : State) : Out :=
  .next (s.ctl fun m =>
    let m := if m.siteTx && m.tracking then m.resumeCoord else m
    if m.siteTx && m.tracking && m.coordinating then
      let m := if m.site.acting then m else m.reserve
      let fc := m.site.fcNext
      let last := m.site.hoLeft == 1
      let m := m.modSite fun x =>
        { x with txFrame := m.beaconBytes fc, frond := fc, fcNext := fc + 1, ackNow := 0, hoLeft := x.hoLeft - 1 }
      (if last then (m.modSite fun x => { x with lost := 0 }).setActing false else m).siteRefresh
    else m)

/-- The payload of a STATUS pinna (R370). -/
def Mach.statusPay (m : Mach) : List Byte :=
  let x := m.site
  beBytes 2 (x.ladder * 2 ^ 14 + min 0xFFF x.auxLoad) ++ beBytes 2 (min 0xFFF x.shedLoad) ++
    beBytes 2 (fld (m.cfg 0x0F24) 0 12) ++
    beBytes 1 (flag (!m.dev.governed) 0 + flag m.thm.stop 1 + flag x.overBud 2 + flag m.fltn 3) ++ beBytes 4 x.fc ++
    List.replicate 7 0

/-- A pinna of type `ty` with its payload, tag and CRC (R370). -/
def Mach.pinnaBytes (m : Mach) (ty : Nat) (pay : List Byte) : List Byte :=
  let head := beBytes 1 (m.siteIdent + 32 * ty) ++ pay
  let tagged := head ++ (cmac m.otp.sk (beBytes 4 m.site.frond ++ head)).take 4
  tagged ++ [crc8 tagged]

/-- A member or standby may send its pinna in this frond (R367, R368, R376, R377). -/
def Mach.pinnaDue (m : Mach) : Bool :=
  m.siteTx && (m.siteRole == 1 || m.siteRole == 3) && m.site.joined && !m.site.acting &&
  (m.tracking || m.site.bcnThis) && decide (m.siteIdent ≤ m.npin)

/-- PINNA_TRANSMIT (R368, R370, R383): the HOST payload in progress, or the status. -/
def execPinnaTransmit (s : State) : Out :=
  .next (
    if s.m.pinnaDue then
      match s.m.site.send with
      | some q =>
        let (ws, _, s) := s.sramReads (256 * fld (q.infl.word 2) 0 6 + fld (q.infl.word 2) 8 8) 9
        let pay := ws.flatMap fun w => beBytes 2 w.toNat
        s.on fun m => m.modSite fun x =>
          { x with txFrame := m.pinnaBytes 1 pay, send := some { q with used := q.used + 1, sent := true } }
      | none => s.on fun m => m.modSite fun x => { x with txFrame := m.pinnaBytes 0 m.statusPay }
    else s)

/-! ## Receiving pinnae (R371, R384) -/

/-- Why a pinna is not accepted: none when it is. -/
inductive PinnaFate where
  | accepted | lost | auth | replay
deriving DecidableEq, Repr

/-- The last counter accepted from an identity. -/
def Site.pinLast (x : Site) (j : Nat) : Option Nat := (x.pinFc.find? fun p => p.1 == j).map (·.2)

/-- The checks of R371 on the pinna of slot `j`, with the frond counter `fc`. -/
def Mach.judgePinna (m : Mach) (j fc : Nat) (l : List Byte) : PinnaFate :=
  if crc8 (l.take 23) != nth l 23 0 || byteAt l 0 % 32 != j then .lost
  else if m.keyErr || (cmac m.otp.sk (beBytes 4 fc ++ l.take 19)).take 4 != slice l 19 4 then .auth
  else match m.site.pinLast j with
    | some k => if fc ≤ k then .replay else .accepted
    | none => .accepted

/-- Store a pinna's outcome (R384): words 1 to 11, then word 0; an unaccepted one leaves the payload words. -/
def State.storePinna (j fc : Nat) (l : Option (List Byte)) (s : State) : State :=
  let page := fld (s.m.cfg 0x0F25) 0 6 + (j - 1) / 15
  if page < 64 then
    let w := 256 * page + 16 * ((j - 1) % 15)
    let s := match l with
      | some l => s.sramSetList (w + 1) ((List.range 9).map fun i => BitVec.ofNat 16 (beNat (slice l (1 + 2 * i) 2)))
      | none => s
    let s := (s.sramSet (w + 10) (wordOf fc 0)).sramSet (w + 11) (wordOf fc 1)
    let ty := match l with
      | some l => byteAt l 0 / 32
      | none => 0
    s.sramSet w (wd (flag l.isSome 15 + 256 * ty + fc % 256))
  else s

/-- The last usable pinna of a frond (R384): the ACK words and the event RX. -/
def Mach.endPinnae (j : Nat) (m : Mach) : Mach :=
  if j = m.npin then
    let m := m.modSite fun x => { x with ack := x.ackNow }
    if bit (m.cfg 0x0F25) 8 then m.event 0x0F 0x0080 else m
  else m

/-- The outcome of pinna `j` at the coordinator (R371, R384). -/
def State.takePinna (j : Nat) (bytes : Option (List Byte)) (s : State) : State :=
  let fc := s.m.site.fcNext - 1
  let fate := match bytes with
    | some l => s.m.judgePinna j fc l
    | none => .lost
  let s := s.on fun m =>
    match fate with
    | .accepted => m.modSite fun x =>
        { x with ackNow := x.ackNow ||| BitVec.ofNat 32 (2 ^ j),
                 pinFc := (j, fc) :: x.pinFc.filter fun p => p.1 != j }
    | .auth => m.rejectAuth false
    | .replay => m.rejectAuth true
    | .lost => m
  let s := if bit (s.m.cfg 0x0F25) 8 then s.storePinna j fc (if fate = .accepted then bytes else none) else s
  s.on (Mach.endPinnae j)

/-- PINNA_RECEIVE (R384): a usable pinna of a frond the device coordinates. -/
def execPinnaReceive (j : Fin 31) (bytes : Option (List Byte)) (erased : Nat) (s : State) : Out :=
  guardWf (.pinnaReceive j bytes erased) (.next (
    if s.m.siteOn && s.m.coordinating && decide (1 ≤ j.val) && decide (j.val ≤ s.m.npin) then
      (s.on (Mach.countErased erased)).takePinna j bytes
    else s))

/-! ## Commands of SITE.CMD (R376, R378, R382, R389) -/

/-- PUBLISH, ignored unless the device coordinates. -/
def Mach.cmdPublish (m : Mach) : Mach := if m.coordinating then m.modSite fun x => { x with pubPend := true } else m
/-- HANDOVER, ignored unless ACTING. -/
def Mach.cmdHandover (m : Mach) : Mach :=
  if m.site.acting && m.site.hoLeft == 0 then m.modSite fun x => { x with hoLeft := 3 } else m
/-- CLR_CNT. -/
def Mach.cmdSiteClr (m : Mach) : Mach :=
  m.modSite fun x => { x with cntOk := 0, cntLost := 0, cntAuth := 0, cntReplay := 0, cntEras := 0, cntRs := 0 }

/-- Apply an effect on a part that has the link. -/
def Mach.ifX (f : Mach → Mach) (m : Mach) : Mach := if m.dev.part.isX then f m else m

/-- SITE.CMD PUBLISH (R382). -/
def execPublish (s : State) : Out := .next (s.on (Mach.ifX Mach.cmdPublish))
/-- SITE.CMD LEAVE (R376). -/
def execLeave (s : State) : Out := .next (s.ctl (Mach.ifX Mach.siteLeave))
/-- SITE.CMD HANDOVER (R378). -/
def execHandover (s : State) : Out := .next (s.on (Mach.ifX Mach.cmdHandover))
/-- SITE.CMD CLR_CNT (R389). -/
def execSiteClrCnt (s : State) : Out := .next (s.on (Mach.ifX Mach.cmdSiteClr))

end Sys2Proof.Machine
end

