-- ==== Sys2Proof/Machine/Commit.lean ====
section
/-! DEFINITION. The commit engine: requests and their checks, capture, apply, abort, discard and the arming of
TAKE_CONTROL (R54, R59 to R72, R87, R97 to R99, R150, R188 to R196, R210 to R213, R224, R225, R238, R295, R495). -/

namespace Sys2Proof.Machine

/-! ## Requests -/

/-- A commit request (R60). -/
structure CommitReq where
  mask    : BitVec 64
  ctl     : Word
  tick    : Time
  tag     : Word
  ringTag : Option Tag

/-- A refusal: reason code, first offending page and the channels that receive fault 0xF (R65, R67, R495). -/
structure Refused where
  reason : Nat
  page   : Nat
  chs    : List Nat

/-- APPLY and REFTB of CMT.CTL. -/
def applyOf (ctl : Word) : Nat := fld ctl 0 2
def refTbOf (ctl : Word) : Nat := fld ctl 4 3
/-- BOUNDARY or MID. -/
def atReload (ctl : Word) : Bool := applyOf ctl == 1 || applyOf ctl == 2

/-- Pages a mask names, lowest first. -/
def maskPages (mask : BitVec 64) : List Nat := ((List.range 64).filter mask.getLsbD).map maskBitPage

/-- The mask of CMT.MASK0 to CMT.MASK3 and the target of CMT.TICK (R59). -/
def Mach.maskReg (m : Mach) : BitVec 64 := m.cfg 0x050B ++ m.cfg 0x050A ++ m.cfg 0x0509 ++ m.cfg 0x0508
def Mach.tickReg (m : Mach) : Time := m.cfg 0x050F ++ m.cfg 0x050E ++ m.cfg 0x050D

/-! ## The resulting configuration (R66) -/

/-- Staged words of the named pages. -/
def Mach.stagedOf (m : Mach) (pages : List Nat) : WMap := m.staged.filter fun p => pages.contains (pageOf p.1)

/-- Words laid over the active configuration, with the effective swap they give. -/
def Mach.overlay (ws : WMap) (m : Mach) : Mach :=
  let m := forList ws (fun p m => m.setCfg p.1 p.2) m
  forFin 16 (fun k m => m.modPair k fun q => { q with eff := bit (m.pairWord k) 2 != q.aswp }) m

/-- The configured compares of output `o` (R195). -/
def Mach.cmpCfg (m : Mach) (o : Nat) : Cmp × Cmp :=
  let a := m.cmpBase o
  (cmpOf (m.cfg a) (m.cfg (a + 1)), cmpOf (m.cfg (a + 2)) (m.cfg (a + 3)))

/-- The pulse of output `o` as configured, in its configured period (R202). -/
def Mach.shapeCfg (m : Mach) (o : Nat) : Shape :=
  let (per, p) := m.tbCfgPer (m.tbSel o).1
  (pulseShape (m.cmpCfg o).1 (m.cmpCfg o).2 per (m.fineOn p)).1

/-- Pulses per second of compare unit `o`; the odd unit of an INVERT pair pulses when the even one does (R66, R202, R225,
R239). -/
def Mach.unitRate (m : Mach) (o : Nat) : Rat :=
  let src := if o % 2 = 1 && m.inverts (o / 2) then o - 1 else o
  let k := (m.tbSel o).1
  let (per, p) := m.tbCfgPer k
  if (m.shapeCfg src).pulses then
    (48000000 : Rat) / ((2 ^ p * per : Nat) : Rat) * (1 + ((m.dither k).1 : Rat) / 128)
  else 0

/-- The rate a PWM or COIL channel counts: the larger of both units' where the pair may swap (R225). -/
def Mach.steadyRate (m : Mach) (n : Nat) : Rat :=
  let other := if n % 2 = 0 then n + 1 else n - 1
  if bit (m.pairWord (n / 2)) 2 || m.tachSwaps (n / 2) then max (m.unitRate n) (m.unitRate other) else m.unitRate n

/-- The switching rate of channel `n` (R66, R150). -/
def Mach.chanRate (m : Mach) (n : Nat) : Rat :=
  let md := fld (m.lw n 0x08) 0 2
  let chop : Rat := if chops (profileOf (m.lw n 0x28)) then (chopRate (fld (m.lw n 0x28) 4 2) : Rat) else 0
  match md with
  | 0 => 0
  | 1 => chop
  | 2 => max chop (m.steadyRate n)
  | _ => m.steadyRate n

/-- The aggregate switching rate in pulses/s. -/
def Mach.rateSum (m : Mach) : Rat := (m.allCh.map m.chanRate).foldl (· + ·) 0

/-- The continuous-current allocation of a channel or leader in 0.1 A; members add none (R98). -/
def Mach.alloc (m : Mach) (l : Nat) : Nat :=
  let rating := 120 * (m.members l).length
  let a := fld (m.cfg (adr (chPage l) 0x0A)) 0 9
  if m.leader l != l || fld (m.lw l 0x08) 0 2 = 0 then 0 else if a = 0 || rating < a then rating else a

/-- The aggregate allocation in 0.1 A. -/
def Mach.curSum (m : Mach) : Nat := (m.allCh.map m.alloc).foldl (· + ·) 0

/-! ## The checks (R65 to R67) -/

/-- Named pages without a mask bit or absent on the part. -/
def Mach.badPages (m : Mach) (pages : List Nat) : List Nat :=
  pages.filter fun p => !(maskPage p && headerPage m.dev.part p)

/-- Enabled outputs of the named pages that select another timebase, in the active configuration. -/
def Mach.mismatched (m : Mach) (pages : List Nat) (tb : Nat) : List Nat :=
  m.allOuts.filter fun o =>
    pages.contains (if o < 24 then chPage o else 0x07) && m.outEnabled o && (m.tbSel o).1 != tb

/-- Members of a group whose page holds a staged word at offsets 0x08 to 0x77 (R97). -/
def Mach.stagedMembers (m : Mach) (ws : WMap) : List Nat :=
  m.allCh.filter fun n => m.leader n != n &&
    ws.any fun p => pageOf p.1 == chPage n && 0x08 ≤ offOf p.1 && offOf p.1 ≤ 0x77

/-- Leaders of grouped pairs whose pair word has a function or SWAP (R224). -/
def Mach.groupedPairs (m : Mach) : List Nat :=
  m.allCh.filter fun n => m.leader n == n && (List.range 12).any fun k =>
    m.pairGrouped k && m.leader (2 * k) == n && (m.inverts k || bit (m.pairWord k) 2)

/-- A staged limit of channel `n` exceeds its ceiling (R65, R105, R143). -/
def Mach.aboveCeiling (m : Mach) (ws : WMap) (n : Nat) : Bool :=
  let staged (off : Nat) : Option Word := ws.get? (adr (chPage n) off)
  let lim (w : Word) : Bool := decide (m.ilimCeil n < ilimValue (fld w 0 8))
  let clt (w : Word) : Bool := decide (m.clCeil n < fld w 8 4)
  ((staged 0x10).map fun w => lim w || clt w).getD false ||
  ((staged 0x11).map fun w => decide (m.itripCeil n < itripCount (fld w 0 8))).getD false ||
  ((staged 0x29).map fun w => (fld w 0 8 != 0 && lim w) || clt w).getD false

/-- A staged watchdog timeout exceeds its OTP ceiling (R296). -/
def Mach.wdgAbove (m : Mach) (ws : WMap) : Bool :=
  m.wdgReq && ((ws.get? 0x0B09).map fun w => decide (m.wdgCeil < max 1 (fld w 0 12))).getD false

/-- Named contributors, or every contributor when none is named (R67). -/
def contributors (pages all : List Nat) : List Nat :=
  let named := all.filter fun n => pages.contains (chPage n)
  if named.isEmpty then all else named

/-- Join two lists of channels in ascending order. -/
def Mach.joinChs (m : Mach) (a b : List Nat) : List Nat := m.allCh.filter fun n => a.contains n || b.contains n

/-- A refusal on some channels: the first page is the lowest of theirs (R495). -/
def refuseOn (reason : Nat) (chs : List Nat) : Option Refused :=
  match chs with
  | [] => none
  | n :: _ => some ⟨reason, chPage n, chs⟩

/-- The channels over the switching budget (R66, R67, R99). -/
def Mach.overBudget (m : Mach) (pages : List Nat) : List Nat :=
  let single := m.allCh.filter fun n => decide (25000 < m.chanRate n)
  let sum := if 100000 < m.rateSum then contributors pages (m.allCh.filter fun n => decide (0 < m.chanRate n)) else []
  m.joinChs single sum

/-- The checks on the resulting configuration `r` (R66). -/
def Mach.checkResult (m r : Mach) (ws : WMap) (pages : List Nat) : Option Refused :=
  let group := m.joinChs (m.stagedMembers ws) r.groupedPairs
  let above := m.allCh.filter (m.aboveCeiling ws)
  if !group.isEmpty then refuseOn 0x09 group
  else if m.wdgAbove ws then some ⟨0x0A, 0x0B, above⟩
  else if !above.isEmpty then refuseOn 0x0A above
  else if 1600 < r.curSum then refuseOn 0x0B (contributors pages (m.allCh.filter fun n => decide (0 < r.alloc n)))
  else refuseOn 0x0C (r.overBudget pages)

/-- The checks that come before it, in the order of R65. -/
def Mach.checkRequest (m : Mach) (q : CommitReq) : Option Refused :=
  let pages := maskPages q.mask
  let tb := refTbOf q.ctl
  let ahead := (q.tick - m.time).toNat
  if pages.isEmpty then some ⟨0x01, 0, []⟩
  else if !(m.badPages pages).isEmpty then some ⟨0x01, nth (m.badPages pages) 0 0, []⟩
  else if m.cmt.pend.isSome then some ⟨0x02, 0, []⟩
  else if m.devState = 4 || m.devState = 5 || !m.clk.refOk then some ⟨0x03, 0, []⟩
  else if m.cmt.takeArmed && m.takeBlock then some ⟨0x04, 0, []⟩
  else if atReload q.ctl && !(m.tb tb).counting then some ⟨0x05, 0, []⟩
  else if atReload q.ctl && !(m.mismatched pages tb).isEmpty then
    let chs := (m.mismatched pages tb).filter (· < 24)
    some ⟨0x06, (chs.head?.map chPage).getD 0, chs⟩
  else if applyOf q.ctl = 3 && (ahead = 0 || decide (2 ^ 47 ≤ ahead)) then some ⟨0x07, 0, []⟩
  else if applyOf q.ctl = 3 && decide (2 ^ 31 < ahead) then some ⟨0x08, 0, []⟩
  else none

/-! ## Interleave placement at a commit (R238) -/

/-- What a placement of timebase `k` depends on: period, participation, compares and mode of its outputs. -/
def Mach.ilvKey (m : Mach) (k : Nat) : (Nat × Nat) × List (Nat × Bool × (Cmp × Cmp) × Nat) :=
  (m.tbCfgPer k, (m.unitsOn k).map fun o =>
    (o, m.ilvPart o, m.cmpCfg o, if o < 24 then fld (m.lw o 0x08) 0 2 else 0))

/-- The slots the commit loads: a placement of each timebase it changes; what no longer takes part has slot 0. -/
def Mach.placeAll (m r : Mach) : List (Nat × Nat) :=
  ((List.range 8).filter fun k => m.ilvKey k != r.ilvKey k).flatMap fun k =>
    let us := r.unitsOn k
    r.placeSlots us (r.tbCfgPer k).1 m.ilvWeight r.shapeCfg ++
      ((us.filter fun o => !r.ilvPart o &&
        ((m.out o).slot != 0 || (m.out o).slotPend.isSome || (m.out o).slotHeld.isSome)).map fun o => (o, 0))

/-! ## Request and capture -/

/-- Fault 0xF (R67, R68): written over 0x0 only, with no fault record. -/
def Mach.commitFault (n : Nat) (m : Mach) : Mach :=
  if (m.ch n).flt.code = 0 then m.writeCode n 0xF 0 else m.addHist n 0x8000

/-- Channels as a mask. -/
def chMask (chs : List Nat) : BitVec 24 := chs.foldl (fun x n => x ||| BitVec.ofNat 24 (2 ^ n)) 0

/-- A request is refused (R67). -/
def Mach.refuse (q : CommitReq) (x : Refused) (m : Mach) : Mach :=
  (forList x.chs Mach.commitFault m).recordLr 0x0002 m.cmt.seq q.tag (wd (x.page * 256 + x.reason)) (chMask x.chs) q.ringTag

/-- The staged words of the named pages are captured (R61). -/
def Mach.capture (q : CommitReq) (ws : WMap) (slots : List (Nat × Nat)) (m : Mach) : Mach :=
  let p : Pending :=
    { mask := q.mask, ctl := q.ctl, tick := q.tick, tag := q.tag, seq := m.cmt.seq, words := ws, slots := slots,
      capAt := m.now, held := false, ringTag := q.ringTag }
  { m with staged := m.staged.filter fun x => !(maskPages q.mask).contains (pageOf x.1),
           cmt := { m.cmt with pend := some p } }

/-- A commit request is raised (R60, R61): CMT.SEQ advances, from 0xFFFF to 0x0001, and the checks run. -/
def Mach.request (q : CommitReq) (m : Mach) : Mach :=
  let seq : Word := if m.cmt.seq = 0xFFFF then 1 else m.cmt.seq + 1
  let m := { m with cmt := { m.cmt with seq := seq, pulseRate := 0, curSum := 0 } }
  match m.checkRequest q with
  | some x => m.refuse q x
  | none =>
    let pages := maskPages q.mask
    let ws := m.stagedOf pages
    let r := m.overlay ws
    let m := { m with cmt := { m.cmt with pulseRate := wd (min 0xFFFF (roundHalfUp (r.rateSum / 10)).toNat),
                                          curSum := sat16 r.curSum } }
    match m.checkResult r ws pages with
    | some x => m.refuse q x
    | none => m.capture q ws (m.placeAll r)

/-- A write to CMT.COMMIT (R60). -/
def Mach.cmdCommit (tag : Word) (m : Mach) : Mach :=
  if m.dev.phase == .running then
    m.request { mask := m.maskReg, ctl := m.cfg 0x050C, tick := m.tickReg, tag := tag, ringTag := none }
  else m

/-- COMMIT_REQUEST: the written value is the host tag. -/
def execCommitRequest (tag : Word) (s : State) : Out := .next (s.ctl (Mach.cmdCommit tag))

/-! ## Apply (R62, R63) -/

/-- The commit applies at a zero of timebase `k` itself. -/
def Pending.bound (p : Pending) (k : Nat) : Bool := applyOf p.ctl == 1 && refTbOf p.ctl == k

/-- The commit applies at a half-period point of timebase `k` itself. -/
def Pending.midBound (p : Pending) (k : Nat) : Bool := applyOf p.ctl == 2 && refTbOf p.ctl == k

/-- The commit transferred a compare word of output `o` (R210). -/
def Mach.cmpTransferred (m : Mach) (p : Pending) (o : Nat) : Bool :=
  (List.range 4).any fun i => (p.words.get? (m.cmpBase o + i)).isSome

/-- RUN of timebase `k` changes (R189, R190). -/
def Mach.applyRun (old : Mach) (p : Pending) (k : Nat) (m : Mach) : Mach :=
  if m.tbRun k && !old.tbRun k then
    m.modTb k fun t => { t with startReq := !t.counting, stopping := false, stopNext := false }
  else if !m.tbRun k && old.tbRun k then m.modTb k fun t => { t with stopping := t.running, stopNext := t.running && p.bound k, startReq := false }
  else m

/-- The waiting set of an update-lock hold that begins or is formed anew (R210, R212). -/
def Mach.waitSet (m : Mach) (p : Pending) (k : Nat) : List Nat :=
  (m.unitsOn k).filter fun o => m.outEnabled o && !m.cmpTransferred p o && !((m.tb k).ulk && (m.out o).held)

/-- Outputs as a mask. -/
def outMask (os : List Nat) : BitVec 32 := os.foldl (fun x o => x ||| BitVec.ofNat 32 (2 ^ o)) 0

/-- The period of timebase `k` is transferred: held where an update-lock hold begins or goes on, else awaiting its zero
(R191, R210, R212). -/
def Mach.applyPeriod (p : Pending) (k : Nat) (m : Mach) : Mach :=
  let ws := m.waitSet p k
  let t := m.tb k
  let new := t.ulk || m.tbCfgPer k != t.pend.getD (t.perBase, t.presc)
  let hold := m.tbUlock k && t.counting && new && !ws.isEmpty
  m.modTb k fun t =>
    if hold then { t with pend := some (m.tbCfgPer k), ulk := true, ulkWait := outMask ws, ulkEnd := false,
                          ulkZeros := if t.ulk then t.ulkZeros else 0,
                          pendNow := if t.ulk then t.pendNow else p.bound k }
    else { t with pend := some (m.tbCfgPer k), pendAt := m.now, pendNow := p.bound k, ulkWait := 0,
                  ulkEnd := t.ulk, ulkEndAt := m.now }

/-- An update-lock hold without a further period: outputs leave the waiting set, and it may become empty; ULOCK cleared
ends the hold at the next sampled zero (R211, R213). -/
def Mach.applyHoldOn (p : Pending) (k : Nat) (m : Mach) : Mach :=
  let t := m.tb k
  if !t.ulk then m
  else if !m.tbUlock k then m.modTb k fun t => { t with ulkEnd := true, ulkEndAt := m.now }
  else
    let stay := (m.unitsOn k).filter fun o => t.ulkWait.getLsbD o && m.outEnabled o && !m.cmpTransferred p o
    let wasEmpty := t.ulkWait == 0
    m.modTb k fun t =>
      if stay.isEmpty && !wasEmpty then
        { t with ulkWait := 0, ulkEnd := true, ulkEndAt := m.now, pendNow := p.bound k }
      else { t with ulkWait := outMask stay }

/-- The commit transferred a period word of timebase `k`, or changed its prescaler (R191). -/
def Mach.perTransferred (old : Mach) (p : Pending) (k : Nat) (m : Mach) : Bool :=
  (p.words.get? (tbBase k + 1)).isSome || (p.words.get? (tbBase k + 2)).isSome ||
    (m.tbCfgPer k).2 != (old.tbCfgPer k).2

/-- What the transfer does to timebase `k`. -/
def Mach.applyTb (old : Mach) (p : Pending) (k : Nat) (m : Mach) : Mach :=
  let m := Mach.applyRun old p k m
  if Mach.perTransferred old p k m then m.applyPeriod p k else m.applyHoldOn p k

/-- The compares of output `o` are transferred (R196, R211). At a point of the output's own timebase those that load there
load with it: UPD = ZERO_MID at a half-period point (R193). -/
def Mach.applyCmp (p : Pending) (o : Nat) (m : Mach) : Mach :=
  if m.cmpTransferred p o then
    let (k, upd) := m.tbSel o
    m.modOut o fun u =>
      { u with pend := some (m.cmpCfg o), pendAt := m.now, pendNow := p.bound k || (p.midBound k && upd == 1),
               held := (m.tb k).ulk }
  else m

/-- Timebase `k` is stopped and no zero is about to start it: what awaits a zero of it loads at once (R196). -/
def Mach.stopped (m : Mach) (k : Nat) : Bool := !(m.tb k).counting && !(m.tb k).startReq

/-- Transferred compares of output `o` that await no point load at once (R196): UPD = TRANSFER, or a stopped timebase,
which the transfer may have selected. With a BOUNDARY of the output's timebase the period that starts there is the one
they load in, so they load at its zero. An output moved off a holding timebase is not held (R211). -/
def Mach.applyLoad (old : Mach) (p : Pending) (o : Nat) (m : Mach) : Mach :=
  let (k, upd) := m.tbSel o
  let m := m.modOut o fun u => { u with held := u.held && (m.tb k).ulk }
  let moved := m.tbSel o != old.tbSel o
  if !(m.out o).held && ((m.cmpTransferred p o && upd = 2 && !p.bound k) || ((m.cmpTransferred p o || moved) && m.stopped k)) then
    m.loadNow o
  else m

/-- A placed slot awaits the zero of UPD = ZERO; an update-lock hold keeps it (R238), a stopped timebase does not. -/
def Mach.applySlot (p : Pending) (x : Nat × Nat) (m : Mach) : Mach :=
  let k := (m.tbSel x.1).1
  if (m.tb k).ulk && !m.stopped k then m.modOut x.1 fun u => { u with slotHeld := some x.2 }
  else
    let m := m.modOut x.1 fun u => { u with slotPend := some x.2, slotAt := m.now, slotNow := p.bound k }
    if m.stopped k then m.loadSlot x.1 else m

/-- A change of SWAP awaits a zero of the pair's timebase, unless that is stopped; other changes of the pair word act at
once (R220 to R223). -/
def Mach.applyPair (old : Mach) (p : Pending) (k : Nat) (m : Mach) : Mach :=
  let tb := (m.tbSel (2 * k)).1
  let sw := bit (m.pairWord k) 2
  let m := if sw != bit (old.pairWord k) 2 then
      let m := m.modPair k fun q => { q with swapAt := m.now, pendNow := p.bound tb }
      if m.stopped tb then ((m.modPair k fun q => { q with pendNow := false }).setSwap k sw (m.pair k).aswpIn).drivePair (2 * k)
      else m
    else m
  let moved (o : Nat) : Bool := m.tbSel o != old.tbSel o
  if m.pairWord k != old.pairWord k || moved (2 * k) || moved (2 * k + 1) then
    (((onlyIf (moved (2 * k)) (Mach.setUnit (2 * k))) m) |> onlyIf (moved (2 * k + 1)) (Mach.setUnit (2 * k + 1))
      |> Mach.judgeDt k |> Mach.drivePair (2 * k))
  else m

/-- TRIP.INj.EN, TRIP.CLIM and the DITH_BLK bits follow the new words (R231, R242). -/
def Mach.applyTrips (m : Mach) : Mach :=
  let rises := (List.finRange 4).filter fun (j : Fin 4) =>
    m.trips[j].filt && bit (m.cfg (adr 0x08 (0x08 + j))) 8 && !m.trips[j].asserted
  let m := { m with trips := vmap m.trips fun j t => { t with asserted := t.filt && bit (m.cfg (adr 0x08 (0x08 + j))) 8 } }
  let m := forList rises (fun j m => m.event 0x08 (wd (2 ^ j.val))) m
  let m := forList m.allCh (fun n m =>
    if fld (m.cfg (adr 0x08 (0x18 + n / 2))) (8 * (n % 2)) 8 = 0 then
      m.modCh n fun c => { c with prot := { c.prot with clim := false } }
    else m) m
  forList ((List.range 8).map (24 + ·)) Mach.judgeDith m

/-- A changed retry bucket or policy (R156): TOKENS never exceeds CAP; the refill timer runs under BUDGETED below
capacity. -/
def Mach.applyBucket (l : Nat) (m : Mach) : Mach :=
  m.modCh l fun c =>
    let tok := min c.rty.tokens (m.bktCap l)
    let run := m.policy l == 4 && decide (tok < m.bktCap l)
    { c with rty := { c.rty with tokens := tok, refill := run,
                                 refillAt := if run && !c.rty.refill then m.now else c.rty.refillAt } }

/-- Pages the commit names: their channels' escalation counts restart (R124) and code 0xF clears, on every member for a
leader's page (R68). -/
def Mach.applyNamed (pages : List Nat) (n : Nat) (m : Mach) : Mach :=
  if pages.contains (chPage n) then
    let m := m.modCh n fun c => { c with prot := { c.prot with escCnt := 0 } }
    forList (if m.leader n = n then m.members n else [n]) (fun k m => m.clearIf k [0xF]) m
  else m

/-- TAKE_CONTROL (R295): governed mode, the watchdog starts, LIMP.LAST_DUR is the interval in 0.1 s. -/
def Mach.takeControl (m : Mach) : Mach :=
  let m := { m with dev := { m.dev with governed := true }, cmt := { m.cmt with takeArmed := false },
                    limp := { m.limp with lastDur := min 0xFFFF ((m.lf - m.limp.entryAt) / 100000) } }
  (m.startWdg).event 0x0B 0x0002

/-- The modes: each channel passes from its limp-map entry to its governed mode (R295), or follows its mode word
(R87, R88); outputs held in SAFE after REFCLK are released (R73). -/
def Mach.applyModes (old : Mach) (take : Bool) (m : Mach) : Mach :=
  let m :=
    if take then forList m.leaders Mach.limpLeave m.takeControl
    else if m.dev.governed then
      forList m.leaders (fun l m => if m.mode l != old.mode l then m.applyMode l (old.mode l) else m) m
    else m
  if m.dev.governed && (m.clk.refSafe || m.clk.epwmSafe) then
    ({ m with clk := { m.clk with refSafe := false, epwmSafe := false } }).endSafe
  else m

/-- The LA group, the event and the COMMIT completion (R62, R63). -/
def Mach.applyReport (p : Pending) (m : Mach) : Mach :=
  let pc := (m.tb (refTbOf p.ctl)).pcnt
  let la := if applyOf p.ctl = 1 then pc + 1 else pc
  let m := { m with cmt := { m.cmt with laSeq := p.seq, laTag := p.tag, laPcnt := la,
                                        laTick := if applyOf p.ctl = 3 then p.tick else m.time } }
  ((m.eventOwn 0x05 0x0001 (commitEntry m 1 p.seq 0 p.tag)).endCommitTag p.ringTag stOk p.seq 0).noteState

/-- The transfer: all captured words of all named pages in one step (R62). -/
def Mach.transfer (p : Pending) (old : Mach) : Mach :=
  let pages := maskPages p.mask
  let take := old.cmt.takeArmed && !old.dev.governed
  let m := forList p.words (fun x m => m.setCfg x.1 x.2) { old with cmt := { old.cmt with pend := none } }
  let m := forList (List.range 8) (Mach.applyTb old p) m
  let m := forList m.units (Mach.applyCmp p) m
  let m := forList p.slots (Mach.applySlot p) m
  let m := forList (List.range 16) (Mach.applyPair old p) m
  let m := m.applyTrips
  let changed (a : Nat) : Bool := m.cfg a != old.cfg a
  let m := if m.dev.governed && (changed 0x0B08 || changed 0x0B09) then m.startWdg else m
  let m := forList m.leaders (fun l m =>
    if changed (adr (chPage l) 0x33) || changed (adr (chPage l) 0x30) then m.applyBucket l else m) m
  let m := forList m.allCh (Mach.applyNamed pages) m
  let m := Mach.applyModes old take m
  let m := forList m.units (Mach.applyLoad old p) m
  let m := m.judgeAll
  let m := if changed 0x0F08 || changed 0x0F09 || changed 0x0F0A then m.siteChanged
    else if changed 0x0F0B || changed 0x0F0C then m.siteReport else m
  let m := (((Mach.edgePins old m).actCuts).tachSettle).learnCheck
  let m := forList ((List.range 4).filter fun i => (m.tach i).armed) Mach.judgeSlow m
  m.applyReport p

/-- The pending commit's apply point is reached (R62, R63): a reload must have sampled the token after the capture. -/
def Mach.applyDue (m : Mach) (p : Pending) : Bool :=
  match applyOf p.ctl with
  | 0 => true
  | 3 => decide ((m.time - p.tick).toNat ≤ 2)
  | _ => (m.tb (refTbOf p.ctl)).counting && m.sampled p.capAt

/-- COMMIT_APPLY: refused with HELD when the state forbids it since the capture (R67). -/
def Mach.applyPending (m : Mach) : Mach :=
  match m.cmt.pend with
  | some p => if p.held then m.dropPending 0x03 else if m.applyDue p then m.transfer p else m
  | none => m

/-- COMMIT_APPLY (R62). -/
def execCommitApply (s : State) : Out := .next (s.ctl Mach.applyPending)

/-! ## Commands -/

/-- CMT.CMD.ABORT (R64). -/
def Mach.cmdAbort (m : Mach) : Mach := m.dropPending 0x0E
/-- CMT.CMD.DISCARD (R59). -/
def Mach.cmdDiscard (m : Mach) : Mach :=
  { m with staged := m.staged.filter fun x => !(maskPages m.maskReg).contains (pageOf x.1) }
/-- A write of 0x7A4C to CMT.TAKE (R69). -/
def Mach.cmdTakeArm (m : Mach) : Mach :=
  if m.dev.phase == .running && !m.dev.governed then { m with cmt := { m.cmt with takeArmed := true } } else m
/-- A write of any other value to CMT.TAKE. -/
def Mach.cmdTakeDisarm (m : Mach) : Mach := { m with cmt := { m.cmt with takeArmed := false } }

/-- ABORT. -/
def execAbort (s : State) : Out := .next (s.ctl Mach.cmdAbort)
/-- DISCARD. -/
def execDiscard (s : State) : Out := .next (s.on Mach.cmdDiscard)
/-- TAKE_CONTROL_ARM. -/
def execTakeControlArm (s : State) : Out := .next (s.ctl Mach.cmdTakeArm)
/-- TAKE_CONTROL_DISARM. -/
def execTakeControlDisarm (s : State) : Out := .next (s.ctl Mach.cmdTakeDisarm)

end Sys2Proof.Machine
end

