-- ==== Sys2Proof/Machine/Otp.lean ====
section
/-! DEFINITION. One-time-programmable memory: the array, its codes and region states, the sense sequencer, refresh, the
programming window, and the two long operations on it (R393 to R419). -/

namespace Sys2Proof.Machine

/-- Change the OTP words of the machine. -/
def Mach.modOtp (f : Otp → Otp) (m : Mach) : Mach := { m with otp := f m.otp }

/-! ## Regions and words (R393, R395) -/

/-- Triple-cell regions FT, CA and CB. -/
def regionTriple (r : Nat) : Bool := r == 0 || r == 2 || r == 3
/-- Triple-cell words. -/
def wordTriple (i : Nat) : Bool := decide (i < 32) || (decide (40 ≤ i) && decide (i < 72))
/-- Words of region `r`. -/
def regionWords (r : Nat) : List Nat := (List.range (regionLen r)).map (regionBase r + ·)

/-- The mask word a secret word is stored under: the first of a pair under W28, the second under W29 (R395; log entry
19). -/
def maskWord (i : Nat) : Option Nat :=
  if i = 36 ∨ i = 80 ∨ i = 84 then some 28 else if i = 37 ∨ i = 81 ∨ i = 85 then some 29 else none
/-- Secret words: the mask, the device secret, the key words of SK (R395). -/
def secretWord (i : Nat) : Bool := i == 28 || i == 29 || (maskWord i).isSome

/-! ## The SECDED code (R394) -/

/-- Positions of data bits d0 to d63: the integers from 3 upward that are no power of two. -/
def secPos : List Nat := (List.range 72).filter fun p => 3 ≤ p && p &&& (p - 1) != 0

/-- Number of ones of `w` among some bits, modulo 2. -/
def parity {n : Nat} (w : BitVec n) (l : List Nat) : Bool := l.foldl (fun x i => x != w.getLsbD i) false

/-- Check bits c0 to c6 of a data word. -/
def secLow (d : BitVec 64) : BitVec 7 :=
  (List.range 7).foldl (fun x i =>
    if parity d ((List.range 64).filter fun j => (nth secPos j 0).testBit i) then x ||| BitVec.ofNat 7 (2 ^ i) else x) 0

/-- The check bits c0 to c7 of a data word. -/
def secCheck (d : BitVec 64) : Byte :=
  let c := secLow d
  let p := parity d (List.range 64) != parity c (List.range 7)
  BitVec.ofBool p ++ c

/-- A read of a SECDED word: data, corrected, uncorrectable. One erroneous cell is corrected, two are detected; a pattern
that fits no single cell counts as two. -/
def secDecode (c : BitVec 72) : BitVec 64 × Bool × Bool :=
  let d := c.extractLsb' 0 64
  let syn := ((secLow d) ^^^ c.extractLsb' 64 7).toNat
  let odd := parity c (List.range 72)
  if syn = 0 then (d, odd, false)
  else if !odd then (d, false, true)
  else if syn &&& (syn - 1) = 0 then (d, true, false)
  else match secPos.findIdx? (· == syn) with
    | some j => (d ^^^ BitVec.ofNat 64 (2 ^ j), true, false)
    | none => (d, false, true)

/-! ## Reading the array (R396, R399) -/

/-- A word whose cells have never been programmed. -/
def OtpWord.blank : OtpWord := ⟨0, 0, 0, 0, 0, 0⟩

/-- Word `i` of the array. -/
def NonVol.word (nv : NonVol) (i : Nat) : OtpWord := ((nv.otp.find? fun p => p.1 == i).map (·.2)).getD .blank

/-- Store a word, in rising order of index; a blank word is not listed. -/
def otpInsert (l : List (Nat × OtpWord)) (i : Nat) (w : OtpWord) : List (Nat × OtpWord) :=
  match l with
  | [] => [(i, w)]
  | (k, v) :: t => if i < k then (i, w) :: (k, v) :: t else if i = k then (i, w) :: t else (k, v) :: otpInsert t i w
def NonVol.setWord (i : Nat) (w : OtpWord) (nv : NonVol) : NonVol :=
  { nv with otp := if w = .blank then nv.otp.filter fun p => p.1 != i else otpInsert nv.otp i w }

/-- The normal-level read of a word: value, CORR and UNCORR. -/
def NonVol.read (nv : NonVol) (i : Nat) : BitVec 64 × Bool × Bool :=
  let w := nv.word i
  if wordTriple i then
    let maj := (w.c0 &&& w.c1) ||| (w.c0 &&& w.c2) ||| (w.c1 &&& w.c2)
    (maj.extractLsb' 0 64, !(w.c0 == w.c1 && w.c1 == w.c2), false)
  else secDecode w.c0

/-- Some cell of the word reads differently at a margin level. -/
def NonVol.marginal (nv : NonVol) (i : Nat) : Bool := let w := nv.word i; w.h0 != 0 || w.h1 != 0 || w.h2 != 0

/-- Some cell of the word reads 1 at normal level. -/
def NonVol.anyCell (nv : NonVol) (i : Nat) : Bool := let w := nv.word i; w.c0 != 0 || w.c1 != 0 || w.c2 != 0

/-- The lock of region `r` reads blown: 12 of its 16 LOCK cells read 1 (R399). -/
def NonVol.locked (nv : NonVol) (r : Nat) : Bool :=
  let c := (nv.word (120 + r)).c0
  decide (12 ≤ ((List.range 16).filter fun i => c.getLsbD (48 + i)).length)

/-- The CRC field of a region's seal word. -/
def NonVol.sealCrc (nv : NonVol) (r : Nat) : BitVec 32 := (nv.read (120 + r)).1.extractLsb' 0 32

/-- A word as bytes, bit 63 first. -/
def wordBytes (w : BitVec 64) : List Byte := beBytes 8 w.toNat

/-- Word `k` of the scramble mask among latched words; when FT is not SEALED there is none to use, and what takes its place is
open (R402; log entry 19). -/
def maskOf (ft : Bool) (ws : List (BitVec 64)) (k : Nat) : BitVec 64 := if ft then nth ws k 0 else Config.noMask k

/-- The plaintext of word `i` among latched words, secret words descrambled; `ft` says that FT is SEALED. -/
def plainOf (ft : Bool) (ws : List (BitVec 64)) (i : Nat) : BitVec 64 :=
  match maskWord i with
  | some k => nth ws i 0 ^^^ maskOf ft ws k
  | none => nth ws i 0

/-- The CRC over region `r` of latched words (R399). -/
def regionCrc (ft : Bool) (ws : List (BitVec 64)) (r : Nat) : BitVec 32 :=
  crc32 ((regionWords r).flatMap fun i => wordBytes (plainOf ft ws i))

/-- The state of region `r` (R400): 0 BLANK, 1 OPEN, 2 SEALED, 3 SEALED_INVALID. -/
def NonVol.regionState (nv : NonVol) (ft : Bool) (ws : List (BitVec 64)) (r : Nat) : Nat :=
  if nv.locked r then (if regionCrc ft ws r = nv.sealCrc r then 2 else 3)
  else if (regionWords r).any nv.anyCell then 1 else 0

/-- Set bit `i` of a bitmap. -/
def setBit {n : Nat} (w : BitVec n) (i : Nat) (b : Bool) : BitVec n :=
  if b then w ||| BitVec.ofNat n (2 ^ i) else w &&& ~~~ BitVec.ofNat n (2 ^ i)

/-- A bitmap of the words that satisfy a property. -/
def wordMap (p : Nat → Bool) : BitVec 128 := (List.range 128).foldl (fun x i => setBit x i (p i)) 0

/-- A lifecycle field is asserted: 6 of its 8 bits read 1 (R408). -/
def lcField (w : BitVec 64) (lo : Nat) : Bool := decide (6 ≤ ((List.range 8).filter fun i => w.getLsbD (lo + i)).length)

/-- The use of the two copies of KD or SK (R406): index of the copy used, one only, lockout. -/
def copyChoice (st : Nat) (ia ib eq : Bool) : Option Nat × Bool × Bool :=
  match st with
  | 2 =>
    if ia && ib then (if eq then (some 0, false, false) else (none, false, true))
    else if ia then (some 0, true, false)
    else if ib then (some 1, true, false)
    else (none, false, true)
  | 3 => (none, false, true)
  | _ => (none, false, false)

/-- The active customer region (R401): 0 CA, 1 CB, 2 DEFAULTS. -/
def customerSrc (ca cb : Nat) : Nat :=
  if ca = 1 ∨ ca = 2 then 0 else if cb = 1 ∨ cb = 2 then 1 else 2

/-- What the sense sequencer reads and decides (R396 to R408). -/
def NonVol.sense (nv : NonVol) : Otp :=
  let ws := (List.range 128).map fun i => (nv.read i).1
  let un := wordMap fun i => (nv.read i).2.2
  let ft := nv.regionState true ws 0 == 2
  let st := (List.range 7).map (nv.regionState ft ws)
  let intact (base len : Nat) : Bool :=
    ((List.range len).all fun i => !un.getLsbD (base + i)) && (List.range len).any fun i => nv.anyCell (base + i)
  let copy (base : Nat) : List (BitVec 64) := (List.range 4).map fun i => plainOf ft ws (base + i)
  let kd := copyChoice (nth st 4 0) (intact 72 4) (intact 76 4) (copy 72 == copy 76)
  let sk := copyChoice (nth st 5 0) (intact 80 4) (intact 84 4) (copy 80 == copy 84)
  let kdc := copy (if kd.1 = some 1 then 76 else 72)
  let skc := copy (if sk.1 = some 1 then 84 else 80)
  { Otp.reset with
    words := ws
    checks := (List.range 128).map fun i => if wordTriple i then 0 else (nv.word i).c0.extractLsb' 64 8
    region := st
    crcs := (List.range 7).map (regionCrc ft ws)
    src := customerSrc (nth st 2 0) (nth st 3 0)
    kdConf := kd.2.2, kdOne := kd.2.1, kdValid := kd.1.isSome
    skConf := sk.2.2, skOne := sk.2.1, skValid := sk.1.isSome
    kd := if kd.1.isSome then nth kdc 0 0 ++ nth kdc 1 0 ++ nth kdc 2 0 ++ nth kdc 3 0 else 0
    sk := if sk.1.isSome then nth skc 0 0 ++ nth skc 1 0 else 0
    skVer := if sk.1.isSome then ((nth skc 2 0).extractLsb' 0 8).toNat else 0
    rlSeal := lcField (nth ws 127 0) 0
    custClose := lcField (nth ws 127 0) 8
    marg := wordMap nv.marginal
    corr := wordMap fun i => (nv.read i).2.1
    uncorr := un }

/-! ## What the latches give the register file (R397, R403, R405, R250) -/

/-- The reset values that come from OTP: class, thermal parameters, site settings. -/
def Mach.otpResets (m : Mach) : List (Nat × Word) :=
  (m.allCh.map fun n => (adr (chPage n) 0x70, wd (m.entryFld n 10 2))) ++
  [(0x0A12, wd (m.custBits 13 0 16 1000)), (0x0A13, wd (m.custBits 13 16 16 100)), (0x0A14, wd (m.custBits 13 32 8 55)),
   (0x0A15, wd (m.custBits 13 40 14 1000)), (0x0A16, wd (m.custBits 14 0 16 3450))] ++
  (if m.dev.part.isX then
    [(0x0F08, wd (m.custBits 14 16 10 0)), (0x0F09, wd (m.custBits 14 26 16 0)), (0x0F0A, wd (m.custBits 14 42 9 100)),
     (0x0F0B, wd (m.custBits 14 51 12 0xFFF))]
   else [])

/-- The sense sequencer drives the latches. -/
def Mach.driveLatches (m : Mach) : Mach := forList m.otpResets (fun p m => m.setCfg p.1 p.2) m

/-- The events the sense sequencer found, latched at the end of STARTUP (R407, R419). -/
def Mach.otpEvents (m : Mach) : Word :=
  let o := m.otp
  wd (flag (o.marg != 0) 1 + flag (o.corr != 0) 2 + flag (o.uncorr != 0) 3 + flag (m.dev.part.isX && o.kdConf) 4 +
    flag (m.dev.part.isX && o.skConf) 5 +
    flag (m.region 2 == 3) 7)

/-! ## The programming window (R410, R411) -/

/-- A VPP above 5.0 V is the programming supply. -/
def Mach.vppOn (m : Mach) : Bool := decide (5000 < m.pwr.vppMv)
def Mach.winVdd (m : Mach) : Bool := m.pwr.vddOk && m.otp.winVdd
def Mach.winSupply (m : Mach) : Bool :=
  m.otp.winSup && (if m.vppOn then decide (6800 ≤ m.pwr.vppMv) && decide (m.pwr.vppMv ≤ 7200)
                   else decide (1200 ≤ m.pwr.vbb) && decide (m.pwr.vbb ≤ 5800))
/-- A healthy sensor reads 0 °C to 85 °C. -/
def Sensor.inWindow (x : Sensor) : Bool := decide (0 ≤ x.reading) && decide (x.reading ≤ 1360)
def Mach.winTemp (m : Mach) : Bool :=
  let dies := (m.allBanks.map m.sensor).filter fun x => x.got && !x.fail
  if !dies.isEmpty then dies.all Sensor.inWindow
  else (m.sensor 6).got && !(m.sensor 6).fail && (m.sensor 6).inWindow
/-- OTP.WIN.ALL_OK. -/
def Mach.winAll (m : Mach) : Bool := m.winVdd && m.winSupply && m.winTemp && m.clk.refOk

/-! ## The image and positions of a programming operation (R413, R414) -/

/-- Descriptor fields of OTP_PROGRAM and OTP_VERIFY. -/
def Infl.region (i : Infl) : Nat := fld (i.word 2) 0 3
def Infl.sealOnly (i : Infl) : Bool := bit (i.word 2) 10 && i.region != 7
def Infl.withSeal (i : Infl) : Bool := (bit (i.word 2) 8 || i.sealOnly) && i.region != 7
def Infl.imageAt (i : Infl) : Nat := sramIndex (fld (i.word 3) 0 6) (fld (i.word 3) 8 8)
/-- SRAM words of the image. -/
def Infl.imageLen (i : Infl) (withCrc : Bool) : Nat := 4 * regionLen i.region + (if withCrc then 2 else 0)
/-- The image passes word 255 of its page. -/
def Infl.imageTooLong (i : Infl) (withCrc : Bool) : Bool := decide (256 < fld (i.word 3) 8 8 + i.imageLen withCrc)

/-- Image word `j` in plaintext and the image's CRC field, among the SRAM words of the image as read. -/
def imageWord (img : List Word) (j : Nat) : BitVec 64 :=
  nth img (4 * j + 3) 0 ++ nth img (4 * j + 2) 0 ++ nth img (4 * j + 1) 0 ++ nth img (4 * j) 0
def imageCrc (img : List Word) (i : Infl) : BitVec 32 :=
  nth img (4 * regionLen i.region + 1) 0 ++ nth img (4 * regionLen i.region) 0

/-- Image word `j` as the array stores it. -/
def Mach.imageStored (m : Mach) (img : List Word) (i : Infl) (j : Nat) : BitVec 64 :=
  match maskWord (regionBase i.region + j) with
  | some k => imageWord img j ^^^ maskOf m.ftSealed m.otp.words k
  | none => imageWord img j

/-- The words of an image are read from SRAM (R46), and whether one of them was uncorrectable. -/
def State.readImage (i : Infl) (withCrc : Bool) (s : State) : List Word × Bool × State :=
  s.sramReads i.imageAt (i.imageLen withCrc)

/-- The seal word of a CRC, its LOCK bits set (R399, R414). -/
def sealWord (crc : BitVec 32) : BitVec 64 := (0xFFFF : BitVec 16) ++ (0 : BitVec 16) ++ crc

/-- The cells a stored word wants, data and check bits. -/
def cellsOf (triple : Bool) (w : BitVec 64) : BitVec 72 := if triple then w.setWidth 72 else secCheck w ++ w

/-- Write 0x0000 over every secret word of the image in SRAM (R415, R417). -/
def State.zeroSecrets (i : Infl) (s : State) : State :=
  forList ((List.range (regionLen i.region)).filter fun j => secretWord (regionBase i.region + j))
    (fun j s => s.sramSetList (i.imageAt + 4 * j) [0, 0, 0, 0]) s

/-- Data positions of a region. -/
def dataPositions (r : Nat) : Nat := (if regionTriple r then 64 else 72) * regionLen r

/-- Positions of an operation: D + 56 with a seal, D without. -/
def LongOp.endPos (o : LongOp) : Nat := dataPositions o.infl.region + (if o.infl.withSeal then 56 else 0)

/-- The word, bit and triple coding of position `k` (R413). -/
def LongOp.place (o : LongOp) (k : Nat) : Nat × Nat × Bool :=
  let r := o.infl.region
  let d := dataPositions r
  if k < d then
    if regionTriple r then (regionBase r + k / 64, k % 64, true) else (regionBase r + k / 72, k % 72, false)
  else
    let j := k - d
    (120 + r, if j < 32 then j else if j < 40 then 64 + (j - 32) else 48 + (j - 40), false)

/-- The image bit of position `k`: the operation holds the stored image words, the seal word last. -/
def LongOp.imageBit (o : LongOp) (k : Nat) : Bool :=
  let (w, b, triple) := o.place k
  let i := if w = 120 + o.infl.region && o.infl.region != 7 then regionLen o.infl.region else w - regionBase o.infl.region
  (cellsOf triple (BitVec.ofInt 64 (nth o.aux i 0))).getLsbD b

/-! ## The checks of an issue (R415) -/

/-- The reason an issue fails before its first pulse, in the order of R415; `img` are the words of its image, `ecc` says that
one was uncorrectable. -/
def State.programCheck (img : List Word) (ecc : Bool) (s : State) (i : Infl) : Option Nat :=
  let r := i.region
  let nv := s.nv
  let js := List.range (regionLen r)
  let stored (j : Nat) : BitVec 64 := s.m.imageStored img i j
  let crc := imageCrc img i
  let differs := (js.any fun j => (nv.read (regionBase r + j)).1 != stored j) ||
    (i.withSeal && nv.sealCrc r != crc)
  let sum := crc32 (js.flatMap fun j => wordBytes (imageWord img j))
  let clash (w : OtpWord) (triple : Bool) (v : BitVec 64) : Bool :=
    ((w.c0 ||| w.c1 ||| w.c2) &&& ~~~ cellsOf triple v) != 0
  let conflict := (js.any fun j => clash (nv.word (regionBase r + j)) (regionTriple r) (stored j)) ||
    (i.withSeal && clash (nv.word (120 + r)) false (sealWord crc))
  if r = 0 || r = 1 || (s.m.otp.custClose && r != 6) then some 4
  else if r != 7 && nv.locked r && differs then some 3
  else if ecc then some 5
  else if i.withSeal && !bit (i.word 2) 9 && sum != crc then some 6
  else if conflict then some 2
  else none

/-- The first pulse of an issue is due: the checks, the zeroing of secret image words, and the image taken (R415). -/
def State.programStart (o : LongOp) (s : State) : State :=
  let i := o.infl
  let (img, ecc, s) := s.readImage i i.withSeal
  match s.programCheck img ecc i with
  | some reason => s.on (Mach.failOp { o with prog := 0 } (wd reason))
  | none =>
    let cells := (List.range (regionLen i.region)).map fun j => ((s.m.imageStored img i j).toNat : Int)
    let cells := cells ++ [((sealWord (imageCrc img i)).toNat : Int)]
    (s.zeroSecrets i).on (Mach.modOp o fun x =>
      { x with aux := cells, prog := if i.sealOnly then dataPositions i.region else 0 })

/-! ## Pulses (R411, R412) -/

/-- Cell `c` of a word. -/
def OtpWord.cell (w : OtpWord) (c : Nat) : BitVec 72 × BitVec 72 :=
  match c with
  | 0 => (w.c0, w.h0) | 1 => (w.c1, w.h1) | _ => (w.c2, w.h2)
def OtpWord.setCell (c b : Nat) (v h : Bool) (w : OtpWord) : OtpWord :=
  match c with
  | 0 => { w with c0 := setBit w.c0 b v, h0 := setBit w.h0 b h }
  | 1 => { w with c1 := setBit w.c1 b v, h1 := setBit w.h1 b h }
  | _ => { w with c2 := setBit w.c2 b v, h2 := setBit w.h2 b h }

/-- A cell is set: it reads 1 at margin-high. -/
def OtpWord.isSet (w : OtpWord) (c b : Nat) : Bool := (w.cell c).1.getLsbD b && !(w.cell c).2.getLsbD b

/-- A cell that pulses have left unset: how it reads at normal level and at margin-low is open (R411; log entry 3), except
that it does not read 1 at margin-high. -/
def OtpWord.leaveOpen (w : OtpWord) (c b free : Nat) : OtpWord :=
  let v := (w.cell c).1.getLsbD b || free.testBit (2 * c)
  w.setCell c b v (v || free.testBit (2 * c + 1))

/-- Cells of a position. -/
def cellCount (triple : Bool) : List Nat := if triple then [0, 1, 2] else [0]

/-- The pulse in progress is cut: the cells of the present position that are not set may have taken charge (R411). -/
def State.cutPulse (s : State) : State :=
  match s.m.opRunning 0 with
  | some o =>
    if o.prog < o.endPos && o.imageBit o.prog then
      let (i, b, triple) := o.place o.prog
      let w := (cellCount triple).foldl (fun w c => if w.isSet c b then w else w.leaveOpen c b s.m.freeVal) (s.nv.word i)
      { s with nv := s.nv.setWord i w, m := s.m.nextFree }
    else s
  | none => s

/-- A running OTP operation suspends with cause WINDOW (R346, R411). -/
def Mach.otpSuspend (kind : Nat) (m : Mach) : Mach :=
  if (m.opRunning kind).isSome then (m.forceSuspend kind 2).event 0x0C 0x0040 else m

/-- The bitmaps take in words of the array as an OTP_VERIFY reads them (R417). -/
def State.noteWords (ws : List Nat) (s : State) : State :=
  let upd (x : BitVec 128) (p : Nat → Bool) : BitVec 128 := ws.foldl (fun x i => setBit x i (p i)) x
  s.on (Mach.modOtp fun x =>
    { x with marg := upd x.marg s.nv.marginal, corr := upd x.corr fun i => (s.nv.read i).2.1,
             uncorr := upd x.uncorr fun i => (s.nv.read i).2.2 })

/-- The words an OTP_VERIFY of region `r` reads, in order: the region's and its seal. -/
def verifyWords (r : Nat) : List Nat := regionWords r ++ (if r = 7 then [] else [120 + r])

/-- A running OTP_VERIFY stands where it has come (R346): its bitmaps and progress. -/
def State.verifyStep (s : State) : State :=
  match s.m.opRunning 1 with
  | some o =>
    let k := s.m.opProg o
    (s.noteWords (((verifyWords o.infl.region).take k).drop o.prog)).on
      (Mach.modOp o fun x => { x with prog := k, aux := [(s.m.now : Int)] })
  | none => s

/-- Both OTP operations lose VDD or REFCLK (R346, R411). -/
def State.otpLoseSupply (s : State) : State := s.cutPulse.verifyStep.on fun m => (m.otpSuspend 0).otpSuspend 1

/-- A condition of the window fails: programming ends its pulse and suspends; a verify needs VDD and REFCLK (R417). -/
def execOtpWindowViolation (c : WinCond) (s : State) : Out :=
  let s := s.on (Mach.modOtp fun o =>
    match c with
    | .vdd => { o with winVdd := false }
    | .supply => { o with winSup := false }
    | _ => o)
  .next (match c with
    | .vdd => s.otpLoseSupply
    | .supply => s.cutPulse.on (Mach.otpSuspend 0)
    | .temperature => if s.m.winTemp then s else s.cutPulse.on (Mach.otpSuspend 0)
    | .refclk => if s.m.clk.refOk then s else s.otpLoseSupply)

/-- VDD and the programming supply lie in their ranges again (R410). -/
def execProgrammingWindowMet (s : State) : Out :=
  .next (s.on (Mach.modOtp fun o => { o with winVdd := true, winSup := true }))

/-- VPP crosses its presence threshold; with it the programming supply changes (R410). A running program then meets the
window of its new supply. -/
def execVppPresence (mv : Nat) (s : State) : Out :=
  let s := s.on fun m => { m with pwr := { m.pwr with vppMv := mv } }
  .next (if s.m.winSupply then s else s.cutPulse.on (Mach.otpSuspend 0))

/-- The pulses and the verify of the present position are over (R412): `set` says which of its pulsed cells read 1 at
margin-high. -/
def State.programBit (set : BitVec 3) (o : LongOp) (s : State) : State :=
  let pass (s : State) : State := s.on (Mach.modOp o fun x => { x with prog := o.prog + 1 })
  if !o.imageBit o.prog then pass s
  else
    let (i, b, triple) := o.place o.prog
    let w := s.nv.word i
    let cells := cellCount triple
    let pulsed := cells.filter fun c => !w.isSet c b
    let weak := pulsed.filter fun c => !set.getLsbD c
    let w' := pulsed.foldl (fun w c =>
      if set.getLsbD c then w.setCell c b true false else w.leaveOpen c b s.m.freeVal) w
    let good := (cells.filter fun c => w'.isSet c b).length
    let s : State := { s with nv := s.nv.setWord i w', m := s.m.nextFree }
    let s := s.on (Mach.modOtp fun x =>
      { x with written := setBit x.written i (x.written.getLsbD i || !pulsed.isEmpty),
               weakCnt := if triple then min 0xFFFF (x.weakCnt + weak.length) else x.weakCnt })
    if (if triple then 2 ≤ good else good = 1) then pass s
    else s.on fun m => (m.modOtp fun x => { x with failK := o.prog }).failOp o 1

/-- OTP_BIT_PROGRAM (R412, R413): one position of the running OTP_PROGRAM; outside the window it suspends before its pulse
(R411). -/
def execOtpBitProgram (set : BitVec 3) (s : State) : Out :=
  .next (match s.m.opRunning 0 with
    | some o =>
      if !s.m.winAll then s.on (Mach.otpSuspend 0)
      else if o.prog < o.endPos then s.programBit set o else s
    | none => s)

/-! ## The ends of the operations (R416, R417) -/

/-- MARGINAL words among a region and its seal. -/
def State.marginalCount (s : State) (r : Nat) : Nat :=
  ((regionWords r ++ (if r = 7 then [] else [120 + r])).filter s.nv.marginal).length

/-- OTP_PROGRAM ends once every position is passed: RESULT0 the MARGINAL words found, RESULT1 the final k. -/
def State.programEnd (o : LongOp) (s : State) : State :=
  if o.endPos ≤ o.prog then
    s.on (Mach.endOp o .done stOk (wd (s.marginalCount o.infl.region)) (wd o.prog))
  else s

/-- OTP_VERIFY reads its region and the seal: the bitmaps, and the comparison with the image. RESULT1 of a mismatch is the
index of the word within the region (log entry 20). -/
def State.verifyEnd (o : LongOp) (s : State) : State :=
  let r := o.infl.region
  let cmp := bit (o.word 2) 8
  let (img, _, s) := s.sramReads o.infl.imageAt (if cmp then o.infl.imageLen false else 0)
  let bad := (List.range (regionLen r)).find? fun j => (s.nv.read (regionBase r + j)).1 != s.m.imageStored img o.infl j
  let n := s.marginalCount r
  let s := s.noteWords (verifyWords r)
  let o := { o with prog := o.verifyLen }
  let s := if cmp then s.zeroSecrets o.infl else s
  match if cmp then bad else none with
  | some j => s.on (Mach.endOp o .failed stOpFailed 7 (wd j))
  | none => s.on (Mach.endOp o .done stOk (wd n) (wd o.prog))

/-! ## Submission (R414, R415, R417) -/

/-- The KD of the power cycle closes the customer regions, unless owner unlock is in force (R415). -/
def Mach.otpClosed (m : Mach) (r : Nat) : Bool := m.protected? && r != 0 && r != 1

/-- OTP_PROGRAM. -/
def execOtpProgram (tag : Tag) (s : State) : Out :=
  .next (s.on fun m =>
    match m.executing tag 0x40 with
    | some i =>
      if i.imageTooLong i.withSeal then m.complete i stBadParam 0 0
      else if m.otpClosed i.region then (m.deny).complete i stLocked 0 0
      else m.submitOp i 0 []
    | none => m)

/-- OTP_VERIFY. -/
def execOtpVerify (tag : Tag) (s : State) : Out :=
  .next (s.on fun m =>
    match m.executing tag 0x41 with
    | some i => if bit (i.word 2) 8 && i.imageTooLong false then m.complete i stBadParam 0 0 else m.submitOp i 1 []
    | none => m)

/-! ## Refresh (R398) -/

/-- Cells of a word that have drifted read the other value at normal level from now on; a word has 64 triple cells or 72
single ones. -/
def OtpWord.drifted (triple : Bool) (w : OtpWord) (flip0 flip1 flip2 : BitVec 72) : OtpWord :=
  let real (x : BitVec 72) : BitVec 72 := (x.extractLsb' 0 64).setWidth 72
  if triple then { w with c0 := w.c0 ^^^ real flip0, c1 := w.c1 ^^^ real flip1, c2 := w.c2 ^^^ real flip2 }
  else { w with c0 := w.c0 ^^^ flip0 }

/-- One word is reread at normal level, after voting or correction; a word programmed since POR is skipped. The operands are
the cells of that word found to have drifted: the array holds them so, and the next POR latches it. -/
def execOtpRefresh (flip0 flip1 flip2 : BitVec 72) (s : State) : Out :=
  let i := s.m.otp.refresh % 128
  let s : State := { s with nv := s.nv.setWord i ((s.nv.word i).drifted (wordTriple i) flip0 flip1 flip2) }
  let value := (s.nv.read i).1
  .next (s.on fun m =>
    let m := m.modOtp fun o => { o with refresh := (i + 1) % 128 }
    if !m.dev.latched || m.otp.written.getLsbD i || value = nth m.otp.words i 0 then m
    else
      (m.modOtp fun o => { o with drift := setBit o.drift i true, driftCnt := inc16 o.driftCnt, driftLast := i }).event
        0x0C 0x0001)

/-- CLR_DRIFT clears the drift bitmaps, the count and the latest word (R418). -/
def Mach.cmdClrDrift (m : Mach) : Mach := m.modOtp fun o => { o with drift := 0, driftCnt := 0, driftLast := 0 }

/-- OTP.CMD CLR_DRIFT. -/
def execClrDrift (s : State) : Out := .next (s.on Mach.cmdClrDrift)

end Sys2Proof.Machine
end

