-- ==== Sys2Proof/Machine/Journal.lean ====
section
/-! DEFINITION. The journal: its slots and records, writing, the reading after a reset, release and compaction (R420 to
R430, R437). -/

namespace Sys2Proof.Machine

/-- Change the journal's words. -/
def Mach.modJnl (f : Jnl → Jnl) (m : Mach) : Mach := { m with jnl := f m.jnl }

/-! ## Slots and records (R420, R421) -/

/-- An erased copy. -/
def erasedCopy : List Byte := List.replicate 64 0xFF
/-- Slot `j`: both copies erased where it is not listed. -/
def NonVol.slot (nv : NonVol) (j : Nat) : JSlot :=
  ((nv.jnl.find? fun p => p.1 == j).map (·.2)).getD ⟨erasedCopy, erasedCopy⟩
/-- Store a slot, in rising order of index. -/
def slotInsert (l : List (Nat × JSlot)) (j : Nat) (x : JSlot) : List (Nat × JSlot) :=
  match l with
  | [] => [(j, x)]
  | (k, v) :: t => if j < k then (j, x) :: (k, v) :: t else if j = k then (j, x) :: t else (k, v) :: slotInsert t j x
/-- Store one copy of a slot. -/
def NonVol.setCopy (j : Nat) (copyB : Bool) (bytes : List Byte) (nv : NonVol) : NonVol :=
  let x := nv.slot j
  { nv with jnl := slotInsert nv.jnl j (if copyB then { x with b := bytes } else { x with a := bytes }) }

/-- Fields of a record. -/
def recType (r : List Byte) : Nat := (nth r 0 0).toNat / 16
def recSeq (r : List Byte) : Nat := beNat (slice r 2 4)
def recWear (r : List Byte) : Nat := beNat (slice r 14 3)
/-- A copy is intact: its type is 1 to 5 and its CRC matches. -/
def intact (r : List Byte) : Bool :=
  decide (1 ≤ recType r) && decide (recType r ≤ 5) && beNat (slice r 60 4) == (crc32 (slice r 0 60)).toNat

/-- The copy a slot's record is taken from (R427): 0 none, 1 A, 2 B. -/
def JSlot.chosen (x : JSlot) : Nat :=
  match intact x.a, intact x.b with
  | true, true => if recSeq x.a < recSeq x.b then 2 else 1
  | true, false => 1
  | false, true => 2
  | false, false => 0
/-- The record of a slot. -/
def JSlot.record (x : JSlot) : Option (List Byte) :=
  match x.chosen with
  | 1 => some x.a
  | 2 => some x.b
  | _ => none
/-- Two intact copies of equal SEQ and different content (R427). -/
def JSlot.split (x : JSlot) : Bool := intact x.a && intact x.b && recSeq x.a == recSeq x.b && x.a != x.b
/-- No copy is intact and one is not erased (R427). -/
def JSlot.corrupt (x : JSlot) : Bool := !intact x.a && !intact x.b && (x.a != erasedCopy || x.b != erasedCopy)

/-- Records by slot; of two slots with equal SEQ the lower counts (R427). -/
def NonVol.records (nv : NonVol) : List (Nat × List Byte) :=
  (List.range 64).foldl (fun l j =>
    match (nv.slot j).record with
    | some r => if l.any fun p => recSeq p.2 == recSeq r then l else l ++ [(j, r)]
    | none => l) []

/-- The record of greatest SEQ among some. -/
def newest (l : List (Nat × List Byte)) : Option (Nat × List Byte) :=
  l.foldl (fun best p => match best with
    | none => some p
    | some q => if recSeq q.2 < recSeq p.2 then some p else some q) none

/-- The newest COUNTERS record, which supplies the counters. -/
def NonVol.counters (nv : NonVol) : Option (List Byte) := (newest (nv.records.filter fun p => recType p.2 == 5)).map (·.2)

/-- Slots of the live records (R428): the newest COUNTERS, BOOT and ENERGY record of each bank, and every FAULT or LIMP
record from the release mark on. -/
def State.liveSlots (s : State) : List Nat :=
  let l := s.nv.records
  let pick (p : List Byte → Bool) : List Nat := ((newest (l.filter fun x => p x.2)).map (·.1)).toList
  pick (fun r => recType r == 5) ++ pick (fun r => recType r == 4) ++
    ((List.range 6).flatMap fun b => pick fun r => recType r == 2 && (nth r 18 0).toNat == b) ++
    ((l.filter fun x => (recType x.2 == 1 || recType x.2 == 3) && decide (s.m.jnl.rel ≤ recSeq x.2)).map (·.1))

/-- Free slots. -/
def State.freeSlots (s : State) : List Nat := let live := s.liveSlots; (List.range 64).filter fun j => !live.contains j

/-- WEAR of a slot: the greater of its intact copies' (log entry 22). -/
def NonVol.wear (nv : NonVol) (j : Nat) : Nat :=
  let x := nv.slot j
  max (if intact x.a then recWear x.a else 0) (if intact x.b then recWear x.b else 0)

/-- A slot can be written: not retired, not worn out (R428). -/
def State.usable (s : State) (j : Nat) : Bool := !s.m.jnl.retired.getLsbD j && decide (s.nv.wear j < 100000)

/-- The slot a new record is written into (R428), and whether a live record is overwritten there. -/
def State.pickSlot (s : State) : Option (Nat × Bool) :=
  let ring := (List.range 64).map fun k => (s.m.jnl.last + 1 + k) % 64
  let free := s.freeSlots
  match ring.find? fun j => free.contains j && s.usable j with
  | some j => some (j, false)
  | none =>
    let old := s.nv.records.filter fun p => (recType p.2 == 1 || recType p.2 == 3) && s.usable p.1
    (old.foldl (fun (best : Option (Nat × List Byte)) p => match best with
      | none => some p
      | some q => if recSeq p.2 < recSeq q.2 then some p else some q) none).map fun p => (p.1, true)

/-- Put a CRC on 60 bytes. -/
def withCrc (r : List Byte) : List Byte := r ++ beBytes 4 (crc32 r).toNat

/-- Type code of a queued item. -/
def FrItem.recType (it : FrItem) : Nat :=
  match it.kind with
  | 0 | 2 => 1 | 1 => 3 | 3 => 2 | 4 => 5 | _ => 4

/-- The record of a queued item (R421). -/
def buildRecord (it : FrItem) (seq boot wear : Nat) : List Byte :=
  let pay := it.pay.take 42
  withCrc (beBytes 1 (it.recType * 16 + 1) ++ [0] ++ beBytes 4 seq ++ beBytes 6 it.time.toNat ++ beBytes 2 boot ++
    beBytes 3 wear ++ [0] ++ pay ++ List.replicate (42 - pay.length) 0)

/-- A record with another WEAR. -/
def setWear (r : List Byte) (wear : Nat) : List Byte := withCrc (slice r 0 14 ++ beBytes 3 wear ++ slice r 17 43)

/-! ## Writing (R425, R426) -/

/-- What a copy holds from the start of its write until it verifies: no record (R426); its other bytes are open (log
entry 3). -/
def openCopy (free : Nat) : List Byte := (0 : Byte) :: (List.range 63).map fun i => BitVec.ofNat 8 (free >>> (8 * i))

/-- The write of a copy starts; while copies wait under R272 it is deferred. -/
def State.startCopy (w : JWrite) (s : State) : State :=
  if s.m.thm.jnlHold then s.on (Mach.modJnl fun j => { j with busy := some { w with wait := true } })
  else
    { s with nv := s.nv.setCopy w.slot w.copyB (openCopy s.m.freeVal),
             m := (s.m.nextFree).modJnl fun j => { j with busy := some { w with wait := false, since := s.m.now } } }

/-- The record goes to a slot, copy A first. -/
def State.startRecord (w : JWrite) (overwrites : Bool) (s : State) : State :=
  let s := if overwrites then
      s.on fun m => (m.modJnl fun j => { j with ovwCnt := inc16 j.ovwCnt }).event 0x0D 0x0002
    else s
  s.startCopy { w with copyB := false, tried := false, bytes := setWear w.bytes (s.nv.wear w.slot + 1) }

/-- A live record above a free slot: the highest such record moves to the lowest free slot below it (R430). -/
def State.nextMove (s : State) : Option (Nat × Nat) :=
  let free := s.freeSlots.filter s.usable
  let live := (s.liveSlots.mergeSort (fun a b => decide (b ≤ a)))
  live.findSome? fun h => (free.find? fun f => f < h).map fun f => (h, f)

/-- The next queued item of the journal starts as a record: SEQ is assigned now (R425). -/
def State.startItem (it : FrItem) (s : State) : State :=
  match s.pickSlot with
  | none => s
  | some (j, ovw) =>
    let seq := s.m.jnl.seq
    let rec' := buildRecord it seq s.m.jnl.porTotal 0
    let w : JWrite :=
      { bytes := rec', slot := j, copyB := false, tried := false, since := s.m.now, wait := false, move := none,
        item := true }
    let taken (l : List FrItem) : List FrItem :=
      match l.findIdx? fun x => x.jnlDue with
      | some i => l.modify i fun x => { x with jnlDue := false }
      | none => l
    (s.on fun m => ({ m with frq := taken m.frq, jnl := { m.jnl with seq := seq + 1 } }).frClean).startRecord w ovw

/-- A move of compaction starts (R430). -/
def State.startMove (s : State) : State :=
  match s.m.opRunning 2, s.nextMove with
  | some _, some (h, f) =>
    match (s.nv.slot h).record with
    | some r =>
      s.startRecord { bytes := r, slot := f, copyB := false, tried := false, since := s.m.now, wait := false,
                      move := some h, item := false } false
    | none => s
  | _, _ => s

/-- JNL_RECORD_WRITE (R425, R428, R430): a copy that waited starts; else the next queued record; else a move of a running
compaction. -/
def execJnlRecordWrite (s : State) : Out :=
  .next (
    if !s.m.dev.part.isX || !s.m.jnl.ready || s.m.thm.jnlHold then s
    else match s.m.jnl.busy with
      | some w => if w.wait then s.startCopy w else s
      | none =>
        match s.m.frq.find? fun x => x.jnlDue with
        | some it => s.startItem it
        | none => s.startMove)

/-- A record is complete in both copies. -/
def State.endRecord (w : JWrite) (s : State) : State :=
  s.on fun m =>
    let m := m.modJnl fun j => { j with busy := none, last := w.slot, wrCnt := inc16 j.wrCnt }
    let m := match w.move, m.ops.find? (fun o => o.kind == 2 && (o.st == .running || o.st == .suspended)) with
      | some _, some o => m.modOp o fun x => { x with prog := x.prog + 1 }
      | _, _ => m
    m.event 0x0D 0x0001

/-- A copy has failed its verify twice: its slot is retired and the record goes to the next one (R425). -/
def State.retireSlot (w : JWrite) (s : State) : State :=
  let s := s.on fun m =>
    (m.modJnl fun j => { j with busy := none, retired := setBit j.retired w.slot true, wfailCnt := inc16 j.wfailCnt }).event
      0x0D 0x0008
  match w.move with
  | some _ => s
  | none =>
    match s.pickSlot with
    | some (j, ovw) => s.startRecord { w with slot := j } ovw
    | none => s

/-- JNL_COPY_DONE (R425): the present copy's write and read-back are over. -/
def execJnlCopyDone (verified : Bool) (s : State) : Out :=
  .next (match s.m.jnl.busy with
    | some w =>
      if w.wait then s
      else if verified then
        let s := { s with nv := s.nv.setCopy w.slot w.copyB w.bytes }
        if w.copyB then s.endRecord w else s.startCopy { w with copyB := true, tried := false }
      else if w.tried then s.retireSlot w
      else s.startCopy { w with tried := true }
    | none => s)

/-- A reset lets the copy in progress finish (R426, R453). -/
def State.finishCopy (s : State) : State :=
  match s.m.jnl.busy with
  | some w => if w.wait then s else { s with nv := s.nv.setCopy w.slot w.copyB w.bytes }
  | none => s

/-! ## Reading after a reset (R427) -/

/-- JNL_SCAN: the counters of the newest COUNTERS record, the next SEQ, and the findings. A POR counts itself and queues a
COUNTERS record (R422); the back-off of a stored F runs from the end of STARTUP (R433). -/
def execJnlScan (s : State) : Out :=
  .next (
    if !s.m.dev.part.isX || s.m.jnl.ready || s.m.dev.phase != .running then s
    else
      let slots := (List.range 64).map s.nv.slot
      let splits := (slots.filter JSlot.split).length
      let corr := (slots.filter JSlot.corrupt).length
      let c := s.nv.counters.getD (List.replicate 64 0)
      let f (i k : Nat) : Nat := beNat (slice c (18 + i) k)
      let por := s.m.dev.rstKind == 1
      let seq := s.nv.records.foldl (fun x p => max x (recSeq p.2 + 1)) 1
      let due := por || s.m.jnl.stopTotal != 0 || s.m.jnl.limpTotal != 0
      s.on fun m =>
        let m := m.modJnl fun j =>
          { j with ready := true, split := splits != 0, splitCnt := min 0xFFFF (j.splitCnt + splits),
                   corrCnt := min 0xFFFF (j.corrCnt + corr), seq := seq, rel := f 8 4,
                   porTotal := f 0 4 + (if por then 1 else 0), stopTotal := f 16 4 + j.stopTotal,
                   limpTotal := f 20 4 + j.limpTotal }
        let m := { m with sec := { m.sec with fails := f 4 2, backoff := decide (3 ≤ f 4 2) },
                          site := { m.site with fcBlock := max m.site.fcBlock (f 12 4), fcNext := max m.site.fcNext (f 12 4) } }
        let m := if splits != 0 then m.event 0x0D 0x0004 else m
        let m := m.event 0x0D 0x0020
        if due then m.queueCounters else m)

/-! ## Snapshots and commands (R424, R429, R437) -/

/-- One ENERGY record per bank present, B0 first. -/
def Mach.queueEnergy (m : Mach) : Mach :=
  forList m.allBanks (fun b m =>
    m.passJournal 3 (beBytes 1 b ++ (List.range 4).flatMap fun i => beBytes 6 (m.ch (4 * b + i)).meas.energy.toNat)) m

/-- ENERGY_SNAPSHOT: ESNAP hours have elapsed. -/
def execEnergySnapshot (s : State) : Out :=
  .next (s.on fun m => if fld (m.cfg 0x0D08) 0 8 != 0 && m.dev.phase == .running then m.queueEnergy else m)

/-- JNL.CMD SNAP. -/
def execSnap (s : State) : Out := .next (s.on Mach.queueEnergy)

/-- JNL.CMD RELEASE (R429): denied while protection is in force (R431). -/
def Mach.cmdJnlRelease (m : Mach) : Mach :=
  if m.protected? then (m.deny).event 0x0D 0x0010
  else if m.jnl.ready then (m.modJnl fun j => { j with rel := j.seq }).queueCounters
  else m

/-- RELEASE. -/
def execJnlRelease (s : State) : Out := .next (s.on fun m => if m.dev.part.isX then m.cmdJnlRelease else m)

/-- JNL.CMD CLR_CNT clears OVW_CNT, SPLIT_CNT, CORR_CNT and WFAIL_CNT. -/
def Mach.cmdJnlClr (m : Mach) : Mach :=
  m.modJnl fun j => { j with ovwCnt := 0, splitCnt := 0, corrCnt := 0, wfailCnt := 0 }

/-- CLR_CNT. -/
def execJnlClrCnt (s : State) : Out := .next (s.on Mach.cmdJnlClr)

/-! ## Compaction (R430) -/

/-- JNL_COMPACT. -/
def execJnlCompact (tag : Tag) (s : State) : Out :=
  .next (s.on fun m =>
    match m.executing tag 0x42 with
    | some i => if m.dev.part.isX then m.submitOp i 2 [] else m.complete i stAbsent 0 0
    | none => m)

/-- Compaction ends once no free slot lies below a live record. -/
def State.compactEnd (o : LongOp) (s : State) : State :=
  if s.nextMove.isNone && s.m.jnl.busy.isNone then s.on (Mach.endOp o .done stOk (wd o.prog) 0) else s

end Sys2Proof.Machine
end

