-- ==== Sys2Proof/Machine/Security.lean ====
section
/-! DEFINITION. Owner unlock, attestation and the configuration digest (R431 to R436, R438). -/

namespace Sys2Proof.Machine

/-- Change the security engine's words. -/
def Mach.modSec (f : Sec → Sec) (m : Mach) : Mach := { m with sec := f m.sec }

/-! ## Words of OTP the digest and the BOOT record carry (R418, R422, R435) -/

/-- OTP.REGION. -/
def Mach.otpRegionWord (m : Mach) : Word :=
  wd ((List.range 7).foldl (fun x r => x + (m.region r % 4) * 4 ^ r) 0)
/-- OTP.SEC. -/
def Mach.otpSecWord (m : Mach) : Word :=
  let o := m.otp
  wd (flag o.kdConf 0 + flag o.skConf 1 + flag o.kdOne 2 + flag o.skOne 3 + flag o.kdValid 4 + flag o.skValid 5 +
    o.skVer % 256 * 256)
/-- The active region is OPEN. -/
def Mach.unsealed (m : Mach) : Bool := (m.otp.src == 0 && m.region 2 == 1) || (m.otp.src == 1 && m.region 3 == 1)
/-- A word of the active region is MARGINAL. -/
def Mach.actMarg (m : Mach) : Bool :=
  decide (m.otp.src < 2) && (regionWords (2 + m.otp.src)).any fun i => m.otp.marg.getLsbD i
/-- OTP.STAT. -/
def Mach.otpStatWord (m : Mach) : Word :=
  let o := m.otp
  wd (o.src % 4 + flag m.unsealed 2 + flag m.actMarg 3 + flag ((m.opRunning 0).isSome || (m.opRunning 1).isSome) 4 +
    flag o.rlSeal 5 + flag o.custClose 6)

/-- The configuration digest: SHA-256 over SRC, OTP.REGION, OTP.SEC[7:0] and the active region (R435). -/
def Mach.cfgDigest (m : Mach) : List Byte :=
  sha256 (beBytes 1 m.otp.src ++ beBytes 2 m.otpRegionWord.toNat ++ beBytes 1 (m.otpSecWord.toNat % 256) ++
    (List.range 16).flatMap fun i => beBytes 8 ((m.cust i).getD 0))

/-- The payload of a BOOT record (R422). -/
def Mach.bootPay (m : Mach) : List Byte :=
  beBytes 1 m.dev.rstKind ++ beBytes 1 m.dev.prevState ++ beBytes 2 m.otpStatWord.toNat ++ beBytes 2 m.otpRegionWord.toNat ++
    beBytes 1 (m.otpSecWord.toNat % 256) ++ beBytes 2 (m.custBits 15 16 16 0) ++ m.sec.cfgDig

/-! ## Owner unlock (R432 to R434) -/

/-- An attempt ends: its outcome, and the key buffer cleared. -/
def Mach.unlockResult (r : Nat) (m : Mach) : Mach := m.modSec fun x => { x with result := r, keys := [], compare := false }

/-- SEC.CMD UNLOCK: lockout, no digest and back-off end the attempt at once. -/
def Mach.cmdUnlock (m : Mach) : Mach :=
  if m.otp.kdConf then m.unlockResult 4
  else if !m.otp.kdValid then m.unlockResult 3
  else if m.sec.backoff then m.unlockResult 2
  else m.modSec fun x => { x with compare := true }

/-- UNLOCK. -/
def execUnlock (s : State) : Out := .next (s.on fun m => if m.dev.part.isX then m.cmdUnlock else m)

/-- A COUNTERS record waits or is being written. -/
def Mach.countersDue (m : Mach) : Bool :=
  (m.frq.any fun it => it.kind == 4 && it.jnlDue) ||
  ((m.jnl.busy.map fun w => w.item && recType w.bytes == 5).getD false)

/-- The 32 key bytes. -/
def Mach.keyBytes (m : Mach) : List Byte :=
  (List.range 16).flatMap fun i => beBytes 2 (((m.sec.keys.find? fun (p : Nat × Word) => p.1 == i).map fun (p : Nat × Word) => p.2).getD 0).toNat

/-- The comparison (R432, R433): the journal has been read, so F is known. -/
def Mach.compareKey (m : Mach) : Mach :=
  if m.sec.backoff then m.unlockResult 2
  else if beNat (sha256 m.keyBytes) = m.otp.kd.toNat then
    let changed := m.sec.fails != 0
    let m := (m.unlockResult 1).modSec fun x => { x with unlocked := true, unlCnt := inc16 x.unlCnt, fails := 0 }
    let m := m.event 0x0E 0x0001
    if changed then m.queueCounters else m
  else
    let f := inc16 m.sec.fails
    let m := (m.unlockResult 5).modSec fun x =>
      { x with fails := f, failTot := inc16 x.failTot, backoff := decide (3 ≤ f), backAt := m.lf }
    (m.event 0x0E 0x0002).queueCounters

/-- UNLOCK_COMPARE: once the COUNTERS record of any earlier failure has been written. -/
def execUnlockCompare (s : State) : Out :=
  .next (s.on fun m => if m.sec.compare && m.jnl.ready && !m.countersDue then m.compareKey else m)

/-- Unlock ends (R434). -/
def Mach.endUnlock (m : Mach) : Mach :=
  if m.sec.unlocked then (m.modSec fun x => { x with unlocked := false }).event 0x0E 0x0004 else m

/-- SEC.CMD LOCK. -/
def execLock (s : State) : Out := .next (s.on Mach.endUnlock)

/-- Length of the back-off in seconds (R433). -/
def Mach.backoffS (m : Mach) : Nat := if m.sec.fails < 3 then 0 else min 1200 (10 * 2 ^ min 7 (m.sec.fails - 3))

/-- BACKOFF_END. -/
def execBackoffEnd (s : State) : Out :=
  .next (s.on fun m =>
    if m.sec.backoff then (m.modSec fun x => { x with backoff := false }).event 0x0E 0x0010 else m)

/-! ## Attestation (R436) -/

/-- The identity, W32 to W35. -/
def Mach.identity (m : Mach) : List Byte := (List.range 4).flatMap fun i => beBytes 8 (m.otpWord (32 + i))
/-- The device secret, W36 and W37 in plaintext. -/
def Mach.deviceSecret (m : Mach) : BitVec 128 := plainOf m.ftSealed m.otp.words 36 ++ plainOf m.ftSealed m.otp.words 37

/-- SEC.CMD ATTEST: the nonce is sampled, the tag cleared; without a sealed ID the attempt is not accepted. -/
def Mach.cmdAttest (m : Mach) : Mach :=
  if m.sec.attBusy then m
  else
    let m := m.modSec fun x => { x with tag := List.replicate 16 0 }
    if m.region 1 != 2 then m.modSec fun x => { x with result := 6 }
    else
      let nonce := (List.range 8).flatMap fun i => beBytes 2 (m.cfg (0x0E20 + i)).toNat
      let msg := nonce ++ m.identity ++ m.sec.cfgDig
      m.modSec fun x => { x with attBusy := true, attMsg := msg }

/-- ATTEST. -/
def execAttest (s : State) : Out := .next (s.on fun m => if m.dev.part.isX then m.cmdAttest else m)

/-- ATTEST_DONE: the tag of the sampled message. -/
def execAttestDone (s : State) : Out :=
  .next (s.on fun m =>
    if m.sec.attBusy then
      (m.modSec fun x => { x with attBusy := false, tag := cmac m.deviceSecret x.attMsg, attMsg := [],
                                  attCnt := inc16 x.attCnt }).event 0x0E 0x0008
    else m)

end Sys2Proof.Machine
end

