-- ==== Sys2Proof/Machine/Supply.lean ====
section
/-! DEFINITION. Supplies, clocks, the reference-tick time, resets and startup (R34, R37, R38, R77, R123, R252, R277, R288,
R294, R439 to R455). -/

namespace Sys2Proof.Machine

/-- Change the supply and the clock words. -/
def Mach.modPwr (f : Pwr → Pwr) (m : Mach) : Mach := { m with pwr := f m.pwr }
def Mach.modClk (f : Clk → Clk) (m : Mach) : Mach := { m with clk := f m.clk }
def Mach.modDev (f : Dev → Dev) (m : Mach) : Mach := { m with dev := f m.dev }

/-! ## Resets (R452, R453) -/

/-- What a channel keeps through RSTN and software reset: its gate as it stands, X, energy, offset, the fault code with
its time and FLTN request, and its part of the thallus state. -/
def Chan.keep (c : Chan) : Chan :=
  { Chan.reset with
    st := if c.st == .safe then .safe else .off
    stage := { c.stage with clampCnt := 0 }
    prot := { Prot.reset with i2tX := c.prot.i2tX, tripped := c.prot.tripped, scCmp := c.prot.scCmp, bsCmp := c.prot.bsCmp,
                              clReg := c.prot.clReg, epStart := c.prot.epStart, epEnergy := c.prot.epEnergy,
                              est := c.prot.est }
    flt := { c.flt with hist := 0 }
    inr := { Inr.reset with cause := if c.st == .inrush then 5 else 0 }
    meas := { Meas.reset with energy := c.meas.energy, eRes := c.meas.eRes, offset := c.meas.offset,
                              offAt := c.meas.offAt, stale := c.meas.stale, winBad := c.meas.winBad,
                              stopped := c.meas.stopped, heats := c.meas.heats }
    thm := { c.thm with tjMax := none, thCnt := 0 }
    limp := { LimpGen.reset with safeFlt := c.limp.safeFlt, uvHeld := c.limp.uvHeld, thrSeen := c.limp.thrSeen } }

/-- The machine during an RSTN or software reset (R453): registers and staging at their reset values; the time, the clocks
and supplies as they stand, the latches, the thallus state, the counts since POR, and what `Chan.keep` keeps. -/
def Mach.resetCore (kind : Nat) (m : Mach) : Mach :=
  let z := Mach.por m.dev.part m.pwr.vddOk
  let kind := if m.dev.latched then kind else 1
  { z with
    now := m.now, time := m.time, free := m.free
    dev := { z.dev with phase := .inReset, rstKind := kind, rstCnt := inc16 m.dev.rstCnt, latched := m.dev.latched,
                        prevState := if kind = 1 then 0 else m.devState, seenState := m.dev.seenState }
    clk := { z.clk with refOk := m.clk.refOk, refExt := m.clk.refExt, lfOk := m.clk.lfOk,
                        cpOk := m.clk.cpOk, refLossCnt := m.clk.refLossCnt, lfLossCnt := m.clk.lfLossCnt,
                        cpLossCnt := m.clk.cpLossCnt, lfStop := m.clk.lfStop, lfGone := m.clk.lfGone,
                        rlossAt := m.clk.rlossAt, refSafe := m.clk.refSafe,
                        lfSafe := m.clk.lfSafe, epwmSafe := m.clk.epwmSafe }
    pwr := { z.pwr with vbbUv := m.pwr.vbbUv, vbbLow := m.pwr.vbbLow, vbbOv := m.pwr.vbbOv, vppMv := m.pwr.vppMv,
                        vcpOk := m.pwr.vcpOk }
    chans := vmap m.chans fun _ c => c.keep
    trips := vmap m.trips fun _ t => { t with asserted := false }
    tachs := vmap m.tachs fun _ t => { Tach.reset with level := t.level }
    thm := { m.thm with stopCnt := m.thm.stopCnt, log := .reset, idValid := false, idRba := 0, idChs := 0, idRes := 0,
                        banks := vmap m.thm.banks fun _ b => { b with tMax := none } }
    limp := { z.limp with lh := m.limp.lh, entryCnt := m.limp.entryCnt }
    site := if kind = 1 then z.site else { z.site with fc := m.site.fc, fcValid := m.site.fcValid, pinFc := m.site.pinFc }
    otp := { m.otp with drift := 0, driftCnt := 0, driftLast := 0, weakCnt := 0, failK := 0 }
    jnl := { z.jnl with retired := m.jnl.retired }
    sec := { z.sec with unlCnt := m.sec.unlCnt, attCnt := m.sec.attCnt, failTot := m.sec.failTot,
                        denyCnt := m.sec.denyCnt } }

/-- A reset starts: a cut OTP pulse and a journal copy in progress end as R411 and R426 say; channels take their OTP safe
states (R38, R294). -/
def State.startReset (kind : Nat) (s : State) : State :=
  let s := (s.cutPulse).finishCopy
  let m := s.m.resetCore kind
  { s with m := if m.dev.latched then forList m.leaders Mach.enterSafe m else m }

/-- STARTUP begins from its first step. -/
def Mach.beginStartup (m : Mach) : Mach := m.modDev fun d => { d with phase := .sensing, startupAt := m.now }

/-- CORE_POR: all volatile state is lost and the channels are off until POR release. The journal copy in progress is
lost. Physical levels at the terminals are taken anew. -/
def execCorePor (s : State) : Out :=
  .next (
    let s := s.cutPulse
    let z := Mach.por s.m.dev.part false
    { s with sram := [], eccBad := [],
             m := { z with now := s.m.now, free := s.m.free, dev := { z.dev with phase := .powerOff, seenState := 0 } } })

/-- POR_RELEASE: VCORE rises past the threshold, so STARTUP begins (R452); the time starts at 0 (R450). -/
def execPorRelease (s : State) : Out :=
  .next (
    if s.m.dev.phase == .powerOff then
      let z := Mach.por s.m.dev.part s.m.pwr.vddOk
      { s with m := { z with now := s.m.now, free := s.m.free, dev := { z.dev with startupAt := s.m.now, seenState := 1 } } }
    else s)

/-- RSTN_RESET: RSTN has been low for 2 µs (R452). It is ignored while VDD is absent (R443). -/
def execRstnReset (s : State) : Out :=
  .next (if s.m.pwr.vddOk && s.m.dev.phase != .powerOff then s.startReset 2 else s)

/-- RSTN_RELEASE: RSTN rises and STARTUP begins. -/
def execRstnRelease (s : State) : Out := .next (if s.m.dev.phase == .inReset then s.on Mach.beginStartup else s)

/-- The software reset of the RESET frame (R320): STARTUP begins at once. -/
def State.softReset (s : State) : State := (s.startReset 3).on Mach.beginStartup

/-! ## Startup (R454) -/

/-- SENSE_SEQUENCER_DONE: the array is sensed after a POR, the latches driven, the SRAM cleared and IO3 sampled (R303,
R396, R397); channels enter SAFE, safe-ON channels turning on. -/
def execSenseSequencerDone (io3 : Bool) (s : State) : Out :=
  .next (
    if s.m.dev.phase == .sensing then
      let otp := if s.m.dev.latched then s.m.otp else { s.nv.sense with winVdd := s.m.otp.winVdd, winSup := s.m.otp.winSup }
      let s : State := { s with sram := [], eccBad := [] }
      s.ctl fun m =>
        let m := ({ m with otp := otp }).driveLatches
        let m := m.modDev fun d => { d with latched := true, phase := .sensed }
        let m := { m with port := { m.port with chain := !io3 } }
        forList m.leaders (fun l m => if (m.ch l).st == .safe then m.safeDrive l else m.enterSafe l) m
    else s)

/-- The status byte (R306): [7:3] of the preceding frame, [2:0] as they stand. -/
def Mach.statusByte (m : Mach) : Byte :=
  let p := m.port
  BitVec.ofNat 8 (flag p.crcErr 7 + flag p.frameErr 6 + flag p.pastEnd 5 + flag p.late 4 + flag p.wdisc 3 + flag m.irqn 2 +
    flag m.fltn 1 + flag (!m.dev.governed) 0)

/-- The device enters LIMP at the end of STARTUP (R285): CAUSE POR or RESET. -/
def Mach.limpAtStart (m : Mach) : Mach :=
  let c := if m.dev.rstKind = 1 then 1 else 2
  { m with limp := { m.limp with cause := c, entryCnt := inc16 m.limp.entryCnt, entryAt := m.lf,
                                 causeHist := m.limp.causeHist ||| BitVec.ofNat 16 (2 ^ c) } }

/-- After a POR, a healthy diode above EXIT_LVL is a thermal stop with CAUSE HOT_START (R277). -/
def Mach.hotStart (m : Mach) : Mach :=
  if m.dev.rstKind = 1 && !m.thm.stop &&
      m.allBanks.any fun b => m.healthyDiode b && (m.sensor b).inRange b && decide (16 * ((m.exitLvl : Nat) : Int) < (m.sensor b).reading) then
    (m.enterStop 4).stopAll
  else m

/-- Step 4 (R454, R455): the first conversions initialise the thallus model after a POR; the sense sequencer's events and
the digest follow, LIMP is entered and the BOOT record queued. -/
def Mach.endStartup (diode : List (Option Int)) (ntc : Option Int) (m : Mach) : Mach :=
  let m := if m.thm.init then m else m.thermInit diode ntc
  let m := m.modDev fun d => { d with phase := .running, refLate := !m.clk.refOk,
                                      startupT := min 0xFFFF ((m.now - d.startupAt) / 48) }
  let m := if m.otpEvents = 0 then m else m.event 0x0C m.otpEvents
  let m := m.modSec fun x => { x with cfgDig := m.cfgDigest, backAt := m.lf }
  let m := (m.limpAtStart).noteState
  let m := m.passJournal 5 m.bootPay
  let m := forList m.allCh Mach.recordLate m
  let m := m.hotStart
  let m := (m.endSafe).judgeAll
  let m := if m.dev.part.isX then (m.siteRefresh).autoJoin else m
  let m := m.noteState
  { m with port := { m.port with respStat := m.statusByte } }

/-- STARTUP_COMPLETE: step 3 and the first conversions are over. -/
def execStartupComplete (diode : List (Option Int)) (ntc : Option Int) (s : State) : Out :=
  guardWf (.startupComplete diode ntc) (.next (s.ctl fun m =>
    if m.dev.phase == .sensed then m.endStartup diode ntc else m))

/-! ## VDD (R285, R288, R442, R443) -/

/-- Where the words of a MST_XFER lie in SRAM (R350). -/
def Infl.mstAt (i : Infl) : Nat := sramIndex (fld (i.word 5) 0 6) (fld (i.word 5) 8 8)
/-- Words of a MST_XFER (R350). -/
def Infl.mstWords (i : Infl) : Nat := fld (i.word 4) 0 7
/-- The opcode it sends. -/
def Infl.mstOp (i : Infl) : Nat := fld (i.word 2) 8 8
/-- Its target returns data: all but WRITE and CHAIN_WRITE. -/
def Infl.mstReads (i : Infl) : Bool := i.mstOp != 0x02 && i.mstOp != 0x01

/-- The master's transaction ends without OK: SQ5 halts, the target and its status byte are kept, a revoked grant ends
(R353 to R355, R357). -/
def Mach.mstFail (stat : Nat) (m : Mach) : Mach :=
  { m with mst := { m.mst with active := none, second := false, halt := true, errSel := m.mst.sel,
                               errStat := BitVec.ofNat 8 stat, grant := m.mst.grant && !m.mst.revoke, revoke := false } }

/-- A MST_XFER is aborted: it completes with as many words as it moved, an open number; the words a read moved are open
(R350; log entry 3). -/
def State.mstAbort (i : Infl) (status moved stat : Nat) (s : State) : State :=
  let s := if i.mstReads then
      s.sramSetList i.mstAt ((List.range moved).map fun k => wd (Config.freeNat (s.m.free + 1 + k))) else s
  s.on fun m => (({ m with free := m.free + 1 + moved }).complete i status (wd moved) (wd stat)).mstFail stat

/-- VDD loss interrupts the master (R346, R353): a MST_XFER completes BUS_ERROR and SQ5 halts; a frame of a chain
enumeration is dropped, the operation being suspended. -/
def State.mstLoseVdd (s : State) : State :=
  match s.m.mst.active with
  | some i =>
    if i.opcode = 0x71 then s.on fun m => { m with mst := { m.mst with active := none, grant := m.mst.grant && !m.mst.revoke, revoke := false } }
    else
      let moved := s.m.freeVal % (i.mstWords + 1)
      let stat := s.m.freeVal / (i.mstWords + 1) % 256
      (s.mstAbort i stBusError moved stat).on (Mach.event 0x11 0x0006)
  | none => s

/-- VDD is absent while the core runs from VBB: the trigger with the others of its round (R285), the pending commit but one
granted after a limp-home entry (R67, R286), the unlock, the host inputs. -/
def Mach.loseVdd (also : BitVec 8) (granted : Bool) (m : Mach) : Mach :=
  let m := (m.modPwr fun p => { p with vddOk := false, vddLossCnt := inc16 p.vddLossCnt }).event 0x02 0x0001
  let m := if granted && m.dev.governed then m else m.dropPending 0x0D
  let (m, codes) := m.roundTriggers also
  let m := (m.limpTrigger (3 :: codes) granted).endUnlock
  let m := m.modDev fun d => if d.phase == .inReset then { d with phase := .sensing, startupAt := m.now } else d
  let m := { m with limp := { m.limp with lh := .replicate 2 false, lhAssert := .replicate 2 false },
                    trips := .replicate 4 ⟨false, false, false⟩ }
  m.forceSuspend 7 3

/-- VDD_LOSS. -/
def execVddLoss (also : BitVec 8) (granted : Bool) (s : State) : Out :=
  .next (if s.m.pwr.vddOk && s.m.dev.phase != .powerOff then (s.otpLoseSupply.mstLoseVdd).ctl (Mach.loseVdd also granted)
    else s)

/-- VDD_RETURN: VDD is qualified after 100 µs (R442). -/
def execVddReturn (s : State) : Out :=
  .next (s.on fun m =>
    if m.pwr.vddOk || m.dev.phase == .powerOff then m
    else (m.modPwr fun p => { p with vddOk := true }).event 0x02 0x0002)

/-! ## VBB and VCP (R77, R123, R440, R444) -/

/-- VBB_UNDERVOLTAGE: every conducting channel discharges; channels that run record 0xA and wait; safe-ON channels are
held off. The charge pump stops (R444). -/
def execVbbUndervoltage (also : List (BitVec 16)) (s : State) : Out :=
  .next (s.ctl fun m =>
    if m.pwr.vbbUv || m.dev.phase == .powerOff then m
    else
      let m := (m.modPwr fun p => { p with vbbUv := true, vcpOk := false, uvCnt := inc16 p.uvCnt }).event 0x02 0x0004
      let m := m.dischargeAll
      let m := forList m.leaders (fun l m => m.uvFault l also) m
      forList m.leaders (fun l m =>
        if (m.ch l).st == .safe then m.modCh l fun c => { c with limp := { c.limp with uvHeld := true } } else m) m)

/-- VBB_UNDERVOLTAGE_RISING. -/
def execVbbUndervoltageRising (s : State) : Out := .next (s.on (Mach.modPwr fun p => { p with vbbUv := false }))

/-- A channel that waits with code 0xA restarts as from OFF; a SAFE channel held off resumes its safe state. -/
def Mach.uvRestart (l : Nat) (m : Mach) : Mach :=
  match (m.ch l).st with
  | .retryWait =>
    if (m.ch l).rty.cause = 0xA then
      let m := forList (m.members l) (fun k m => m.clearIf k [0xA]) m
      let m := m.modCh l fun c => { c with rty := { c.rty with cause := 0 } }
      m.startFromOff l false
    else m
  | .safe =>
    if (m.ch l).limp.uvHeld then
      (m.modCh l fun c => { c with limp := { c.limp with uvHeld := false } }).safeDrive l
    else m
  | _ => m

/-- UNDERVOLTAGE_RESTART: VBB has stayed above the rising threshold for 1 ms. -/
def execUndervoltageRestart (s : State) : Out :=
  .next (s.ctl fun m => if m.pwr.vbbUv then m else forList m.leaders Mach.uvRestart m)

/-- VBB_LOW: reduced gate drive below 8 V (R77). -/
def execVbbLow (below : Bool) (s : State) : Out := .next (s.on (Mach.modPwr fun p => { p with vbbLow := below }))

/-- VBB_OVERVOLTAGE: the report alone. -/
def execVbbOvervoltage (above : Bool) (s : State) : Out :=
  .next (s.on fun m =>
    if above && !m.pwr.vbbOv then
      (m.modPwr fun p => { p with vbbOv := true, ovCnt := inc16 p.ovCnt }).event 0x02 0x0020
    else m.modPwr fun p => { p with vbbOv := above })

/-- VCP_READY: channels may be commanded on; those that wait turn on (R444). -/
def execVcpReady (s : State) : Out :=
  .next (s.ctl fun m =>
    if m.pwr.vbbUv || m.dev.phase == .powerOff then m
    else
      let m := (m.modPwr fun p => { p with vcpOk := true }).modClk fun c => { c with cpOk := true }
      forList m.leaders (fun l m => if m.wantsOn l then m.gateOn l else m) m)

/-! ## REFCLK (R34, R169, R206, R214, R230, R294, R346, R447) -/

/-- A timebase stops where it stands (R214), one that was about to start too; the period it was in does not become a whole
one (R200). -/
def Mach.haltTb (k : Nat) (m : Mach) : Mach :=
  let c := m.tbCount k
  let m := forList (m.unitsOn k) (fun o m => m.modOut o fun u => { u with whole := false }) m
  m.modTb k fun t => if (t.running || t.startReq) && t.halt.isNone then { t with halt := some c } else t

/-- REFCLK is lost. The reason with which a delay-line recalibration or a join ends is open (log entry 3). -/
def Mach.loseRef (m : Mach) : Mach :=
  let m := forList (List.range 8) Mach.haltTb m
  let m := m.modClk fun c =>
    { c with refOk := false, refLossCnt := inc16 c.refLossCnt, rlossT := m.time, rlossAt := m.now,
             refSafe := true, epwmSafe := true }
  let m := (m.event 0x01 0x0001).holdPending
  let m := if m.dev.latched then forList m.leaders Mach.enterSafe m else m
  let m := { m with dl := { m.dl with valid := false, busy := false } }
  let m := forList (List.range 4) (fun i m => (m.tachDisarm i).modTach i fun t => { t with last := none }) m
  let m := forList m.allCh (fun n m => m.modMeas n fun q =>
    { q with stale := true, winBad := true, stopped := true, iWin := [], eGap := true }) m
  let m := match m.opRunning 6 with
    | some o => (m.nextFree).joinFail o (wd m.freeVal)
    | none => m
  let m := m.zcUnlocked
  (((m.nextFree).forceFail 3 (wd m.freeVal)).forceSuspend 7 4).modSite fun x => { x with bcnThis := false }

/-- REFCLK_LOSS. -/
def execRefclkLoss (s : State) : Out :=
  .next (if s.m.clk.refOk then (s.otpLoseSupply).ctl Mach.loseRef else s)

/-- REFCLK_PRESENT: 256 good LFOSC cycles qualify REFCLK (R447). -/
def execRefclkPresent (external : Bool) (s : State) : Out :=
  .next (s.on fun m =>
    if m.clk.refOk || m.dev.phase == .powerOff then m
    else (m.modClk fun c =>
      { c with refOk := true, refExt := external,
               rlossDur := if c.rlossAt = 0 then c.rlossDur else min 0xFFFF ((m.now - c.rlossAt) / 480) }).event 0x01 0x0002)

/-- LIMP_RESUME: in LIMP, 1 ms after REFCLK has returned (R294). -/
def execLimpResume (s : State) : Out :=
  .next (s.ctl fun m =>
    if m.clk.refOk && !m.dev.governed && m.dev.phase != .powerOff then
      (m.modClk fun c => { c with refSafe := false, epwmSafe := false }).endSafe
    else m)

/-! ## LFOSC (R34, R294, R448) -/

/-- LFOSC_LOSS: its cycles stand, and with them watchdog and limp timing. -/
def execLfoscLoss (s : State) : Out :=
  .next (s.ctl fun m =>
    if m.clk.lfOk && m.dev.phase != .powerOff then
      let m := (m.modClk fun c => { c with lfOk := false, lfSafe := true, lfStop := m.lf,
                                             lfLossCnt := inc16 c.lfLossCnt }).event 0x01 0x0004
      if m.dev.latched then forList m.leaders Mach.enterSafe m else m
    else m)

/-- LFOSC_RETURN: the first update of the protection estimate after LFOSC is back. -/
def execLfoscReturn (s : State) : Out :=
  .next (s.ctl fun m =>
    if m.clk.lfOk then m
    else (m.modClk fun c =>
      { c with lfOk := true, lfSafe := false, lfGone := Config.lfCycles m.now - c.lfStop }).endSafe)

/-! ## Commands (R451, R459, R461, R462) -/

/-- DEV.CMD TSET: ignored while an AT_TICK commit is pending. -/
def Mach.cmdTset (m : Mach) : Mach :=
  if (m.cmt.pend.map fun p => applyOf p.ctl == 3).getD false then m.event 0x00 0x0010
  else ({ m with time := m.cfg 0x0015 ++ m.cfg 0x0014 ++ m.cfg 0x0013 }).event 0x00 0x0008
/-- DEV.CMD CLR_LOST. -/
def Mach.cmdClrLost (m : Mach) : Mach := m.modDev fun d => { d with frLost := 0 }
/-- CLK.CMD CLR_CNT. -/
def Mach.cmdClkClr (m : Mach) : Mach := m.modClk fun c => { c with refLossCnt := 0, lfLossCnt := 0, cpLossCnt := 0 }
/-- PWR.CMD CLR: the extremes and the counters. -/
def Mach.cmdPwrClr (m : Mach) : Mach :=
  m.modPwr fun p => { p with vbbMin := 0xFFFF, vbbMax := 0, vddLossCnt := 0, uvCnt := 0, ovCnt := 0 }

/-- TSET. -/
def execTset (s : State) : Out := .next (s.on Mach.cmdTset)
/-- CLR_LOST. -/
def execClrLost (s : State) : Out := .next (s.on Mach.cmdClrLost)
/-- CLR_CNT of CLK. -/
def execClkClrCnt (s : State) : Out := .next (s.on Mach.cmdClkClr)
/-- CLR of PWR. -/
def execPwrClr (s : State) : Out := .next (s.on Mach.cmdPwrClr)

end Sys2Proof.Machine
end

