-- ==== Sys2Proof/Machine/Flags.lean ====
section
/-! DEFINITION. Every flag and read-only word: the page headers, status words, counters and readings, computed from the
state as the register map of each page says (R47, R50, R101, R135, R138, R161, R185, R216, R218, R245 to R248, R280 to
R283, R298 to R300, R329, R330, R356, R357, R389 to R392, R418, R437, R438, R459 to R463). -/

namespace Sys2Proof.Machine

/-- A word from a flag list, bit 0 first. -/
def flagsNat (l : List Bool) : Nat := l.foldr (fun b n => 2 * n + b.toNat) 0

/-- A mask of the channels with a property. -/
def Mach.chBits (m : Mach) (p : Nat → Bool) : BitVec 24 := chMask (m.allCh.filter p)

/-- A quotient in whole units, saturating at 0xFFFF (log entry 13). -/
def unitsSat (q : Rat) : Nat := min 0xFFFF (inUnits q).toNat

/-- A temperature word in 1/16 °C (R252). -/
def tempWord (t : Rat) : Nat := (satS16 (temp16 t)).toNat

/-! ## Status words -/

/-- CHn.STAT.STATE of a channel and MODE_EFF, LIMP and CLREG beside it (R138). -/
def Mach.chStat (m : Mach) (n : Nat) : Nat :=
  (m.st n).code + 16 * (m.mode n % 4) + flag (m.limpGoverns n) 6 + flag (m.ch n).prot.clReg 7

/-- CHn.STG_STAT (R101). -/
def Mach.stgStat (m : Mach) (n : Nat) : Nat :=
  let g := (m.ch n).stage
  flagsNat [g.gateOn, g.vgsOk, g.edge.isSome, g.clamp, g.rev, m.pwr.vbbLow, (g.edge.map (·.scurve)).getD false]

/-- CHn.PROT_STAT (R135); a check window ends with the off state (R120). -/
def Mach.protStat (m : Mach) (n : Nat) : Nat :=
  let p := (m.ch n).prot
  flagsNat [p.clReg, p.scCmp, p.bsCmp, m.pwr.vbbUv, m.pullup n, p.check && m.offDiag n]

/-- CHn.FSUM (R138). -/
def Mach.fsum (m : Mach) (n : Nat) : Nat :=
  let p := (m.ch n).prot
  flagsNat [(m.ch n).flt.fltnReq, p.olOn, p.olOff, p.svbb, p.i2tWarn] + 256 * min 255 p.escCnt

/-- CHn.INR_STAT (R161). -/
def Mach.inrStat (m : Mach) (n : Nat) : Nat :=
  let r := (m.ch n).inr
  let ph := match r.phase with | .idle => 0 | .queued => 1 | .a => 2 | .b => 3
  ph + flag (r.phase != .idle) 2 + 8 * (r.cause % 8) + 256 * min 255 r.clper

/-- CHn.RTY_DUE (R154, R155): the wait still to run in 10 ms, counted on LFOSC. -/
def Mach.rtyDue (m : Mach) (n : Nat) : Nat :=
  let r := (m.ch n).rty
  if (m.ch n).st != .retryWait then 0
  else if r.elapsed then flag (!m.gateOpen n) 15
  else
    let left := 1000 * r.waitMs - (m.lf - r.waitAt)
    min 0x7FFF ((left + 9999) / 10000)

/-- CHn.MEAS_STAT (R185). -/
def Mach.measStat (m : Mach) (n : Nat) : Nat :=
  let q := (m.ch n).meas
  flagsNat [q.vdsRng, q.iOvr, q.vOvr, q.stale, (m.sensor (n / 4)).bad, q.pfInv, m.region 0 != 2, q.eGap]

/-- CHn.SIG_STAT (R185). -/
def Mach.sigStat (m : Mach) (n : Nat) : Nat :=
  let g := (m.ch n).sig
  let learn := match m.opRunning 5 with
    | some o => if o.learnCh = n then some o.prog else none
    | none => none
  flag g.cap.isSome 0 + flag learn.isSome 1 + 4 * (g.result % 4) + 16 * (g.reason % 8) + flag g.envErr 7 +
    256 * min 8 (learn.getD 0)

/-- Bits [5:0] of CHn.PWM_STAT and XPWMj.STAT (R218). -/
def Mach.pwmStat (m : Mach) (o : Nat) : Nat :=
  let u := m.out o
  let t := m.tb (m.tbSel o).1
  flagsNat [u.level, u.incons, u.pend.isSome, u.minpw,
            t.presc != 0 && (u.rise.fine != 0 || u.fall.fine != 0), !t.counting]

/-- Bits [2:0] of a pair's status, and CUT of an output (R245). -/
def Mach.pairStat (m : Mach) (k : Nat) (cut : Bool) : Nat :=
  let q := m.pair k
  flagsNat [q.aswp, q.eff, q.dtSup, cut]

/-- CHn.TH_STAT (R280). -/
def Mach.thStat (m : Mach) (n : Nat) : Nat :=
  let c := m.cls n
  let e := m.effStep (n / 4)
  flagsNat [c != 0 && decide (4 ≤ c + e), c != 0 && (m.ch n).thm.ownHold, m.stopHeld n, (m.ch n).thm.ownOver] + 16 * e +
    flag (m.ch n).thm.pfStale 6

/-- CHn.LIMP_STAT, the leader's values (R300). -/
def Mach.limpStat (m : Mach) (n : Nat) : Nat :=
  let l := m.leader n
  flag (m.ch l).limp.lvl 0 + flag ((m.ch l).st == .safe) 1 + 4 * (m.cls l % 4)

/-- CHn.LIMP_MIR, the channel's own OTP entry (R300). -/
def Mach.limpMir (m : Mach) (n : Nat) : Nat :=
  m.entryFld n 0 3 + 16 * m.entryFld n 3 2 + 256 * m.entryFld n 5 4 + 4096 * m.entryFld n 9 1 + 16384 * m.entryFld n 10 2

/-- Channel `n` leads a group or is single. -/
def Mach.leads (m : Mach) (n : Nat) : Bool := m.leader n == n

/-- A read-only word of the page of channel `n`. -/
def Mach.chWord (m : Mach) (n off : Nat) : Nat :=
  let c := m.ch n
  let l := m.leader n
  match off with
  | 0x0C => m.par n + flag (m.leads n) 2 + 8 * l
  | 0x0D => m.stgStat n
  | 0x0E => c.stage.clampCnt
  | 0x18 => m.i2tLevel n
  | 0x19 => c.prot.clCnt
  | 0x1A => c.prot.tripCnt
  | 0x1B => c.prot.cycCnt
  | 0x1C => m.protStat n
  | 0x1D => unitsSat c.prot.eacc
  | 0x1E => (m.ilimEff n).1 + 256 * (m.ilimEff n).2
  | 0x1F => (m.itripEff n).getD 0
  | 0x21 => m.ilimCeil n + 256 * m.clCeil n
  | 0x22 => m.itripCeil n
  | 0x2E => m.inrStat n
  | 0x2F => c.inr.last
  | 0x34 => c.rty.count % 256 + 256 * (c.rty.tokens % 256)
  | 0x35 => m.rtyDue n
  | 0x36 => c.rty.total
  | 0x38 => (satS16 c.meas.i).toNat
  | 0x39 => (satS16 c.meas.iAvg).toNat
  | 0x3A => min 0xFFFF c.meas.iPeak
  | 0x3B => (satS16 c.meas.vout).toNat
  | 0x3C => (satS16 c.meas.vds).toNat
  | 0x3D => min 0xFFFF c.meas.pdiss
  | 0x3F => m.measStat n
  | 0x40 => (wordOf c.meas.energy.toNat 0).toNat
  | 0x41 => (wordOf c.meas.energy.toNat 1).toNat
  | 0x42 => (wordOf c.meas.energy.toNat 2).toNat
  | 0x45 => m.sigStat n
  | 0x46 => min 255 c.sig.nfail + 256 * (c.sig.first % 256)
  | 0x47 => (satS16 c.sig.ipk).toNat
  | 0x48 => (satS16 c.sig.iend).toNat
  | 0x49 => c.sig.cnt
  | 0x4A => c.sig.fcnt
  | 0x55 => m.pwmStat l
  | 0x56 => (m.out l).ldcnt.toNat
  | 0x5B => m.pairStat (n / 2) ((m.out l).cut || (m.ch l).limp.cut)
  | 0x5E => (m.out l).slot + 256 * min 255 (inUnits (m.ilvWeight l)).toNat
  | 0x60 => tempWord (m.nodeTemp n)
  | 0x61 => c.thm.tts
  | 0x62 => ((c.thm.tjMax.map satS16).getD 0x8000).toNat
  | 0x63 => unitsSat ((c.thm.used : Rat) / 10)
  | 0x65 => m.thStat n
  | 0x66 => c.thm.thCnt
  | 0x71 => m.limpMir n
  | 0x72 => m.limpStat n
  | 0x75 => let l := m.leader n
            flagsNat [(m.ch l).limp.siteHold, m.demanding l, m.eligible l]
  | 0x76 => c.limp.shedCnt
  | 0x78 => m.chStat n
  | 0x79 => c.flt.code + 16 * c.flt.detail
  | 0x7A => c.flt.hist.toNat
  | 0x7B => (wordOf c.flt.time.toNat 0).toNat
  | 0x7C => (wordOf c.flt.time.toNat 1).toNat
  | 0x7D => (wordOf c.flt.time.toNat 2).toNat
  | 0x7E => m.fsum n
  | _ => 0

/-! ## DEV, CLK, PWR -/

/-- DEV.STATE (R459). -/
def Mach.devStateWord (m : Mach) : Nat :=
  m.devState + flag m.dev.governed 3 + flag m.thm.stop 4 + flag m.dev.frz 5 + flag (!m.pwr.vddOk) 6

def Mach.devWord (m : Mach) (off : Nat) : Nat :=
  match off with
  | 0x08 => m.devStateWord
  | 0x09 => m.dev.rstKind + flag m.dev.refLate 2
  | 0x0A => if m.dev.part.isX then m.jnl.porTotal else 0
  | 0x0B => m.dev.rstCnt
  | 0x0C => m.dev.frLost
  | 0x0D => m.frq.length
  | 0x0E => m.dev.startupT
  | 0x10 => (wordOf m.time.toNat 0).toNat
  | 0x11 => (wordOf m.time.toNat 1).toNat
  | 0x12 => (wordOf m.time.toNat 2).toNat
  | _ => 0

/-- CLK.STAT (R461). Whether REFCLK edges are being counted while REFCLK is absent no command says, so REF_QUAL is open
then (log entry 8). -/
def Mach.clkStat (m : Mach) : Nat :=
  flagsNat [m.clk.refOk, m.clk.refExt, m.clk.lfOk, m.clk.cpOk && m.pwr.vcpOk,
            !m.clk.refOk && bit (Config.supplyWord 5 m.now) 0]

/-- The measured frequencies have no rule that computes them (log entry 8). -/
def Mach.clkWord (m : Mach) (off : Nat) : Nat :=
  match off with
  | 0x09 => m.clkStat
  | 0x0A => if m.clk.refOk then (Config.supplyWord 3 m.now).toNat else 0
  | 0x0B => (Config.supplyWord 4 m.now).toNat
  | 0x0C => m.clk.refLossCnt
  | 0x0D => m.clk.lfLossCnt
  | 0x0E => m.clk.cpLossCnt
  | 0x10 => (wordOf m.clk.rlossT.toNat 0).toNat
  | 0x11 => (wordOf m.clk.rlossT.toNat 1).toNat
  | 0x12 => (wordOf m.clk.rlossT.toNat 2).toNat
  | 0x13 => m.clk.rlossDur
  | _ => 0

/-- PWR.STAT (R462). -/
def Mach.pwrStat (m : Mach) : Nat :=
  let p := m.pwr
  flagsNat [p.vddOk, !p.vddOk, p.vbbUv, p.vbbLow, p.vbbWl, p.vbbWh, p.vbbOv, m.vppOn, p.vcpOk, !m.clk.refOk]

def Mach.pwrWord (m : Mach) (off : Nat) : Nat :=
  match off with
  | 0x09 => m.pwrStat
  | 0x0A => m.pwr.vbb
  | 0x0B => m.pwr.vbbMin
  | 0x0C => m.pwr.vbbMax
  | 0x0D => (Config.supplyWord 0 m.now).toNat
  | 0x0E => (Config.supplyWord 1 m.now).toNat
  | 0x0F => unitsSat ((m.pwr.vppMv : Rat) / 10)
  | 0x10 => (Config.supplyWord 2 m.now).toNat
  | 0x11 => m.pwr.vddLossCnt
  | 0x12 => m.pwr.uvCnt
  | 0x13 => m.pwr.ovCnt
  | _ => 0

/-! ## HSP, RING, CMT, MST, DBG -/

/-- The CRC is in force: CRC_EN or the OTP requirement in addressed mode, always in chain mode (R315, R326). -/
def Mach.crcOn (m : Mach) : Bool := m.port.chain || bit (m.cfg 0x0308) 7 || m.crcReq

/-- HSP.STAT (R329). -/
def Mach.hspStat (m : Mach) : Nat := flagsNat [m.port.chain, m.crcReq, m.crcOn, m.port.rstArmed, m.port.enum]

def Mach.hspWord (m : Mach) (off : Nat) : Nat :=
  match off with
  | 0x09 => m.hspStat
  | 0x0A => m.port.errAddr.toNat
  | 0x0B => m.port.errCmd.toNat
  | 0x0C => m.port.crcCnt
  | 0x0D => m.port.frmCnt
  | 0x0E => m.port.udrCnt
  | 0x0F => (wordOf m.port.frames.toNat 0).toNat
  | 0x10 => (wordOf m.port.frames.toNat 1).toNat
  | 0x11 => if m.port.enum then m.port.pos + 256 * m.port.len else 0
  | _ => 0

/-- Address of the descriptor at the head of ring `r`, as an SRAM word index (R331, R332). -/
def Mach.slotWord (m : Mach) (r i : Nat) : Nat := 14336 + 8 * ((m.ringBase r + i % m.ringSize r) % 256)

/-- A COMMIT at the head of SQ `r` waits for the pending commit (R338). -/
def State.cmtWaits (s : State) (r : Nat) : Bool :=
  s.m.cmt.pend.isSome && s.m.ringOn r && s.m.ringCount r != 0 &&
    fld (s.sramVal (s.m.slotWord r (s.m.ringHead r))) 0 8 == 0x03

/-- RING.STAT (R356). -/
def State.ringStat (s : State) : Nat :=
  flagsNat [s.m.rings.eqOvf, s.m.ringOn 6 && s.m.ringFull 6, s.cmtWaits 0 || s.cmtWaits 1]

/-- Commands in flight of the data-plane engine or of the management engine: those whose completion is not written yet
(R342, R343). -/
def Mach.inflCount (m : Mach) (dp : Bool) : Nat :=
  (m.rings.infl.filter fun i => dpRing i.ring == dp).length + (m.rings.compl.filter fun c => !c.own && c.dp == dp).length

/-- The tag is in flight. -/
def Mach.tagBusy (m : Mach) (t : Nat) : Bool := m.rings.infl.any fun i => i.tag == t

/-- The instance RING.OPk_STAT reports (R346). -/
def Mach.opShown (m : Mach) (k : Nat) : Option LongOp :=
  match (m.opRunning k).or (m.opBusy k) with
  | some o => some o
  | none => match m.opQueued k with
    | some o => some o
    | none => (m.opLast.find? fun p => p.1 == k).map (·.2)

def Mach.opStatWord (o : LongOp) : Nat := o.st.code + 8 * (if o.st == .suspended then o.cause else 0) + 256 * o.tag.toNat
def State.ringWord (s : State) (off : Nat) : Nat :=
  let m := s.m
  if 0x18 ≤ off && off ≤ 0x1F then m.ringHead (off - 0x18)
  else if 0x20 ≤ off && off ≤ 0x27 then m.ringTail (off - 0x20)
  else if 0x28 ≤ off && off ≤ 0x2B then flagsNat ((List.range 16).map fun i => m.tagBusy (16 * (off - 0x28) + i))
  else if 0x30 ≤ off && off ≤ 0x37 then ((m.opShown (off - 0x30)).map Mach.opStatWord).getD 0
  else if 0x38 ≤ off && off ≤ 0x3F then ((m.opShown (off - 0x38)).map m.opProg).getD 0
  else match off with
  | 0x0A => s.ringStat
  | 0x0B => min 63 (m.inflCount false) + 256 * min 15 (m.inflCount true)
  | 0x0C => m.rings.eqLost
  | 0x0D => m.rings.dbErr.toNat
  | _ => 0

/-- Commits are refused in the present state (R59, R65). -/
def Mach.cmtHeld (m : Mach) : Bool := m.devState == 4 || m.devState == 5 || !m.clk.refOk

/-- CMT.STAT (R59). -/
def Mach.cmtStat (m : Mach) : Nat :=
  flag m.cmt.pend.isSome 0 + 2 * ((m.cmt.pend.map fun p => applyOf p.ctl).getD 0) + flag m.cmt.takeArmed 3 + flag m.cmtHeld 4

def Mach.cmtWord (m : Mach) (off : Nat) : Nat :=
  let c := m.cmt
  match off with
  | 0x14 => m.cmtStat
  | 0x15 => c.seq.toNat
  | 0x16 => c.laSeq.toNat
  | 0x17 => c.laTag.toNat
  | 0x18 => (wordOf c.laPcnt.toNat 0).toNat
  | 0x19 => (wordOf c.laPcnt.toNat 1).toNat
  | 0x1A => (wordOf c.laTick.toNat 0).toNat
  | 0x1B => (wordOf c.laTick.toNat 1).toNat
  | 0x1C => (wordOf c.laTick.toNat 2).toNat
  | 0x1D => c.lrSeq.toNat
  | 0x1E => c.lrTag.toNat
  | 0x1F => c.lrReason.toNat
  | 0x20 => (wordOf c.lrChmask.toNat 0).toNat
  | 0x21 => (wordOf c.lrChmask.toNat 1).toNat
  | 0x22 => c.pulseRate.toNat
  | 0x23 => c.curSum.toNat
  | _ => 0

/-- MST.STAT (R357). -/
def Mach.mstStat (m : Mach) : Nat :=
  let x := m.mst
  flagsNat [x.grant, x.wdgGrant, x.active.isSome, x.halt] + 16 * (x.sel % 8) + flag x.csn 7

def Mach.mstWord (m : Mach) (off : Nat) : Nat :=
  match off with
  | 0x0A => m.mstStat
  | 0x0C => m.mst.collCnt
  | 0x0D => m.mst.xferCnt
  | 0x0E => m.mst.errSel % 8 + 256 * m.mst.errStat.toNat
  | _ => 0

/-- Timeout of a freeze in s, DBG.CFG.FRZ_TMO; 0 none (R458, R463). -/
def Mach.frzTimeout (m : Mach) : Nat := fld (m.cfg 0x1209) 0 8

def Mach.dbgWord (m : Mach) (off : Nat) : Nat :=
  let d := m.dbg
  if 0x10 ≤ off && off ≤ 0x15 then
    let w := off - 0x10
    (List.range 4).foldl (fun x i => x + (if 4 * w + i < m.nch then nth d.chst (4 * w + i) 0 % 16 else 0) * 16 ^ i) 0
  else match off with
  | 0x0A => flag m.dev.frz 0 + 2 * (d.endCause % 4)
  | 0x0B => d.frzCnt
  | 0x0C => if m.dev.frz && m.frzTimeout != 0 then (1000000 * m.frzTimeout - (m.lf - d.frzAt) + 999999) / 1000000 else 0
  | 0x0D => (wordOf d.frzT.toNat 0).toNat
  | 0x0E => (wordOf d.frzT.toNat 1).toNat
  | 0x0F => (wordOf d.frzT.toNat 2).toNat
  | 0x16 => (wordOf d.gates.toNat 0).toNat
  | 0x17 => (wordOf d.gates.toNat 1).toNat
  | _ => 0

/-! ## TB, XPWM, TRIP, TACH -/

/-- TB.GSTAT (R215). -/
def Mach.tbGstat (m : Mach) : Nat :=
  flagsNat ((List.range 8).map fun k => (m.tb k).counting) + 256 * flagsNat ((List.range 8).map fun k => (m.tb k).ulk)

/-- Word `i` of timebase block `k` (R216). -/
def Mach.tbWord (m : Mach) (k i : Nat) : Nat :=
  let t := m.tb k
  match i with
  | 6 => flagsNat [t.counting, t.pend.isSome, t.ulk, t.restarted]
  | 7 => m.tbCount k % 65536
  | 8 => m.tbCount k / 65536 % 256
  | 9 => (wordOf t.pcnt.toNat 0).toNat
  | 10 => (wordOf t.pcnt.toNat 1).toNat
  | 11 => t.perAct % 65536
  | 12 => t.perAct / 65536 % 256 + 256 * (t.presc % 16)
  | 13 => (wordOf t.ulkWait.toNat 0).toNat
  | 14 => (wordOf t.ulkWait.toNat 1).toNat
  | _ => 0

def Mach.tbPage (m : Mach) (off : Nat) : Nat :=
  if 0x10 ≤ off && off ≤ 0x8F then m.tbWord ((off - 0x10) / 16) ((off - 0x10) % 16)
  else match off with
  | 0x09 => flagsNat [m.dl.valid, m.dl.slew, m.dl.busy, m.dl.map]
  | 0x0A => m.dl.elem
  | 0x0B => (m.dl.lastAt.map fun t => min 0xFFFF ((m.now - t) / 48)).getD 0xFFFF
  | 0x0C => m.tbGstat
  | _ => 0

/-- XPWM.PINS (R248). -/
def Mach.xpwmPins (m : Mach) : Nat :=
  flagsNat ((List.range 8).map fun j => m.epwmPin j == 1) + 256 * flagsNat ((List.range 8).map fun j => m.epwmPin j == 2)

def Mach.xpwmWord (m : Mach) (off : Nat) : Nat :=
  if 0x10 ≤ off && off ≤ 0x4F then
    let o := 24 + (off - 0x10) / 8
    match (off - 0x10) % 8 with
    | 5 => m.pwmStat o + flag (m.out o).cut 6 + flag (m.out o).dithBlk 7
    | 6 => (m.out o).ldcnt.toNat
    | _ => 0
  else if 0x58 ≤ off && off ≤ 0x5F then
    let o := 24 + (off - 0x58)
    (m.out o).slot + 256 * fld (m.ilvWord o) 8 8
  else if 0x60 ≤ off && off ≤ 0x6B then
    let i := (off - 0x60) / 3
    if (off - 0x60) % 3 = 1 then m.pairStat (12 + i) (m.out (24 + 2 * i)).cut else 0
  else match off with
  | 0x08 => m.xpwmSafe
  | 0x09 => m.xpwmPins
  | _ => 0

def Mach.tripWord (m : Mach) (off : Nat) : Nat :=
  if off = 0x0D then
    flagsNat ((List.finRange 4).map fun j => m.trips[j].level) +
      16 * flagsNat ((List.finRange 4).map fun j => m.trips[j].asserted)
  else 0

/-- TACH.GSTAT (R247). -/
def Mach.tachGstat (m : Mach) : Nat :=
  flagsNat ((List.range 4).map fun i => (m.tach i).armed) + 16 * flagsNat ((List.range 4).map fun i => (m.tach i).loss)

def Mach.tachRo (m : Mach) (off : Nat) : Nat :=
  if off = 0x08 then m.tachGstat
  else
    let i := (off - 0x10) / 8
    let t := m.tach i
    match (off - 0x10) % 8 with
    | 4 => (wordOf t.per.toNat 0).toNat
    | 5 => (wordOf t.per.toNat 1).toNat
    | 6 => m.rpm i
    | 7 => flagsNat [t.armed, t.slow, t.loss, t.swapped]
    | _ => 0

/-! ## THM -/

/-- Mean of a parameter over nodes of the module. -/
def meanOver (l : List Nat) (f : Nat → Rat) : Rat :=
  (l.map f).foldl (· + ·) 0 / (max 1 l.length : Nat)

/-- THM.STAT (R281). -/
def Mach.thmStat (m : Mach) : Nat :=
  let t := m.thm
  flag t.stop 0 + 2 * (t.cause % 8) + flag t.orderly 4 + flag t.jnlHold 5 + flag (m.allCh.any fun n => (m.ch n).thm.pfStale) 6 +
    flag m.useId 7 + flag t.holds 8

/-- THM.SNS (R281). -/
def Mach.thmSns (m : Mach) : Nat :=
  flagsNat ((List.range 6).map fun b => (m.sensor b).fail) + flag (m.sensor 6).fail 6 + flag (m.sensor 6).diverge 7 +
    256 * flagsNat ((List.range 6).map fun b => (m.sensor b).diverge)

/-- Word `i` of bank block `b` (R282). -/
def Mach.bankWord (m : Mach) (b i : Nat) : Nat :=
  let k := m.bank b
  let x := m.sensor b
  if m.dev.part.banks ≤ b then 0
  else match i with
  | 0 => tempWord (m.nodeTemp (24 + b))
  | 1 => (satS16 x.reading).toNat
  | 2 => tempWord k.corr
  | 3 => k.tts
  | 4 => k.ownStep % 4 + 4 * (m.effStep b % 4) + flag x.fail 4 + flag x.diverge 5 + flag k.analog 6 + flag x.bad 7 +
      256 * (x.reason % 8)
  | 5 => ((k.tMax.map satS16).getD 0x8000).toNat
  | _ => 0

/-- The log of the latest thermal stop (R281). -/
def Mach.logWord (m : Mach) (off : Nat) : Nat :=
  let g := m.thm.log
  match off with
  | 0xB0 => m.thm.stopCnt
  | 0xB1 => g.tts
  | 0xB2 => g.node
  | 0xB3 => (satS16 g.tpk).toNat
  | 0xB4 => nth g.cls 0 0xFFFF
  | 0xB5 => nth g.cls 1 0xFFFF
  | 0xB6 => nth g.cls 2 0xFFFF
  | 0xB7 => nth g.cls 3 0xFFFF
  | 0xB8 => g.last
  | 0xB9 => g.jnl
  | 0xBA => (wordOf g.time.toNat 0).toNat
  | 0xBB => (wordOf g.time.toNat 1).toNat
  | 0xBC => (wordOf g.time.toNat 2).toNat
  | 0xBD => g.exit
  | 0xBE => g.cause
  | 0xBF => g.pkn
  | _ => 0

/-- The THM words below the bank blocks. -/
def Mach.thmLow (m : Mach) (off : Nat) : Nat :=
  let t := m.thm
  match off with
  | 0x19 => m.thmStat
  | 0x1A => m.allBanks.foldl (fun x b => x + (m.effStep b % 4) * 4 ^ b) 0 + 4096 * (t.devStep % 4)
  | 0x1B => m.thmSns
  | 0x1C => t.tts
  | 0x1D => t.ttsNode
  | 0x1E => (satS16 t.hot).toNat
  | 0x1F => t.hotNode
  | 0x20 => unitsSat ((t.sums.headD 0 : Rat) / 10)
  | 0x21 => unitsSat (m.pMean * 100)
  | 0x22 => if t.sums.isEmpty then 0 else unitsSat (m.pMax * 100)
  | 0x23 => tempWord (m.nodeTemp 30)
  | 0x24 => (satS16 (m.sensor 6).reading).toNat
  | 0x25 => tempWord t.cP
  | 0x26 => t.idRba.toNat
  | 0x27 => t.idChs.toNat
  | 0x28 => flag t.idValid 0 + 256 * min 255 t.idRes
  | _ => 0

def Mach.thmWord (m : Mach) (off : Nat) : Nat :=
  if 0x30 ≤ off && off ≤ 0x5F then m.bankWord ((off - 0x30) / 8) ((off - 0x30) % 8)
  else if 0x70 ≤ off && off ≤ 0x87 then (if off - 0x70 < m.nch then m.chWord (off - 0x70) 0x60 else 0)
  else if 0x88 ≤ off && off ≤ 0x9F then (if off - 0x88 < m.nch then (m.ch (off - 0x88)).thm.tts else 0)
  else if 0xB0 ≤ off then m.logWord off
  else match off with
  | 0x60 => unitsSat (meanOver m.allCh m.cJ * 10000)
  | 0x61 => unitsSat (meanOver m.allCh m.rJD * 100)
  | 0x62 => unitsSat (meanOver (m.allCh.filter (· % 4 != 3)) m.rL * 10)
  | 0x63 => unitsSat (meanOver m.allBanks m.cD * 1000)
  | 0x64 => unitsSat (meanOver m.allBanks m.rDB * 100)
  | 0x65 => unitsSat (m.cB * 10)
  | _ => m.thmLow off

/-! ## LIMP -/

/-- LIMP.STAT (R298). -/
def Mach.limpWordStat (m : Mach) : Nat :=
  flag (!m.dev.governed && m.dev.phase == .running) 0 + 2 * (m.limp.cause % 8) + flag m.takeBlock 4 + flag (!m.pwr.vddOk) 5 +
    64 * (m.otp.src % 4)

/-- Time to expiry of the host watchdog in ms, rounded up (R298). -/
def Mach.wdgRem (m : Mach) : Nat := if m.limp.wdgRun then (1000 * m.wdgT - (m.lf - m.limp.wdgAt) + 999) / 1000 else 0

def Mach.limpWord (m : Mach) (off : Nat) : Nat :=
  let x := m.limp
  match off with
  | 0x0B => flagsNat [x.wdgRun, x.wdgNext, m.wdgEn]
  | 0x0C => m.wdgRem
  | 0x0D => x.wdgBad
  | 0x0F => flagsNat [x.lh[0], x.lh[1], x.lhAssert[0], x.lhAssert[1], m.lhEnabled 0, m.lhEnabled 1]
  | 0x10 => m.limpWordStat
  | 0x11 => x.entryCnt
  | 0x12 => x.causeHist.toNat
  | 0x13 => (wordOf x.entryTime.toNat 0).toNat
  | 0x14 => (wordOf x.entryTime.toNat 1).toNat
  | 0x15 => (wordOf x.entryTime.toNat 2).toNat
  | 0x16 => x.lastDur
  | 0x17 => m.wdgCeil + flag m.wdgReq 15
  | 0x20 => (wordOf (m.chBits m.safeOn).toNat 0).toNat
  | 0x21 => (wordOf (m.chBits m.safeOn).toNat 1).toNat
  | 0x22 => (wordOf (m.chBits fun n => m.limpCode n != 0).toNat 0).toNat
  | 0x23 => (wordOf (m.chBits fun n => m.limpCode n != 0).toNat 1).toNat
  | 0x24 => (wordOf (m.chBits m.limpGoverns).toNat 0).toNat
  | 0x25 => (wordOf (m.chBits m.limpGoverns).toNat 1).toNat
  | _ => 0

/-! ## OTP, JNL, SEC -/

/-- OTP.RD_INFO and RD_D0 to RD_D3 of the word selected in OTP.RD_ADDR (R418). -/
def Mach.otpRdInfo (m : Mach) : Nat :=
  let i := fld (m.cfg 0x0C0D) 0 7
  let o := m.otp
  (nth o.checks i 0).toNat + 256 * flagsNat
    [o.marg.getLsbD i, o.corr.getLsbD i, o.uncorr.getLsbD i, secretWord i, o.drift.getLsbD i, o.written.getLsbD i]

def Mach.otpRo (m : Mach) (off : Nat) : Nat :=
  let o := m.otp
  let i := fld (m.cfg 0x0C0D) 0 7
  if 0x20 ≤ off && off ≤ 0x27 then (wordOf o.marg.toNat (off - 0x20)).toNat
  else if 0x28 ≤ off && off ≤ 0x2F then (wordOf o.drift.toNat (off - 0x28)).toNat
  else if 0x30 ≤ off && off ≤ 0x37 then (wordOf o.corr.toNat (off - 0x30)).toNat
  else if 0x38 ≤ off && off ≤ 0x3F then (wordOf o.uncorr.toNat (off - 0x38)).toNat
  else if 0x50 ≤ off && off ≤ 0x5D then (wordOf (nth o.crcs ((off - 0x50) / 2) 0).toNat ((off - 0x50) % 2)).toNat
  else if 0x0E ≤ off && off ≤ 0x11 then (if secretWord i then 0 else (wordOf (m.otpWord i) (off - 0x0E)).toNat)
  else match off with
  | 0x08 => m.otpStatWord.toNat
  | 0x09 => m.otpRegionWord.toNat
  | 0x0A => m.otpSecWord.toNat
  | 0x0B => flagsNat [m.winVdd, m.winSupply, m.winTemp, m.clk.refOk, m.winAll, m.vppOn]
  | 0x12 => m.otpRdInfo
  | 0x14 => o.driftCnt
  | 0x15 => o.driftLast % 128
  | 0x16 => o.weakCnt
  | 0x17 => o.failK
  | 0x5E => if m.region 2 == 1 || m.region 2 == 2 then m.otpWord 55 / 65536 % 65536 else 0
  | 0x5F => if m.region 3 == 1 || m.region 3 == 2 then m.otpWord 71 / 65536 % 65536 else 0
  | _ => 0

/-- A slot whose record counts (R427); every other one is free, and the window reads zero there (log entry 22). -/
def State.slotHolds (s : State) (j : Nat) : Bool := s.nv.records.any fun p => p.1 == j

/-- The bytes of the read window: the chosen record or a raw copy of the selected slot, zero where there is none
(R437). -/
def State.jnlWindow (s : State) : List Byte :=
  let j := fld (s.m.cfg 0x0D0B) 0 6
  let x := s.nv.slot j
  let raw (l : List Byte) : List Byte := if l == erasedCopy then [] else l
  if !s.slotHolds j then []
  else match fld (s.m.cfg 0x0D0B) 8 2 with
  | 0 => x.record.getD []
  | 1 => raw x.a
  | 2 => raw x.b
  | _ => []

/-- JNL.RD_INFO (R437). -/
def State.jnlInfo (s : State) : Nat :=
  let j := fld (s.m.cfg 0x0D0B) 0 6
  let x := s.nv.slot j
  flag (intact x.a) 0 + flag (intact x.b) 1 + 4 * (if s.slotHolds j then x.chosen else 0) +
    flag (s.liveSlots.contains j) 4 + flag (s.m.jnl.retired.getLsbD j) 5

def State.jnlWord (s : State) (off : Nat) : Nat :=
  let j := s.m.jnl
  if 0x20 ≤ off && off ≤ 0x3F then
    let w := off - 0x20
    (nth s.jnlWindow (2 * w) 0).toNat * 256 + (nth s.jnlWindow (2 * w + 1) 0).toNat
  else match off with
  | 0x09 => flag j.ready 0 + flag ((j.busy.map fun w => !w.wait).getD false) 1 + flag j.split 2 + flag s.m.thm.jnlHold 3 +
      16 * min 255 (s.m.frq.filter (·.jnlDue)).length
  | 0x0C => s.jnlInfo
  | 0x0D => (wordOf j.seq 0).toNat
  | 0x0E => (wordOf j.seq 1).toNat
  | 0x0F => j.last
  | 0x10 => (wordOf j.rel 0).toNat
  | 0x11 => (wordOf j.rel 1).toNat
  | 0x12 => s.freeSlots.length
  | 0x13 => j.ovwCnt
  | 0x14 => j.splitCnt
  | 0x15 => j.corrCnt
  | 0x16 => ((List.range 64).foldl (fun x k => max x (s.nv.wear k)) 0) / 100
  | 0x17 => ((List.range 64).filter j.retired.getLsbD).length
  | 0x18 => j.wfailCnt
  | 0x19 => j.wrCnt
  | _ => 0

/-- SEC.STAT (R438). -/
def Mach.secStat (m : Mach) : Nat :=
  flagsNat [m.protected?, m.sec.unlocked, m.sec.attBusy, m.sec.backoff, m.otp.kdConf]

/-- Bytes 2w and 2w + 1 of a string, byte 2w in [15:8]. -/
def pairOf (l : List Byte) (w : Nat) : Nat := (nth l (2 * w) 0).toNat * 256 + (nth l (2 * w + 1) 0).toNat

/-- Back-off remaining in s (R433), rounded up. -/
def Mach.backoffLeft (m : Mach) : Nat :=
  if m.sec.backoff then (1000000 * m.backoffS - (m.lf - m.sec.backAt) + 999999) / 1000000 else 0

def Mach.secWord (m : Mach) (off : Nat) : Nat :=
  let x := m.sec
  if 0x28 ≤ off && off ≤ 0x2F then pairOf x.tag (off - 0x28)
  else if 0x30 ≤ off && off ≤ 0x3F then pairOf x.cfgDig (off - 0x30)
  else if 0x40 ≤ off && off ≤ 0x4F then pairOf m.identity (off - 0x40)
  else match off with
  | 0x08 => m.secStat
  | 0x0A => x.fails
  | 0x0B => m.backoffLeft
  | 0x0C => x.result
  | 0x0D => x.unlCnt
  | 0x50 => x.attCnt
  | 0x51 => x.failTot
  | 0x52 => x.denyCnt
  | 0x5F => flag (m.keyLocked 0x12) 0
  | _ => 0

/-! ## SITE, ZC -/

/-- Transmission is impossible: VDD absent (R379), or a joined device whose tracker gives no crossing in a frond without a
beacon (R368). -/
def Mach.txOff (m : Mach) : Bool := !m.pwr.vddOk || (m.site.joined && !(m.clk.refOk && (m.tracking || m.site.bcnThis)))

/-- SITE.STAT (R389). -/
def Mach.siteStat (m : Mach) : Nat :=
  let x := m.site
  m.siteRole + flag x.joined 2 + 8 * (m.ladderNow % 4) + flagsNat
    [false, false, false, false, false, x.acting, x.conflict, m.keyErr, x.keyver, x.overBud, x.pubPend, m.txOff, x.cyc6]

def Mach.siteWord (m : Mach) (off : Nat) : Nat :=
  let x := m.site
  match off with
  | 0x11 => m.siteStat
  | 0x12 => m.limpAux
  | 0x13 => m.auxNow
  | 0x14 => m.mainNow
  | 0x15 => min 0xFFFF x.auxLoad
  | 0x16 => min 0xFFFF x.shedLoad
  | 0x17 => (wordOf (m.chBits fun n => (m.ch n).limp.siteHold).toNat 0).toNat
  | 0x18 => (wordOf (m.chBits fun n => (m.ch n).limp.siteHold).toNat 1).toNat
  | 0x19 => min 255 x.lost
  | 0x1A => (wordOf x.fc 0).toNat
  | 0x1B => (wordOf x.fc 1).toNat
  | 0x1C => (wordOf x.stime.toNat 0).toNat
  | 0x1D => (wordOf x.stime.toNat 1).toNat
  | 0x1E => (wordOf x.stime.toNat 2).toNat
  | 0x1F => (wordOf x.ltick.toNat 0).toNat
  | 0x20 => (wordOf x.ltick.toNat 1).toNat
  | 0x21 => (wordOf x.ltick.toNat 2).toNat
  | 0x22 => x.coord % 32 + 256 * (x.coordKey % 256)
  | 0x23 => (satS16 x.ofsMean).toNat
  | 0x26 => (wordOf x.ack.toNat 0).toNat
  | 0x27 => (wordOf x.ack.toNat 1).toNat
  | 0x28 => m.npin
  | 0x29 => x.cntOk
  | 0x2A => x.cntLost
  | 0x2B => x.cntAuth
  | 0x2C => x.cntReplay
  | 0x2D => x.cntEras
  | 0x2E => x.cntRs
  | _ => 0

/-- Codes of the tracker states (R392). -/
def ZcSt.code : ZcSt → Nat
  | .unlocked => 0 | .acquire => 1 | .locked => 2 | .holdover => 3

def Mach.zcWord (m : Mach) (off : Nat) : Nat :=
  let z := m.zc
  match off with
  | 0x0A => z.st.code + 4 * min 7 z.outl
  | 0x0B => min 0xFFFF m.zcFreq
  | 0x0C => (wordOf z.per16 0).toNat
  | 0x0D => (wordOf z.per16 1).toNat
  | 0x0E => (satS16 z.pherr).toNat
  | 0x0F => if z.st == .holdover then (240000000 - (m.now - z.holdAt)) / 48000 else 0
  | 0x10 => z.cntAcc
  | 0x11 => z.cntOutl
  | 0x12 => z.cntRel
  | 0x14 => (wordOf z.lastT.toNat 0).toNat
  | 0x15 => (wordOf z.lastT.toNat 1).toNat
  | 0x16 => (wordOf z.lastT.toNat 2).toNat
  | _ => 0

/-! ## The page header (R47, R48) -/

/-- Words with a staged value in each group of 16 offsets. -/
def Mach.pgStage (m : Mach) (page : Nat) : Nat :=
  flagsNat ((List.range 16).map fun i => m.staged.any fun p => pageOf p.1 == page && offOf p.1 / 16 == i)

/-- PG_LOCK.STATE: key lock before the OTP seal (R48, R409). -/
def Mach.pgLock (m : Mach) (page : Nat) : Nat :=
  if m.keyLocked page then 2
  else if m.otp.rlSeal && (page == 0x0C || page == 0x11 || page == 0x12) then 1 else 0

/-- The PAGE field of PG_STAT (R137, R217, R246 to R248, R283, R299, R330, R356, R357, R390, R392, R419, R437, R438,
R460 to R463). -/
def State.pgSummary (s : State) (page : Nat) : Nat :=
  let m := s.m
  if 0x20 ≤ page then
    let n := page - 0x20
    (m.st n).code + 16 * (m.ch n).flt.code + flag (m.ch n).flt.fltnReq 8
  else match page with
  | 0x00 => m.devState + flag m.dev.governed 3
  | 0x01 => m.clkStat % 16
  | 0x02 => m.pwrStat
  | 0x03 => flagsNat [m.port.chain, m.crcOn, m.port.enum]
  | 0x04 => m.rings.en.toNat + 256 * s.ringStat
  | 0x06 => m.tbGstat % 256 + flag m.dl.valid 8 + flag ((List.range 8).any fun k => (m.tb k).ulk) 9
  | 0x07 => m.xpwmPins % 256
  | 0x08 => m.tripWord 0x0D / 16
  | 0x09 => m.tachGstat
  | 0x0A => flag m.thm.stop 0 + 2 * (m.allBanks.foldl (fun x b => max x (m.effStep b)) 0) +
      flag (m.sensorsOn.any fun x => (m.sensor x).bad) 3
  | 0x0B => m.limpWordStat % 32 + flag m.limp.wdgRun 5
  | 0x0C => m.otp.src % 4 + flag m.unsealed 2 + flag (m.dev.part.isX && (m.otp.kdConf || m.otp.skConf)) 3
  | 0x0D => s.jnlWord 0x09 % 16
  | 0x0E => m.secStat
  | 0x0F => m.siteStat % 64
  | 0x10 => m.zc.st.code
  | 0x11 => m.mstStat % 16
  | 0x12 => flag m.dev.frz 0
  | _ => 0

/-- A header word (R47). -/
def State.headerWord (s : State) (page off : Nat) : Nat :=
  let m := s.m
  match off with
  | 0 => if 0x20 ≤ page then 0x2000 + (page - 0x20) else page * 256
  | 1 => 0x0100 + lastOff page
  | 2 => s.pgSummary page % 4096 + flag (m.evtWord page != 0) 13 + flag (m.pgLock page != 0) 14 + flag (m.pgStage page != 0) 15
  | 3 => (m.evtWord page).toNat
  | 6 => m.pgStage page
  | 7 => m.pgLock page
  | _ => (m.cfg (adr page off)).toNat

/-- A read-only word above the header. -/
def State.roWord (s : State) (page off : Nat) : Nat :=
  let m := s.m
  if 0x20 ≤ page then m.chWord (page - 0x20) off
  else match page with
  | 0x00 => m.devWord off
  | 0x01 => m.clkWord off
  | 0x02 => m.pwrWord off
  | 0x03 => m.hspWord off
  | 0x04 => s.ringWord off
  | 0x05 => m.cmtWord off
  | 0x06 => m.tbPage off
  | 0x07 => m.xpwmWord off
  | 0x08 => m.tripWord off
  | 0x09 => m.tachRo off
  | 0x0A => m.thmWord off
  | 0x0B => m.limpWord off
  | 0x0C => m.otpRo off
  | 0x0D => s.jnlWord off
  | 0x0E => m.secWord off
  | 0x0F => m.siteWord off
  | 0x10 => m.zcWord off
  | 0x11 => m.mstWord off
  | 0x12 => m.dbgWord off
  | _ => 0

/-! ## Reading one word (R50, R55, R56) -/

/-- An RS word: the staged value in the staged view, else the active one. -/
def Mach.rsRead (m : Mach) (a : Nat) : Word :=
  if bit (m.cfg 0x0513) 0 then (m.staged.get? a).getD (m.cfg a) else m.cfg a

/-- CHn.PAIR of an odd page reads the even member's word (R245). -/
def oddPair (page off : Nat) : Bool := decide (0x20 ≤ page) && page % 2 == 1 && off == 0x5A

/-- The value of an implemented word of a page of the part at this instant. -/
def State.value (s : State) (page off : Nat) : Word :=
  let a := adr page off
  if off < 8 then wd (s.headerWord page off)
  else match regAt page off with
  | none => 0
  | some r => match r.acc with
    | .ro => if oddPair page off then s.m.rsRead (adr (page - 1) off) else wd (s.roWord page off)
    | .rs => s.m.rsRead a
    | .wo => 0
    | .w1c => s.m.evtWord page
    | _ =>
      if a = 0x0408 then s.m.rings.en.setWidth 16
      else if a = 0x0308 then s.m.cfg a ||| (if s.m.crcReq then 0x0080 else 0)
      else s.m.cfg a

/-- An access past the page's last offset, or to a page the part lacks (R3, R58). -/
def Mach.pastEnd (m : Mach) (page off : Nat) : Bool := !(pagePresent m.dev.part page && decide (off ≤ lastOff page))

/-- Store a word in the snapshot latch, listing only words that are not 0. -/
def Mach.latchWord (a : Nat) (w : Word) (m : Mach) : Mach :=
  { m with snap := if w = 0 then m.snap.del a else m.snap.set a w }

/-- The snapshot latch takes the group's other words with its first (R56). -/
def State.capture (s : State) (page : Nat) (g : Nat × Nat) : State :=
  s.on fun m => forList ((List.range (g.2 - g.1)).map (g.1 + 1 + ·)) (fun o m => m.latchWord (adr page o) (s.value page o)) m

/-- Read word `off` of a page: its value, or the snapshot latch for the higher words of a group; SRAM words with their
correction; 0x0000 outside (R3, R45, R46, R50, R56, R58). -/
def State.readAt (page off : Nat) (s : State) : Word × State :=
  if s.m.pastEnd page off then (0, s)
  else if sramPage page then
    let (w, _, s) := s.sramRead (sramIndex (page - 0x80) off)
    (w, s)
  else match snapGroup page off with
  | some g => if off = g.1 then (s.value page off, s.capture page g) else ((s.m.snap.get? (adr page off)).getD 0, s)
  | none => (s.value page off, s)

/-- Read `n` words from word `off` of a page upward (R58). -/
def State.readBurst (page : Nat) : Nat → Nat → State → List Word × State
  | _, 0, s => ([], s)
  | off, n + 1, s =>
    let (w, s) := s.readAt page off
    let (ws, s) := State.readBurst page (off + 1) n s
    (w :: ws, s)

end Sys2Proof.Machine
end

