-- ==== Sys2Proof/Machine/Rings.lean ====
section
/-! DEFINITION. The rings themselves: doorbells, enabling, and the completion and event entries the device writes (R331 to
R335, R339 to R341, R356). -/

namespace Sys2Proof.Machine

/-- Change the ring engine. -/
def Mach.modRings (f : Rings → Rings) (m : Mach) : Mach := { m with rings := f m.rings }

/-! ## Doorbells (R335) -/

/-- The doorbell for ring `r` with new index `new` is valid. -/
def Mach.doorbellOk (m : Mach) (r new : Nat) : Bool :=
  let h := m.ringHead r
  let t := m.ringTail r
  if r < 6 then
    decide ((new + 256 - h) % 256 ≤ m.ringSize r) && decide ((new + 256 - t) % 256 ≤ (new + 256 - h) % 256)
  else decide ((t + 256 - new) % 256 ≤ (t + 256 - h) % 256)

/-- A doorbell word: it sets TAIL of an SQ or HEAD of CQ or EQ, or is kept in RING.DB_ERR. -/
def Mach.cmdDoorbell (w : Word) (m : Mach) : Mach :=
  let r := fld w 0 3
  let new := fld w 8 8
  if m.ringOn r && m.doorbellOk r new then (if r < 6 then m.setTail r new else m.setHead r new)
  else (m.modRings fun x => { x with dbErr := w }).event 0x04 0x0002

/-- A write to RING.DB. -/
def execRingDbWrite (w : Word) (s : State) : Out := .next (s.on (Mach.cmdDoorbell w))

/-! ## Enabling (R333) -/

/-- The ring is enabled, or is being cleared before its enable bit reads 1. -/
def Mach.ringClaims (m : Mach) (r : Nat) : Bool := m.ringOn r || m.rings.clr.getLsbD r

/-- Rings `a` and `b` share a descriptor. -/
def Mach.ringsOverlap (m : Mach) (a b : Nat) : Bool :=
  decide (m.ringBase a < m.ringBase b + m.ringSize b) && decide (m.ringBase b < m.ringBase a + m.ringSize a)

/-- Ring `r` can be enabled: BASE a multiple of SIZE, and no overlap with another. -/
def Mach.ringFits (m : Mach) (r : Nat) : Bool :=
  m.ringBase r % m.ringSize r == 0 && !((List.range 8).any fun k => k != r && m.ringClaims k && m.ringsOverlap r k)

/-- Ring `r` is enabled: its indices are 0; CQ and EQ are cleared first. -/
def Mach.enableRing (r : Nat) (m : Mach) : Mach :=
  if m.ringFits r then
    let m := (m.setHead r 0).setTail r 0
    m.modRings fun x =>
      if r < 6 then { x with en := setBit x.en r true } else { x with clr := setBit x.clr r true }
  else m.event 0x04 0x0004

/-- An item EQ no longer waits for. -/
def FrItem.passEq (x : FrItem) : FrItem := { x with eqDue := false }

/-- What waits for EQ when it is disabled: PAGE, TB and COMMIT entries are lost, fault-record items are handed on without
being posted (R341). -/
def Mach.closeEq (m : Mach) : Mach :=
  let n := m.rings.evq.length
  let m := m.modRings fun x => { x with eqLost := min 0xFFFF (x.eqLost + n), evq := [] }
  ({ m with frq := m.frq.map FrItem.passEq }).frClean

/-- Ring `r` is disabled; commands already fetched continue. -/
def Mach.disableRing (r : Nat) (m : Mach) : Mach :=
  let m := m.modRings fun x => { x with en := setBit x.en r false, clr := setBit x.clr r false }
  if r = 7 then m.closeEq else m

/-- A write to RING.EN. -/
def Mach.cmdRingEn (w : Word) (m : Mach) : Mach :=
  forList (List.range 8) (fun r m =>
    if bit w r then (if m.ringClaims r then m else m.enableRing r)
    else if m.ringClaims r then m.disableRing r else m) m

/-- RING_ENABLE. -/
def execRingEnable (w : Word) (s : State) : Out := .next (s.on (Mach.cmdRingEn w))

/-- RING_CLEAR_DONE: word 0 of every slot of CQ or EQ is 0x0000, and the enable bit reads 1. -/
def execRingClearDone (r : Fin 8) (s : State) : Out :=
  .next (
    if s.m.rings.clr.getLsbD r then
      let s := forList (List.range (s.m.ringSize r)) (fun i s => s.sramSet (s.m.slotWord r i) 0) s
      s.on (Mach.modRings fun x => { x with clr := setBit x.clr r false, en := setBit x.en r true })
    else s)

/-- RING.CMD CLR_LOST (R356). -/
def Mach.cmdRingClr (m : Mach) : Mach := m.modRings fun x => { x with eqLost := 0, eqOvf := false }

/-- RING_CLR_LOST. -/
def execRingClrLost (s : State) : Out := .next (s.on Mach.cmdRingClr)

/-! ## Entries (R339) -/

/-- PHASE of slot index `i` of ring `r`: 1 on even passes. -/
def Mach.phase (m : Mach) (r i : Nat) : Nat := if i / m.ringSize r % 2 = 0 then 0x8000 else 0

/-- Write an entry into the slot at TAIL of ring `r`, words 1 to 7 first and word 0 last, and advance TAIL. `head` is word
0 without PHASE. -/
def State.postEntry (r head : Nat) (rest : List Word) (s : State) : State :=
  let i := s.m.ringTail r
  let a := s.m.slotWord r i
  let w0 := wd (head + s.m.phase r i)
  ((s.sramSetList (a + 1) rest).sramSet a w0).on (Mach.setTail r (i + 1))

/-- The low to high words of a 48-bit time. -/
def timeWords (t : Time) : List Word := [wordOf t.toNat 0, wordOf t.toNat 1, wordOf t.toNat 2]

/-- A completion is written: CQ_POST, and its command is no longer in flight (R339, R342). -/
def State.postCompl (c : Compl) (s : State) : State :=
  let s := s.postEntry 6 (c.opcode + 256 * c.tag.toNat)
    ([wd (c.status + 256 * c.state), wd (c.ring + 256 * c.idx)] ++ timeWords c.time ++ [c.res0, c.res1])
  s.on fun m =>
    let m := if c.own then
        m.modRings fun x => { x with infl := x.infl.filter fun i => !(i.tag == c.tag.toNat && i.ring == c.ring && i.idx == c.idx) }
      else m
    m.event 0x04 0x0001

/-- CQ_POST (R343): the oldest completion moves into a free slot. -/
def execCqPost (s : State) : Out :=
  .next (
    if s.m.ringOn 6 && !s.m.ringFull 6 then
      match s.m.rings.compl with
      | c :: rest => (s.on (Mach.modRings fun x => { x with compl := rest })).postCompl c
      | [] => s
    else s)

/-- The EQ entry of an event (R340). -/
def State.postEvent (page type : Nat) (w1 : Word) (t : Time) (w5 w6 w7 : Word) (s : State) : State :=
  s.postEntry 7 (page + 256 * type) ([w1] ++ timeWords t ++ [w5, w6, w7])

/-- A fault-record item's entry: FAULT from the channel's page, DEVICE from LIMP or THM. -/
def State.postItem (it : FrItem) (s : State) : State :=
  if it.kind = 0 then
    s.postEvent (chPage it.ch) 1 (wd (it.ch + 256 * it.code + 4096 * it.detail)) it.time (wd it.st) (wd it.est) 0
  else
    s.postEvent (if it.kind = 1 then 0x0B else 0x0A) 2 (wd it.kind) it.time (wd it.aux)
      (if it.kind = 2 then wd it.tts else 0) 0

/-- A collected entry: a PAGE entry carries what the page has latched since its previous one. -/
def State.postCollected (e : EqEv) (s : State) : State :=
  if e.type = 0 then
    (s.postEvent e.page 0 (s.m.evtFresh e.page) e.time 0 0 0).on (Mach.setEvtFresh e.page 0)
  else s.postEvent e.page e.type e.w1 e.time e.w5 e.w6 e.w7

/-- The EQ takes the oldest fault-record item that waits for it. -/
def takeEq : List FrItem → List FrItem
  | [] => []
  | it :: t => if it.eqDue then it.passEq :: t else it :: takeEq t

/-- The collected entries that find EQ full are not posted (R341). -/
def Mach.loseCollected (m : Mach) : Mach :=
  forList m.rings.evq (fun _ m => m.eqLose true) (m.modRings fun x => { x with evq := [] })

/-- EQ_POST (R340, R341): an OVERFLOW entry before any other, then the fault record, then collected entries (log entry
14). -/
def execEqPost (s : State) : Out :=
  .next (
    if s.m.ringOn 7 && s.m.ringFull 7 then s.on Mach.loseCollected
    else if s.m.ringOn 7 then
      if s.m.rings.ovfDue then
        (s.postEvent 0x04 5 0 s.m.time (wd s.m.rings.eqLost) 0 0).on (Mach.modRings fun x => { x with ovfDue := false })
      else match s.m.frq.find? (·.eqDue) with
      | some it => (s.postItem it).on fun m => ({ m with frq := takeEq m.frq }).frClean
      | none => match s.m.rings.evq with
        | e :: rest => (s.on (Mach.modRings fun x => { x with evq := rest })).postCollected e
        | [] => s
    else s)

/-! ## The bus grant of the port master (R354, R355) -/

/-- Change the master. -/
def Mach.modMst (f : Mst → Mst) (m : Mach) : Mach := { m with mst := f m.mst }

/-- 0x4D47 to MST.GRANT. -/
def Mach.cmdGrant (m : Mach) : Mach := m.modMst fun x => { x with grant := true, revoke := false }
/-- Any other value: the grant ends now, or after the transaction in progress. -/
def Mach.cmdRevoke (m : Mach) : Mach :=
  m.modMst fun x => if x.active.isSome then { x with revoke := x.grant } else { x with grant := false }
/-- 0x4D01 to MST.CMD. -/
def Mach.cmdClearHalt (m : Mach) : Mach := m.modMst fun x => { x with halt := false }
/-- The next CSN falling edge ends the watchdog grant. -/
def Mach.endWdgGrant (m : Mach) : Mach := m.modMst fun x => { x with wdgGrant := false }

/-- MST_GRANT. -/
def execMstGrant (s : State) : Out := .next (s.on (Mach.ifX Mach.cmdGrant))
/-- MST_REVOKE. -/
def execMstRevoke (s : State) : Out := .next (s.on (Mach.ifX Mach.cmdRevoke))
/-- MST_CLEAR_HALT. -/
def execMstClearHalt (s : State) : Out := .next (s.on (Mach.ifX Mach.cmdClearHalt))
/-- WATCHDOG_GRANT_END. -/
def execWatchdogGrantEnd (s : State) : Out := .next (s.on Mach.endWdgGrant)

end Sys2Proof.Machine
end

