-- ==== Sys2Proof/Machine/Port.lean ====
section
/-! DEFINITION. Writes by access type, the commands of the WO words, and the host serial port: read and write frames, the
short frames, chain stages and the software reset (R47 to R58, R301 to R330). -/

namespace Sys2Proof.Machine

/-! ## Direct writes (R49, R50, R52, R57) -/

/-- A W1C write to PG_EVT: the bits written as 1 clear, but those whose event occurs in the same step (R49). -/
def Mach.cmdEvtClear (page : Nat) (bits same : Word) (m : Mach) : Mach :=
  let m := m.setEvtWord page (m.evtWord page &&& ~~~ bits)
  if same &&& (0x8000 ||| evtBits page) = 0 then m else m.event page (same &&& (0x8000 ||| evtBits page))

/-- A write to PG_EVTEN: an event already latched whose bit is newly enabled posts to EQ as PG_CTL selects (R49). -/
def Mach.cmdEvten (page : Nat) (bits : Word) (m : Mach) : Mach :=
  let late := bits &&& ~~~ m.evtEn page &&& m.evtWord page
  let m := m.setCfg (adr page 0x04) (bits &&& (0x8000 ||| evtBits page))
  if (late &&& m.evtEn page) != 0 && bit (m.pgCtl page) 1 && page != 0x04 && !m.pageWaits page then
    m.collect ⟨page, 0, 0, 0, 0, 0, m.time⟩
  else m

/-- A write to a word of an RW multi-word value: lower words are held, and the highest makes the whole value take effect
(R57). -/
def Mach.writeHeld (g : Nat × Nat) (a : Nat) (w : Word) (m : Mach) : Mach :=
  if a < g.2 then { m with held := m.held.set a w }
  else
    let m' := (m.setCfg g.1 ((m.held.get? g.1).getD (m.cfg g.1))).setCfg (g.1 + 1) ((m.held.get? (g.1 + 1)).getD (m.cfg (g.1 + 1)))
    { m'.setCfg a w with held := (m.held.del g.1).del (g.1 + 1) }

/-- A write to an RW word. RING.EN acts on the rings; RING.CFGr of an enabled ring discards it (R332). The answer says
whether it was discarded. -/
def Mach.writeRw (a : Nat) (r : Reg) (w : Word) (m : Mach) : Mach × Bool :=
  if a = 0x0408 then (m.cmdRingEn w, false)
  else if 0x0410 ≤ a && a ≤ 0x0417 && m.ringClaims (a - 0x0410) then (m.wdisc 0x04, true)
  else if offOf a = 0x04 then (m.cmdEvten (pageOf a) w, false)
  else match heldGroup a with
  | some g => (m.writeHeld g a w, false)
  | none =>
    let m := m.setCfg a (w &&& r.mask)
    (if a = 0x1008 && !bit w 0 then m.zcUnlocked else m, false)

/-- An owner-key word loads into its place; it starts no command (R432, R438). -/
def keyWordAddr (a : Nat) : Bool := 0x0E10 ≤ a && a ≤ 0x0E1F

/-- The owner-key buffer takes a word. -/
def Mach.loadKey (a : Nat) (w : Word) (m : Mach) : Mach :=
  { m with sec := { m.sec with keys := WMap.set m.sec.keys (a - 0x0E10) w } }

/-- What the writes of a frame report (R306). -/
structure Marks where
  pastEnd : Bool
  wdisc   : Bool
deriving DecidableEq, Repr

/-- A write to a header page by access type; WO words start their command later (R50, R52, R53). -/
def Mach.writeReg (page off : Nat) (w : Word) (m : Mach) : Mach × Bool :=
  let a := adr page off
  if m.keyLocked page && off != 0x03 then ((m.deny).wdisc page, true)
  else match regAt page off with
  | none => (m, false)
  | some r => match r.acc with
    | .ro => (m.wdisc page, true)
    | .rs => ({ m with staged := m.staged.set a (w &&& r.mask) }, false)
    | .w1c => (m.cmdEvtClear page w 0, false)
    | .rw => m.writeRw a r w
    | .rl => if m.otp.rlSeal then (m.wdisc page, true) else (m.setCfg a (w &&& r.mask), false)
    | .wo => (if keyWordAddr a then m.loadKey a w else m, false)

/-- A write to a word of a page (R3, R45, R58). -/
def State.writeAt (page off : Nat) (w : Word) (s : State) : State × Marks :=
  if s.m.pastEnd page off then (s, ⟨true, false⟩)
  else if sramPage page then (s.sramSet (sramIndex (page - 0x80) off) w, ⟨false, false⟩)
  else
    let (m, d) := s.m.writeReg page off w
    ({ s with m := m }, ⟨false, d⟩)

/-! ## The commands of the WO words (R50) -/

/-- An effect that needs a KEY in [15:8]. -/
def keyed {σ : Type} (w : Word) (k : Nat) (f : σ → σ) (s : σ) : σ := if fld w 8 8 = k then f s else s

/-- An effect of a channel page's command on a single channel or leader; ignored on a member's page (R96, R160). -/
def State.leadCmd (n : Nat) (f : Mach → Mach) (s : State) : State := if s.m.leader n = n then s.ctl f else s

/-- CHn.FLT_CMD (R134). -/
def State.woFault (n : Nat) (w : Word) (s : State) : State :=
  if w = 0xFC01 then s.leadCmd n (Mach.cmdFaultClear n)
  else if w = 0xFC02 then s.leadCmd n (Mach.cmdHistoryClear n)
  else if w = 0xFC03 then s.leadCmd n fun m => (m.cmdHistoryClear n).cmdFaultClear n
  else s

/-- CHn.RTY_CMD (R160). -/
def State.woRetry (n : Nat) (w : Word) (s : State) : State :=
  if w = 0x5201 then s.leadCmd n (Mach.cmdCountClear n)
  else if w = 0x5202 then s.leadCmd n (Mach.cmdBucketFill n)
  else if w = 0x5203 then s.leadCmd n fun m => (m.cmdCountClear n).cmdBucketFill n
  else s

/-- The WO words of a channel page. -/
def State.woChannel (n off : Nat) (w : Word) (s : State) : State :=
  match off with
  | 0x0F => onlyIf (bit w 0) (State.ctl (Mach.modCh n fun c => { c with stage := { c.stage with clampCnt := 0 } })) s
  | 0x20 => onlyIf (bit w 0) (State.ctl (Mach.cmdProtClr n)) s
  | 0x37 => s.woRetry n w
  | 0x4B => keyed w 0x4D (State.on fun m =>
      onlyIf (bit w 2) (Mach.cmdClrSig n) (onlyIf (bit w 1) (Mach.cmdClrE n) (onlyIf (bit w 0) (Mach.cmdClrPeak n) m))) s
  | 0x5C => if w = 0xA501 ∧ n % 2 = 0 then s.ctl (Mach.cmdAswpClear (n / 2)) else s
  | 0x67 => if w = 0x7401 then s.ctl (Mach.cmdThClear n) else s
  | 0x7F => s.woFault n w
  | _ => s

/-- THM.CMD (R258, R281): the baseplate first, so that every node named reads as its sensor. -/
def State.woThm (w : Word) (s : State) : State :=
  keyed w 0x54 (State.ctl fun m =>
    let m := onlyIf (bit w 6) Mach.cmdResyncBp m
    onlyIf (bit w 7) Mach.cmdClrLog (forList (m.allBanks.filter (bit w)) Mach.cmdResync m)) s

/-- SITE.CMD (R389). -/
def State.woSite (w : Word) (s : State) : State :=
  keyed w 0x53 (fun s =>
    let s := onlyIf (bit w 0) (State.on Mach.cmdPublish) s
    let s := onlyIf (bit w 1) (State.ctl Mach.siteLeave) s
    let s := onlyIf (bit w 2) (State.on Mach.cmdHandover) s
    onlyIf (bit w 3) (State.on Mach.cmdSiteClr) s) s

/-- The WO words of the device pages below 0x0A. -/
def State.woDevice (a : Nat) (w : Word) (s : State) : State :=
  match a with
  | 0x000F => keyed w 0x44 (State.on fun m => onlyIf (bit w 1) Mach.cmdClrLost (onlyIf (bit w 0) Mach.cmdTset m)) s
  | 0x010F => keyed w 0x43 (State.on (onlyIf (bit w 0) Mach.cmdClkClr)) s
  | 0x0214 => keyed w 0x50 (State.on (onlyIf (bit w 0) Mach.cmdPwrClr)) s
  | 0x0312 => keyed w 0x48 (State.on (onlyIf (bit w 0) fun m =>
      { m with port := { m.port with crcCnt := 0, frmCnt := 0, udrCnt := 0, errAddr := 0, errCmd := 0 } })) s
  | 0x0409 => s.on (Mach.cmdDoorbell w)
  | 0x040E => keyed w 0x52 (State.on (onlyIf (bit w 0) Mach.cmdRingClr)) s
  | 0x0510 => s.ctl (Mach.cmdCommit w)
  | 0x0511 => onlyIf (bit w 1) (State.on Mach.cmdDiscard) (onlyIf (bit w 0) (State.ctl Mach.cmdAbort) s)
  | 0x0512 => if w = 0x7A4C then s.ctl Mach.cmdTakeArm else s.ctl Mach.cmdTakeDisarm
  | 0x0762 => if w = 0xA501 then s.ctl (Mach.cmdAswpClear 12) else s
  | 0x0765 => if w = 0xA501 then s.ctl (Mach.cmdAswpClear 13) else s
  | 0x0768 => if w = 0xA501 then s.ctl (Mach.cmdAswpClear 14) else s
  | 0x076B => if w = 0xA501 then s.ctl (Mach.cmdAswpClear 15) else s
  | _ => s

/-- The WO words of the device pages from 0x0A on. -/
def State.woDevice2 (a : Nat) (w : Word) (s : State) : State :=
  match a with
  | 0x0A18 => s.woThm w
  | 0x0B0A => s.ctl (Mach.cmdKick w)
  | 0x0B18 => keyed w 0x4C (State.on (onlyIf (bit w 0) Mach.cmdLimpClr)) s
  | 0x0C13 => keyed w 0x4F (State.on (onlyIf (bit w 0) Mach.cmdClrDrift)) s
  | 0x0D0A => keyed w 0x4A (State.on fun m =>
      onlyIf (bit w 2) Mach.cmdJnlClr (onlyIf (bit w 1) Mach.cmdJnlRelease (onlyIf (bit w 0) Mach.queueEnergy m))) s
  | 0x0E09 => keyed w 0x53 (State.on fun m =>
      onlyIf (bit w 2) Mach.cmdAttest (onlyIf (bit w 1) Mach.endUnlock (onlyIf (bit w 0) Mach.cmdUnlock m))) s
  | 0x0F10 => s.woSite w
  | 0x1013 => keyed w 0x5A (State.on (onlyIf (bit w 0) Mach.cmdZcClr)) s
  | 0x1108 => if w = 0x4D47 then s.on Mach.cmdGrant else s.on Mach.cmdRevoke
  | 0x110B => if w = 0x4D01 then s.on Mach.cmdClearHalt else s
  | 0x1208 =>
    if w = 0xD501 then s.ctl Mach.cmdFreeze else if w = 0xD502 then s.ctl (Mach.endFreeze 1) else s
  | _ => s

/-- The command of a WO word starts; writes to an absent or key-locked page have been discarded (R3, R52). -/
def State.woCommand (page off : Nat) (w : Word) (s : State) : State :=
  if s.m.pastEnd page off || s.m.keyLocked page then s
  else if 0x20 ≤ page && page ≤ 0x37 then s.woChannel (page - 0x20) off w
  else if page < 0x0A then s.woDevice (adr page off) w
  else s.woDevice2 (adr page off) w

/-! ## Writes of one frame (R53, R58) -/

/-- The words written in ascending address order. -/
def State.writeWords (page : Nat) : Nat → List Word → State → State × Marks
  | _, [], s => (s, ⟨false, false⟩)
  | off, w :: ws, s =>
    let (s, k) := s.writeAt page off w
    let (s, ks) := State.writeWords page (off + 1) ws s
    (s, ⟨k.pastEnd || ks.pastEnd, k.wdisc || ks.wdisc⟩)

/-- The commands of the frame's WO words, in ascending address order, after all its writes. -/
def State.runCommands (page : Nat) : Nat → List Word → State → State
  | _, [], s => s
  | off, w :: ws, s => State.runCommands page (off + 1) ws (s.woCommand page off w)

/-- A frame's writes and then its commands. -/
def State.writeFrameWords (addr : Word) (ws : List Word) (s : State) : State × Marks :=
  let page := pageOf addr.toNat
  let off := offOf addr.toNat
  let (s, k) := s.writeWords page off ws
  (s.runCommands page off ws, k)

/-- REGISTER_WRITE: one word, by its access type. -/
def execRegisterWrite (addr : BitVec 16) (data : Word) (s : State) : Out := .next (s.writeFrameWords addr [data]).1

/-- RW_MULTIWORD_WRITE: a write to a word of DEV.TSET or CMT.TICK (R57). -/
def execRwMultiwordWrite (addr : BitVec 16) (data : Word) (s : State) : Out :=
  .next (match heldGroup addr.toNat with
    | some g => s.on (Mach.writeHeld g addr.toNat data)
    | none => s)

/-- PG_EVT_CLEAR (R49). -/
def execPgEvtClear (page : Byte) (bits same : Word) (s : State) : Out :=
  .next (if headerPage s.m.dev.part page.toNat then s.on (Mach.cmdEvtClear page.toNat bits same) else s)

/-- PG_EVTEN_WRITE (R49); discarded on a key-locked page (R52). -/
def execPgEvtenWrite (page : Byte) (bits : Word) (s : State) : Out :=
  .next (if !headerPage s.m.dev.part page.toNat then s
    else if s.m.keyLocked page.toNat then s.on fun m => (m.deny).wdisc page.toNat
    else s.on (Mach.cmdEvten page.toNat bits))

/-- HSP.CMD CLR_CNT (R329). -/
def execHspClrCnt (s : State) : Out :=
  .next (s.on fun m => { m with port := { m.port with crcCnt := 0, frmCnt := 0, udrCnt := 0, errAddr := 0, errCmd := 0 } })

/-! ## The outcome of a frame (R304, R306, R307, R329, R330) -/

/-- What a frame reports in status bits [7:3]. -/
structure FrameRes where
  crc   : Bool
  frame : Bool
  past  : Bool
  late  : Bool
  disc  : Bool
deriving DecidableEq, Repr

def FrameRes.ok : FrameRes := ⟨false, false, false, false, false⟩
/-- A frame that fails its framing check: FRAME_ERR only (R307). -/
def FrameRes.framing : FrameRes := ⟨false, true, false, false, false⟩
/-- A frame that fails its CRC check alone. -/
def FrameRes.crcFail : FrameRes := ⟨true, false, false, false, false⟩

/-- The port takes frames: from LIMP on, with VDD present, outside a transaction of its own master, and not in the frame that
collided with one (R304, R355, R443). -/
def Mach.portOn (m : Mach) : Bool := m.dev.phase == .running && m.pwr.vddOk && m.mst.active.isNone && !m.port.ignore

/-- A frame the port ignores ends with its CSN rising (R304, R355). -/
def Mach.skipFrame (m : Mach) : Mach :=
  if m.port.ignore then { m with port := { m.port with ignore := false }, mst := { m.mst with csn := true } } else m

/-! ## The port's lines (R301, R302, R304, R308, R323) -/

/-- The level of an output terminal. -/
inductive Line where
  | low | high | hiZ
deriving DecidableEq, Repr

/-- RDY: in addressed mode it is driven while CSN is low, low while a word is awaited; in chain mode it is open-drain, low
while a command executes. A silent port drives it never. -/
def Mach.rdy (m : Mach) (csnLow awaited executing : Bool) : Line :=
  if !m.portOn then .hiZ
  else if m.port.chain then (if executing then .low else .hiZ)
  else if !csnLow then .hiZ
  else if awaited then .low else .high

/-- The clock mode that the level of SCK at CSN falling selects; both sample on rising edges and change on falling ones. -/
def clockMode (sckHigh : Bool) : Nat := if sckHigh then 3 else 0

/-- The bit of a word that lane `i` of `lanes` carries in its cycle `c`, most significant bits first: on one lane IO1 carries
what the device sends. -/
def laneBit (lanes : Nat) (w : Word) (c i : Nat) : Option Bool :=
  if lanes = 1 then (if i = 1 then some (w.getLsbD (15 - c)) else none)
  else if i < lanes then some (w.getLsbD (15 - lanes * c - (lanes - 1 - i))) else none

/-- The data lanes of an opcode (R305). -/
def lanesOf (cmd : Nat) : Nat :=
  if cmd = 0x3B ∨ cmd = 0xBB ∨ cmd = 0xA2 then 2 else if cmd = 0x6B ∨ cmd = 0xEB ∨ cmd = 0x32 then 4 else 1

/-- CSN falls: the status byte is sent, and the watchdog grant ends (R306, R354). -/
def Mach.beginFrame (m : Mach) : Mach :=
  let st := m.statusByte
  { m with port := { m.port with txStatus := st, tx := [], txCrc := [], rdyFalls := [] }
           mst := { m.mst with csn := false, wdgGrant := false } }

/-- A frame ends with command `cmd` and address `addr`. -/
def Mach.endFrame (cmd : Nat) (addr : Word) (r : FrameRes) (m : Mach) : Mach :=
  let bits := flag r.crc 7 + flag r.frame 6 + flag r.past 5 + flag r.late 4 + flag r.disc 3
  let p := m.port
  let m := { m with
    mst := { m.mst with csn := true }
    port := { p with
      crcErr := r.crc, frameErr := r.frame, pastEnd := r.past, late := r.late, wdisc := r.disc, rstArmed := false,
      errAddr := if bits = 0 then p.errAddr else addr, errCmd := if bits = 0 then p.errCmd else wd (cmd + 256 * bits),
      crcCnt := if r.crc then inc16 p.crcCnt else p.crcCnt, frmCnt := if r.frame then inc16 p.frmCnt else p.frmCnt,
      udrCnt := if r.late then inc16 p.udrCnt else p.udrCnt,
      frames := if r.crc || r.frame then p.frames else p.frames + 1 } }
  let ev := flagsNat [r.crc, r.frame, r.past, r.disc, r.late]
  if ev = 0 then m else m.event 0x03 (wd ev)

/-- The two bytes of a word, as sent. -/
def wordSent (w : Word) : List Byte := [w.extractLsb' 8 8, w.extractLsb' 0 8]

/-! ## Read frames (R305, R308 to R312, R316) -/

/-- The words on the lanes: from an underrun on, 0xFFFF (R311). -/
def sentWords (late : Option Nat) (ws : List Word) : List Word :=
  match late with
  | some k => ws.take k ++ (ws.drop k).map fun _ => 0xFFFF
  | none => ws

/-- The running CRC after each word; complemented from an underrun on (R311, R316). -/
def runningCrcs (hdr : List Byte) (late : Option Nat) (ws : List Word) : List Byte :=
  (List.range ws.length).map fun k =>
    let c := crc8 (hdr ++ (ws.take (k + 1)).flatMap wordSent)
    if (late.map fun j => decide (j ≤ k)).getD false then ~~~ c else c

/-- What a frame with command `cmd` sends to the host. -/
def Mach.send (cmd : Nat) (hdr : List Byte) (late : Option Nat) (ws : List Word) (m : Mach) : Mach :=
  let out := sentWords late ws
  { m with port := { m.port with tx := out, txCrc := if m.crcOn then runningCrcs hdr late out else [], lanes := lanesOf cmd } }

/-- The words of a read frame before which RDY falls (R308): the first always, a further one when it is not ready. -/
def rdyFallsOf (f : ReadFrame) : List Nat :=
  (List.range f.words).filter fun k => k == 0 || f.wait.contains k || f.late == some k

/-- What the words of a read frame send; a partly transferred one is discarded (R312). -/
def Mach.sendRead (cmd : Nat) (f : ReadFrame) (ws : List Word) (m : Mach) : Mach :=
  let m := m.send cmd (BitVec.ofNat 8 cmd :: wordSent f.addr) f.late (if f.part then ws.dropLast else ws)
  { m with port := { m.port with rdyFalls := rdyFallsOf f } }

/-- A read frame with command `cmd` in addressed mode: the words whose DATA phase began are read one after the other; an
access past the page's end reads 0x0000 and is reported. -/
def State.readWords (cmd : Nat) (f : ReadFrame) (s : State) : State :=
  let page := pageOf f.addr.toNat
  let off := offOf f.addr.toNat
  let late := f.late.any (· < f.words)
  let past := f.words != 0 && s.m.pastEnd page (off + f.words - 1)
  let (ws, s) := s.readBurst page off f.words
  s.on fun m => (m.sendRead cmd f ws).endFrame cmd f.addr ⟨false, false, past, late, false⟩

/-! ## The stage of chain mode (R322 to R326) -/

/-- What the stage shifts out while the next frame comes in: the response loaded, or LATE with zeros while the previous
command still executes, formed then (R322, R323). -/
def Mach.beginStage (early : Bool) (m : Mach) : Mach :=
  let m := m.beginFrame
  let st : Byte := if early then 0x10 ||| (m.port.txStatus &&& 0x07) else m.port.respStat
  let ws : List Word := if early then [0, 0] else [m.port.respAddr, m.port.respData]
  { m with port := { m.port with txStatus := st, tx := ws, lanes := 1, txCrc := [crc8 (st :: ws.flatMap wordSent)] } }

/-- A frame of `bits` bits passes the framing check of chain mode (R325). -/
def Mach.chainFramed (m : Mach) (bits : Nat) : Bool :=
  bits != 0 && (if m.port.enum then bits == 48 * m.port.len else bits % 48 == 0)

/-- The outcome of the checks of a stage with opcode `cmd` (R325, R326). -/
def Mach.stageCheck (cmd : Byte) (x : ChainStage) (m : Mach) : FrameRes :=
  if !m.chainFramed x.bits then .framing
  else if crc8 (cmd :: wordSent x.addr ++ wordSent x.data) != x.crc then .crcFail
  else .ok

/-- The stage's response; `last` says that it answers a command other than NOP. -/
def Mach.respond (addr data : Word) (last : Bool) (m : Mach) : Mach :=
  { m with port := { m.port with respAddr := addr, respData := data, respStat := m.statusByte,
                                 lastAddr := if last then addr else m.port.lastAddr,
                                 lastData := if last then data else m.port.lastData } }

/-- A stage that fails executes nothing; its response carries ADDR and DATA as received. -/
def Mach.stageFail (cmd : Nat) (x : ChainStage) (r : FrameRes) (m : Mach) : Mach :=
  (m.endFrame cmd x.addr { r with late := x.late }).respond x.addr x.data false

/-- A stage with an opcode that chain mode does not list fails its framing check (R321, R326). -/
def Mach.alienStage (cmd : Nat) (x : ChainStage) (m : Mach) : Mach := (m.beginStage x.early).stageFail cmd x .framing

/-- A frame of an addressed opcode: in chain mode its stage fails; else `f` runs it. -/
def State.addressed (cmd : Nat) (x : ChainStage) (f : State → State) (s : State) : State :=
  if !s.m.portOn then s.on Mach.skipFrame
  else if s.m.port.chain then s.on (Mach.alienStage cmd x)
  else f (s.on Mach.beginFrame)

/-! ## Read frames in either mode -/

/-- A read frame with command `cmd`. An opcode of neither mode fails its framing check and has no ADDR (R321). -/
def State.readFrame (cmd : Nat) (f : ReadFrame) (s : State) : State :=
  let op := (f.cmd.map (·.toNat)).getD cmd
  s.addressed op f.stage (fun s =>
    if f.cmd.isSome then s.on (Mach.endFrame op 0 .framing)
    else if f.cut then s.on (Mach.endFrame cmd f.addr .framing)
    else s.readWords cmd f)

/-- READ (R308). -/
def execRead (f : ReadFrame) (s : State) : Out := guardWf (.read f) (.next (s.readFrame 0x03 f))
/-- READ_FAST (R309). -/
def execReadFast (f : ReadFrame) (s : State) : Out := guardWf (.readFast f) (.next (s.readFrame 0x0B f))
/-- READ_DUAL. -/
def execReadDual (f : ReadFrame) (s : State) : Out := guardWf (.readDual f) (.next (s.readFrame 0x3B f))
/-- READ_DUAL_IO. -/
def execReadDualIo (f : ReadFrame) (s : State) : Out := guardWf (.readDualIo f) (.next (s.readFrame 0xBB f))
/-- READ_QUAD. -/
def execReadQuad (f : ReadFrame) (s : State) : Out := guardWf (.readQuad f) (.next (s.readFrame 0x6B f))
/-- READ_QUAD_IO. -/
def execReadQuadIo (f : ReadFrame) (s : State) : Out := guardWf (.readQuadIo f) (.next (s.readFrame 0xEB f))

/-! ## Write frames (R313, R316) -/

/-- The framing check of a write frame: 1 to 64 whole words, and the CRC byte when it is enabled. -/
def writeFramed (f : WriteFrame) (crcOn : Bool) : Bool :=
  !f.cut && decide (1 ≤ f.data.length) && decide (f.data.length ≤ 64) &&
    f.bits == 16 * f.data.length + (if crcOn then 8 else 0)

/-- A write frame with command `cmd`. -/
def State.writeFrame (cmd : Nat) (f : WriteFrame) (s : State) : State :=
  s.addressed cmd f.stage (fun s =>
    let crcOn := s.m.crcOn
    if !writeFramed f crcOn then s.on (Mach.endFrame cmd f.addr .framing)
    else if crcOn && crc8 (BitVec.ofNat 8 cmd :: wordSent f.addr ++ f.data.flatMap wordSent) != f.crc then
      s.on (Mach.endFrame cmd f.addr .crcFail)
    else
      let (s, k) := s.writeFrameWords f.addr f.data
      s.on (Mach.endFrame cmd f.addr ⟨false, false, k.pastEnd, false, k.wdisc⟩))

/-- WRITE. -/
def execWrite (f : WriteFrame) (s : State) : Out := .next (s.writeFrame 0x02 f)
/-- WRITE_DUAL. -/
def execWriteDual (f : WriteFrame) (s : State) : Out := .next (s.writeFrame 0xA2 f)
/-- WRITE_QUAD. -/
def execWriteQuad (f : WriteFrame) (s : State) : Out := .next (s.writeFrame 0x32 f)

/-! ## Frames without address (R317 to R320) -/

/-- The STATUS word (R317). -/
def Mach.statusWord (m : Mach) : Word :=
  wd (4096 * m.devState + flag m.cmt.pend.isSome 11 + flag m.cmt.takeArmed 10 + flag m.cmtHeld 9 + flag m.takeBlock 8)

/-- Part codes (R1, R318). -/
def Part.code : Part → Word
  | .krp0848 => 0x0848 | .krp1648 => 0x1648 | .krp2448 => 0x2448 | .krp2448x => 0x24A8

/-- The ID words (R318): chain mode, four and two lanes on every part, the port master on the KRP2448X. -/
def Mach.idWord (m : Mach) (k : Nat) : Word :=
  match k with
  | 0 => 0x4C59
  | 1 => m.dev.part.code
  | 2 => Config.siliconRevision
  | 3 => if m.dev.part.isX then 0x000F else 0x000D
  | _ => 0

/-- A frame that returns words without an address. -/
def State.plainRead (cmd : Nat) (x : ChainStage) (ws : Mach → List Word) (s : State) : State :=
  s.addressed cmd x (State.on fun m => (m.send cmd [BitVec.ofNat 8 cmd] none (ws m)).endFrame cmd 0 .ok)

/-- STATUS: one word per data slot. -/
def execStatus (words : Nat) (stage : ChainStage) (s : State) : Out :=
  .next (s.plainRead 0x05 stage fun m => List.replicate words m.statusWord)

/-- ID. -/
def execId (words : Nat) (stage : ChainStage) (s : State) : Out :=
  .next (s.plainRead 0x9F stage fun m => (List.range words).map m.idWord)

/-- DOORBELL: exactly one word, handed to the ring engine (R319). -/
def execDoorbell (f : ShortFrame) (w : Word) (s : State) : Out :=
  .next (s.addressed 0x0D f.stage (fun s =>
    if f.bits != (if s.m.crcOn then 24 else 16) then s.on (Mach.endFrame 0x0D 0 .framing)
    else if s.m.crcOn && crc8 (0x0D :: wordSent w) != f.crc then s.on (Mach.endFrame 0x0D 0 .crcFail)
    else s.on fun m => (m.cmdDoorbell w).endFrame 0x0D 0 .ok))

/-- CSN falls on a RESET_EN or RESET frame of either mode. -/
def Mach.beginReset (f : ShortFrame) (m : Mach) : Mach :=
  if m.port.chain then m.beginStage f.stage.early else m.beginFrame

/-- The outcome of the checks of RESET_EN and RESET (R320, R326). -/
def Mach.resetCheck (cmd : Byte) (f : ShortFrame) (m : Mach) : FrameRes :=
  if m.port.chain then m.stageCheck cmd f.stage
  else if f.bits != (if m.crcOn then 8 else 0) then .framing
  else if m.crcOn && crc8 [cmd] != f.crc then .crcFail else .ok

/-- The end of a RESET_EN or RESET frame; the stage of chain mode answers ADDR and DATA 0x0000, or as received where it
fails (R324, R326). -/
def Mach.resetEnd (cmd : Nat) (f : ShortFrame) (r : FrameRes) (m : Mach) : Mach :=
  if !m.port.chain then m.endFrame cmd 0 r
  else if r == .ok then (m.endFrame cmd f.stage.addr { r with late := f.stage.late }).respond 0 0 true
  else m.stageFail cmd f.stage r

/-- RESET_EN arms the software reset. -/
def execResetEn (f : ShortFrame) (s : State) : Out :=
  .next (
    if !s.m.portOn then s.on Mach.skipFrame
    else s.on fun m =>
      let m := m.beginReset f
      let r := m.resetCheck 0x66 f
      let m := m.resetEnd 0x66 f r
      { m with port := { m.port with rstArmed := r == .ok } })

/-- RESET after RESET_EN starts a software reset at CSN rising; unarmed it fails its framing check. -/
def execReset (f : ShortFrame) (s : State) : Out :=
  .next (
    if !s.m.portOn then s.on Mach.skipFrame
    else
      let armed := s.m.port.rstArmed
      let s := s.on (Mach.beginReset f)
      let r := if armed then s.m.resetCheck 0x99 f else .framing
      if r == .ok then s.softReset else s.on (Mach.resetEnd 0x99 f r))


/-! ## Chain stages (R322 to R326) -/

/-- A stage that passes: it executes `f`, which answers the response words and what it reports. -/
def State.stage (cmd : Nat) (x : ChainStage) (nop : Bool) (f : State → State × Word × Word × FrameRes) (s : State) : State :=
  if !s.m.portOn then s.on Mach.skipFrame
  else if !s.m.port.chain then s.on fun m => (m.beginFrame).endFrame cmd 0 .framing
  else
    let s := s.on (Mach.beginStage x.early)
    let r := s.m.stageCheck (BitVec.ofNat 8 cmd) x
    if r != .ok then s.on (Mach.stageFail cmd x r)
    else
      let (s, a, d, r) := f s
      if r.frame then s.on (Mach.stageFail cmd x r)
      else s.on fun m => (m.endFrame cmd x.addr { r with late := x.late }).respond a d (!nop)

/-- NOP/READBACK repeats the latest response to another command. -/
def execNopReadback (x : ChainStage) (s : State) : Out :=
  .next (s.stage 0x00 x true fun s => (s, s.m.port.lastAddr, s.m.port.lastData, .ok))

/-- CHAIN_WRITE writes DATA to ADDR as a one-word frame. -/
def execChainWrite (x : ChainStage) (s : State) : Out :=
  .next (s.stage 0x01 x false fun s =>
    let (s, k) := s.writeFrameWords x.addr [x.data]
    (s, x.addr, x.data, ⟨false, false, k.pastEnd, false, k.wdisc⟩))

/-- CHAIN_READ reads ADDR. -/
def execChainRead (x : ChainStage) (s : State) : Out :=
  .next (s.stage 0x08 x false fun s =>
    let page := pageOf x.addr.toNat
    let off := offOf x.addr.toNat
    let past := s.m.pastEnd page off
    let s := s.on (Mach.modMst fun q => { q with csn := true })
    let (w, s) := s.readAt page off
    (s, x.addr, w, ⟨false, false, past, false, false⟩))

/-- CHAIN_ENUMERATE stores p = DATA[7:0] and N = DATA[15:8], 1 ≤ N ≤ 16 and p < N (R325). -/
def execChainEnumerate (x : ChainStage) (s : State) : Out :=
  .next (s.stage 0x0F x false fun s =>
    let p := fld x.data 0 8
    let n := fld x.data 8 8
    if 1 ≤ n && n ≤ 16 && p < n then
      let s := s.on fun m => ({ m with port := { m.port with enum := true, pos := p, len := n } }).event 0x03 0x0020
      (s, wd (256 * n + p), s.m.dev.part.code, .ok)
    else (s, 0, 0, .framing))

end Sys2Proof.Machine
end

