-- ==== Sys2Proof/Machine/Engine.lean ====
section
/-! DEFINITION. The ring engines: fetching descriptors and the commands they carry, the control of long operations, and
the port master (R336 to R338, R342 to R355, and the operations' own rules R183, R207, R279, R375, R383, R416, R430). -/

namespace Sys2Proof.Machine

/-! ## What each ring accepts (R337, R338) -/

/-- Opcode `op` is accepted on ring `r`. -/
def opcodeOn (r op : Nat) : Bool :=
  match op with
  | 0x01 | 0x03 => r == 0 || r == 1
  | 0x08 | 0x09 | 0x0A | 0x0B => r == 0
  | 0x40 | 0x41 | 0x42 | 0x43 | 0x44 => r == 3
  | 0x50 | 0x51 => r == 2
  | 0x60 | 0x61 => r == 4
  | 0x70 | 0x71 => r == 5
  | _ => false

/-- Tags of ring `r`. -/
def tagOn (r tag : Nat) : Bool := if dpRing r then decide (56 ≤ tag) else decide (tag < 56)

/-- Opcodes of features the KRP2448X alone has (R2, R7). -/
def opcodeX (op : Nat) : Bool := op == 0x42 || op == 0x60 || op == 0x61 || op == 0x70 || op == 0x71

/-- Why a fetched descriptor is not executed, its tag being free. -/
def Mach.fetchError (i : Infl) (m : Mach) : Option Nat :=
  if !opcodeOn i.ring i.opcode then some stBadOpcode
  else if !tagOn i.ring i.tag then some stBadParam
  else if !m.dev.part.isX && opcodeX i.opcode then some stAbsent
  else none

/-! ## Fetching (R336, R342, R343) -/

/-- SQ5 waits: it is served strictly in order and not while halted, and a descriptor for the watchdog grant alone waits
for that grant (R353 to R355). -/
def State.sq5Waits (s : State) : Bool :=
  let m := s.m
  m.mst.halt || (m.rings.infl.any fun i => i.ring == 5) ||
    (bit (s.sramVal (m.slotWord 5 (m.ringHead 5) + 1)) 0 && !m.mst.wdgGrant)

/-- Free slots of CQ. -/
def Mach.cqFree (m : Mach) : Nat := m.ringSize 6 - m.ringCount 6

/-- The engine may fetch from ring `r`, its own order of rings apart. -/
def State.fetchable (s : State) (r : Nat) : Bool :=
  let m := s.m
  m.dev.phase == .running && m.ringOn r && m.ringOn 6 && m.ringCount r != 0 &&
  match r with
  | 0 => decide (m.inflCount false + 1 ≤ m.cqFree) && !s.cmtWaits 0
  | 1 => decide (m.inflCount false + 2 ≤ m.cqFree) && !s.cmtWaits 1
  | 3 => decide (m.inflCount false + 2 ≤ m.cqFree)
  | 5 => decide (m.inflCount false + 2 ≤ m.cqFree) && !s.sq5Waits
  | 4 => decide (m.inflCount true < 8) && !m.rings.infl.any fun i => i.ring == 4
  | _ => decide (m.inflCount true < 8)

/-- Ring `r` is the one its engine serves now: the first of SQ0, SQ1, SQ3, SQ5 that can be served, and SQ2 and SQ4 in
turn. -/
def State.fetchTurn (s : State) (r : Nat) : Bool :=
  s.fetchable r &&
  match r with
  | 1 => !s.fetchable 0
  | 3 => !s.fetchable 0 && !s.fetchable 1
  | 5 => !s.fetchable 0 && !s.fetchable 1 && !s.fetchable 3
  | 2 => !s.m.rings.dpTurn || !s.fetchable 4
  | 4 => s.m.rings.dpTurn || !s.fetchable 2
  | _ => true

/-- The command of a fetched descriptor: with a busy tag it completes at once and does nothing; else it is in flight, and ends
at once where it cannot be executed or a word of it is uncorrectable (R336, R342). -/
def Mach.takeIn (i : Infl) (bad : Bool) (m : Mach) : Mach :=
  let m := if bad then m.event 0x04 0x0020 else m
  if m.tagBusy i.tag then m.addCompl i false (if bad then stDescEcc else stTagBusy) 6 0 0
  else
    let m := m.modRings fun x => { x with infl := x.infl ++ [i] }
    match if bad then some stDescEcc else m.fetchError i with
    | some st => m.complete i st 0 0
    | none => m

/-- Fetch the descriptor at the head of ring `r`: all eight words at once (R336). -/
def State.fetch (r : Nat) (s : State) : State :=
  let idx := s.m.ringHead r
  let (ws, bad, s) := s.sramReads (s.m.slotWord r idx) 8
  s.on fun m =>
    let m := (m.setHead r (idx + 1)).modRings fun x => { x with dpTurn := if dpRing r then r == 2 else x.dpTurn }
    m.takeIn ⟨r, idx, ws⟩ bad

/-- The engine reads word 1 of the descriptor at the head of SQ5, which may wait for the watchdog grant (R46, R354). -/
def State.peekSq5 (s : State) : State :=
  if s.m.ringOn 5 && s.m.ringCount 5 != 0 then (s.sramRead (s.m.slotWord 5 (s.m.ringHead 5) + 1)).2.2 else s

/-- DESCRIPTOR_FETCH (R343, R344). -/
def execDescriptorFetch (r : Fin 6) (s : State) : Out :=
  .next (if s.fetchTurn r then s.fetch r else if r = 5 then s.peekSq5 else s)

/-! ## WRITE and COMMIT (R338) -/

/-- Run a meaning on the command in flight under a tag. -/
def State.withCmd (tag : Tag) (opcode : Nat) (f : Infl → State → State) (s : State) : State :=
  match s.m.executing tag opcode with
  | some i => f i s
  | none => s

/-- A WRITE: one frame of N words; RESULT0 holds PAST_END and WDISC. -/
def State.ringWrite (i : Infl) (s : State) : State :=
  let n := fld (i.word 3) 0 3
  if n = 0 ∨ 4 < n then s.on (Mach.complete i stBadParam 0 0)
  else
    let (s, k) := s.writeFrameWords (i.word 2) ((i.words.drop 4).take n)
    s.on (Mach.complete i stOk (wd (flag k.pastEnd 0 + flag k.wdisc 1)) 0)

/-- RING_WRITE. -/
def execRingWrite (tag : Tag) (s : State) : Out := .next (s.withCmd tag 0x01 State.ringWrite)

/-- A COMMIT raises its request once; its completion follows when the commit ends. -/
def Mach.ringCommit (tag : Tag) (i : Infl) (m : Mach) : Mach :=
  if m.dev.phase == .running && (m.cmt.pend.bind (·.ringTag)) != some tag then
    m.request { mask := i.word 5 ++ i.word 4 ++ i.word 3 ++ i.word 2, ctl := i.word 6, tick := m.tickReg, tag := i.word 7,
                ringTag := some tag }
  else m

/-- RING_COMMIT. -/
def execRingCommit (tag : Tag) (s : State) : Out :=
  .next (s.withCmd tag 0x03 fun i s => s.ctl (Mach.ringCommit tag i))

/-! ## Control of long operations (R345, R347, R348) -/

/-- The long operation a control command names. -/
def Mach.opTarget (m : Mach) (i : Infl) : Option LongOp := m.opOf (fld (i.word 2) 0 6)

/-- A capture in progress on the channel learning watches is not taken (R346). -/
def Mach.skipCapture (o : LongOp) (m : Mach) : Mach :=
  m.modSig (m.leader o.learnCh) fun g => { g with cap := g.cap.map fun c => { c with skip := true } }

/-- SUSPEND of operation `o`; one that is suspended already stays as it is. -/
def Mach.suspendCmd (i : Infl) (o : LongOp) (m : Mach) : Mach :=
  if !suspendable o.kind then m.complete i stNotSuspendable 0 0
  else if o.st == .suspended then m.complete i stOk 0 0
  else
    let m := if o.kind = 5 && o.st == .running then m.skipCapture o else m
    (m.suspendOp o 1).complete i stOk 0 0

/-- SUSPEND: a chain enumeration suspends between frames, so one in progress is awaited (R346). -/
def execSuspend (tag : Tag) (s : State) : Out :=
  .next (s.withCmd tag 0x08 fun i s =>
    match s.m.opTarget i with
    | some o => if o.kind = 7 && s.m.mst.active.isSome then s else s.verifyStep.on (Mach.suspendCmd i o)
    | none => s.on (Mach.complete i stTagUnknown 0 0))

/-- A condition that forces operations of a kind to suspend is present (R346, R411, R417). -/
def Mach.forcedNow (m : Mach) (kind : Nat) : Bool :=
  match kind with
  | 0 => !m.winAll
  | 1 => !(m.winVdd && m.clk.refOk)
  | 7 => !(m.pwr.vddOk && m.clk.refOk)
  | _ => false

/-- The OTP controller runs an operation (R346). -/
def Mach.otpBusy (m : Mach) : Bool := (m.opRunning 0).isSome || (m.opRunning 1).isSome

/-- RESUME of operation `o`: RUNNING where it had run, QUEUED otherwise. -/
def Mach.resumeCmd (i : Infl) (o : LongOp) (m : Mach) : Mach :=
  if o.st != .suspended then m.complete i stWrongState 0 0
  else if m.forcedNow o.kind then m.complete i stCondition 0 0
  else
    let run := o.ran && !(decide (o.kind ≤ 1) && m.otpBusy)
    (m.modOp o fun x =>
      { x with st := if run then .running else .queued, cause := 0,
               aux := if run && o.kind == 1 then [(m.now : Int)] else x.aux }).complete i stOk 0 0

/-- A programming operation that runs and has not taken its image makes the checks of its issue (R415). -/
def State.checkImage (o : LongOp) (s : State) : State :=
  match s.m.opRunning 0 with
  | some r => if o.kind = 0 && r.tag = o.tag && r.aux.isEmpty then s.programStart r else s
  | none => s

/-- RESUME. -/
def execResume (tag : Tag) (s : State) : Out :=
  .next (s.withCmd tag 0x09 fun i s =>
    match s.m.opTarget i with
    | some o => (s.on (Mach.resumeCmd i o)).checkImage o
    | none => s.on (Mach.complete i stTagUnknown 0 0))

/-- What an operation holds is free again when it is cancelled. -/
def Mach.cancelFree (o : LongOp) (m : Mach) : Mach :=
  if o.st == .queued then m
  else match o.kind with
  | 3 => { m with dl := { m.dl with busy := false } }
  | 6 => m.modSite fun x => { x with join := none }
  | _ => m

/-- CANCEL of operation `o`: it ends CANCELLED; a programming operation reports its position (R338). -/
def Mach.cancelCmd (i : Infl) (o : LongOp) (m : Mach) : Mach :=
  let o := { o with prog := m.opProg o }
  let m := (m.cancelFree o).endOp o .cancelled stCancelled 0 (if o.kind ≤ 1 then wd o.prog else 0)
  m.complete i stOk 0 0

/-- CANCEL: a pulse of a programming operation in progress is cut (R411). -/
def execCancel (tag : Tag) (s : State) : Out :=
  .next (s.withCmd tag 0x0A fun i s =>
    match s.m.opTarget i with
    | some o =>
      let s := if o.kind = 0 && o.st == .running then s.cutPulse else s
      let s := if o.kind = 1 then s.verifyStep else s
      s.on fun m => m.cancelCmd i ((m.opTarget i).getD o)
    | none => s.on (Mach.complete i stTagUnknown 0 0))

/-- The STATUS command: state, cause and progress of the operation. -/
def Mach.statusCmd (i : Infl) (o : LongOp) (m : Mach) : Mach :=
  m.complete i stOk (wd (o.st.code + 8 * (if o.st == .suspended then o.cause else 0))) (wd (m.opProg o))

/-- STATUS on SQ0. -/
def execOpStatus (tag : Tag) (s : State) : Out :=
  .next (s.withCmd tag 0x0B fun i s => s.on fun m =>
    match m.opTarget i with
    | some o => m.statusCmd i o
    | none => m.complete i stTagUnknown 0 0)

/-! ## Submission (R183, R207, R279, R338, R375) -/

/-- DL_RECAL. -/
def execDlRecal (tag : Tag) (s : State) : Out := .next (s.withCmd tag 0x43 fun i s => s.on (Mach.submitOp i 3 []))

/-- THM_SWEEP: w2 is the run time, 60 s to 600 s. -/
def execThmSweep (tag : Tag) (s : State) : Out :=
  .next (s.withCmd tag 0x44 fun i s => s.on fun m =>
    if 60 ≤ (i.word 2).toNat && (i.word 2).toNat ≤ 600 then m.submitOp i 4 [] else m.complete i stBadParam 0 0)

/-- SIG_LEARN: w2 names a channel of the part. -/
def execSigLearn (tag : Tag) (s : State) : Out :=
  .next (s.withCmd tag 0x50 fun i s => s.on fun m =>
    if fld (i.word 2) 0 5 < m.nch then m.submitOp i 5 [] else m.complete i stBadParam 0 0)

/-- SL_JOIN: w2 [9:0] is the timeout, 1 s to 600 s. -/
def execSlJoin (tag : Tag) (s : State) : Out :=
  .next (s.withCmd tag 0x60 fun i s => s.on fun m =>
    if 1 ≤ fld (i.word 2) 0 10 && fld (i.word 2) 0 10 ≤ 600 then m.submitOp i 6 [] else m.complete i stBadParam 0 0)

/-- CHAIN_ENUM: w2 names a chain target, whose clock divider is not 0 (R351, R357). -/
def execChainEnum (tag : Tag) (s : State) : Out :=
  .next (s.withCmd tag 0x71 fun i s => s.on fun m =>
    if bit (m.cfg (0x1110 + fld (i.word 2) 0 3)) 0 && fld (m.cfg 0x1109) 0 4 != 0 then m.submitOp i 7 []
    else m.complete i stBadParam 0 0)

/-! ## MEAS_SNAP and SL_SEND (R338, R383) -/

/-- Channels a MEAS_SNAP names, in ascending order. -/
def Infl.snapChs (i : Infl) : List Nat :=
  (List.range 24).filter fun n => if n < 16 then bit (i.word 2) n else bit (i.word 3) (n - 16)

/-- A MEAS_SNAP: the words of the first grid sample after its fetch, with that sample's time; until it has come the command
waits. -/
def State.measSnap (i : Infl) (s : State) : State :=
  let chs := i.snapChs
  let off := fld (i.word 4) 8 8
  if (chs.any fun n => decide (s.m.nch ≤ n)) || 256 < off + chs.length then s.on (Mach.complete i stBadParam 0 0)
  else match s.m.rings.snaps.find? fun x => x.tag == i.tag with
  | some x =>
    let s := s.sramSetList (sramIndex (fld (i.word 4) 0 6) off) (chs.map fun n => satS16 (nth x.i n 0))
    s.on fun m =>
      (m.modRings fun q => { q with snaps := q.snaps.filter fun y => y.tag != i.tag }).addComplAt i true stOk 5
        (wd chs.length) 0 x.time
  | none => s

/-- MEAS_SNAP: the first grid sample after the fetch has completed. -/
def execMeasSnap (tag : Tag) (s : State) : Out := .next (s.withCmd tag 0x51 State.measSnap)

/-- An SL_SEND: it ends at once in the wrong role or without a membership, else the payload is sent in the fronds that
follow. -/
def Mach.slSend (i : Infl) (m : Mach) : Mach :=
  let limit := fld (i.word 3) 0 5
  if 256 < fld (i.word 2) 8 8 + 9 || limit = 0 || 20 < limit then m.complete i stBadParam 0 0
  else if m.siteRole = 2 || m.site.acting then m.complete i stOk 0 3
  else if !m.site.joined then m.complete i stOk 0 2
  else if m.site.send.isNone then m.modSite fun x => { x with send := some ⟨i, 0, false⟩ }
  else m

/-- SL_SEND. -/
def execSlSend (tag : Tag) (s : State) : Out := .next (s.withCmd tag 0x61 fun i s => s.on (Mach.slSend i))

/-! ## The start of long operations (R346, R347) -/

/-- The resource of kind `k` is free: no instance of the kind runs, none that waits before the oldest QUEUED one is suspended
(R347), and the OTP controller, or the port master, is idle. -/
def Mach.resourceFree (m : Mach) (k : Nat) : Bool :=
  (m.opRunning k).isNone && (((m.ops.takeWhile fun o => !(o.kind == k && o.st == .queued)).all fun o =>
    !(o.kind == k && o.st == .suspended))) &&
  match k with
  | 0 | 1 => !m.otpBusy
  | 7 => m.mst.active.isNone && !m.mst.halt
  | _ => true

/-- An operation of the OTP controller becomes RUNNING; outside its window it suspends at once (R346, R411). -/
def State.startOtp (o : LongOp) (s : State) : State :=
  let s := s.on fun m =>
    m.modOp o fun x => { x with st := .running, ran := true, aux := if o.kind = 1 then [(m.now : Int)] else x.aux }
  if s.m.forcedNow o.kind then s.on (Mach.otpSuspend o.kind) else s.checkImage o

/-- The queued operation `o` starts RUNNING. -/
def State.startOp (o : LongOp) (s : State) : State :=
  let go (aux : List Int) (m : Mach) : Mach := m.modOp o fun x => { x with st := .running, ran := true, aux := aux }
  match o.kind with
  | 0 | 1 => s.startOtp o
  | 3 => s.on fun m =>
    if m.clk.refOk then go [(m.now : Int)] { m with dl := { m.dl with busy := true } }
    else (m.failOp o (wd m.freeVal)).nextFree
  | 4 => s.on fun m => go [(m.lf : Int)] { m with thm := { m.thm with sweep := [] } }
  | 5 => s.on fun m =>
    if bit (m.lw o.learnCh 0x43) 3 then go (if o.ran then o.aux else []) m else (m.failOp o (wd m.freeVal)).nextFree
  | 6 => s.on (Mach.startJoin o)
  | _ => s.on (go o.aux)

/-- LONG_OP_START: the oldest QUEUED operation of kind `k` starts when its resource is free. -/
def execLongOpStart (k : Fin 8) (s : State) : Out :=
  .next (
    if s.m.dev.phase == .running && s.m.resourceFree k then
      match s.m.opQueued k with
      | some o => s.startOp o
      | none => s
    else s)

/-! ## The ends of long operations (R207, R279, R325, R346, R416, R430) -/

/-- A full recalibration ends (R207): DONE puts its map in force, and it reaches the compare units as a new result does. -/
def Mach.recalEnd (o : LongOp) (e : OpEnd) (m : Mach) : Mach :=
  if e.ok then
    let m := { m with dl := { m.dl with busy := false, map := true, fine := e.map } }
    (forList m.units Mach.takeElems m).endOp { o with prog := 512 } .done stOk 0 0
  else
    let m := { m with dl := { m.dl with busy := false } }
    m.failOp { o with prog := m.opProg o } e.reason

/-- How far P_MEAN changed within the record of a sweep, in W. -/
def sweepSpan (l : List (Rat × Rat)) : Rat :=
  match l with
  | [] => 0
  | p :: t => (t.foldl (fun x q => max x q.1) p.1) - (t.foldl (fun x q => min x q.1) p.1)

/-- A sweep ends (R279): DONE where P_MEAN changed by at least 3 W in its record and the fit's residual is at most 1.0 K; the
reason of a failure has no number in the manual (log entry 3). -/
def Mach.sweepEnd (o : LongOp) (m : Mach) : Mach :=
  let o := { o with prog := m.sweepSeconds o }
  let (rba, chs, res) := Config.sweepFit m.thm.sweep
  let w (x : Rat) : Word := wd (min 0xFFFF (inUnits x).toNat)
  if 3 ≤ sweepSpan m.thm.sweep ∧ res ≤ 1 then
    ({ m with thm := { m.thm with idValid := true, idRba := w rba, idChs := w chs,
                                  idRes := min 255 (inUnits (10 * res)).toNat } }).endOp o .done stOk 0 0
  else (m.failOp o (wd m.freeVal)).nextFree

/-- The chain length a running enumeration has found (R325): none before its discovery frame has returned. -/
def LongOp.enumLen (o : LongOp) : Option Nat := o.aux.head?.map Int.toNat

/-- A chain enumeration ends: the length found goes into the target's description and RESULT0; one that found no device fails,
with a reason that has no number in the manual (log entry 3). Before its second frame it has not ended. -/
def Mach.enumEnd (o : LongOp) (m : Mach) : Mach :=
  let a := 0x1110 + fld (o.word 2) 0 3
  match o.enumLen with
  | some 0 => (m.failOp o (wd m.freeVal)).nextFree
  | some n =>
    if 2 ≤ o.prog then (m.setCfg a ((m.cfg a &&& 0xFC3F) ||| wd (64 * (n - 1)))).endOp o .done stOk (wd n) 0 else m
  | none => m

/-- The end of a running operation. Learning ends with its eighth capture or with CAP_EN (R183, R184), a join in its own
events (R375). -/
def State.endRunning (o : LongOp) (e : OpEnd) (s : State) : State :=
  match o.kind with
  | 0 => s.programEnd o
  | 1 => s.verifyEnd o
  | 2 => s.compactEnd o
  | 3 => s.on (Mach.recalEnd o e)
  | 4 => s.on (Mach.sweepEnd o)
  | 5 => s.on Mach.learnCheck
  | 6 => s
  | _ => if s.m.mst.active.isSome then s else s.on (Mach.enumEnd o)

/-- LONG_OP_END. -/
def execLongOpEnd (k : Fin 8) (e : OpEnd) (s : State) : Out :=
  guardWf (.longOpEnd k e) (.next (match s.m.opRunning k with
    | some o => s.endRunning o e
    | none => s))

/-! ## The port master (R350 to R355) -/

/-- Target word of a MST_XFER: w2 [2:0] selects it. -/
def Mach.mstTgt (m : Mach) (i : Infl) : Word := m.cfg (0x1110 + fld (i.word 2) 0 3)

/-- Opcodes and word counts of an addressed target and of a chain target (R350, R351). -/
def Mach.mstBad (m : Mach) (i : Infl) : Bool :=
  let t := m.mstTgt i
  let n := i.mstWords
  let bad := if bit t 0 then
      !(i.mstOp == 0x00 || i.mstOp == 0x01 || i.mstOp == 0x08) || n != 1 || decide (fld t 6 4 < fld (i.word 4) 8 4) ||
        fld (m.cfg 0x1109) 0 4 == 0
    else !(i.mstOp == 0x0B || i.mstOp == 0x02 || i.mstOp == 0x05 || i.mstOp == 0x9F) || n == 0 || decide (64 < n)
  bad || decide (256 < fld (i.word 5) 8 8 + n)

/-- MST_XFER: a descriptor with parameters out of range completes; any other waits for the master. -/
def execMstXfer (tag : Tag) (s : State) : Out :=
  .next (s.withCmd tag 0x70 fun i s => s.on fun m =>
    if m.mst.active.isNone && m.mstBad i then m.complete i stBadParam 0 0 else m)

/-- A frame of the running chain enumeration is still to be sent: discovery, then enumeration of the devices found. -/
def Mach.enumNext (m : Mach) : Option Infl :=
  match m.opRunning 7 with
  | some o => if o.enumLen = some 0 || 2 ≤ o.prog then none else some o.infl
  | none => none

/-- The transaction that comes next: the MST_XFER in flight, or a frame of the running chain enumeration. -/
def Mach.mstNext (m : Mach) : Option Infl :=
  match m.rings.infl.find? (·.ring == 5) with
  | some i =>
    match m.executing (BitVec.ofNat 6 i.tag) 0x70 with
    | some i => if m.mstBad i then none else some i
    | none => m.enumNext
  | none => m.enumNext

/-- A grant is held that the descriptor may use: WDG_ONLY needs the watchdog grant (R354). -/
def Mach.mstGranted (m : Mach) (i : Infl) : Bool := m.mst.wdgGrant || (m.mst.grant && !bit (i.word 1) 0)

/-- A chain stage with its CRC, as sent (R322). -/
def stageBytes (cmd : Byte) (addr data : Word) : List Byte :=
  let b := cmd :: wordSent addr ++ wordSent data
  b ++ [crc8 b]

/-- A chain frame of `n` stages, that of position n − 1 first (R322): `f p` at position `p`. -/
def chainFrame (n : Nat) (f : Nat → List Byte) : List Byte := (List.range n).reverse.flatMap f

/-- The first frame to a chain target (R351): the command at position `p`, NOP at every other. A stage that writes nothing
carries DATA 0x0000 (log entry 78). -/
def commandFrame (i : Infl) (n : Nat) (ws : List Word) : List Byte :=
  let data := if i.mstReads then 0 else nth ws 0 0
  chainFrame n fun p => if p = fld (i.word 4) 8 4 then stageBytes (BitVec.ofNat 8 i.mstOp) (i.word 3) data else stageBytes 0 0 0

/-- The frame to an addressed target (R305, R350): CMD, ADDR where the opcode has one, the words of a write and, where it is
used, their CRC. -/
def addressedFrame (i : Infl) (crc : Bool) (ws : List Word) : List Byte :=
  let b := BitVec.ofNat 8 i.mstOp :: ((if i.mstOp = 0x0B ∨ i.mstOp = 0x02 then wordSent (i.word 3) else []) ++
    (if i.mstReads then [] else ws.flatMap wordSent))
  if crc && !i.mstReads then b ++ [crc8 b] else b

/-- The frame of an enumeration that comes next (R325): 16 stages of ones, then CHAIN_ENUMERATE to the devices found. -/
def enumFrame (len : Option Nat) : List Byte :=
  match len with
  | none => List.replicate 96 0xFF
  | some n => chainFrame n fun p => stageBytes 0x0F 0 (wd (256 * n + p))

/-- The bytes of the transaction that begins, `ws` being the words a write sends. -/
def Mach.mstFrame (m : Mach) (i : Infl) (ws : List Word) : List Byte :=
  if i.opcode = 0x71 then enumFrame ((m.opRunning 7).bind LongOp.enumLen)
  else
    let t := m.mstTgt i
    if bit t 0 then commandFrame i (fld t 6 4 + 1) ws else addressedFrame i (bit t 1) ws

/-- Dummy cycles of the transaction that begins: those of the target on an addressed read, 0 counting as 1 (R352, R357). -/
def Mach.mstDummy (m : Mach) (i : Infl) : Nat :=
  if i.opcode = 0x70 ∧ i.mstOp = 0x0B ∧ ¬ bit (m.mstTgt i) 0 then max 1 (fld (m.mstTgt i) 2 4) else 0

/-- SEL is driven for a transaction. -/
def Mach.mstBegin (i : Infl) (ws : List Word) (m : Mach) : Mach :=
  m.modMst fun x => { x with active := some i, second := false, sel := fld (i.word 2) 0 3,
                             tx := m.mstFrame i ws, dummy := m.mstDummy i }

/-- The master's pins (R352): outside transactions every one is at high impedance. `bit` is the bit IO0 carries, `sck` the
clock's level within the frame. -/
structure MstPins where
  sel   : Option Nat
  selen : Line
  sck   : Line
  io0   : Line
deriving DecidableEq, Repr

/-- Bit `k` of the frame the master sends, most significant bits first. -/
def Mst.txBit (x : Mst) (k : Nat) : Bool := (nth x.tx (k / 8) 0).getLsbD (7 - k % 8)

/-- The pins while bit `k` of a frame is sent. -/
def Mach.mstPins (m : Mach) (k : Nat) (sckHigh : Bool) : MstPins :=
  if m.mst.active.isNone then ⟨none, .hiZ, .hiZ, .hiZ⟩
  else ⟨some m.mst.sel, .low, if sckHigh then .high else .low, if m.mst.txBit k then .high else .low⟩

/-- MST_TRANSACTION_START: the next transaction begins; the words a write sends are read from SRAM (R353). -/
def execMstTransactionStart (s : State) : Out :=
  .next (
    let m := s.m
    match m.mstNext with
    | some i =>
      if m.dev.phase == .running && m.pwr.vddOk && m.clk.refOk && m.mst.active.isNone && !m.mst.halt && m.mst.csn && m.mstGranted i then
        let (ws, _, s) := s.sramReads i.mstAt (if i.opcode = 0x70 && !i.mstReads then i.mstWords else 0)
        s.on (Mach.mstBegin i ws)
      else s
    | none => s)

/-- A transaction ends OK, or a frame of an enumeration ends: the master is idle, and a revoked grant ends. -/
def Mach.mstIdle (m : Mach) : Mach :=
  m.modMst fun x => { x with active := none, second := false, grant := x.grant && !x.revoke, revoke := false }

/-- The words a read moved; a line that no target drives reads 1 (log entry 23). -/
def mstData (n : Nat) (ws : List Word) : List Word := (List.range n).map fun k => nth ws k 0xFFFF

/-- A transaction completes: the words moved are stored, and a CRC mismatch is a BUS_ERROR that halts SQ5. -/
def State.mstDone (i : Infl) (ws : List Word) (status : Byte) (crcOk : Bool) (s : State) : State :=
  let n := i.mstWords
  if crcOk then
    let s := if i.mstReads then s.sramSetList i.mstAt (mstData n ws) else s
    s.on fun m =>
      (((m.modMst fun x => { x with xferCnt := inc16 x.xferCnt }).complete i stOk (wd n) (wd status.toNat))).mstIdle
  else
    let moved := s.m.freeVal % (n + 1)
    let s := if i.mstReads then s.sramSetList i.mstAt ((mstData n ws).take moved) else s
    s.on fun m =>
      (((m.nextFree).complete i stBusError (wd moved) (wd status.toNat)).mstFail status.toNat).event 0x11 0x0006

/-- The CRC is used on the target: bit CRC, and always on a chain target (R351). -/
def Mach.mstCrc (m : Mach) (i : Infl) : Bool := bit (m.mstTgt i) 0 || bit (m.mstTgt i) 1

/-- The devices that answered a discovery frame (R325): the stages before the first of all ones. -/
def stagesFound : List Word → Nat
  | a :: b :: c :: t => if a = 0xFFFF ∧ b = 0xFFFF ∧ c = 0xFFFF then 0 else min 16 (1 + stagesFound t)
  | _ => 0

/-- MST_TRANSACTION_END: SELEN rises. The frame of a chain transaction is followed by a second one, of NOPs; a frame of an
enumeration counts as progress, and its first one finds the chain's length in the stages that returned. -/
def execMstTransactionEnd (status : Byte) (words : List Word) (crcOk : Bool) (s : State) : Out :=
  .next (match s.m.mst.active with
    | none => s
    | some i =>
      if i.opcode = 0x71 then
        s.on fun m => (match m.opRunning 7 with
          | some o => m.modOp o fun x => { x with prog := x.prog + 1, aux := if x.aux.isEmpty then [(stagesFound words : Int)] else x.aux }
          | none => m).mstIdle
      else if bit (s.m.mstTgt i) 0 then
        if s.m.mst.second then s
        else s.on (Mach.modMst fun x =>
          { x with second := true, tx := chainFrame (fld (s.m.mstTgt i) 6 4 + 1) fun _ => stageBytes 0 0 0 })
      else s.mstDone i words status (crcOk || !(i.mstReads && s.m.mstCrc i)))

/-- MST_CHAIN_READBACK: position p's response in the second frame (R351). -/
def execMstChainReadback (status : Byte) (_addr data : Word) (crcOk : Bool) (s : State) : Out :=
  .next (match s.m.mst.active with
    | none => s
    | some i => if i.opcode = 0x70 && s.m.mst.second then s.mstDone i [data] status crcOk else s)

/-- A collision ends the watchdog grant as any CSN falling edge does; it counts, and SQ5 halts (R354, R355). The host frame
that began is ignored; `clocked` says that it has SCK edges, so that a frame command follows. -/
def Mach.collide (clocked : Bool) (m : Mach) : Mach :=
  let m := { m with port := { m.port with ignore := clocked } }
  (m.modMst fun x => { x with collCnt := inc16 x.collCnt, wdgGrant := false, csn := !clocked }).event 0x11 0x0005

/-- MASTER_COLLISION: CSN falls during a transaction. `cmdDone` says that CMD was complete, so that a status byte was
received. -/
def execMasterCollision (cmdDone : Bool) (status : Byte) (clocked : Bool) (s : State) : Out :=
  .next (match s.m.mst.active with
    | none => s
    | some i =>
      let stat := if cmdDone then status.toNat else 0
      if i.opcode = 0x71 then
        s.on fun m =>
          let m := match m.opRunning 7 with
            | some o => m.endOp o .failed stBusCollision 0 (wd stat)
            | none => m
          (m.mstFail stat).collide clocked
      else
        let moved := if cmdDone then s.m.freeVal % (i.mstWords + 1) else 0
        (s.mstAbort i stBusCollision moved stat).on (Mach.collide clocked))

/-! ## Time (R127, R450) -/

/-- One reference tick; without REFCLK one LFOSC cycle, 48 ticks; without either, or below the POR threshold, no time is
counted. -/
def Mach.tick (m : Mach) : Mach :=
  if m.dev.phase == .powerOff then m
  else if m.clk.refOk then { m with now := m.now + 1, time := m.time + 1 }
  else if m.clk.lfOk then { m with now := m.now + 48, time := m.time + 48 }
  else m

/-- What passes when no command waits (log entry 1). -/
def State.idle (s : State) : State := s.on Mach.tick

end Sys2Proof.Machine
end

