-- ==== Sys2Proof/Machine/Dispatch.lean ====
section
/-! DEFINITION. What each command does to everything but the queue: one arm per row of the command table, each
one call of that command's own meaning. -/

namespace Sys2Proof.Machine

/-- The effect of a command (R18 to R22, R50; each arm's meaning cites its own rules). -/
def exec (i : Instr) (s : State) : Host.Outcome State Fault Refusal :=
  match i with
  | .porRelease => Sys2Proof.Machine.execPorRelease s
  | .rstnReset => Sys2Proof.Machine.execRstnReset s
  | .startupComplete diode ntc => Sys2Proof.Machine.execStartupComplete diode ntc s
  | .vddLoss also granted => Sys2Proof.Machine.execVddLoss also granted s
  | .vddReturn => Sys2Proof.Machine.execVddReturn s
  | .vbbUndervoltage also => Sys2Proof.Machine.execVbbUndervoltage also s
  | .undervoltageRestart => Sys2Proof.Machine.execUndervoltageRestart s
  | .vbbLow below => Sys2Proof.Machine.execVbbLow below s
  | .vbbOvervoltage above => Sys2Proof.Machine.execVbbOvervoltage above s
  | .vcpReady => Sys2Proof.Machine.execVcpReady s
  | .refclkLoss => Sys2Proof.Machine.execRefclkLoss s
  | .refclkPresent external => Sys2Proof.Machine.execRefclkPresent external s
  | .tbRestart => Sys2Proof.Machine.execTbRestart s
  | .limpResume => Sys2Proof.Machine.execLimpResume s
  | .lfoscLoss => Sys2Proof.Machine.execLfoscLoss s
  | .lfoscReturn => Sys2Proof.Machine.execLfoscReturn s
  | .gateDriveFault f also => Sys2Proof.Machine.execGateDriveFault f also s
  | .edgeEnd ch => Sys2Proof.Machine.execEdgeEnd ch s
  | .clampStart ch => Sys2Proof.Machine.execClampStart ch s
  | .clampEnd ch => Sys2Proof.Machine.execClampEnd ch s
  | .reverseCurrent ch above filtered also => Sys2Proof.Machine.execReverseCurrent ch above filtered also s
  | .backstopTrip ch also => Sys2Proof.Machine.execBackstopTrip ch also s
  | .fastTrip ch also => Sys2Proof.Machine.execFastTrip ch also s
  | .clRegStart ch => Sys2Proof.Machine.execClRegStart ch s
  | .clRegEnd ch => Sys2Proof.Machine.execClRegEnd ch s
  | .clTimeout ch also => Sys2Proof.Machine.execClTimeout ch also s
  | .protEstimateUpdate dtNs est msq vds => Sys2Proof.Machine.execProtEstimateUpdate dtNs est msq vds s
  | .openLoadOn ch below => Sys2Proof.Machine.execOpenLoadOn ch below s
  | .svbbCheckWindow ch p => Sys2Proof.Machine.execSvbbCheckWindow ch p s
  | .openLoadOff ch above => Sys2Proof.Machine.execOpenLoadOff ch above s
  | .svbbPwmOff ch also => Sys2Proof.Machine.execSvbbPwmOff ch also s
  | .tripInputAssert j high filtered => Sys2Proof.Machine.execTripInputAssert j high filtered s
  | .cycleLimitAssert ch above => Sys2Proof.Machine.execCycleLimitAssert ch above s
  | .blankingEnd o => Sys2Proof.Machine.execBlankingEnd o s
  | .faultClear ch => Sys2Proof.Machine.execFaultClear ch s
  | .historyClear ch => Sys2Proof.Machine.execHistoryClear ch s
  | .faultHistoryClear ch => Sys2Proof.Machine.execFaultHistoryClear ch s
  | .protClrCnt ch => Sys2Proof.Machine.execProtClrCnt ch s
  | .clrClamp ch => Sys2Proof.Machine.execClrClamp ch s
  | .inrushPhaseEnd ch => Sys2Proof.Machine.execInrushPhaseEnd ch s
  | .inrushCurrentEnd ch => Sys2Proof.Machine.execInrushCurrentEnd ch s
  | .inrushVoltageEnd ch gap => Sys2Proof.Machine.execInrushVoltageEnd ch gap s
  | .chopPeriod ch opens => Sys2Proof.Machine.execChopPeriod ch opens s
  | .heaterQueueRelease => Sys2Proof.Machine.execHeaterQueueRelease s
  | .retryDue ch => Sys2Proof.Machine.execRetryDue ch s
  | .bucketRefill ch => Sys2Proof.Machine.execBucketRefill ch s
  | .goodRun ch => Sys2Proof.Machine.execGoodRun ch s
  | .retryCountClear ch => Sys2Proof.Machine.execRetryCountClear ch s
  | .bucketFill ch => Sys2Proof.Machine.execBucketFill ch s
  | .retryCountClearFill ch => Sys2Proof.Machine.execRetryCountClearFill ch s
  | .converterSample x => Sys2Proof.Machine.execConverterSample x s
  | .powerFeedDelivery prods => Sys2Proof.Machine.execPowerFeedDelivery prods s
  | .clrPeak ch => Sys2Proof.Machine.execClrPeak ch s
  | .clrE ch also => Sys2Proof.Machine.execClrE ch also s
  | .clrSig ch => Sys2Proof.Machine.execClrSig ch s
  | .sigCaptureComplete ch => Sys2Proof.Machine.execSigCaptureComplete ch s
  | .tbZero k => Sys2Proof.Machine.execTbZero k s
  | .tbHalfPeriod k => Sys2Proof.Machine.execTbHalfPeriod k s
  | .tbPeriodEvent k => Sys2Proof.Machine.execTbPeriodEvent k s
  | .compareEdge o => Sys2Proof.Machine.execCompareEdge o s
  | .tbStop k => Sys2Proof.Machine.execTbStop k s
  | .ulockTimeout k => Sys2Proof.Machine.execUlockTimeout k s
  | .dlMeasure elem16 => Sys2Proof.Machine.execDlMeasure elem16 s
  | .tachEdge j rising => Sys2Proof.Machine.execTachEdge j rising s
  | .tachArmed j => Sys2Proof.Machine.execTachArmed j s
  | .tachLoss j => Sys2Proof.Machine.execTachLoss j s
  | .aswpClear pair => Sys2Proof.Machine.execAswpClear pair s
  | .ilvRebalance => Sys2Proof.Machine.execIlvRebalance s
  | .thallusUpdate dtNs diode ntc => Sys2Proof.Machine.execThallusUpdate dtNs diode ntc s
  | .orderlyClassStart => Sys2Proof.Machine.execOrderlyClassStart s
  | .stepRelease b => Sys2Proof.Machine.execStepRelease b s
  | .deviceStepUp => Sys2Proof.Machine.execDeviceStepUp s
  | .deviceStepDown => Sys2Proof.Machine.execDeviceStepDown s
  | .ownLimitRelease ch => Sys2Proof.Machine.execOwnLimitRelease ch s
  | .modelDiverge x => Sys2Proof.Machine.execModelDiverge x s
  | .divergeEnd x => Sys2Proof.Machine.execDivergeEnd x s
  | .sensorOk x => Sys2Proof.Machine.execSensorOk x s
  | .analogThermalTrip b => Sys2Proof.Machine.execAnalogThermalTrip b s
  | .analogThermalRelease b => Sys2Proof.Machine.execAnalogThermalRelease b s
  | .thermalStopExit => Sys2Proof.Machine.execThermalStopExit s
  | .resync b => Sys2Proof.Machine.execResync b s
  | .resyncBp => Sys2Proof.Machine.execResyncBp s
  | .clrLog => Sys2Proof.Machine.execClrLog s
  | .thClear ch => Sys2Proof.Machine.execThClear ch s
  | .lhAssert j held also granted => Sys2Proof.Machine.execLhAssert j held also granted s
  | .watchdogExpiry granted => Sys2Proof.Machine.execWatchdogExpiry granted s
  | .watchdogKick key => Sys2Proof.Machine.execWatchdogKick key s
  | .limpPeriod ch cycle => Sys2Proof.Machine.execLimpPeriod ch cycle s
  | .limpClrHist => Sys2Proof.Machine.execLimpClrHist s
  | .freeze => Sys2Proof.Machine.execFreeze s
  | .release => Sys2Proof.Machine.execRelease s
  | .freezeTimeout => Sys2Proof.Machine.execFreezeTimeout s
  | .commitRequest tag => Sys2Proof.Machine.execCommitRequest tag s
  | .commitApply => Sys2Proof.Machine.execCommitApply s
  | .abort => Sys2Proof.Machine.execAbort s
  | .discard => Sys2Proof.Machine.execDiscard s
  | .takeControlArm => Sys2Proof.Machine.execTakeControlArm s
  | .takeControlDisarm => Sys2Proof.Machine.execTakeControlDisarm s
  | .tset => Sys2Proof.Machine.execTset s
  | .clrLost => Sys2Proof.Machine.execClrLost s
  | .clkClrCnt => Sys2Proof.Machine.execClkClrCnt s
  | .pwrClr => Sys2Proof.Machine.execPwrClr s
  | .hspClrCnt => Sys2Proof.Machine.execHspClrCnt s
  | .registerWrite addr data => Sys2Proof.Machine.execRegisterWrite addr data s
  | .rwMultiwordWrite addr data => Sys2Proof.Machine.execRwMultiwordWrite addr data s
  | .pgEvtClear page bits same => Sys2Proof.Machine.execPgEvtClear page bits same s
  | .pgEvtenWrite page bits => Sys2Proof.Machine.execPgEvtenWrite page bits s
  | .read f => Sys2Proof.Machine.execRead f s
  | .readFast f => Sys2Proof.Machine.execReadFast f s
  | .readDual f => Sys2Proof.Machine.execReadDual f s
  | .readDualIo f => Sys2Proof.Machine.execReadDualIo f s
  | .readQuad f => Sys2Proof.Machine.execReadQuad f s
  | .readQuadIo f => Sys2Proof.Machine.execReadQuadIo f s
  | .write f => Sys2Proof.Machine.execWrite f s
  | .writeDual f => Sys2Proof.Machine.execWriteDual f s
  | .writeQuad f => Sys2Proof.Machine.execWriteQuad f s
  | .status words stage => Sys2Proof.Machine.execStatus words stage s
  | .id words stage => Sys2Proof.Machine.execId words stage s
  | .doorbell f w => Sys2Proof.Machine.execDoorbell f w s
  | .resetEn f => Sys2Proof.Machine.execResetEn f s
  | .reset f => Sys2Proof.Machine.execReset f s
  | .nopReadback x => Sys2Proof.Machine.execNopReadback x s
  | .chainWrite x => Sys2Proof.Machine.execChainWrite x s
  | .chainRead x => Sys2Proof.Machine.execChainRead x s
  | .chainEnumerate x => Sys2Proof.Machine.execChainEnumerate x s
  | .ringDbWrite w => Sys2Proof.Machine.execRingDbWrite w s
  | .ringEnable w => Sys2Proof.Machine.execRingEnable w s
  | .ringClearDone r => Sys2Proof.Machine.execRingClearDone r s
  | .ringClrLost => Sys2Proof.Machine.execRingClrLost s
  | .descriptorFetch r => Sys2Proof.Machine.execDescriptorFetch r s
  | .ringWrite tag => Sys2Proof.Machine.execRingWrite tag s
  | .ringCommit tag => Sys2Proof.Machine.execRingCommit tag s
  | .suspend tag => Sys2Proof.Machine.execSuspend tag s
  | .resume tag => Sys2Proof.Machine.execResume tag s
  | .cancel tag => Sys2Proof.Machine.execCancel tag s
  | .opStatus tag => Sys2Proof.Machine.execOpStatus tag s
  | .otpProgram tag => Sys2Proof.Machine.execOtpProgram tag s
  | .otpVerify tag => Sys2Proof.Machine.execOtpVerify tag s
  | .jnlCompact tag => Sys2Proof.Machine.execJnlCompact tag s
  | .dlRecal tag => Sys2Proof.Machine.execDlRecal tag s
  | .thmSweep tag => Sys2Proof.Machine.execThmSweep tag s
  | .sigLearn tag => Sys2Proof.Machine.execSigLearn tag s
  | .measSnap tag => Sys2Proof.Machine.execMeasSnap tag s
  | .slJoin tag => Sys2Proof.Machine.execSlJoin tag s
  | .slSend tag => Sys2Proof.Machine.execSlSend tag s
  | .mstXfer tag => Sys2Proof.Machine.execMstXfer tag s
  | .chainEnum tag => Sys2Proof.Machine.execChainEnum tag s
  | .longOpStart k => Sys2Proof.Machine.execLongOpStart k s
  | .longOpEnd k e => Sys2Proof.Machine.execLongOpEnd k e s
  | .cqPost => Sys2Proof.Machine.execCqPost s
  | .eqPost => Sys2Proof.Machine.execEqPost s
  | .mstTransactionStart => Sys2Proof.Machine.execMstTransactionStart s
  | .mstTransactionEnd status words crcOk => Sys2Proof.Machine.execMstTransactionEnd status words crcOk s
  | .mstChainReadback status addr data crcOk => Sys2Proof.Machine.execMstChainReadback status addr data crcOk s
  | .masterCollision cmdDone status clocked => Sys2Proof.Machine.execMasterCollision cmdDone status clocked s
  | .watchdogGrantEnd => Sys2Proof.Machine.execWatchdogGrantEnd s
  | .mstGrant => Sys2Proof.Machine.execMstGrant s
  | .mstRevoke => Sys2Proof.Machine.execMstRevoke s
  | .mstClearHalt => Sys2Proof.Machine.execMstClearHalt s
  | .zcEdge => Sys2Proof.Machine.execZcEdge s
  | .zcAcquireTimeout => Sys2Proof.Machine.execZcAcquireTimeout s
  | .zcHoldover => Sys2Proof.Machine.execZcHoldover s
  | .zcUnlock => Sys2Proof.Machine.execZcUnlock s
  | .zcClrCnt => Sys2Proof.Machine.execZcClrCnt s
  | .freezePoint => Sys2Proof.Machine.execFreezePoint s
  | .beaconTransmit => Sys2Proof.Machine.execBeaconTransmit s
  | .pinnaTransmit => Sys2Proof.Machine.execPinnaTransmit s
  | .beaconReceive f => Sys2Proof.Machine.execBeaconReceive f s
  | .pinnaReceive j bytes erased => Sys2Proof.Machine.execPinnaReceive j bytes erased s
  | .beaconLost => Sys2Proof.Machine.execBeaconLost s
  | .standbyTakeover => Sys2Proof.Machine.execStandbyTakeover s
  | .joinListenEnd => Sys2Proof.Machine.execJoinListenEnd s
  | .joinTimeout => Sys2Proof.Machine.execJoinTimeout s
  | .publish => Sys2Proof.Machine.execPublish s
  | .leave => Sys2Proof.Machine.execLeave s
  | .handover => Sys2Proof.Machine.execHandover s
  | .siteClrCnt => Sys2Proof.Machine.execSiteClrCnt s
  | .shedEvaluation restoring => Sys2Proof.Machine.execShedEvaluation restoring s
  | .budgetFeedStale => Sys2Proof.Machine.execBudgetFeedStale s
  | .otpBitProgram set => Sys2Proof.Machine.execOtpBitProgram set s
  | .otpWindowViolation c => Sys2Proof.Machine.execOtpWindowViolation c s
  | .otpRefresh flip0 flip1 flip2 => Sys2Proof.Machine.execOtpRefresh flip0 flip1 flip2 s
  | .clrDrift => Sys2Proof.Machine.execClrDrift s
  | .jnlScan => Sys2Proof.Machine.execJnlScan s
  | .jnlRecordWrite => Sys2Proof.Machine.execJnlRecordWrite s
  | .jnlCopyDone verified => Sys2Proof.Machine.execJnlCopyDone verified s
  | .energySnapshot => Sys2Proof.Machine.execEnergySnapshot s
  | .snap => Sys2Proof.Machine.execSnap s
  | .jnlRelease => Sys2Proof.Machine.execJnlRelease s
  | .jnlClrCnt => Sys2Proof.Machine.execJnlClrCnt s
  | .unlock => Sys2Proof.Machine.execUnlock s
  | .unlockCompare => Sys2Proof.Machine.execUnlockCompare s
  | .lock => Sys2Proof.Machine.execLock s
  | .attest => Sys2Proof.Machine.execAttest s
  | .attestDone => Sys2Proof.Machine.execAttestDone s
  | .backoffEnd => Sys2Proof.Machine.execBackoffEnd s
  | .corePor => Sys2Proof.Machine.execCorePor s
  | .rstnRelease => Sys2Proof.Machine.execRstnRelease s
  | .senseSequencerDone io3 => Sys2Proof.Machine.execSenseSequencerDone io3 s
  | .lhRelease j => Sys2Proof.Machine.execLhRelease j s
  | .vbbUndervoltageRising => Sys2Proof.Machine.execVbbUndervoltageRising s
  | .tachSlow j => Sys2Proof.Machine.execTachSlow j s
  | .vppPresence mv => Sys2Proof.Machine.execVppPresence mv s
  | .programmingWindowMet => Sys2Proof.Machine.execProgrammingWindowMet s

end Sys2Proof.Machine
end

