-- ==== Sys2Proof/Safety.lean ====
section
/-! DEFINITION. What a safe run is, what every step keeps, and what "nothing else changes" means: the terms the
statements are made in. -/

namespace Sys2Proof.Machine

/-! ## Safe runs -/

/-- The next step neither faults nor is refused. -/
def safeStep (s : State) : Prop := ∃ t, step s = .next t

/-- A run of `k` steps from `s` stays safe. -/
def safeRun : Nat → State → Prop
  | 0, _ => True
  | k + 1, s => ∃ t, step s = .next t ∧ safeRun k t

/-! ## Invariants -/

/-- Keys strictly rise. -/
abbrev rising {α : Type} (l : List (Nat × α)) : Prop := l.Pairwise fun x y => x.1 < y.1

/-- The non-volatile store in its one form: OTP words by rising index, no blank word listed; journal slots by rising
index. -/
abbrev NonVol.wf (nv : NonVol) : Prop := rising nv.otp ∧ (∀ p ∈ nv.otp, p.2 ≠ .blank) ∧ rising nv.jnl

/-- Every cell that reads 1 in `v` at normal level reads 1 in `w`. -/
def OtpWord.below (v w : OtpWord) : Prop :=
  (∀ i, v.c0.getLsbD i = true → w.c0.getLsbD i = true) ∧ (∀ i, v.c1.getLsbD i = true → w.c1.getLsbD i = true) ∧
    ∀ i, v.c2.getLsbD i = true → w.c2.getLsbD i = true

/-! ## What stays -/

/-- Every SRAM byte reads as before. -/
def sameSram (s t : State) : Prop := ∀ a, Memory.read t.sram a = Memory.read s.sram a

/-- Every SRAM byte outside the capture page of a capture in progress reads as before (R176, R178). -/
def sramApartFromCaptures (s t : State) : Prop :=
  ∀ a, (∀ n c, (s.m.ch n).sig.cap = some c → a / 512 ≠ c.page) → Memory.read t.sram a = Memory.read s.sram a

/-- The non-volatile store, and the queue, are as before. -/
def sameStore (s t : State) : Prop := t.nv = s.nv ∧ t.pending = s.pending

/-- A machine without the latched event bits, the collected EQ entries and their counts. -/
def Mach.quiet (m : Mach) : Mach :=
  { m with evt := [], evtNew := [], rings := { m.rings with evq := [], eqLost := 0, eqOvf := false, ovfDue := false } }

/-- A quiet machine without what the end of a turn-on capture (R178) and a broken arming condition (R227) change: the
signature words and the tach inputs. -/
def Mach.calm (m : Mach) : Mach :=
  { m.quiet with tachs := .replicate 4 .reset, chans := vmap m.chans fun _ c => { c with sig := .reset } }

/-- Every latched event bit stays latched. -/
def evtKept (m m' : Mach) : Prop := ∀ p i, (m.evtWord p).getLsbD i = true → (m'.evtWord p).getLsbD i = true

/-- The command changes the machine alone, to `m` apart from events it reports. -/
def becomes (s t : State) (m : Mach) : Prop :=
  t.m.quiet = m.quiet ∧ evtKept s.m t.m ∧ t.sram = s.sram ∧ t.eccBad = s.eccBad ∧ sameStore s t

/-- The command changes the machine to `m` apart from events, and apart from the tach inputs and the turn-on captures
that the change of state ends (R178, R227). -/
def settlesTo (s t : State) (m : Mach) : Prop :=
  t.m.calm = m.calm ∧ evtKept s.m t.m ∧ sramApartFromCaptures s t ∧ sameStore s t

/-- A channel without what turning it off, holding it and starting it change (R90, R123 to R131, R147, R152, R267): its
state and gate, fault record, retry and inrush words, signature, comparators, escalation and trip counts, limp generator
and turn-off energy. Its other counts, estimates, measurements and thermal words stay in view. -/
def Chan.still (c : Chan) : Chan :=
  { c with st := .off, flt := .reset, sig := .reset,
           stage := { c.stage with gateOn := false, vgsOk := false, edge := none, clampSeen := false },
           inr := { Inr.reset with last := c.inr.last }, rty := { Rty.reset with total := c.rty.total },
           limp := { LimpGen.reset with siteHold := c.limp.siteHold, shedCnt := c.limp.shedCnt, thrSeen := c.limp.thrSeen },
           prot := { c.prot with scCmp := false, bsCmp := false, tripped := false, tripCnt := 0, escCnt := 0 },
           meas := { c.meas with heats := [], offAt := 0 } }

/-- The output of a channel without what switching it changes. -/
def OutUnit.still (u : OutUnit) : OutUnit :=
  { u with joined := false, atCmp := false, cut := false, hadCut := false, hadRise := false, blank := false }

/-- A calm machine without what switching the channels `ks` changes, and without the fault record their faults pass
through (R131). -/
def Mach.beside (ks : List Nat) (m : Mach) : Mach :=
  { m.calm with chans := vmap m.calm.chans fun k c => if ks.contains k.val then c.still else c
                outs := vmap m.outs fun o u => if ks.contains o.val then u.still else u
                frq := [], jnl := { m.jnl with supp := [] }, dev := { m.dev with frLost := 0 } }

/-- A machine without the counts of cuts of the channels `ks` (R233). -/
def Mach.uncut (ks : List Nat) (m : Mach) : Mach :=
  { m with chans := vmap m.chans fun k c => if ks.contains k.val then { c with prot := { c.prot with cycCnt := 0 } } else c }

/-- The command changes the machine to `m`, apart from events, settling and the switching of the channels `ks`. -/
def switches (ks : List Nat) (s t : State) (m : Mach) : Prop :=
  t.m.beside ks = m.beside ks ∧ evtKept s.m t.m ∧ sramApartFromCaptures s t ∧ sameStore s t

/-- The same where the switching starts channels, which a source that is active already may cut at once: their count of cuts
(R233) may move too. -/
def restarts (ks : List Nat) (s t : State) (m : Mach) : Prop :=
  (t.m.beside ks).uncut ks = (m.beside ks).uncut ks ∧ evtKept s.m t.m ∧ sramApartFromCaptures s t ∧ sameStore s t

/-- Event bit `i` of a page is latched. -/
def State.latched (s : State) (page i : Nat) : Prop := (s.m.evtWord page).getLsbD i = true

/-- The queue stays, and of the non-volatile store no programmed cell is lost. -/
def storeHeld (s t : State) : Prop := t.pending = s.pending ∧ ∀ i, (s.nv.word i).below (t.nv.word i)

/-- The configuration, the staging and the time are as before. -/
def sameConfig (s t : State) : Prop :=
  (∀ a, t.m.cfg a = s.m.cfg a) ∧ t.m.staged = s.m.staged ∧ t.m.time = s.m.time ∧ t.m.now = s.m.now

/-- All channels. -/
def everyChannel : List Nat := List.range 24

/-- The state in which a start as from OFF leaves a channel (R90): OFF with mode OFF or under a hold, else INRUSH with a
profile to run, else by its mode. -/
def Mach.startState (m : Mach) (l : Nat) : ChSt :=
  if m.mode l = 0 ∨ m.held? l = true then .off
  else if m.startProfile l (m.mode l) ≠ 0 then .inrush else if m.mode l = 1 then .on else .pwm

/-- A channel that starts into PWM meets a source that is active already and an escalation count that acts: the cut may turn
it off at once (R124, R233). -/
def Mach.cutAtStart (m : Mach) (l : Nat) : Prop :=
  m.startState l = .pwm ∧ (m.tripOn l = true ∨ m.climOn l = true) ∧ fld (m.lw l 0x15) 0 8 ≠ 0

/-- The state a start as from OFF leads to (R90): that of the mode, RETRY_WAIT where an undervoltage lasts (R123), or that of
the fault to which a cut at the start escalates. -/
def Mach.startsTo (m : Mach) (l : Nat) (st : ChSt) : Prop :=
  (m.cutAtStart l ∧ (st = .retryWait ∨ st = .latched)) ∨
    st = if m.pwr.vbbUv = true ∧ m.startState l ≠ .off then .retryWait else m.startState l

/-- A start as from OFF writes no fault. -/
def Mach.startsClean (m : Mach) (l : Nat) : Prop :=
  m.startState l = .off ∨ (m.pwr.vbbUv = false ∧ ¬ m.cutAtStart l)

/-- The retries of a leader are used up (R153, R156): no token is left, or COUNT has reached its limit. -/
def Mach.retriesOut (m : Mach) (l : Nat) : Prop :=
  if m.policy l = 4 then (m.ch l).rty.tokens = 0 else m.retryN l ≠ 0 ∧ (m.ch l).rty.count = m.retryN l

end Sys2Proof.Machine
end

