-- ==== Sys2Proof/Certificates/Slice0/Obligations.lean ====
section
/-! DEFINITION. The statements for the provers. Each docstring names the rules of spec/ it states, and what is the
model's own choice in it; the parts of a statement, and the terms it is made in, are named under `Claim`. -/

open Sys2Proof Sys2Proof.Machine

namespace Claim
end Claim
open Claim

/-! ## The queue, time and the shape of the state -/

/-- One step of the block is the effect of the command at the front of the queue on the state whose queue holds the
rest. -/
def Obligations.StepRunsFrontCommand : Prop :=
  ∀ (c : Instr) (rest : List Instr) (s : State), s.pending = c :: rest → step s = exec c { s with pending := rest }

/-- With no command waiting a step lets time pass and does nothing else (the model's choice, log entry 1): one tick while
REFCLK is present; without it one LFOSC cycle of 48 ticks, which is how the time advances then (R450). -/
def Obligations.IdleStepCountsTime : Prop :=
  ∀ s : State, s.pending = [] → s.m.dev.phase ≠ .powerOff →
    (s.m.clk.refOk = true →
      step s = .next { s with m := { s.m with now := s.m.now + 1, time := s.m.time + 1 } }) ∧
    (s.m.clk.refOk = false → s.m.clk.lfOk = true →
      step s = .next { s with m := { s.m with now := s.m.now + 48, time := s.m.time + 48 } })

/-- Every command whose operands the hardware can produce (WellFormed.lean) completes, and no command touches the queue;
a command with other operands is refused by name. -/
def Obligations.EveryWellFormedCommandCompletes : Prop :=
  ∀ (c : Instr) (s : State),
    (c.WellFormed = true → ∃ t, exec c s = .next t ∧ t.pending = s.pending) ∧
    (c.WellFormed = false → exec c s = .refused .illFormed)

/-- What a reset leaves (R452, R453): registers and staging at their reset values, rings disabled with indices 0, and an
SRAM of zeros. STARTUP then runs (DEV.STATE 1) with nothing governed. -/
def Obligations.ResetLeavesRegistersAtReset : Prop :=
  (∀ a, State.reset.m.cfg a = resetWord a) ∧ State.reset.m.staged = [] ∧
  (∀ a, Memory.read State.reset.sram a = 0) ∧ State.reset.m.rings.en = 0 ∧ (∀ r, State.reset.m.ringHead r = 0) ∧
  (∀ r, State.reset.m.ringTail r = 0) ∧ State.reset.m.time = 0 ∧ State.reset.m.devState = 1 ∧
  State.reset.m.dev.governed = false ∧ (∀ n, (State.reset.m.ch n).st = .off) ∧ State.reset.pending = []

/-- The canonical forms hold at reset. -/
def Obligations.FormsHoldAtReset : Prop := Memory.wf State.reset.sram ∧ State.reset.nv.wf

/-- Every step keeps the canonical form of the SRAM. -/
def Obligations.SramFormKeptByEveryStep : Prop :=
  ∀ s t : State, Memory.wf s.sram → step s = .next t → Memory.wf t.sram

/-- Every step keeps the form of the non-volatile store. -/
def Obligations.StoreFormKeptByEveryStep : Prop :=
  ∀ s t : State, s.nv.wf → step s = .next t → t.nv.wf

/-- The one-time-programmable memory only gains cells: a cell that reads 1 at normal level reads 1 after every step
(R393, R411: pulses program cells, and no rule clears one), but for the word in which a refresh finds drifted cells (R398). -/
def Obligations.OtpCellsStayProgrammed : Prop :=
  ∀ s t : State, step s = .next t → ∀ i,
    ((∀ a b c rest, s.pending = .otpRefresh a b c :: rest → i ≠ s.m.otp.refresh % 128) →
      (s.nv.word i).below (t.nv.word i)) ∧
    (∀ a b c rest, s.pending = .otpRefresh a b c :: rest → i = s.m.otp.refresh % 128 →
      t.nv.word i = (s.nv.word i).drifted (wordTriple i) a b c)

/-- What can change the non-volatile store: programming pulses, whether they end by themselves (R412) or are cut by a
loss of supply, a violated window, a CANCEL or a reset (R411), drift that a refresh finds (R398), and the journal's copies
(R425, R426). -/
def Claim.storeCommand : Instr → Bool
  | .otpBitProgram _ | .otpWindowViolation _ | .vppPresence _ | .vddLoss _ _ | .otpRefresh _ _ _ | .refclkLoss | .cancel _ | .corePor
  | .rstnReset | .reset _ | .jnlRecordWrite | .jnlCopyDone _ => true
  | _ => false

/-- Only the commands of `storeCommand` change the non-volatile store. -/
def Obligations.OnlyPulsesAndCopiesChangeTheStore : Prop :=
  ∀ (c : Instr) (s t : State), storeCommand c = false → exec c s = .next t → t.nv = s.nv

/-! ## Rules stated whole -/

/-- R37: what DEV.STATE shows, and that POWER_OFF is never read through the port but stands in the BOOT record of a POR as
the state before it. -/
def Obligations.DeviceStateShowsTheMode : Prop :=
  (∀ s : State, s.m.dev.phase = .running →
    s.m.devState = (if s.m.thm.stop then 4 else if s.m.dev.frz then 5 else if s.m.dev.governed then 3 else 2) ∧
    (s.value 0x00 0x08).toNat % 8 = s.m.devState) ∧
  (∀ s : State, s.m.devState = 0 → s.m.portOn = false) ∧
  (∀ s : State, ∃ t, exec .corePor s = .next t ∧ t.m.devState = 0 ∧
    (∀ u, exec .porRelease t = .next u → nth u.m.bootPay 1 1 = 0))

/-- R318: the words ID returns, with any number of words clocked. -/
def Obligations.IdReturnsTheIdentity : Prop :=
  ∀ (n : Nat) (x : ChainStage) (s : State), s.m.portOn = true → s.m.port.chain = false →
    ∃ t, exec (.id n x) s = .next t ∧ t.m.port.tx.length = n ∧ t.m.port.late = false ∧
      t.m.port.frames = s.m.port.frames + 1 ∧
      (∀ k, k < n → t.m.port.tx[k]? = some (match k with
        | 0 => 0x4C59
        | 1 => match s.m.dev.part with
          | .krp0848 => 0x0848 | .krp1648 => 0x1648 | .krp2448 => 0x2448 | .krp2448x => 0x24A8
        | 2 => Config.siliconRevision
        | 3 => if s.m.dev.part = .krp2448x then 0x000F else 0x000D
        | _ => 0)) ∧
      becomes s t { s.m with port := t.m.port, mst := { s.m.mst with csn := true, wdgGrant := false } }

/-- R3: a page the part lacks, or a reserved one, reads 0x0000, takes no write, and either access sets PAST_END. R45: word k
of window page 0x80 + w is the SRAM byte 512 w + 2 k with the byte above it, for all 256 words of the page. -/
def Obligations.AbsentPagesAndTheSramWindow : Prop :=
  (∀ (f : ReadFrame) (s : State), s.m.portOn = true → s.m.port.chain = false → f.cut = false → f.late = none →
    f.cmd = none → f.part = false → pagePresent s.m.dev.part (pageOf f.addr.toNat) = false →
    ∃ t, exec (.read f) s = .next t ∧ t.m.port.tx = List.replicate f.words 0 ∧
      (f.words ≠ 0 → t.m.port.pastEnd = true ∧ t.latched 0x03 2)) ∧
  (∀ (a w : Word) (s : State), pagePresent s.m.dev.part (pageOf a.toNat) = false →
    exec (.registerWrite a w) s = .next s ∧
    (∀ x : ChainStage, s.m.portOn = true → s.m.port.chain = false →
      ∃ t, exec (.write ⟨a, false, 16 + (if s.m.crcOn then 8 else 0), [w],
          crc8 (0x02 :: wordSent a ++ wordSent w), x⟩) s = .next t ∧ t.m.port.pastEnd = true ∧ t.latched 0x03 2 ∧
        becomes s t { s.m with port := t.m.port, mst := { s.m.mst with csn := true, wdgGrant := false } })) ∧
  (∀ (page k : Byte) (x : ChainStage) (s : State), 0x80 ≤ page.toNat → page.toNat ≤ 0xBF → s.eccBad = [] →
    s.m.portOn = true → s.m.port.chain = false →
    ∃ t, exec (.read ⟨page ++ k, 1, false, false, [], none, none, x⟩) s = .next t ∧
      t.m.port.tx = [Memory.read s.sram (512 * (page.toNat - 0x80) + 2 * k.toNat + 1) ++
        Memory.read s.sram (512 * (page.toNat - 0x80) + 2 * k.toNat)]) ∧
  (∀ (page k : Byte) (w : Word) (s : State), 0x80 ≤ page.toNat → page.toNat ≤ 0xBF →
    ∃ t, exec (.registerWrite (page ++ k) w) s = .next t ∧
      (∀ a, Memory.read t.sram a = if a = 512 * (page.toNat - 0x80) + 2 * k.toNat then w.extractLsb' 0 8
        else if a = 512 * (page.toNat - 0x80) + 2 * k.toNat + 1 then w.extractLsb' 8 8 else Memory.read s.sram a))

/-! ## Resets, supplies and clocks -/

/-- A reset clears what R453 lets it clear: every register at its reset value, nothing staged, pending, in flight or
governed, the rings disabled. -/
def Claim.clearedByReset (t : State) : Prop :=
  (∀ a, t.m.cfg a = resetWord a) ∧ t.m.staged = [] ∧ t.m.held = [] ∧ t.m.snap = [] ∧ t.m.cmt.pend = none ∧
  t.m.rings.en = 0 ∧ t.m.rings.infl = [] ∧ t.m.ops = [] ∧ t.m.dev.governed = false ∧ t.m.sec.unlocked = false

/-- Power-on reset (R452, R453): below the POR threshold the volatile state is lost and every gate is off; at the release
STARTUP begins with the time at 0. Neither loses a programmed OTP cell or a journal slot. -/
def Obligations.PowerOnResetLosesTheVolatileState : Prop :=
  (∀ s : State, ∃ t, exec .corePor s = .next t ∧ t.m.dev.phase = .powerOff ∧ clearedByReset t ∧ t.sram = [] ∧
    (∀ n, (t.m.ch n).stage.gateOn = false) ∧ t.nv.jnl = s.nv.jnl ∧ storeHeld s t) ∧
  (∀ s : State, s.m.dev.phase = .powerOff →
    ∃ t, exec .porRelease s = .next t ∧ t.m.devState = 1 ∧ t.m.time = 0 ∧ t.m.dev.startupAt = s.m.now ∧
      clearedByReset t ∧ t.m.dev.part = s.m.dev.part ∧ t.m.pwr.vddOk = s.m.pwr.vddOk ∧ t.sram = s.sram ∧ sameStore s t)

/-- RSTN (R443, R452, R453): while VDD is present the reset is recorded (as a POR before the latches were first driven),
every register takes its reset value, and every channel is in SAFE once the latches hold its safe state; the time goes on;
energy, the harness quantity X and the thallus temperatures stay, and the code of a channel that no hold acts on and that
no hold wrote. Its release begins STARTUP. -/
def Obligations.RstnResetsAndKeeps : Prop :=
  (∀ s : State, s.m.pwr.vddOk = true → s.m.dev.phase ≠ .powerOff →
    ∃ t, exec .rstnReset s = .next t ∧ clearedByReset t ∧ t.m.dev.phase = .inReset ∧ t.m.devState = 1 ∧
      t.m.dev.rstKind = (if s.m.dev.latched then 2 else 1) ∧ t.m.dev.rstCnt = inc16 s.m.dev.rstCnt ∧
      t.m.time = s.m.time ∧ t.m.now = s.m.now ∧ t.m.clk.refOk = s.m.clk.refOk ∧
      (s.m.dev.latched = true → ∀ n, n < s.m.nch → t.m.st n = .safe) ∧
      (∀ n, n < 24 → (t.m.ch n).meas.energy = (s.m.ch n).meas.energy ∧
        (t.m.ch n).prot.i2tX = (s.m.ch n).prot.i2tX) ∧
      (∀ n, n < s.m.nch → t.m.throttleHold n = false → t.m.stopHeld n = false →
        (s.m.ch n).flt.code ∉ [0x7, 0x8, 0xE] →
        (t.m.ch n).flt.code = (s.m.ch n).flt.code ∧ (t.m.ch n).flt.detail = (s.m.ch n).flt.detail ∧
          (t.m.ch n).flt.time = (s.m.ch n).flt.time) ∧
      t.m.thm.temps = s.m.thm.temps ∧ t.m.thm.stop = s.m.thm.stop ∧ t.sram = s.sram ∧ storeHeld s t) ∧
  (∀ s : State, (s.m.pwr.vddOk = false ∨ s.m.dev.phase = .powerOff) → exec .rstnReset s = .next s) ∧
  (∀ s : State, s.m.dev.phase = .inReset →
    exec .rstnRelease s = .next { s with m := { s.m with dev := { s.m.dev with phase := .sensing,
                                                                               startupAt := s.m.now } } })

/-- STARTUP (R454): the sense sequencer drives the latches, clears the SRAM outside running captures, samples the port mode
and puts the channels in SAFE; after the first conversions the device runs in the state its modes give, in a freshly reset
one LIMP or, with the thermal-stop condition, THERMAL_STOP (R37, R277), with the cause POR or RESET (R285). -/
def Obligations.StartupEndsInLimpHome : Prop :=
  (∀ (io3 : Bool) (s : State), s.m.dev.phase = .sensing →
    ∃ t, exec (.senseSequencerDone io3) s = .next t ∧ t.m.dev.phase = .sensed ∧ t.m.dev.latched = true ∧
      t.m.port.chain = !io3 ∧ (∀ n, n < s.m.nch → t.m.st n = .safe) ∧
      (∀ a, (∀ n c, (s.m.ch n).sig.cap = some c → a / 512 ≠ c.page) → Memory.read t.sram a = 0) ∧
      t.m.staged = s.m.staged ∧ t.m.time = s.m.time ∧ sameStore s t) ∧
  (∀ (diode : List (Option Int)) (ntc : Option Int) (s : State),
    (Instr.startupComplete diode ntc).WellFormed = true → s.m.dev.phase = .sensed →
    ∃ t, exec (.startupComplete diode ntc) s = .next t ∧ t.m.dev.phase = .running ∧ t.m.thm.init = true ∧
      t.m.devState = (if t.m.thm.stop then 4 else if s.m.dev.frz then 5 else if s.m.dev.governed then 3 else 2) ∧
      t.m.limp.cause = (if s.m.dev.rstKind = 1 then 1 else 2) ∧
      t.m.limp.entryCnt = inc16 s.m.limp.entryCnt ∧ sameConfig s t ∧ sameStore s t)

/-- VDD (R285, R443, R453): its loss cancels a pending commit, unless one is granted after the entry it causes (R286), ends
an unlock, leaves the port silent and, from LIMP on, the device in limp-home with the cause VDD_LOSS and TAKE_CONTROL
disarmed; no register the host configured changes. Its return is reported. -/
def Obligations.VddLossLeavesTheCoreInLimpHome : Prop :=
  (∀ (also : BitVec 8) (granted : Bool) (s : State), s.m.pwr.vddOk = true → s.m.dev.phase ≠ .powerOff →
    ∃ t, exec (.vddLoss also granted) s = .next t ∧ t.m.pwr.vddOk = false ∧
      t.m.pwr.vddLossCnt = inc16 s.m.pwr.vddLossCnt ∧ t.latched 0x02 0 ∧
      ((granted = false ∨ s.m.dev.governed = false) → t.m.cmt.pend = none) ∧ t.m.sec.unlocked = false ∧
      (s.m.dev.phase = .running → t.m.cmt.takeArmed = false ∧ t.m.dev.governed = false ∧ t.m.limp.cause = 3 ∧
        t.m.limp.causeHist.getLsbD 3 = true ∧ t.m.limp.entryCnt = inc16 s.m.limp.entryCnt) ∧
      t.m.portOn = false ∧ t.m.fltn = false ∧ t.m.irqn = false ∧ sameConfig s t ∧ storeHeld s t) ∧
  (∀ s : State, s.m.pwr.vddOk = false → s.m.dev.phase ≠ .powerOff →
    ∃ t, exec .vddReturn s = .next t ∧ t.latched 0x02 1 ∧
      becomes s t { s.m with pwr := { s.m.pwr with vddOk := true } })

/-- No protection of the round precedes the undervoltage on channel `n` (R125). -/
def Claim.uvFirst (also : List (BitVec 16)) (n : Nat) : Prop :=
  (nth also n 0).getLsbD 0 = false ∧ (nth also n 0).getLsbD 1 = false

/-- VBB (R123, R125, R444): an undervoltage turns every channel off; a group that runs records code 0xA on each member and
waits, where no member's trip of the round comes first (its code 0x1 then stands in the history); once VBB has been back for
1 ms the channels that wait start as from OFF, and SAFE channels resume their safe state. -/
def Claim.undervoltageEvents : Prop :=
  (∀ (also : List (BitVec 16)) (s : State), s.m.pwr.vbbUv = false → s.m.dev.phase ≠ .powerOff →
    ∃ t, exec (.vbbUndervoltage also) s = .next t ∧ t.latched 0x02 2 ∧
      (∀ n, n < s.m.nch → (t.m.ch n).stage.gateOn = false) ∧
      (∀ n, n < s.m.nch → (s.m.st n).running = true → t.latched (chPage n) 0 ∧ (t.m.st n).running = false ∧
        (t.m.ch n).flt.time = s.m.time ∧
        ((nth also n 0).getLsbD 0 = true ∨ (nth also n 0).getLsbD 1 = true → (t.m.ch n).flt.hist.getLsbD 1 = true) ∧
        ((∀ k, k ∈ s.m.members n → uvFirst also k) →
          t.m.st n = .retryWait ∧ (t.m.ch n).flt.code = 0xA ∧ (t.m.ch (s.m.leader n)).rty.cause = 0xA)) ∧
      (∀ n, n < s.m.nch → (s.m.st n).running = false → t.m.st n = s.m.st n) ∧
      switches everyChannel s t { s.m with pwr := { s.m.pwr with vbbUv := true, vcpOk := false,
                                                                 uvCnt := inc16 s.m.pwr.uvCnt } }) ∧
  (∀ s : State, exec .vbbUndervoltageRising s =
    .next { s with m := { s.m with pwr := { s.m.pwr with vbbUv := false } } }) ∧
  (∀ s : State, s.m.pwr.vbbUv = false →
    ∃ t, exec .undervoltageRestart s = .next t ∧
      (∀ l, l ∈ s.m.leaders → s.m.st l = .retryWait → (s.m.ch l).rty.cause = 0xA →
        s.m.startsTo l (t.m.st l) ∧ ∀ k, k ∈ s.m.members l → (t.m.ch k).flt.code ≠ 0xA) ∧
      (∀ l, l ∈ s.m.leaders → s.m.st l = .safe → (s.m.ch l).limp.uvHeld = true →
        t.m.st l = .safe ∧ (t.m.ch l).limp.uvHeld = false) ∧
      (∀ l, l ∈ s.m.leaders → (s.m.st l = .retryWait → (s.m.ch l).rty.cause ≠ 0xA) → s.m.st l ≠ .safe →
        t.m.st l = s.m.st l) ∧
      restarts everyChannel s t s.m)

/-- The other supply thresholds (R77, R440, R444): below 8 V and above the overvoltage level are reported alone; once VCP is
ready the channels may conduct, and each that its state commands on turns on. -/
def Claim.thresholdEvents : Prop :=
  (∀ (b : Bool) (s : State), exec (.vbbLow b) s = .next { s with m := { s.m with pwr := { s.m.pwr with vbbLow := b } } }) ∧
  (∀ s : State, s.m.pwr.vbbOv = false → ∃ t, exec (.vbbOvervoltage true) s = .next t ∧ t.latched 0x02 5 ∧
    becomes s t { s.m with pwr := { s.m.pwr with vbbOv := true, ovCnt := inc16 s.m.pwr.ovCnt } }) ∧
  (∀ s : State, exec (.vbbOvervoltage false) s =
    .next { s with m := { s.m with pwr := { s.m.pwr with vbbOv := false } } }) ∧
  (∀ s : State, s.m.pwr.vbbUv = false → s.m.dev.phase ≠ .powerOff →
    ∃ t, exec .vcpReady s = .next t ∧
      (∀ l, l ∈ s.m.leaders → s.m.wantsOn l = true → ∀ k, k ∈ s.m.members l → (s.m.bank (k / 4)).analog = false →
        (t.m.ch k).stage.gateOn = true) ∧
      (∀ n, t.m.st n = s.m.st n ∧ (t.m.ch n).flt = (s.m.ch n).flt) ∧
      switches everyChannel s t { s.m with pwr := { s.m.pwr with vcpOk := true }, clk := { s.m.clk with cpOk := true } })

/-- REFCLK (R34, R214, R294, R447): its loss is recorded, puts every channel in SAFE (once the latches are driven),
invalidates the delay line, unlocks the tracker and stops the running timebases where they stand; its return is reported;
in LIMP, 1 ms later, the EPWM safe levels end and the channels leave SAFE as from OFF unless another interval holds them. -/
def Claim.refclkEvents : Prop :=
  (∀ s : State, s.m.clk.refOk = true →
    ∃ t, exec .refclkLoss s = .next t ∧ t.m.clk.refOk = false ∧ t.m.clk.refLossCnt = inc16 s.m.clk.refLossCnt ∧
      t.m.clk.rlossT = s.m.time ∧ t.latched 0x01 0 ∧
      (s.m.dev.latched = true → ∀ n, n < s.m.nch → t.m.st n = .safe) ∧
      (∀ n, n < s.m.nch → (t.m.ch n).meas.stale = true) ∧ t.m.dl.valid = false ∧ t.m.zc.st = .unlocked ∧
      (∀ k, k < 8 → (s.m.tb k).running = true → (t.m.tb k).halt.isSome = true) ∧ sameConfig s t ∧ storeHeld s t) ∧
  (∀ (ext : Bool) (s : State), s.m.clk.refOk = false → s.m.dev.phase ≠ .powerOff →
    ∃ t, exec (.refclkPresent ext) s = .next t ∧ t.m.clk.refOk = true ∧ t.m.clk.refExt = ext ∧ t.latched 0x01 1 ∧
      becomes s t { s.m with clk := t.m.clk }) ∧
  (∀ s : State, s.m.clk.refOk = true → s.m.dev.governed = false → s.m.dev.phase ≠ .powerOff →
    ∃ t, exec .limpResume s = .next t ∧ t.m.clk.epwmSafe = false ∧ t.m.clk.refSafe = false ∧
      (s.m.dev.phase = .running → s.m.clk.lfSafe = false →
        ∀ l, l ∈ s.m.leaders → s.m.st l = .safe → s.m.pwr.vbbUv = false → s.m.startsTo l (t.m.st l)) ∧
      ((s.m.dev.phase ≠ .running ∨ s.m.clk.lfSafe = true) → ∀ l, l ∈ s.m.leaders → t.m.st l = s.m.st l) ∧
      (∀ l, l ∈ s.m.leaders → s.m.st l ≠ .safe → t.m.st l = s.m.st l) ∧
      restarts everyChannel s t { s.m with clk := { s.m.clk with refSafe := false, epwmSafe := false } })

/-- LFOSC (R34, R294, R448): its loss puts every channel in SAFE (once the latches are driven); with its return they leave
SAFE as from OFF unless another interval holds them there. -/
def Claim.lfoscEvents : Prop :=
  (∀ s : State, s.m.clk.lfOk = true → s.m.dev.phase ≠ .powerOff →
    ∃ t, exec .lfoscLoss s = .next t ∧ t.latched 0x01 2 ∧
      (s.m.dev.latched = true → ∀ n, n < s.m.nch → t.m.st n = .safe) ∧
      switches everyChannel s t { s.m with clk := { s.m.clk with lfOk := false, lfSafe := true, lfStop := s.m.lf,
                                                                 lfLossCnt := inc16 s.m.clk.lfLossCnt } }) ∧
  (∀ s : State, s.m.clk.lfOk = false →
    ∃ t, exec .lfoscReturn s = .next t ∧ t.m.clk.lfOk = true ∧ t.m.clk.lfSafe = false ∧
      (s.m.dev.phase = .running → s.m.clk.refSafe = false → s.m.pwr.vbbUv = false →
        ∀ l, l ∈ s.m.leaders → s.m.st l = .safe → s.m.startsTo l (t.m.st l)) ∧
      (∀ l, l ∈ s.m.leaders → s.m.st l ≠ .safe → t.m.st l = s.m.st l) ∧
      restarts everyChannel s t { s.m with clk := t.m.clk })

/-- Loss and return of REFCLK and of LFOSC (R34, R294, R447, R448). -/
def Obligations.ClocksFailSafe : Prop := refclkEvents ∧ lfoscEvents

/-- VBB and VCP (R77, R123, R440, R444). -/
def Obligations.SupplyThresholds : Prop := undervoltageEvents ∧ thresholdEvents

/-! ## The power stage, protection and diagnosis -/

/-- The code and detail a turn-off fault of channel `ch` is recorded with: the first in the order of R125 of the code the
command names and those its round found with it. -/
def Claim.found (ch code detail : Nat) (also : BitVec 16) (s : State) : Nat × Nat := s.m.firstFound ch code detail also

/-- The fault finds the retries used up (R129, R130, R153): the channel runs, or it waits for a retry with its gate long
off. -/
def Claim.exhausts (ch code : Nat) (s : State) : Prop :=
  code ≠ 0xA ∧ s.m.policy (s.m.leader ch) ≠ 0 ∧ s.m.retriesOut (s.m.leader ch) ∧
    ((s.m.st ch).running = true ∨ s.m.st ch = .retryWait ∧ (s.m.ch ch).stage.conducting = false)

/-- A turn-off fault of channel `ch` takes effect (R90, R123, R125 to R131, R152, R153): its group's gates discharge; the
code and detail that come first in the round, the time and the history of all its codes are written and reported, on a
channel held in SAFE by reset or STARTUP only when that ends (R133); a channel that runs goes to LATCHED under policy LATCH,
or with its retries used up (then the leader's code is 0xD), else to RETRY_WAIT with COUNT raised, or with the
undervoltage's wait; one in RETRY_WAIT goes to LATCHED in the same two cases; any other state stays. -/
def Claim.turnsOff (ch code detail : Nat) (also : BitVec 16) (s t : State) : Prop :=
  (∀ k, k ∈ s.m.members ch → (t.m.ch k).stage.gateOn = false ∧
    ((s.m.ch k).stage.gateOn = true → (t.m.ch k).stage.edge = some ⟨false, 15, false, true, s.m.now⟩)) ∧
  (t.m.ch ch).prot.tripped = true ∧
  (s.m.recordsLate ch = false →
    (t.m.ch ch).flt.time = s.m.time ∧ t.latched (chPage ch) 0 ∧
      ∀ i, (foundBits code also).getLsbD i = true → (t.m.ch ch).flt.hist.getLsbD i = true) ∧
  (s.m.recordsLate ch = true →
    (t.m.ch ch).flt = { (s.m.ch ch).flt with late := (s.m.ch ch).flt.late ++
      [⟨(found ch code detail also s).1, (found ch code detail also s).2, foundBits code also,
        (s.m.ch ch).prot.est⟩] }) ∧
  (s.m.recordsLate ch = false → ¬ exhausts ch (found ch code detail also s).1 s →
    ((t.m.ch ch).flt.code, (t.m.ch ch).flt.detail) = found ch code detail also s) ∧
  (exhausts ch (found ch code detail also s).1 s →
    t.m.st ch = .latched ∧ (t.m.ch (s.m.leader ch)).flt.code = 0xD ∧ t.latched (chPage (s.m.leader ch)) 6) ∧
  ((s.m.st ch).running = true → (found ch code detail also s).1 ≠ 0xA →
    (s.m.policy (s.m.leader ch) = 0 → t.m.st ch = .latched) ∧
    (s.m.policy (s.m.leader ch) ≠ 0 → ¬ s.m.retriesOut (s.m.leader ch) →
      t.m.st ch = .retryWait ∧ (t.m.ch (s.m.leader ch)).rty.count = min 255 ((s.m.ch (s.m.leader ch)).rty.count + 1) ∧
        (t.m.ch (s.m.leader ch)).rty.cause = (found ch code detail also s).1 ∧
        (t.m.ch (s.m.leader ch)).rty.waitAt = s.m.lf)) ∧
  ((s.m.st ch).running = true → (found ch code detail also s).1 = 0xA →
    t.m.st ch = .retryWait ∧ (t.m.ch (s.m.leader ch)).rty.cause = 0xA ∧
      (t.m.ch (s.m.leader ch)).rty.count = (s.m.ch (s.m.leader ch)).rty.count) ∧
  ((s.m.st ch).running = false → ¬ exhausts ch (found ch code detail also s).1 s →
    t.m.st ch = if s.m.st ch = .retryWait ∧ (found ch code detail also s).1 ≠ 0xA ∧ s.m.policy (s.m.leader ch) = 0
      then .latched else s.m.st ch)

/-- The trip chain (R27, R107, R109, R125): a conducting channel whose current crosses 150 A, or its effective fast-trip
threshold, has the code 0x1 BACKSTOP or FAST among those of its round, is counted, and its whole group discharges; nothing
beside the group changes. Until its next turn-on edge the channel trips no more, and without a threshold there is no fast
trip. -/
def Obligations.TripsTurnTheGroupOff : Prop :=
  ∀ (ch : Ch) (also : BitVec 16) (s : State), ch.val < s.m.nch →
    ((s.m.ch ch).stage.conducting = true → (s.m.ch ch).prot.tripped = false →
      ∃ t, exec (.backstopTrip ch also) s = .next t ∧ turnsOff ch 1 1 also s t ∧
        (t.m.ch ch).prot.tripCnt = inc16 (s.m.ch ch).prot.tripCnt ∧ switches (s.m.members ch) s t s.m) ∧
    ((s.m.ch ch).stage.conducting = true → (s.m.ch ch).prot.tripped = false → (s.m.itripEff ch).isSome = true →
      ∃ t, exec (.fastTrip ch also) s = .next t ∧ turnsOff ch 1 0 also s t ∧
        (t.m.ch ch).prot.tripCnt = inc16 (s.m.ch ch).prot.tripCnt ∧ switches (s.m.members ch) s t s.m) ∧
    (((s.m.ch ch).stage.conducting = false ∨ (s.m.ch ch).prot.tripped = true) →
      ∃ t, exec (.backstopTrip ch also) s = .next t ∧ settlesTo s t s.m) ∧
    (((s.m.ch ch).stage.conducting = false ∨ (s.m.ch ch).prot.tripped = true ∨ s.m.itripEff ch = none) →
      ∃ t, exec (.fastTrip ch also) s = .next t ∧ settlesTo s t s.m)

/-- The other turn-off faults of one channel: the current limit lasting longer than CL_TIME, code 0x2 (R112); the short to
VBB found in an off-interval of PWM or HOLD, code 0x6 (R122); reverse current with FAULT_OFF, code 0x9 (R86); VGS low on a
channel commanded on, or high on one commanded off, code 0xB (R78). -/
def Claim.channelFaults : Prop :=
  (∀ (ch : Ch) (also : BitVec 16) (s : State), ch.val < s.m.nch → (s.m.ch ch).stage.conducting = true →
    (s.m.ch ch).prot.tripped = false → (s.m.ch ch).prot.clReg = true →
    ∃ t, exec (.clTimeout ch also) s = .next t ∧ turnsOff ch 2 0 also s t ∧ switches (s.m.members ch) s t s.m) ∧
  (∀ (ch : Ch) (also : BitVec 16) (s : State), ch.val < s.m.nch → (s.m.st ch).follows = true →
    bit (s.m.lw ch 0x14) 9 = true → (s.m.ch ch).stage.conducting = false →
    ∃ t, exec (.svbbPwmOff ch also) s = .next t ∧ turnsOff ch 6 1 also s t ∧ switches (s.m.members ch) s t s.m) ∧
  (∀ (ch : Ch) (also : BitVec 16) (s : State), ch.val < s.m.nch → (s.m.st ch).running = true →
    bit (s.m.lw ch 0x0B) 6 = true →
    ∃ t, exec (.reverseCurrent ch true true also) s = .next t ∧ turnsOff ch 9 0 also s t ∧
      switches (s.m.members ch) s t (s.m.modCh ch fun c => { c with stage := { c.stage with rev := true } })) ∧
  (∀ (ch : Ch) (also : BitVec 16) (s : State), ch.val < s.m.nch → (s.m.ch ch).stage.gateOn = true →
    ∃ t, exec (.gateDriveFault (.vgsLow ch) also) s = .next t ∧ turnsOff ch 0xB 0 also s t ∧
      switches (s.m.members ch) s t s.m) ∧
  (∀ (ch : Ch) (also : BitVec 16) (s : State), ch.val < s.m.nch → (s.m.ch ch).stage.gateOn = false →
    ∃ t, exec (.gateDriveFault (.vgsStuck ch) also) s = .next t ∧ turnsOff ch 0xB 0 also s t ∧
      switches (s.m.members ch) s t s.m)

/-- The charge pump (R34, R78): VCP low while a channel is commanded on, or CPCLK lost, turns every conducting channel off,
but those a granted fault is turning off already (R125), with code 0xB in its history, unless reset or STARTUP holds the
record back (R133); the loss of CPCLK is counted and reported. -/
def Claim.chargePumpLoss : Prop :=
  (∀ (also : BitVec 16) (s : State), (∃ k, k < s.m.nch ∧ (s.m.ch k).stage.gateOn = true) →
    ∃ t, exec (.gateDriveFault .vcpLow also) s = .next t ∧
      (∀ k, k < s.m.nch → (s.m.ch k).stage.conducting = true → (s.m.ch k).prot.tripped = false →
        (t.m.ch k).stage.gateOn = false ∧ (t.m.st k).running = false ∧
        (s.m.recordsLate k = false → (t.m.ch k).flt.hist.getLsbD 0xB = true ∧ t.latched (chPage k) 0)) ∧
      switches everyChannel s t s.m) ∧
  (∀ (also : BitVec 16) (s : State), s.m.clk.cpOk = true →
    ∃ t, exec (.gateDriveFault .cpclkLost also) s = .next t ∧ t.latched 0x01 3 ∧
      (∀ k, k < s.m.nch → (s.m.ch k).stage.conducting = true → (s.m.ch k).prot.tripped = false →
        (t.m.ch k).stage.gateOn = false ∧ (t.m.st k).running = false ∧
        (s.m.recordsLate k = false → (t.m.ch k).flt.hist.getLsbD 0xB = true ∧ t.latched (chPage k) 0)) ∧
      switches everyChannel s t { s.m with clk := { s.m.clk with cpOk := false, cpLossCnt := inc16 s.m.clk.cpLossCnt },
                                           pwr := { s.m.pwr with vcpOk := false } })

/-- Edges and the clamp (R78, R79, R84, R102, R172): an edge ends, a turn-on edge with VGS good, a turn-off edge with the
comparators of its channel released, and its interval ends for the dissipation; a turn-off counts once in CHn.CLAMP_CNT,
which CLR_CLAMP clears. -/
def Claim.edgeEvents : Prop :=
  (∀ (ch : Ch) (s : State), ch.val < s.m.nch → ∀ e, (s.m.ch ch).stage.edge = some e →
    ∃ t, exec (.edgeEnd ch) s = .next t ∧
      t.m.thm = { s.m.thm with log := { s.m.thm.log with last := t.m.thm.log.last }, edgesDue := t.m.thm.edgesDue,
                               jnlHold := t.m.thm.jnlHold } ∧
      (s.m.thm.edgesDue = false → s.m.thm.jnlHold = false → t.m.thm = s.m.thm) ∧
      settlesTo s t ({ s.m with thm := t.m.thm }.modCh ch fun c =>
        if e.rising then { c with stage := { c.stage with edge := none, vgsOk := true },
                                  meas := c.meas.endHeat s.m.now }
        else { c with stage := { c.stage with edge := none }, meas := { c.meas.endHeat s.m.now with offAt := s.m.now },
                      prot := { c.prot with scCmp := false, bsCmp := false } })) ∧
  (∀ (ch : Ch) (s : State), ch.val < s.m.nch → (s.m.ch ch).stage.gateOn = false →
    ∃ t, exec (.clampStart ch) s = .next t ∧
      settlesTo s t (s.m.modCh ch fun c => { c with stage := { c.stage with clamp := true },
                                                    meas := c.meas.endHeat s.m.now })) ∧
  (∀ (ch : Ch) (s : State), ch.val < s.m.nch → (s.m.ch ch).stage.clamp = true →
    ∃ t, exec (.clampEnd ch) s = .next t ∧
      settlesTo s t (s.m.modCh ch fun c => { c with stage := { c.stage with
        clamp := false, clampSeen := true,
        clampCnt := if c.stage.clampSeen then c.stage.clampCnt else inc16 c.stage.clampCnt } })) ∧
  (∀ (ch : Ch) (s : State), ch.val < s.m.nch →
    ∃ t, exec (.clrClamp ch) s = .next t ∧
      settlesTo s t (s.m.modCh ch fun c => { c with stage := { c.stage with clampCnt := 0 } }))

/-- Regulation at the current limit (R111, R135, R144) and reverse current as a report (R86): an episode begins with its
energies at 0 and is counted, in an inrush sequence by CLPER alone, once in each chop period; it ends; the counts clear on
command. -/
def Claim.regulationEvents : Prop :=
  (∀ (ch : Ch) (s : State), ch.val < s.m.nch → (s.m.ch ch).stage.conducting = true → (s.m.ch ch).prot.clReg = false →
    ∃ t, exec (.clRegStart ch) s = .next t ∧ (s.m.st ch ≠ .inrush → t.latched (chPage ch) 4) ∧
      settlesTo s t (s.m.modCh ch fun c =>
        { c with prot := { c.prot with clReg := true, epStart := s.m.now, epEnergy := 0, eacc := 0,
                                       clCnt := if s.m.st ch = .inrush then c.prot.clCnt else inc16 c.prot.clCnt },
                 inr := if s.m.st ch = .inrush then
                     { c.inr with clSeen := true,
                                  clper := if (s.m.ch (s.m.leader ch)).inr.chopping = true ∧ c.inr.clSeen = false
                                    then min 255 (c.inr.clper + 1) else c.inr.clper }
                   else c.inr })) ∧
  (∀ (ch : Ch) (s : State), ch.val < s.m.nch →
    ∃ t, exec (.clRegEnd ch) s = .next t ∧
      settlesTo s t (s.m.modCh ch fun c => { c with prot := { c.prot with clReg := false } })) ∧
  (∀ (ch : Ch) (filtered : Bool) (also : BitVec 16) (s : State), ch.val < s.m.nch →
    ∃ t, exec (.reverseCurrent ch false filtered also) s = .next t ∧
      settlesTo s t (s.m.modCh ch fun c => { c with stage := { c.stage with rev := false } })) ∧
  (∀ (ch : Ch) (also : BitVec 16) (s : State), ch.val < s.m.nch →
    (∃ t, exec (.reverseCurrent ch true false also) s = .next t ∧
      settlesTo s t (s.m.modCh ch fun c => { c with stage := { c.stage with rev := true } })) ∧
    ((bit (s.m.lw ch 0x0B) 6 = false ∨ (s.m.st ch).running = false) →
      ∃ t, exec (.reverseCurrent ch true true also) s = .next t ∧ t.latched (chPage ch) 11 ∧
        settlesTo s t (s.m.modCh ch fun c => { c with stage := { c.stage with rev := true } }))) ∧
  (∀ (ch : Ch) (s : State), ch.val < s.m.nch →
    ∃ t, exec (.protClrCnt ch) s = .next t ∧
      settlesTo s t (s.m.modCh ch fun c =>
        { c with prot := { c.prot with clCnt := 0, tripCnt := 0, cycCnt := 0, eacc := 0 } }))

/-- A diagnostic code is found (R127, R131, R134): it is written over code 0x0 alone, its history bit is set always; the
state and the gate of the channel stay. -/
def Claim.diagnoses (ch code : Nat) (s t : State) (m : Mach) : Prop :=
  (t.m.ch ch).flt.hist.getLsbD code = true ∧
  ((s.m.ch ch).flt.code = 0 → (t.m.ch ch).flt.code = code ∧ (t.m.ch ch).flt.time = s.m.time ∧ t.latched (chPage ch) 0) ∧
  ((s.m.ch ch).flt.code ≠ 0 → (t.m.ch ch).flt.code = (s.m.ch ch).flt.code ∧
    (t.m.ch ch).flt.time = (s.m.ch ch).flt.time) ∧
  (t.m.ch ch).st = (s.m.ch ch).st ∧ (t.m.ch ch).stage = (s.m.ch ch).stage ∧ switches [ch] s t m

/-- A comparison finds its condition, with the flag `was` before (R119, R121, R134): it is reported when the flag was 0, and
recorded then or when a clear has emptied the code since; else only `m` comes about. -/
def Claim.finds (ch code bits : Nat) (was : Bool) (s t : State) (m : Mach) : Prop :=
  (was = false → t.latched (chPage ch) bits ∧ diagnoses ch code s t m) ∧
  (was = true → (s.m.ch ch).flt.code = 0 → diagnoses ch code s t m) ∧
  (was = true → (s.m.ch ch).flt.code ≠ 0 → settlesTo s t m)

/-- Open load and the short to VBB (R119 to R121): open load in ON, PWM or HOLD is code 0x4; in the off states, open load
is code 0x5 and the short, found in two check windows in a row, code 0x6. A comparison that shows a load clears the flag. -/
def Obligations.DiagnosesAreRecorded : Prop :=
  (∀ (ch : Ch) (s : State), ch.val < s.m.nch → fld (s.m.lw ch 0x14) 0 5 ≠ 0 → (s.m.st ch).steady = true →
    ∃ t, exec (.openLoadOn ch true) s = .next t ∧
      finds ch 4 2 (s.m.ch ch).prot.olOn s t (s.m.modCh ch fun c => { c with prot := { c.prot with olOn := true } })) ∧
  (∀ (ch : Ch) (s : State), ch.val < s.m.nch →
    ∃ t, exec (.openLoadOn ch false) s = .next t ∧
      settlesTo s t (s.m.modCh ch fun c => { c with prot := { c.prot with olOn := false } })) ∧
  (∀ (ch : Ch) (s : State), ch.val < s.m.nch → s.m.offDiag ch = true → bit (s.m.lw ch 0x14) 9 = true →
    ∃ t, exec (.svbbCheckWindow ch .opens) s = .next t ∧
      settlesTo s t (s.m.modCh ch fun c => { c with prot := { c.prot with check := true } })) ∧
  (∀ (ch : Ch) (s : State), ch.val < s.m.nch → s.m.offDiag ch = true → (s.m.ch ch).prot.check = true →
    (s.m.ch ch).prot.winRun = 0 →
    ∃ t, exec (.svbbCheckWindow ch (.ends true)) s = .next t ∧
      settlesTo s t (s.m.modCh ch fun c =>
        { c with prot := { c.prot with check := false, winRun := 1, winLow := false } })) ∧
  (∀ (ch : Ch) (s : State), ch.val < s.m.nch → s.m.offDiag ch = true → (s.m.ch ch).prot.check = true →
    (s.m.ch ch).prot.winRun ≠ 0 →
    ∃ t, exec (.svbbCheckWindow ch (.ends true)) s = .next t ∧
      finds ch 6 3 (s.m.ch ch).prot.svbb s t (s.m.modCh ch fun c =>
        { c with prot := { c.prot with check := false, winRun := 2, winLow := false, svbb := true } })) ∧
  (∀ (ch : Ch) (s : State), ch.val < s.m.nch → s.m.offDiag ch = true → (s.m.ch ch).prot.check = true →
    ∃ t, exec (.svbbCheckWindow ch (.ends false)) s = .next t ∧
      settlesTo s t (s.m.modCh ch fun c =>
        { c with prot := { c.prot with check := false, winRun := 0, winLow := true, svbb := false } })) ∧
  (∀ (ch : Ch) (s : State), ch.val < s.m.nch → s.m.offDiag ch = true → bit (s.m.lw ch 0x14) 8 = true →
    (s.m.ch ch).prot.check = false → (bit (s.m.lw ch 0x14) 9 = false ∨ (s.m.ch ch).prot.winLow = true) →
    ∃ t, exec (.openLoadOff ch true) s = .next t ∧
      finds ch 5 2 (s.m.ch ch).prot.olOff s t (s.m.modCh ch fun c => { c with prot := { c.prot with olOff := true } })) ∧
  (∀ (ch : Ch) (s : State), ch.val < s.m.nch →
    ∃ t, exec (.openLoadOff ch false) s = .next t ∧
      settlesTo s t (s.m.modCh ch fun c => { c with prot := { c.prot with olOff := false } }))

/-- The machine with the fault histories of the channels `ks` cleared. -/
def Claim.withoutHistory (ks : List Nat) (m : Mach) : Mach :=
  { m with chans := vmap m.chans fun k c => if ks.contains k.val then { c with flt := { c.flt with hist := 0 } } else c }

/-- The group of a leader whose codes a command cleared goes on (R90, R134, R159): from RETRY_WAIT or LATCHED as from OFF, with
COUNT cleared; another state stays. `f` is what the command leaves of a fault record. -/
def Claim.proceeds (ch : Nat) (f : Flt → Flt) (s t : State) : Prop :=
  ((s.m.st ch = .retryWait ∨ s.m.st ch = .latched) → s.m.startsTo ch (t.m.st ch) ∧
    (s.m.startsClean ch → (t.m.ch ch).rty.count = 0 ∧ ∀ k, k ∈ s.m.members ch → (t.m.ch k).flt = f (s.m.ch k).flt)) ∧
  (s.m.st ch ≠ .retryWait → s.m.st ch ≠ .latched → t.m.st ch = s.m.st ch ∧ (t.m.ch ch).rty = (s.m.ch ch).rty ∧
    ∀ k, k ∈ s.m.members ch → (t.m.ch k).stage = (s.m.ch k).stage ∧ (t.m.ch k).flt = f (s.m.ch k).flt) ∧
  restarts (s.m.members ch) s t s.m

/-- The fault-clear commands (R96, R134): a leader's command clears code, detail, time and FLTN request of every member, and
a channel in RETRY_WAIT or LATCHED proceeds as from OFF with COUNT cleared; the history clear clears the history alone; on a
member's page they are ignored. -/
def Obligations.FaultClearCommands : Prop :=
  (∀ (ch : Ch) (s : State), ch.val < s.m.nch → s.m.leader ch = ch →
    (∃ t, exec (.faultClear ch) s = .next t ∧
      proceeds ch (fun f => { f with code := 0, detail := 0, time := 0, fltnReq := false }) s t) ∧
    (∃ t, exec (.historyClear ch) s = .next t ∧ settlesTo s t (withoutHistory (s.m.members ch) s.m)) ∧
    (∃ t, exec (.faultHistoryClear ch) s = .next t ∧
      proceeds ch (fun f => { Flt.reset with late := f.late }) s t)) ∧
  (∀ (ch : Ch) (s : State), s.m.leader ch ≠ ch →
    exec (.faultClear ch) s = .next s ∧ exec (.historyClear ch) s = .next s ∧ exec (.faultHistoryClear ch) s = .next s)

/-- The turn-off faults beside the trips (R34, R78, R86, R112, R122). -/
def Obligations.FaultsTurnChannelsOff : Prop := channelFaults ∧ chargePumpLoss

/-- The power stage and its reports (R78, R79, R84, R86, R102, R111, R135, R144, R172). -/
def Obligations.StageEvents : Prop := edgeEvents ∧ regulationEvents

/-! ## Inrush and retry -/

/-- The state a completed sequence leads to (R145). -/
def Claim.afterInrush (m : Mach) (l : Nat) : ChSt :=
  if m.mode l = 0 then .off else if m.mode l = 1 then .on else if m.mode l = 2 then .pwm else .hold

/-- The machine with INR_LAST of channel `l` showing a sequence that ends now, in ms (R145, R161; log entry 13 rounds). -/
def Claim.withInrLast (l : Nat) (m : Mach) : Mach :=
  m.modCh l fun c => { c with inr := { c.inr with
    last := min 0xFFFF (inUnits (((m.now - c.inr.startAt : Nat) : Rat) / 48000)).toNat } }

/-- The sequence of leader `l` completes with a cause (R145): the cause and duration are kept, INR_DONE is reported, and the
channel passes to the state of its mode; into PWM or HOLD a source that is active already cuts it, which may escalate (R124,
R233). -/
def Claim.inrushCompletes (l cause : Nat) (s t : State) : Prop :=
  (t.m.st l = afterInrush s.m l ∨ (2 ≤ s.m.mode l ∧ (s.m.tripOn l = true ∨ s.m.climOn l = true) ∧
    fld (s.m.lw l 0x15) 0 8 ≠ 0 ∧ (t.m.st l = .retryWait ∨ t.m.st l = .latched))) ∧
  (t.m.ch l).inr.phase = .idle ∧ (t.m.ch l).inr.cause = cause ∧ t.latched (chPage l) 5 ∧
  (s.m.mode l = 0 → ∀ k, k ∈ s.m.members l → (t.m.ch k).stage.gateOn = false) ∧
  (s.m.mode l = 1 → ∀ k, k ∈ s.m.members l → s.m.pwr.vcpOk = true → (s.m.bank (k / 4)).analog = false →
    (t.m.ch k).stage.gateOn = true) ∧
  restarts (s.m.members l) s t (withInrLast l s.m)

/-- The sum of the estimates of a leader's members (R151). -/
def Claim.groupEstimate (m : Mach) (l : Nat) : Nat := ((m.members l).map fun k => (m.ch k).prot.est).foldl (· + ·) 0

/-- The ends of inrush phases (R140, R145, R151): LAMP and MOTOR pass from phase A to B, MOTOR then fully on; the time of the
last phase, the group's current below I_END (in COIL mode at or above it), or an output voltage within V_END of VBB completes
the sequence. -/
def Claim.inrushEnds : Prop :=
  (∀ (ch : Ch) (s : State), ch.val < s.m.nch → s.m.leader ch = ch → s.m.st ch = .inrush →
    (s.m.ch ch).inr.phase = .a → ((s.m.ch ch).inr.profile = 1 ∨ (s.m.ch ch).inr.profile = 2) →
    ∃ t, exec (.inrushPhaseEnd ch) s = .next t ∧ t.m.st ch = .inrush ∧ (t.m.ch ch).inr.phase = .b ∧
      (t.m.ch ch).inr.phaseAt = s.m.now ∧ (t.m.ch ch).inr.chopJ = 0 ∧
      ((s.m.ch ch).inr.profile = 2 → ∀ k, k ∈ s.m.members ch → s.m.pwr.vcpOk = true →
        (s.m.bank (k / 4)).analog = false → (t.m.ch k).stage.gateOn = true) ∧
      ((s.m.ch ch).inr.profile = 1 → ∀ k, (t.m.ch k).stage = (s.m.ch k).stage) ∧
      switches (s.m.members ch) s t s.m) ∧
  (∀ (ch : Ch) (s : State), ch.val < s.m.nch → s.m.leader ch = ch → s.m.st ch = .inrush →
    ((s.m.ch ch).inr.phase = .b ∨
      (s.m.ch ch).inr.phase = .a ∧ (s.m.ch ch).inr.profile ≠ 1 ∧ (s.m.ch ch).inr.profile ≠ 2) →
    ∃ t, exec (.inrushPhaseEnd ch) s = .next t ∧ inrushCompletes ch 1 s t) ∧
  (∀ (ch : Ch) (s : State), ch.val < s.m.nch → s.m.leader ch = ch → s.m.st ch = .inrush →
    fld (s.m.ch ch).inr.endw 0 8 ≠ 0 →
    ((s.m.ch ch).inr.profile = 2 ∧ (s.m.ch ch).inr.phase = .b ∧ groupEstimate s.m ch < fld (s.m.ch ch).inr.endw 0 8 ∨
      (s.m.ch ch).inr.profile = 5 ∧ (s.m.ch ch).inr.phase = .a ∧ fld (s.m.ch ch).inr.endw 0 8 ≤ groupEstimate s.m ch) →
    ∃ t, exec (.inrushCurrentEnd ch) s = .next t ∧ inrushCompletes ch 2 s t) ∧
  (∀ (ch : Ch) (gap : Nat) (s : State), ch.val < s.m.nch → s.m.leader ch = ch → s.m.st ch = .inrush →
    (s.m.ch ch).inr.profile = 3 → (s.m.ch ch).inr.phase = .a → gap ≤ 10 * max 1 (fld (s.m.ch ch).inr.endw 8 8) →
    ∃ t, exec (.inrushVoltageEnd ch gap) s = .next t ∧ inrushCompletes ch 3 s t)

/-- Chopping and the heater queue (R141, R142, R146): a chop period opens with a turn-on edge unless its on-time is 0, its
on-time ends with a turn-off edge unless the duty code is 256; the oldest queued heater starts once no serial heater is in
phase A. -/
def Claim.chopping : Prop :=
  (∀ (ch : Ch) (s : State), ch.val < s.m.nch → s.m.leader ch = ch → s.m.st ch = .inrush →
    ∀ d, (s.m.ch ch).inr.dutyCode ((s.m.ch ch).inr.chopJ + 1) = some d →
    ∃ t, exec (.chopPeriod ch true) s = .next t ∧ (t.m.ch ch).inr.chopJ = (s.m.ch ch).inr.chopJ + 1 ∧
      t.m.st ch = .inrush ∧
      (∀ k, k ∈ s.m.members ch → (s.m.ch ch).inr.onTime d = 0 → (t.m.ch k).stage.gateOn = false) ∧
      (∀ k, k ∈ s.m.members ch → (s.m.ch ch).inr.onTime d ≠ 0 → s.m.pwr.vcpOk = true →
        (s.m.bank (k / 4)).analog = false → (t.m.ch k).stage.gateOn = true) ∧
      switches (s.m.members ch) s t s.m) ∧
  (∀ (ch : Ch) (s : State), ch.val < s.m.nch → s.m.leader ch = ch → s.m.st ch = .inrush →
    (s.m.ch ch).inr.chopJ ≠ 0 → ∀ d, (s.m.ch ch).inr.dutyCode (s.m.ch ch).inr.chopJ = some d → d ≠ 256 →
    ∃ t, exec (.chopPeriod ch false) s = .next t ∧ (t.m.ch ch).inr = (s.m.ch ch).inr ∧ t.m.st ch = .inrush ∧
      (∀ k, k ∈ s.m.members ch → (t.m.ch k).stage.gateOn = false) ∧ switches (s.m.members ch) s t s.m) ∧
  (∀ s : State, s.m.heaterInA = false → ∀ l, s.m.oldestQueued = some l →
    ∃ t, exec .heaterQueueRelease s = .next t ∧
      settlesTo s t (s.m.modCh l fun c => { c with inr := { c.inr with phase := .a, phaseAt := s.m.now } }))

/-- Retries (R154, R155, R159): once its wait is over and neither a hold nor the thermal gate keeps it, a channel starts as
from OFF and the retry is counted; in mode OFF it enters OFF; kept, it only remembers that the wait is over. -/
def Claim.retryStarts : Prop :=
  (∀ (ch : Ch) (s : State), ch.val < s.m.nch → s.m.leader ch = ch → s.m.st ch = .retryWait →
    (s.m.ch ch).rty.cause ≠ 0xA → s.m.gateOpen ch = true → s.m.held? ch = false →
    ∃ t, exec (.retryDue ch) s = .next t ∧ s.m.startsTo ch (t.m.st ch) ∧
      (s.m.startsClean ch → (t.m.ch ch).rty.count = (s.m.ch ch).rty.count) ∧
      restarts (s.m.members ch) s t (if s.m.mode ch = 0 then s.m else
        s.m.modCh ch fun c => { c with rty := { c.rty with total := inc16 c.rty.total } })) ∧
  (∀ (ch : Ch) (s : State), ch.val < s.m.nch → s.m.leader ch = ch → s.m.st ch = .retryWait →
    (s.m.ch ch).rty.cause ≠ 0xA → (s.m.gateOpen ch = false ∨ s.m.held? ch = true) →
    ∃ t, exec (.retryDue ch) s = .next t ∧
      settlesTo s t (s.m.modCh ch fun c => { c with rty := { c.rty with elapsed := true } }))

/-- The good run, the bucket and the commands of CHn.RTY_CMD (R96, R156, R157, R160): a good run clears COUNT, and on every
member the code that led to the retry where the leader still holds it, in a group with its time; a refill adds a token; the
commands clear COUNT and fill the bucket, and are ignored on a member's page. -/
def Claim.retryCounts : Prop :=
  (∀ (ch : Ch) (s : State), ch.val < s.m.nch → s.m.leader ch = ch → (s.m.st ch).steady = true →
    (s.m.ch ch).rty.goodRun = true →
    ∃ t, exec (.goodRun ch) s = .next t ∧
      (t.m.ch ch).rty = { (s.m.ch ch).rty with count := 0, goodRun := false, cause := 0, causeDet := 0 } ∧
      (∀ k, k ∈ s.m.members ch → (t.m.ch k).flt =
        if (s.m.ch ch).rty.cause ≠ 0 ∧ (s.m.ch ch).flt.code = (s.m.ch ch).rty.cause ∧
            (s.m.ch ch).flt.detail = (s.m.ch ch).rty.causeDet
        then { (s.m.ch k).flt with code := 0, detail := 0, fltnReq := false,
                                   time := if (s.m.members ch).length = 1 then (s.m.ch k).flt.time else 0 }
        else (s.m.ch k).flt) ∧
      (∀ k, (t.m.ch k).stage = (s.m.ch k).stage ∧ (t.m.ch k).st = (s.m.ch k).st) ∧ switches (s.m.members ch) s t s.m) ∧
  (∀ (ch : Ch) (s : State), ch.val < s.m.nch → s.m.leader ch = ch → s.m.policy ch = 4 → (s.m.ch ch).rty.refill = true →
    s.m.bktRate ch ≠ 0 → (s.m.ch ch).rty.tokens < s.m.bktCap ch →
    ∃ t, exec (.bucketRefill ch) s = .next t ∧
      settlesTo s t (s.m.modCh ch fun c =>
        { c with rty := { c.rty with tokens := c.rty.tokens + 1, refillAt := s.m.now,
                                     refill := decide (c.rty.tokens + 1 < s.m.bktCap ch) } })) ∧
  (∀ (ch : Ch) (s : State), ch.val < s.m.nch → s.m.leader ch = ch →
    (∃ t, exec (.retryCountClear ch) s = .next t ∧
      settlesTo s t (s.m.modCh ch fun c => { c with rty := { c.rty with count := 0 } })) ∧
    (∃ t, exec (.bucketFill ch) s = .next t ∧
      settlesTo s t (s.m.modCh ch fun c => { c with rty := { c.rty with tokens := s.m.bktCap ch, refill := false } })) ∧
    (∃ t, exec (.retryCountClearFill ch) s = .next t ∧
      settlesTo s t (s.m.modCh ch fun c =>
        { c with rty := { c.rty with count := 0, tokens := s.m.bktCap ch, refill := false } }))) ∧
  (∀ (ch : Ch) (s : State), s.m.leader ch ≠ ch →
    exec (.retryCountClear ch) s = .next s ∧ exec (.bucketFill ch) s = .next s ∧
      exec (.retryCountClearFill ch) s = .next s)

/-! ## Measurement, signatures and the estimate -/

/-- A calm machine without the measurements of its channels, the bus measurement and the samples of MEAS_SNAPs. -/
def Claim.unmeasured (m : Mach) : Mach :=
  { m.calm with chans := vmap m.calm.chans fun _ c => { c with meas := .reset }
                pwr := { m.pwr with vbb := 0, vbbMin := 0, vbbMax := 0, vbbWl := false, vbbWh := false }
                rings := { m.calm.rings with snaps := [] } }

/-- A converter sample (R163, R167, R168, R170, R171, R338, R445): CHn.I is the trimmed sample less the nulled offset, the
peak and the saturation flag follow it, and the bus voltage with its extremes; every MEAS_SNAP fetched before has its sample;
nothing but measurements, captures and events changes. Without REFCLK the converters stand. -/
def Obligations.ConverterSamplesAreRecorded : Prop :=
  (∀ (x : Sample) (s : State), (Instr.converterSample x).WellFormed = true → s.m.clk.refOk = true →
    ∃ t, exec (.converterSample x) s = .next t ∧
      (∀ n, n < s.m.nch →
        (t.m.ch n).meas.i = (s.m.ch n).meas.nulled (s.m.trimmed 0 n (nth x.i n 0)) ∧
        (t.m.ch n).meas.iPeak = max (s.m.ch n).meas.iPeak (t.m.ch n).meas.i.natAbs ∧
        (t.m.ch n).meas.iOvr = ((s.m.ch n).meas.iOvr || iSat (t.m.ch n).meas.i) ∧
        (t.m.ch n).meas.vdsUv = s.m.trimmed 2 n (nth x.vds n 0) ∧ (t.m.ch n).meas.stale = false) ∧
      (∀ i, i ∈ s.m.rings.infl → i.opcode = 0x51 → (s.m.inFlight i.tag).isSome = true →
        (t.m.rings.snaps.any fun q => q.tag == i.tag) = true) ∧
      t.m.pwr.vbb = min 0xFFFF x.vbb ∧ t.m.pwr.vbbMin = min s.m.pwr.vbbMin (min 0xFFFF x.vbb) ∧
      t.m.pwr.vbbMax = max s.m.pwr.vbbMax (min 0xFFFF x.vbb) ∧
      unmeasured t.m = unmeasured s.m ∧ evtKept s.m t.m ∧ sramApartFromCaptures s t ∧ sameStore s t) ∧
  (∀ (x : Sample) (s : State), (Instr.converterSample x).WellFormed = true → s.m.clk.refOk = false →
    exec (.converterSample x) s = .next s)

/-- What a power-feed entry holds (R172, R173): the conduction of the window's product samples that overlap no edge, in nJ,
and the edges that started in it, in µJ, over 125 µs, in mW, a negative sum counting as 0 (log entry 13 rounds); valid unless
a sample saturated, the converters stood, or FT is not sealed. -/
def Claim.feedEntry (m : Mach) (c : Chan) (prods : List Int) : Nat × Bool :=
  ((inUnits (c.meas.conduction m.now prods / 125 + 8 * c.meas.edgeHeat 0)).toNat,
    !(c.meas.winBad || c.meas.stopped || m.region 0 != 2))

/-- Every edge that started in the window has met its current sample. -/
def Claim.edgesKnown (c : Chan) : Prop := ∀ h, h ∈ c.meas.heats → h.fed = false → h.i.isSome = true

/-- The power feed (R172, R173): at the end of a window every channel's buffer takes one entry and CHn.PDISS shows it; no
other plane is touched. The energy of an edge whose current no sample has given yet is open (log entry 75), the rest of the
entry is not. Without REFCLK nothing is delivered. -/
def Obligations.PowerFeedTakesOneEntryPerChannel : Prop :=
  (∀ (prods : List (List Int)) (s : State), (Instr.powerFeedDelivery prods).WellFormed = true → s.m.clk.refOk = true →
    ∃ t, exec (.powerFeedDelivery prods) s = .next t ∧
      (∀ n, n < s.m.nch → edgesKnown (s.m.ch n) →
        (t.m.ch n).thm.fresh = some (feedEntry s.m (s.m.ch n) (nth prods n [])) ∧
        (t.m.ch n).meas.pdiss =
          min 0xFFFF (inUnits (((feedEntry s.m (s.m.ch n) (nth prods n [])).1 : Rat) / 10)).toNat) ∧
      (∀ n, n < s.m.nch → (t.m.ch n).thm.fresh.map (·.2) = some (feedEntry s.m (s.m.ch n) (nth prods n [])).2 ∧
        t.m.ch n = { s.m.ch n with
          meas := { (s.m.ch n).meas with
            pdiss := (t.m.ch n).meas.pdiss, pfInv := !(feedEntry s.m (s.m.ch n) (nth prods n [])).2,
            winBad := (s.m.ch n).meas.stopped,
            heats := ((s.m.ch n).meas.heats.filter fun h => h.till.isNone).map fun h => { h with fed := true } },
          thm := { (s.m.ch n).thm with fresh := (t.m.ch n).thm.fresh } }) ∧
      (∀ n, s.m.nch ≤ n → t.m.ch n = s.m.ch n) ∧
      t = { s with m := { s.m with chans := t.m.chans, free := t.m.free } }) ∧
  (∀ (prods : List (List Int)) (s : State), (Instr.powerFeedDelivery prods).WellFormed = true → s.m.clk.refOk = false →
    exec (.powerFeedDelivery prods) s = .next s)

/-- Samples of the capture `c` of channel `n` that the envelope refuses (R179, R180): samples 1 to 255, each against its word
at the unit of the header. -/
def Claim.refused (c : Capture) (s : State) (page : Nat) : Nat :=
  ((c.data.drop 1).zipIdx 1).countP fun p =>
    !sigPass p.1 (s.sramWord (sramIndex page p.2)) (2 ^ fld (s.sramWord (sramIndex page 0)) 0 3)

/-- The result and reason of the compare of capture `c` of channel `n` (R180), in an SRAM without errors: NOT_COMPARED with
the compare off, without an envelope, or of another interval; FAIL with more failing samples than TOL; else PASS. -/
def Claim.verdict (n : Nat) (c : Capture) (s : State) : Nat × Nat :=
  if bit (s.m.lw n 0x43) 4 = false then (3, 2)
  else if fld (s.sramWord (sramIndex (fld (s.m.lw n 0x44) 8 6) 0)) 8 8 ≠ 0xE5 then (3, 3)
  else if fld (s.sramWord (sramIndex (fld (s.m.lw n 0x44) 8 6) 0)) 4 3 ≠ c.d then (3, 4)
  else if fld (s.m.lw n 0x43) 5 5 < refused c s (fld (s.m.lw n 0x44) 8 6) then (2, 0) else (1, 0)

/-- A complete capture (R24, R180, R181): it is counted and reported, and its verdict stands in CHn.SIG_STAT; a FAIL is
counted and reported as SIG_FAIL with code 0xC over code 0x0. No channel's state, gate or protection changes, nor the fault
record; the SRAM changes only where a learning operation runs. A capture that is not complete is not judged. -/
def Obligations.SignatureCapturesAreJudged : Prop :=
  (∀ (ch : Ch) (s : State), ch.val < s.m.nch → ∀ c, (s.m.ch ch).sig.cap = some c → 256 ≤ c.k →
    ∃ t, exec (.sigCaptureComplete ch) s = .next t ∧ (t.m.ch ch).sig.cap = none ∧
      (t.m.ch ch).sig.cnt = inc16 (s.m.ch ch).sig.cnt ∧ t.latched (chPage ch) 7 ∧
      (t.m.ch ch).sig.ipk = c.data.foldl max (c.data.headD 0) ∧
      (t.m.ch ch).sig.iend = inUnits (((c.data.drop 240).foldl (· + ·) 0 : Int) / (16 : Rat)) ∧
      (s.eccBad = [] → ((t.m.ch ch).sig.result, (t.m.ch ch).sig.reason) = verdict ch c s) ∧
      ((t.m.ch ch).sig.result = 2 → t.latched (chPage ch) 8 ∧ (t.m.ch ch).sig.fcnt = inc16 (s.m.ch ch).sig.fcnt ∧
        (t.m.ch ch).flt.code = if (s.m.ch ch).flt.code = 0 then 0xC else (s.m.ch ch).flt.code) ∧
      ((t.m.ch ch).sig.result ≠ 2 → (t.m.ch ch).sig.fcnt = (s.m.ch ch).sig.fcnt ∧
        (t.m.ch ch).flt = (s.m.ch ch).flt) ∧
      (∀ n, (t.m.ch n).st = (s.m.ch n).st ∧ (t.m.ch n).stage = (s.m.ch n).stage ∧ (t.m.ch n).prot = (s.m.ch n).prot) ∧
      t.m.frq = s.m.frq ∧ ((s.m.opRunning 5).isNone = true → t.sram = s.sram) ∧ sameConfig s t ∧ sameStore s t) ∧
  (∀ (ch : Ch) (s : State), (∀ c, (s.m.ch ch).sig.cap = some c → c.k < 256) → exec (.sigCaptureComplete ch) s = .next s)

/-- A calm machine without its channels and their outputs, and without the fault record. -/
def Claim.besideChannels (m : Mach) : Mach :=
  { m.beside everyChannel with chans := .replicate 24 .reset, outs := .replicate 32 .reset }

/-- An update of the protection estimates (R103, R112, R116, R117): each channel takes its estimate, its harness quantity
moves towards the mean square, and the energy of its episode grows; a conducting channel that no fault turns off yet turns off
at the harness level with code 0x3 in its history, and past 3 J of an episode with code 0x2 (held back in STARTUP, R133).
While LFOSC is lost no update comes. -/
def Obligations.ProtectionEstimatesUpdate : Prop :=
  (∀ (dt : Nat) (est msq vds : List Nat) (s : State), (Instr.protEstimateUpdate dt est msq vds).WellFormed = true →
    s.m.clk.lfOk = true →
    ∃ t, exec (.protEstimateUpdate dt est msq vds) s = .next t ∧
      (∀ n, n < s.m.nch → (t.m.ch n).prot.est = nth est n 0 ∧
        (t.m.ch n).prot.i2tX = (if fld (s.m.lw n 0x12) 0 9 = 0 then (s.m.ch n).prot.i2tX
          else (s.m.ch n).prot.i2tX + (((nth msq n 0 : Nat) : Rat) / 16 - (s.m.ch n).prot.i2tX) *
            ((dt : Rat) / 1000000000) / s.m.i2tTau n) ∧
        (t.m.ch n).prot.epEnergy = (if (s.m.ch n).prot.clReg = true then (s.m.ch n).prot.epEnergy +
          ((nth est n 0 : Nat) : Rat) / 4 * (((nth vds n 0 : Nat) : Rat) / 100) * ((dt : Rat) / 1000000000) * 1000
          else (s.m.ch n).prot.epEnergy) ∧
        (0x0CF6 ≤ t.m.i2tLevel n → (t.m.ch n).prot.i2tWarn = true) ∧
        (t.m.i2tLevel n < 0x0C00 → (t.m.ch n).prot.i2tWarn = false)) ∧
      (∀ n, n < s.m.nch → s.m.detects n = true → 0x1000 ≤ t.m.i2tLevel n → fld (s.m.lw n 0x12) 0 9 ≠ 0 →
        (t.m.ch n).stage.gateOn = false ∧ (s.m.recordsLate n = false → (t.m.ch n).flt.hist.getLsbD 3 = true)) ∧
      (∀ n, n < s.m.nch → s.m.detects n = true → (s.m.ch n).prot.clReg = true → 3000 < (t.m.ch n).prot.epEnergy →
        (t.m.ch n).stage.gateOn = false ∧ (s.m.recordsLate n = false → (t.m.ch n).flt.hist.getLsbD 2 = true)) ∧
      (∀ n, (t.m.ch n).thm = (s.m.ch n).thm) ∧
      besideChannels t.m = besideChannels s.m ∧ evtKept s.m t.m ∧ sramApartFromCaptures s t ∧ sameStore s t) ∧
  (∀ (dt : Nat) (est msq vds : List Nat) (s : State), (Instr.protEstimateUpdate dt est msq vds).WellFormed = true →
    s.m.clk.lfOk = false → ∃ t, exec (.protEstimateUpdate dt est msq vds) s = .next t ∧ settlesTo s t s.m)

/-- Inrush sequences (R140 to R142, R145, R146). -/
def Obligations.InrushSequences : Prop := inrushEnds ∧ chopping

/-- Retries (R154 to R157, R159, R160). -/
def Obligations.Retries : Prop := retryStarts ∧ retryCounts

/-! ## PWM, trips and tach -/

/-- A machine without its outputs, timebases and pairs, and without what switching and cutting channels changes: all that
a PWM event may touch. -/
def Claim.besideOutputs (m : Mach) : Mach :=
  { m.beside everyChannel with
    outs := .replicate 32 .reset, tbs := .replicate 8 .reset, pairs := .replicate 16 .reset,
    chans := vmap (m.beside everyChannel).chans fun _ c => { c with prot := { c.prot with cycCnt := 0 } } }

/-- A PWM event changes outputs, timebases, pairs and the switching of channels alone, beside `m`. -/
def Claim.pwmOnly (s t : State) (m : Mach) : Prop :=
  besideOutputs t.m = besideOutputs m ∧ evtKept s.m t.m ∧ sramApartFromCaptures s t ∧ sameStore s t

/-- Compares that wait load at a point that falls now (R192, R196): transferred with the commit that applies there, or sampled
before it, and not held by the update lock (R211). -/
def Claim.loadsNow (m : Mach) (o : Nat) : Prop :=
  (m.out o).held = false ∧ ((m.out o).pendNow = true ∨ m.sampled (m.out o).pendAt = true)

/-- The zero of a timebase (R188 to R192, R196): the first after a start begins the period count at 0 and loads all that
waits but what the update lock holds; a later one counts a period and loads the compares sampled before it, LDCNT taking the
count; the zero that ends the last period of a stopped timebase loads what waits and turns its units off. No other timebase
changes. -/
def Claim.timebaseZeros : Prop :=
  (∀ (k : Tb) (s : State), s.m.clk.refOk = true → (s.m.tb k).halt = none → (s.m.tb k).startReq = true →
    ∃ t, exec (.tbZero k) s = .next t ∧ (t.m.tb k).running = true ∧ (t.m.tb k).pcnt = 0 ∧ (t.m.tb k).zeroAt = s.m.now ∧
      (∀ o, o ∈ s.m.unitsOn k → (s.m.out o).held = false → ∀ p, (s.m.out o).pend = some p →
        (t.m.out o).rise = p.1 ∧ (t.m.out o).fall = p.2 ∧ (t.m.out o).pend = none ∧ (t.m.out o).ldcnt = 0) ∧
      (∀ j, j ≠ k.val → t.m.tb j = s.m.tb j) ∧ pwmOnly s t s.m) ∧
  (∀ (k : Tb) (s : State), s.m.clk.refOk = true → (s.m.tb k).halt = none → (s.m.tb k).startReq = false →
    (s.m.tb k).running = true → ((s.m.tb k).stopping = false ∨ (s.m.tb k).stopNext = true) →
    ∃ t, exec (.tbZero k) s = .next t ∧ (t.m.tb k).running = true ∧ (t.m.tb k).pcnt = (s.m.tb k).pcnt + 1 ∧
      (t.m.tb k).zeroAt = s.m.now ∧
      (∀ o, o ∈ s.m.unitsOn k → loadsNow s.m o →
        ∀ p, (s.m.out o).pend = some p → (t.m.out o).rise = p.1 ∧ (t.m.out o).fall = p.2 ∧ (t.m.out o).pend = none ∧
          (t.m.out o).ldcnt = ((s.m.tb k).pcnt + 1).setWidth 16) ∧
      (∀ j, j ≠ k.val → t.m.tb j = s.m.tb j) ∧ pwmOnly s t s.m) ∧
  (∀ (k : Tb) (s : State), s.m.clk.refOk = true → (s.m.tb k).halt = none → (s.m.tb k).startReq = false →
    (s.m.tb k).running = true → (s.m.tb k).stopping = true → (s.m.tb k).stopNext = false →
    ∃ t, exec (.tbZero k) s = .next t ∧ (t.m.tb k).running = false ∧
      (∀ o, o ∈ s.m.unitsOn k → (t.m.out o).pend = none ∧ ((t.m.tbSel o).1 = k.val → (t.m.out o).level = false)) ∧
      (∀ j, j ≠ k.val → t.m.tb j = s.m.tb j) ∧ pwmOnly s t s.m) ∧
  (∀ (k : Tb) (s : State), s.m.clk.refOk = true → (s.m.tb k).running = true → (s.m.tb k).halt = none →
    (s.m.tb k).stopping = true → (s.m.tb k).stopNext = false →
    ∃ t, exec (.tbStop k) s = .next t ∧ (t.m.tb k).running = false ∧
      (∀ o, o ∈ s.m.unitsOn k → (t.m.out o).pend = none ∧ ((t.m.tbSel o).1 = k.val → (t.m.out o).level = false)) ∧
      (∀ j, j ≠ k.val → t.m.tb j = s.m.tb j) ∧ pwmOnly s t s.m)

/-- The common restart after REFCLK has returned and the delay line is valid (R214): every timebase that stood and whose RUN is
1 starts a period at one zero, its period count going on by one, and is reported; one whose RUN was cleared meanwhile stops;
the others are unchanged. -/
def Claim.timebaseRestart : Prop :=
  ∀ s : State, s.m.clk.refOk = true → s.m.dl.valid = true →
    ∃ t, exec .tbRestart s = .next t ∧
      (∀ k, k < 8 → s.m.tbRun k = true → (s.m.tb k).halt.isSome = true →
        (t.m.tb k).running = true ∧ (t.m.tb k).halt = none ∧ (t.m.tb k).pcnt = (s.m.tb k).pcnt + 1 ∧
          (t.m.tb k).zeroAt = s.m.now ∧ (t.m.tb k).restarted = true ∧ t.latched 0x06 11) ∧
      (∀ k, k < 8 → s.m.tbRun k = false → (s.m.tb k).halt.isSome = true →
        (t.m.tb k).running = false ∧ (t.m.tb k).halt = none) ∧
      (∀ k, k < 8 → (s.m.tb k).halt = none → t.m.tb k = s.m.tb k) ∧ pwmOnly s t s.m

/-- Inside a period (R196, R197, R199, R208): the half-period point loads sampled compares of ZERO_MID units; the last count
delivers PERIOD where it is enabled in this period; a compare gives its unit the level of the present count, and a channel
that follows its unit the gate command. -/
def Obligations.CompareUnitsWithinAPeriod : Prop :=
  (∀ (k : Tb) (s : State), s.m.clk.refOk = true → (s.m.tb k).counting = true →
    ∃ t, exec (.tbHalfPeriod k) s = .next t ∧
      (∀ o, o ∈ s.m.unitsOn k → (s.m.tbSel o).2 = 1 → loadsNow s.m o →
        ∀ p, (s.m.out o).pend = some p → (t.m.out o).rise = p.1 ∧ (t.m.out o).fall = p.2 ∧ (t.m.out o).pend = none) ∧
      (∀ o, o ∈ s.m.unitsOn k → (s.m.tbSel o).2 ≠ 1 →
        (t.m.out o).rise = (s.m.out o).rise ∧ (t.m.out o).fall = (s.m.out o).fall ∧
          (t.m.out o).pend = (s.m.out o).pend) ∧
      t.m.tbs = s.m.tbs ∧ pwmOnly s t s.m) ∧
  (∀ (k : Tb) (s : State), s.m.clk.refOk = true → (s.m.tb k).counting = true →
    ∃ t, exec (.tbPeriodEvent k) s = .next t ∧
      (bit (s.m.cfg (tbBase k + 3)) 9 = true →
        (s.m.tb k).pcnt.toNat % (fld (s.m.cfg (tbBase k + 3)) 0 8 + 1) = 0 → t.latched 0x06 k) ∧
      settlesTo s t s.m) ∧
  (∀ (o : OutIx) (s : State), s.m.clk.refOk = true → (s.m.tb (s.m.tbSel o).1).counting = true → o.val ∈ s.m.units →
    ∃ t, exec (.compareEdge o) s = .next t ∧ (t.m.out o).level = s.m.unitLevel o ∧
      (∀ j, j ≠ o.val → (t.m.out j).level = (s.m.out j).level) ∧
      (o.val < 24 → s.m.followsPwm o = true → (s.m.out o).cut = false → s.m.inverts (o / 2) = false →
        (s.m.pair (o / 2)).eff = false → s.m.unitLevel o ≠ (s.m.out o).drive → s.m.pwr.vcpOk = true →
        ∀ j, j ∈ s.m.members o → (s.m.bank (j / 4)).analog = false → (t.m.ch j).stage.gateOn = s.m.unitLevel o) ∧
      t.m.tbs = s.m.tbs ∧ pwmOnly s t s.m)

/-- The delay line, the update lock, the automatic swap and the rebalance (R203, R205 to R207, R213, R229, R238): a measurement
validates the line, warns of a slew and gives every compare unit the element counts of its fine values; a hold that has
lasted its timeout ends at the zero that falls now; a clear of ASWP is noted until a zero; a rebalance places slots on
running timebases alone. -/
def Obligations.TimebaseServices : Prop :=
  (∀ (e : BitVec 16) (s : State), s.m.clk.refOk = true → s.m.dl.busy = false →
    (s.m.dl.valid = false ∨ bit (s.m.cfg 0x0608) 0 = false) →
    ∃ t, exec (.dlMeasure e) s = .next t ∧ (s.m.dl.valid = false → t.latched 0x06 10) ∧
      (t.m.dl.slew = true → t.latched 0x06 9) ∧
      (∀ o, t.m.out o = if o ∈ s.m.units then
          { s.m.out o with riseEl := t.m.elemOf (s.m.out o).rise.fine, fallEl := t.m.elemOf (s.m.out o).fall.fine }
        else s.m.out o) ∧
      (s.m.dl.map = false → ∀ f, t.m.elemOf f = divRound (f * e.toNat) 4096) ∧
      settlesTo s t { s.m with outs := t.m.outs, dl := { s.m.dl with
        valid := true, elem := e.toNat, lastAt := some s.m.now,
        slew := s.m.dl.lastAt.isSome && (decide (s.m.dl.elem + 32 < e.toNat) || decide (e.toNat + 32 < s.m.dl.elem)) } }) ∧
  (∀ (e : BitVec 16) (s : State), (s.m.clk.refOk = false ∨ s.m.dl.busy = true ∨
      s.m.dl.valid = true ∧ bit (s.m.cfg 0x0608) 0 = true) →
    ∃ t, exec (.dlMeasure e) s = .next t ∧ settlesTo s t s.m) ∧
  (∀ (k : Tb) (s : State), (s.m.tb k).ulk = true → (s.m.tb k).counting = true → (s.m.tb k).pendNow = false →
    (s.m.cfg (tbBase k + 5)).toNat ≠ 0 → (s.m.cfg (tbBase k + 5)).toNat ≤ (s.m.tb k).ulkZeros + 1 →
    ∃ t, exec (.ulockTimeout k) s = .next t ∧ t.latched 0x06 8 ∧
      settlesTo s t (s.m.modTb k fun b => { b with ulkEnd := true, pendNow := true })) ∧
  (∀ (p : Fin 16) (s : State), 2 * p.val ∈ s.m.allOuts → (s.m.pair p).aswp = true →
    ∃ t, exec (.aswpClear p) s = .next t ∧
      settlesTo s t (s.m.modPair p fun q =>
        { q with clrReq := true, aswpAt := if q.clrReq then q.aswpAt else s.m.now })) ∧
  (∀ s : State, s.m.clk.refOk = true → s.m.dev.frz = false →
    ∃ t, exec .ilvRebalance s = .next t ∧
      (∀ o, { t.m.out o with slotPend := none, slotAt := 0, slotNow := false } =
        { s.m.out o with slotPend := none, slotAt := 0, slotNow := false }) ∧
      (∀ o, (s.m.tb (s.m.tbSel o).1).counting = false → t.m.out o = s.m.out o) ∧
      (∀ o, t.m.out o ≠ s.m.out o → (t.m.out o).slotAt = s.m.now ∧ (t.m.out o).slotNow = false) ∧
      settlesTo s t { s.m with outs := t.m.outs })

/-- A source acts on an output that can be cut and is not blanked: the output is off for the rest of its period (R231, R233). -/
def Claim.isCut (o : Nat) (t : State) : Prop :=
  (o < 24 → ∀ k, k ∈ t.m.members o → (t.m.ch k).stage.gateOn = false) ∧ (24 ≤ o → (t.m.out o).cut = true)

/-- Trips and blanking (R231 to R234, R246): a TRIP input shows its level; one that becomes asserted is reported and cuts the
outputs mapped to it; a cycle limit cuts its channel's group; a source that still acts when the blanking window closes cuts
then. -/
def Obligations.CutSourcesHoldOutputsOff : Prop :=
  (∀ (j : Fin 4) (s : State), s.m.pwr.vddOk = true → s.m.clk.refOk = true →
    bit (s.m.cfg (adr 0x08 (0x08 + j))) 8 = true → s.m.trips[j].asserted = false →
    ∃ t, exec (.tripInputAssert j true true) s = .next t ∧ t.latched 0x08 j ∧
      (∀ o, o ∈ s.m.units → (s.m.out o).blank = false → s.m.cuttable o = true → t.m.tripOn o = true → isCut o t) ∧
      pwmOnly s t { s.m with trips := s.m.trips.set j ⟨true, true, true⟩ }) ∧
  (∀ (j : Fin 4) (filtered : Bool) (s : State), s.m.pwr.vddOk = true → s.m.clk.refOk = true →
    (bit (s.m.cfg (adr 0x08 (0x08 + j))) 8 = false ∨ s.m.trips[j].asserted = true ∨
      filtered = false ∧ s.m.trips[j].filt = false) →
    ∃ t, exec (.tripInputAssert j true filtered) s = .next t ∧
      settlesTo s t { s.m with trips := s.m.trips.set j ⟨true, filtered || s.m.trips[j].filt,
        (filtered || s.m.trips[j].filt) && bit (s.m.cfg (adr 0x08 (0x08 + j))) 8⟩ }) ∧
  (∀ (j : Fin 4) (filtered : Bool) (s : State), s.m.pwr.vddOk = true → s.m.clk.refOk = true →
    ∃ t, exec (.tripInputAssert j false filtered) s = .next t ∧
      settlesTo s t { s.m with trips := s.m.trips.set j ⟨false, false, false⟩ }) ∧
  (∀ (ch : Ch) (above : Bool) (s : State), ch.val < s.m.nch →
    ∃ t, exec (.cycleLimitAssert ch above) s = .next t ∧
      (t.m.ch ch).prot.clim = (above && fld (s.m.cfg (adr 0x08 (0x18 + ch.val / 2))) (8 * (ch.val % 2)) 8 != 0) ∧
      ((t.m.ch ch).prot.clim = true → (s.m.out (s.m.leader ch)).blank = false → s.m.cuttable ch = true →
        isCut (s.m.leader ch) t) ∧
      pwmOnly s t (s.m.modCh ch fun c => { c with prot := { c.prot with
        clim := above && fld (s.m.cfg (adr 0x08 (0x18 + ch.val / 2))) (8 * (ch.val % 2)) 8 != 0 } })) ∧
  (∀ (o : OutIx) (s : State), o.val ∈ s.m.allOuts →
    ∃ t, exec (.blankingEnd o) s = .next t ∧
      (s.m.tripOn o = false → s.m.climOn o = false → settlesTo s t (s.m.modOut o fun u => { u with blank := false })) ∧
      ((s.m.tripOn o = true ∨ s.m.climOn o = true) → s.m.cuttable o = true → isCut o t) ∧ pwmOnly s t s.m)

/-- Tach inputs (R226 to R229): a qualifying edge takes the period since the one before; a held arming condition arms; a speed
below MIN sets SLOW of an armed input; one that stays slow or without edges sets LOSS, with action SWAP an automatic swap of
its pair. -/
def Obligations.TachInputs : Prop :=
  (∀ (i : Fin 4) (rising : Bool) (s : State), s.m.dev.part.isX = true → s.m.clk.refOk = true → s.m.pwr.vddOk = true →
    bit (s.m.tachWord i 0) 0 = true →
    ∃ t, exec (.tachEdge i rising) s = .next t ∧ (t.m.tach i).level = rising ∧
      ((fld (s.m.tachWord i 0) 1 2 = 2 ∨ (fld (s.m.tachWord i 0) 1 2 = 1 ∧ rising = false) ∨
          (fld (s.m.tachWord i 0) 1 2 = 0 ∧ rising = true)) →
        (t.m.tach i).last = some s.m.now ∧ ∀ a, (s.m.tach i).last = some a →
          (t.m.tach i).hasPer = true ∧ (t.m.tach i).per = BitVec.ofNat 32 (min 0xFFFFFFFF (s.m.now - a))) ∧
      (∀ j, j ≠ i.val → (t.m.tach j).last = (s.m.tach j).last ∧ (t.m.tach j).per = (s.m.tach j).per ∧
        (t.m.tach j).level = (s.m.tach j).level) ∧ settlesTo s t s.m) ∧
  (∀ (i : Fin 4) (s : State), s.m.dev.part.isX = true → s.m.tachReady i = true →
    ∃ t, exec (.tachArmed i) s = .next t ∧ (t.m.tach i).armed = true ∧
      (t.m.tach i).slow = decide (s.m.rpm i < (s.m.tachWord i 2).toNat) ∧ settlesTo s t s.m) ∧
  (∀ (i : Fin 4) (s : State), s.m.tachReady i = true → (s.m.tach i).armed = true →
    ∃ t, exec (.tachSlow i) s = .next t ∧
      (t.m.tach i).slow = (decide (s.m.rpm i < (s.m.tachWord i 2).toNat) || (s.m.tach i).slow) ∧ settlesTo s t s.m) ∧
  (∀ (i : Fin 4) (s : State), s.m.dev.part.isX = true → s.m.tachReady i = true → (s.m.tach i).armed = true →
    (s.m.tach i).loss = false → (s.m.tachActs i = false ∨ (s.m.pair (s.m.tachPair i)).aswp = true) →
    ∃ t, exec (.tachLoss i) s = .next t ∧ (t.m.tach i).loss = true ∧ t.latched 0x09 i ∧ settlesTo s t s.m) ∧
  (∀ (i : Fin 4) (s : State), s.m.dev.part.isX = true → s.m.tachReady i = true → (s.m.tach i).armed = true →
    (s.m.tach i).loss = false → s.m.tachActs i = true → (s.m.pair (s.m.tachPair i)).aswp = false →
    ∃ t, exec (.tachLoss i) s = .next t ∧ (t.m.tach i).loss = true ∧ (t.m.tach i).swapped = true ∧ (t.m.tach i).swapOf = s.m.tachPair i ∧
      t.latched 0x09 i ∧ t.latched 0x09 (4 + i) ∧
      settlesTo s t (s.m.modPair (s.m.tachPair i) fun q => { q with aswp := true, clrReq := false, aswpAt := s.m.now }))

/-- The zeros and the restart of timebases. -/
def Obligations.TimebasesRun : Prop := timebaseZeros ∧ timebaseRestart

/-! ## The thermal model -/

/-- A machine without its thallus words, and without what holds and starts change in its channels. -/
def Claim.besideHolds (m : Mach) : Mach :=
  { (m.beside everyChannel).uncut everyChannel with
    thm := .reset, chans := vmap ((m.beside everyChannel).uncut everyChannel).chans fun _ c =>
      { c with thm := .reset, limp := .reset, rty := .reset } }

/-- A thermal event changes the thallus words to `thm` and holds or releases channels; nothing else. -/
def Claim.thermalOnly (s t : State) (thm : Thallus) : Prop :=
  t.m.thm = thm ∧ besideHolds t.m = besideHolds s.m ∧ evtKept s.m t.m ∧ sramApartFromCaptures s t ∧ sameStore s t

/-- The thallus words of `t` are those of `thm` but for the effective steps last seen. -/
def Claim.seen (t : State) (thm : Thallus) : Thallus :=
  { thm with banks := vmap thm.banks fun b k => { k with effSeen := t.m.thm.banks[b].effSeen } }

/-- The throttle holds follow (R261, R266, R267): a running channel on which a hold begins is in SHED with code 0x7, counted and
off; a channel in SHED whose hold has ended starts as from OFF where no other hold remains, and stays where one does. -/
def Claim.holdsFollow (s t : State) : Prop :=
  (∀ l, l ∈ s.m.leaders → (s.m.st l).running = true → (s.m.ch l).limp.thrSeen = false → t.m.throttleHold l = true →
    t.m.st l = .shed ∧ (t.m.ch l).flt.code = 7 ∧ (t.m.ch l).thm.thCnt = inc16 (s.m.ch l).thm.thCnt ∧
      ∀ k, k ∈ s.m.members l → (t.m.ch k).stage.gateOn = false) ∧
  (∀ l, l ∈ s.m.leaders → s.m.st l = .shed → (s.m.ch l).limp.thrSeen = true → t.m.throttleHold l = false →
    (t.m.held? l = false → t.m.startsTo l (t.m.st l)) ∧ (t.m.held? l = true → t.m.st l = .shed))

/-- The effective steps (R262, R265), a rise of which is reported, and the throttle holds follow. -/
def Claim.throttles (s t : State) : Prop :=
  (∀ b, b < s.m.dev.part.banks → (t.m.bank b).effSeen = t.m.effStep b ∧
    ((s.m.bank b).effSeen < t.m.effStep b → t.latched 0x0A 0)) ∧ holdsFollow s t

/-- The steps (R263 to R266): a bank falls one step when its release condition has held; the device step rises, with its
report, and falls with the package power; a channel's own limit lets it go; the throttle holds follow. -/
def Obligations.ThrottleStepsMove : Prop :=
  (∀ (b : Bank) (s : State), b.val < s.m.dev.part.banks → (s.m.bank b).ownStep ≠ 0 → s.m.releaseCond b = true →
    ∃ t, exec (.stepRelease b) s = .next t ∧ throttles s t ∧
      thermalOnly s t (seen t { s.m.thm with
        banks := vmap s.m.thm.banks fun i k => if i.val = b.val then { k with ownStep := k.ownStep - 1 } else k })) ∧
  (∀ s : State, s.m.thm.devStep < 3 → s.m.pMax < s.m.pMean →
    ∃ t, exec .deviceStepUp s = .next t ∧ t.latched 0x0A 7 ∧ throttles s t ∧
      thermalOnly s t (seen t { s.m.thm with devStep := s.m.thm.devStep + 1 })) ∧
  (∀ s : State, s.m.thm.devStep ≠ 0 → s.m.pMean ≤ 9 / 10 * s.m.pMax →
    ∃ t, exec .deviceStepDown s = .next t ∧ throttles s t ∧
      thermalOnly s t (seen t { s.m.thm with devStep := s.m.thm.devStep - 1 })) ∧
  (∀ (ch : Ch) (s : State), (s.m.ch ch).thm.ownHold = true →
    s.m.nodeTemp ch ≤ ((s.m.tjOff ch : Nat) : Rat) - (s.m.hyst : Nat) →
    ∃ t, exec (.ownLimitRelease ch) s = .next t ∧ (t.m.ch ch).thm.ownHold = false ∧ holdsFollow s t ∧
      thermalOnly s t s.m.thm)

/-- Sensors (R255 to R257, R265): a divergence, or the end of a divergence or of a failure, sets the sensor's words and its
event; a diverged diode's comparator is disabled, its bank is at the effective step 3, and every bank is while the baseplate
is diverged; the throttle holds follow, and nothing else changes. -/
def Claim.sensorEvents : Prop :=
  (∀ (x : SensorIx) (s : State), s.m.hasSensor x = true → (s.m.sensor x).got = true → (s.m.sensor x).diverge = false →
    15 < s.m.disagree x →
    ∃ t, exec (.modelDiverge x) s = .next t ∧ t.latched 0x0A 4 ∧ throttles s t ∧
      (∀ b, b < s.m.dev.part.banks → x.val = b ∨ x.val = 6 → t.m.effStep b = 3) ∧
      thermalOnly s t (seen t { s.m.thm with
        sensors := vmap s.m.thm.sensors fun i q => if i = x then { q with diverge := true } else q
        banks := vmap s.m.thm.banks fun i k => if i.val = x.val then { k with analog := false } else k })) ∧
  (∀ (x : SensorIx) (s : State), s.m.hasSensor x = true → (s.m.sensor x).diverge = true → s.m.disagree x ≤ 8 →
    ∃ t, exec (.divergeEnd x) s = .next t ∧ t.latched 0x0A 5 ∧ throttles s t ∧
      thermalOnly s t (seen t { s.m.thm with
        sensors := vmap s.m.thm.sensors fun i q => if i = x then { q with diverge := false } else q })) ∧
  (∀ (x : SensorIx) (s : State), s.m.hasSensor x = true → (s.m.sensor x).fail = true → (s.m.sensor x).inRange x = true →
    s.m.disagree x ≤ 8 →
    ∃ t, exec (.sensorOk x) s = .next t ∧ t.latched 0x0A 5 ∧ throttles s t ∧
      thermalOnly s t (seen t { s.m.thm with
        sensors := vmap s.m.thm.sensors fun i q => if i = x then { q with fail := false, reason := 0 } else q }))

/-- A resync has written the thallus words `thm`: where it ends the divergence of sensor `x` that is reported and the
throttle holds follow; nothing else changes. -/
def Claim.resyncs (s t : State) (x : Nat) (thm : Thallus) : Prop :=
  ((s.m.sensor x).diverge = true → t.latched 0x0A 5 ∧ throttles s t) ∧
  thermalOnly s t (seen t { thm with
    sensors := vmap thm.sensors fun i q => if i.val = x then { q with diverge := false } else q })

/-- THM.CMD and CHn.TH_CMD (R258, R280, R281): a resync sets the model to a working sensor's reading, clears the correction
and ends a divergence, and is ignored for a failed sensor, or one without a reading yet; CLR_LOG returns the log and every
Bb.T_MAX to their reset values; 0x7401 clears CHn.TJ_MAX and CHn.TH_CNT. -/
def Claim.thermalCommands : Prop :=
  (∀ (b : Bank) (s : State), b.val < s.m.dev.part.banks →
    ((s.m.sensor b).got = true → (s.m.sensor b).fail = false →
      ∃ t, exec (.resync b) s = .next t ∧
        resyncs s t b { s.m.thm with
          temps := Vector.ofFn fun i => if i.val = 24 + b.val ∨ (i.val < 24 ∧ i.val / 4 = b.val)
            then (s.m.sensor b).temp - s.m.thm.cP else s.m.thm.temps[i]
          banks := vmap s.m.thm.banks fun i k => if i.val = b.val then { k with corr := 0 } else k }) ∧
    ((s.m.sensor b).got = false ∨ (s.m.sensor b).fail = true →
      ∃ t, exec (.resync b) s = .next t ∧ settlesTo s t s.m)) ∧
  (∀ s : State,
    ((s.m.sensor 6).got = true → (s.m.sensor 6).fail = false →
      ∃ t, exec .resyncBp s = .next t ∧
        resyncs s t 6 { s.m.thm with temps := s.m.thm.temps.set 30 (s.m.sensor 6).temp, cP := 0 }) ∧
    ((s.m.sensor 6).got = false ∨ (s.m.sensor 6).fail = true →
      ∃ t, exec .resyncBp s = .next t ∧ settlesTo s t s.m)) ∧
  (∀ s : State, exec .clrLog s = .next { s with m := { s.m with thm := { s.m.thm with
    log := .reset, banks := vmap s.m.thm.banks fun i k => if i.val < s.m.dev.part.banks then { k with tMax := none } else k } } }) ∧
  (∀ (ch : Ch) (s : State), ch.val < s.m.nch →
    ∃ t, exec (.thClear ch) s = .next t ∧
      settlesTo s t (s.m.modCh ch fun c => { c with thm := { c.thm with tjMax := none, thCnt := 0 } }))

/-- A machine without what a thermal stop changes beside the thallus words and the channels: the state last reported, the
hold of a pending commit, and the journal copy it may cut short. -/
def Claim.besideStop (m : Mach) : Mach :=
  { besideHolds m with
    free := 0, cmt := { m.cmt with pend := none }, dev := { m.dev with seenState := 0, frLost := 0 },
    jnl := { m.jnl with supp := [], busy := none, stopTotal := 0 } }

/-- Beside its stop and its holds nothing changes. -/
def Claim.stopOnly (s t : State) : Prop :=
  besideStop t.m = besideStop s.m ∧ evtKept s.m t.m ∧ sramApartFromCaptures s t ∧ sameStore s t

/-- The stop acts on channel `l` (R271, R274): running, it is in SHED with code 0x8, its group off; in SHED already, it takes
code 0x8; in SAFE with safe state ON, it stays there with code 0x8, held off. -/
def Claim.stopActs (s t : State) (l : Nat) : Prop :=
  ((s.m.st l).running = true → t.m.st l = .shed ∧ (t.m.ch l).flt.code = 8 ∧
    ∀ k, k ∈ s.m.members l → (t.m.ch k).stage.gateOn = false) ∧
  (s.m.st l = .shed → t.m.st l = .shed ∧ (t.m.ch l).flt.code = 8) ∧
  (s.m.st l = .safe → s.m.safeOn l = true → t.m.stopHeld l = true → t.m.st l = .safe ∧ (t.m.ch l).flt.code = 8 ∧
    ∀ k, k ∈ s.m.members l → (t.m.ch k).stage.gateOn = false)

/-- The analog comparators (R269, R273, R274): a trip leaves every gate off, what conducted discharging, and the device in the
thermal-stop condition; a stop that begins so is counted, reported and acts on every channel, an orderly stop becomes this
one and starts no further class; a comparator disabled with its diode does not trip. The release ends the hold of its
bank. -/
def Claim.analogTrip : Prop :=
  (∀ (b : Bank) (s : State), b.val < s.m.dev.part.banks → (s.m.bank b).analog = false → s.m.dev.phase ≠ .powerOff →
    ((s.m.sensor b).bad = false →
      ∃ t, exec (.analogThermalTrip b) s = .next t ∧ t.m.thm.stop = true ∧ (t.m.bank b).analog = true ∧
        (∀ n, n < s.m.nch → (t.m.ch n).stage.gateOn = false ∧
          ((s.m.ch n).stage.gateOn = true → (t.m.ch n).stage.edge = some ⟨false, 15, false, true, s.m.now⟩)) ∧
        (s.m.thm.stop = false → t.m.thm.cause = 3 ∧ t.m.thm.stopCnt = inc16 s.m.thm.stopCnt ∧ t.latched 0x0A 1 ∧
          t.latched 0x0A 8 ∧ t.m.thm.trigAt = s.m.now ∧ ∀ l, l ∈ s.m.leaders → stopActs s t l) ∧
        (s.m.thm.stop = true → s.m.thm.cause = 1 → t.m.thm.cause = 3 ∧ t.m.thm.orderly = false ∧ t.latched 0x0A 8 ∧
          ∀ l, l ∈ s.m.leaders → stopActs s t l) ∧
        (∀ p, t.m.cmt.pend = some p → p.held = true ∨ s.m.cmt.pend = some p) ∧ stopOnly s t) ∧
    ((s.m.sensor b).bad = true → ∃ t, exec (.analogThermalTrip b) s = .next t ∧ settlesTo s t s.m)) ∧
  (∀ (b : Bank) (s : State),
    ∃ t, exec (.analogThermalRelease b) s = .next t ∧
      settlesTo s t (s.m.modBank b fun k => { k with analog := false }))

/-- An orderly stop (R271): the class that is due starts now, and so does each later one up to which nothing conducts; its start
is recorded and the stop acts on its channels; with class 0 the course is over. -/
def Claim.orderlyStop : Prop :=
  ∀ s : State, s.m.thm.orderly = true →
    ∃ t, exec .orderlyClassStart s = .next t ∧
      (s.m.thm.nextCls ≤ 3 → ∀ c, c ≤ s.m.thm.nextCls →
        (∀ d, d ≤ s.m.thm.nextCls → c < d → s.m.classConducts d = false) →
        (3 - c < s.m.thm.log.cls.length →
          nth t.m.thm.log.cls (3 - c) 0 = min 0xFFFE ((s.m.now - s.m.thm.trigAt) / 48)) ∧
        (∀ l, l ∈ s.m.leaders → s.m.cls l = c → stopActs s t l) ∧ (c = 0 → t.m.thm.orderly = false)) ∧
      stopOnly s t

/-- The end of a thermal stop (R275, R276): the condition and its holds end, every bank is at step 3, the exit is reported with
the stop's duration, and a channel in SHED that no hold keeps starts as from OFF. -/
def Claim.stopExit : Prop :=
  ∀ s : State, (s.m.thm.stop = true ∨ s.m.thm.holds = true) → s.m.exitCond = true →
    ∃ t, exec .thermalStopExit s = .next t ∧ t.m.thm.stop = false ∧ t.m.thm.holds = false ∧ t.m.thm.orderly = false ∧
      (∀ b, b < s.m.dev.part.banks → (t.m.bank b).ownStep = 3) ∧ t.latched 0x0A 2 ∧ t.m.devState ≠ 4 ∧
      t.m.thm.log.exit = min 0xFFFF ((s.m.now - s.m.thm.trigAt) / 480000) ∧
      (∀ l, l ∈ s.m.leaders → s.m.st l = .shed → t.m.held? l = false → t.m.startsTo l (t.m.st l)) ∧
      (∀ l, l ∈ s.m.leaders → s.m.st l = .shed → t.m.held? l = true → t.m.st l = .shed) ∧ stopOnly s t

/-- An update of the thallus model (R251, R260, R262, R266, R268, R270, R280): each channel's dissipation is its fresh entry of
the power feed, the last one for up to 4 updates, then 1.0 W; the nodes advance by the network; every bank stands at least at
the step its condition asks for; a channel at its own limit is held; a module at 170 °C is stopped with every gate off, and
one whose time to it is below W is stopped or under stop holds. -/
def Obligations.ThallusUpdatesActOnTheModel : Prop :=
  ∀ (dt : Nat) (diode : List (Option Int)) (ntc : Option Int) (s : State),
    (Instr.thallusUpdate dt diode ntc).WellFormed = true → s.m.dev.phase = .running → s.m.thm.init = true →
    (s.m.clk.refOk = true ∨ s.m.clk.lfOk = true) →
    ∃ t, exec (.thallusUpdate dt diode ntc) s = .next t ∧
      (∀ n, n < s.m.nch → (t.m.ch n).thm.used =
        match (s.m.ch n).thm.fresh with
        | some (mw, true) => mw
        | _ => if (s.m.ch n).thm.age < 4 then (s.m.ch n).thm.pLast else 1000) ∧
      t.m.thm.temps = s.m.netStep ((dt : Rat) / 1000000000) (fun n => ((t.m.ch n).thm.used : Rat) / 1000) s.m.thm.temps ∧
      (∀ b, b < s.m.dev.part.banks → t.m.stepWanted b ≤ (t.m.bank b).ownStep) ∧
      (∀ b, b < s.m.dev.part.banks → (s.m.bank b).ownStep ≤ (t.m.bank b).ownStep) ∧
      (∀ n, n < s.m.nch → (t.m.tjOff n : Rat) ≤ t.m.nodeTemp n → t.m.cls n ≠ 0 → (t.m.ch n).thm.ownHold = true) ∧
      (∀ n, n < s.m.nch → ∃ j, (t.m.ch n).thm.tjMax = some j ∧ temp16 (t.m.nodeTemp n) ≤ j) ∧
      (t.m.reached170 = true → t.m.thm.stop = true ∧ ∀ n, n < s.m.nch → (t.m.ch n).stage.gateOn = false) ∧
      (t.m.thm.tts < t.m.stopWin → t.m.thm.stop = true ∨ t.m.thm.holds = true) ∧
      t.m.thm.sums.length = min 8000 (s.m.thm.sums.length + 1) ∧ stopOnly s t

/-- Sensors and the commands of THM.CMD and CHn.TH_CMD. -/
def Obligations.SensorsAndThermalCommands : Prop := sensorEvents ∧ thermalCommands

/-- The thermal stop begins, turns classes off, and ends. -/
def Obligations.ThermalStop : Prop := analogTrip ∧ orderlyStop ∧ stopExit

/-! ## Limp-home, watchdog and freeze -/

/-- Channel `l` is in the state of its limp code (R289, R293); one that follows its generator meets a source that is active
already and an escalation count that acts, which may turn it off at once (R124, R233). -/
def Claim.inLimpState (m : Mach) (l : Nat) : Prop :=
  m.st l = (if m.limpCode l = 0 then .off else if m.limpCode l = 1 then .on else if m.limpCode l = 2 then .pwm else .hold) ∨
  (2 ≤ m.limpCode l ∧ (m.tripOn l = true ∨ m.climOn l = true) ∧ fld (m.lw l 0x15) 0 8 ≠ 0 ∧
    (m.st l = .retryWait ∨ m.st l = .latched))

/-- The limp-home triggers `codes` of one round take effect (R285, R286, R276, R293): the lowest code is the cause, each is kept
in the history, the entry is counted once, TAKE_CONTROL is disarmed, a freeze and a thermal stop end, the stop leaving its
holds. From governed mode the pending commit is dropped, unless it is the one `granted` after the entry in the same round,
the watchdog stops and the entry is reported; then the limp map governs: a channel under no hold that was steady is in the
state of its limp code, and one that was in OFF, RETRY_WAIT or LATCHED starts by it as from OFF. -/
def Claim.entersLimp (codes : List Nat) (granted : Bool) (s t : State) : Prop :=
  t.m.limp.cause = codes.headD 0 ∧
  (∀ i, i < 16 → t.m.limp.causeHist.getLsbD i = (s.m.limp.causeHist.getLsbD i || codes.contains i)) ∧
  t.m.limp.entryCnt = inc16 s.m.limp.entryCnt ∧ t.m.cmt.takeArmed = false ∧ t.m.dev.governed = false ∧
  t.m.dev.frz = false ∧ t.m.thm.stop = false ∧ (s.m.thm.stop = true → t.m.thm.holds = true) ∧
  (s.m.dev.governed = true → t.m.cmt.pend = (if granted = true then s.m.cmt.pend else none) ∧ t.m.limp.wdgRun = false ∧
    t.m.limp.entryTime = s.m.time ∧ t.latched 0x0B 0 ∧
    ∀ l, l ∈ s.m.leaders → s.m.stopHeld l = false → (s.m.ch l).limp.thrSeen = false → t.m.throttleHold l = false →
      ((s.m.st l).steady = true → inLimpState t.m l) ∧
      (s.m.st l = .off ∨ s.m.st l = .retryWait ∨ s.m.st l = .latched → t.m.startsTo l (t.m.st l))) ∧
  sameConfig s t ∧ sameStore s t

/-- The limp-home triggers a mask names that act (R285, R287, R296): an LH input that is enabled and not asserted yet, and the
watchdog while it counts on LFOSC. -/
def Claim.acting (mask : BitVec 8) (s : State) : List Nat :=
  (if mask.getLsbD 4 = true ∧ s.m.lhEnabled 0 = true ∧ s.m.limp.lhAssert[0] = false then [4] else []) ++
  (if mask.getLsbD 5 = true ∧ s.m.lhEnabled 1 = true ∧ s.m.limp.lhAssert[1] = false then [5] else []) ++
  (if mask.getLsbD 6 = true ∧ s.m.limp.wdgRun = true ∧ s.m.clk.lfOk = true then [6] else [])

/-- The LH inputs (R285, R287, R298): an enabled input that has stayed high for its debounce time is asserted and, with the other
triggers of its round, brings limp-home; before that, or where it is disabled or asserted already, it shows its level; a low
level ends the assertion. -/
def Claim.lhInputs : Prop :=
  (∀ (i : Fin 2) (also : BitVec 8) (granted : Bool) (s : State), s.m.pwr.vddOk = true → s.m.dev.phase = .running →
    (acting (also ||| BitVec.ofNat 8 (2 ^ (4 + i.val))) s ≠ [] →
      ∃ t, exec (.lhAssert i true also granted) s = .next t ∧ t.m.limp.lh[i] = true ∧
        t.m.limp.lhAssert[i] = s.m.lhEnabled i ∧
        entersLimp (acting (also ||| BitVec.ofNat 8 (2 ^ (4 + i.val))) s) granted s t) ∧
    (s.m.lhEnabled i = false ∨ s.m.limp.lhAssert[i] = true →
      ∃ t, exec (.lhAssert i true 0 granted) s = .next t ∧
        settlesTo s t { s.m with limp := { s.m.limp with lh := s.m.limp.lh.set i true,
                                                         lhAssert := s.m.limp.lhAssert.set i (s.m.lhEnabled i) } })) ∧
  (∀ (i : Fin 2) (also : BitVec 8) (granted : Bool) (s : State), s.m.pwr.vddOk = true → s.m.dev.phase ≠ .powerOff →
    (∃ t, exec (.lhAssert i false also granted) s = .next t ∧
      settlesTo s t { s.m with limp := { s.m.limp with lh := s.m.limp.lh.set i true } }) ∧
    (∃ t, exec (.lhRelease i) s = .next t ∧
      settlesTo s t { s.m with limp := { s.m.limp with lh := s.m.limp.lh.set i false,
                                                       lhAssert := s.m.limp.lhAssert.set i false } }))

/-- The host watchdog (R34, R296 to R298, R354): without a valid kick in time it expires, brings limp-home with cause 6 and grants
the port master where the page asks for it, unless LFOSC is lost; a valid kick restarts it with the other key; a kick with
the wrong key or too early is counted and reported, and expires the watchdog where FAST is set; while the watchdog does not
run a kick does nothing. -/
def Claim.watchdog : Prop :=
  (∀ (granted : Bool) (s : State), s.m.limp.wdgRun = true → s.m.dev.phase = .running →
    (s.m.clk.lfOk = true →
      ∃ t, exec (.watchdogExpiry granted) s = .next t ∧ t.m.limp.wdgRun = false ∧
        (bit (s.m.cfg 0x1109) 12 = true → s.m.dev.part.isX = true → t.m.mst.wdgGrant = true ∧ t.latched 0x11 3) ∧
        entersLimp [6] granted s t) ∧
    (s.m.clk.lfOk = false → ∃ t, exec (.watchdogExpiry granted) s = .next t ∧ settlesTo s t s.m)) ∧
  (∀ (key : Word) (s : State), s.m.limp.wdgRun = true →
    (s.m.kickValid key = true →
      ∃ t, exec (.watchdogKick key) s = .next t ∧
        settlesTo s t { s.m with limp := { s.m.limp with wdgNext := !s.m.limp.wdgNext, wdgAt := s.m.lf } }) ∧
    (s.m.kickValid key = false → bit (s.m.cfg 0x0B08) 1 = false →
      ∃ t, exec (.watchdogKick key) s = .next t ∧ t.latched 0x0B 2 ∧
        settlesTo s t { s.m with limp := { s.m.limp with wdgBad := inc16 s.m.limp.wdgBad } }) ∧
    (s.m.kickValid key = false → bit (s.m.cfg 0x0B08) 1 = true → s.m.dev.phase = .running →
      ∃ t, exec (.watchdogKick key) s = .next t ∧ t.latched 0x0B 2 ∧ t.m.limp.wdgBad = inc16 s.m.limp.wdgBad ∧
        entersLimp [6] false s t)) ∧
  (∀ (key : Word) (s : State), s.m.limp.wdgRun = false →
    ∃ t, exec (.watchdogKick key) s = .next t ∧ settlesTo s t s.m)

/-- The limp generators (R289, R290, R292) and CLR_HIST (R298): at cycle 0 a limp period opens, with its output on unless a
source cuts it; at the cycle of its on-time, where that is not the whole period, the output turns off; other cycles, and
those of a channel its limp map does not govern, do nothing. -/
def Obligations.LimpPeriodsSwitch : Prop :=
  (∀ (ch : Ch) (s : State), ch.val < s.m.nch → s.m.leader ch = ch → s.m.limpGoverns ch = true →
    (s.m.st ch).follows = true → s.m.clk.lfOk = true →
    (∃ t, exec (.limpPeriod ch 0) s = .next t ∧
      (s.m.tripOn ch = false → s.m.climOn ch = false →
        (t.m.ch ch).limp.run = true ∧ (t.m.ch ch).limp.lvl = true ∧ (t.m.ch ch).limp.cut = false ∧
        t.m.st ch = s.m.st ch ∧
        ∀ k, k ∈ s.m.members ch → s.m.pwr.vcpOk = true → (s.m.bank (k / 4)).analog = false →
          (t.m.ch k).stage.gateOn = true) ∧
      restarts (s.m.members ch) s t s.m) ∧
    (s.m.limpOnTime ch ≠ 0 → s.m.limpOnTime ch ≠ s.m.limpPeriod ch →
      ∃ t, exec (.limpPeriod ch (s.m.limpOnTime ch)) s = .next t ∧ (t.m.ch ch).limp.lvl = false ∧ t.m.st ch = s.m.st ch ∧
        (∀ k, k ∈ s.m.members ch → (t.m.ch k).stage.gateOn = false) ∧ switches (s.m.members ch) s t s.m) ∧
    (∀ cycle, cycle ≠ 0 → (cycle ≠ s.m.limpOnTime ch ∨ cycle = s.m.limpPeriod ch) →
      ∃ t, exec (.limpPeriod ch cycle) s = .next t ∧ settlesTo s t s.m)) ∧
  (∀ (ch : Ch) (cycle : Nat) (s : State),
    (s.m.limpGoverns ch = false ∨ (s.m.st ch).follows = false ∨ s.m.clk.lfOk = false) →
    ∃ t, exec (.limpPeriod ch cycle) s = .next t ∧ settlesTo s t s.m) ∧
  (∀ s : State, exec .limpClrHist s = .next { s with m := { s.m with limp := { s.m.limp with causeHist := 0, wdgBad := 0 } } })

/-- The gates of the channels present, as a set. -/
def Claim.gatesOn (m : Mach) (g : BitVec 24) : Prop :=
  ∀ n, n < 24 → (g.getLsbD n = true ↔ n < m.nch ∧ (m.ch n).stage.gateOn = true)

/-- Debug freeze (R456, R458, R431): it copies the gates and the states of the channels, stops the watchdog and holds the pending
commit; it ends by command or after its timeout, unless FRZ_TMO is 0, and the watchdog restarts; where no freeze is on, its end
does nothing, and in a freeze another one does nothing; a key-locked DBG page discards both writes and counts the refusal. -/
def Obligations.FreezeAndRelease : Prop :=
  (∀ s : State, s.m.keyLocked 0x12 = false → s.m.dev.phase = .running → s.m.dev.frz = false →
    ∃ t, exec .freeze s = .next t ∧ t.m.devState = (if s.m.thm.stop then 4 else 5) ∧ t.latched 0x12 0 ∧
      gatesOn s.m t.m.dbg.gates ∧
      (∀ n, n < s.m.nch → nth t.m.dbg.chst n 0 = (s.m.st n).code) ∧ t.m.dbg.frzT = s.m.time ∧ t.m.dbg.frzCnt = inc16 s.m.dbg.frzCnt ∧
      settlesTo s t { s.m with
        dev := { s.m.dev with frz := true, seenState := t.m.devState }, dbg := t.m.dbg,
        limp := { s.m.limp with wdgRun := false },
        cmt := { s.m.cmt with pend := s.m.cmt.pend.map fun p => { p with held := true } } }) ∧
  (∀ s : State, s.m.keyLocked 0x12 = false → s.m.dev.frz = true →
    ∃ t, exec .release s = .next t ∧ t.latched 0x12 1 ∧
      settlesTo s t { s.m with
        dev := { s.m.dev with frz := false, seenState := t.m.devState }, dbg := { s.m.dbg with endCause := 1 },
        limp := { s.m.limp with wdgRun := s.m.dev.governed && s.m.wdgEn, wdgNext := false, wdgAt := s.m.lf } }) ∧
  (∀ s : State, fld (s.m.cfg 0x1209) 0 8 ≠ 0 → s.m.dev.frz = true →
    ∃ t, exec .freezeTimeout s = .next t ∧ t.latched 0x12 1 ∧
      settlesTo s t { s.m with
        dev := { s.m.dev with frz := false, seenState := t.m.devState }, dbg := { s.m.dbg with endCause := 2 },
        limp := { s.m.limp with wdgRun := s.m.dev.governed && s.m.wdgEn, wdgNext := false, wdgAt := s.m.lf } }) ∧
  (∀ s : State, (s.m.dev.frz = false ∨ fld (s.m.cfg 0x1209) 0 8 = 0) →
    ∃ t, exec .freezeTimeout s = .next t ∧ settlesTo s t s.m) ∧
  (∀ s : State, s.m.keyLocked 0x12 = false →
    (s.m.dev.frz = true → ∃ t, exec .freeze s = .next t ∧ settlesTo s t s.m) ∧
    (s.m.dev.frz = false → ∃ t, exec .release s = .next t ∧ settlesTo s t s.m)) ∧
  (∀ s : State, s.m.keyLocked 0x12 = true →
    (∃ t, exec .freeze s = .next t ∧ t.latched 0x12 15 ∧
      settlesTo s t { s.m with sec := { s.m.sec with denyCnt := inc16 s.m.sec.denyCnt } }) ∧
    (∃ t, exec .release s = .next t ∧ t.latched 0x12 15 ∧
      settlesTo s t { s.m with sec := { s.m.sec with denyCnt := inc16 s.m.sec.denyCnt } }))

/-- The triggers of limp-home from the LH inputs and the watchdog. -/
def Obligations.LimpHomeTriggers : Prop := lhInputs ∧ watchdog

/-! ## The commit engine -/

/-- The machine in which the checks of a request run (R60): CMT.SEQ has advanced, from 0xFFFF to 0x0001. -/
def Claim.seqAdvanced (m : Mach) : Mach :=
  { m with cmt := { m.cmt with seq := if m.cmt.seq = 0xFFFF then 1 else m.cmt.seq + 1, pulseRate := 0, curSum := 0 } }

/-- Every page the mask names can be committed (R59, R65 reason 1). -/
def Claim.pagesGood (m : Mach) : Prop :=
  maskPages m.maskReg ≠ [] ∧
    ∀ p, p ∈ maskPages m.maskReg → maskPage p = true ∧ headerPage m.dev.part p = true

/-- The checks of R65 that come after the pages: none pending, the state and REFCLK allow it, TAKE_CONTROL is not blocked,
and the apply point can be reached. -/
def Claim.requestAllowed (m : Mach) : Prop :=
  m.cmt.pend = none ∧ m.devState ≠ 4 ∧ m.devState ≠ 5 ∧ m.clk.refOk = true ∧
    (m.cmt.takeArmed = true → m.takeBlock = false) ∧
    (atReload (m.cfg 0x050C) = true → (m.tb (refTbOf (m.cfg 0x050C))).counting = true ∧
      ∀ o, o ∈ m.allOuts → (maskPages m.maskReg).contains (if o < 24 then chPage o else 0x07) = true →
        m.outEnabled o = true → (m.tbSel o).1 = refTbOf (m.cfg 0x050C)) ∧
    (applyOf (m.cfg 0x050C) = 3 → (m.tickReg - m.time).toNat ≠ 0 ∧ (m.tickReg - m.time).toNat ≤ 2147483648)

/-- The request is refused (R67): LR holds its number, tag, the reason and the page; REFUSED is reported; nothing is
captured, staged words stay, and no configuration changes. -/
def Claim.requestRefused (tag : Word) (reason page : Nat) (s t : State) : Prop :=
  t.m.cmt.lrReason = wd (page * 256 + reason) ∧ t.m.cmt.lrSeq = (seqAdvanced s.m).cmt.seq ∧ t.m.cmt.lrTag = tag ∧
    t.m.cmt.seq = (seqAdvanced s.m).cmt.seq ∧ t.latched 0x05 1 ∧ t.m.cmt.pend = s.m.cmt.pend ∧ sameConfig s t ∧
    (∀ n, (t.m.ch n).stage = (s.m.ch n).stage ∧ t.m.st n = s.m.st n) ∧ sameStore s t

/-- The checks of R65 up to TAKE_CONTROL have passed (reasons 1 to 4). -/
def Claim.stateAllows (m : Mach) : Prop :=
  pagesGood m ∧ m.cmt.pend = none ∧ m.devState ≠ 4 ∧ m.devState ≠ 5 ∧ m.clk.refOk = true ∧
    (m.cmt.takeArmed = true → m.takeBlock = false)

/-- The check of the configuration a request would give (R66, reasons 9 to 0xC). -/
def Claim.resultRefusal (m : Mach) : Option Refused :=
  (seqAdvanced m).checkResult ((seqAdvanced m).overlay (m.stagedOf (maskPages m.maskReg)))
    (m.stagedOf (maskPages m.maskReg)) (maskPages m.maskReg)

/-- A commit request (R60, R61, R65 to R68): one that passes the checks of its pages, of the state and of the resulting
configuration captures the staged words of the named pages and waits; else it is refused with the reason of the first check
that fails, and the channels that fail the check of the configuration have code 0xF where they had none. -/
def Obligations.CommitRequestsAreChecked : Prop :=
  ∀ (tag : Word) (s : State), s.m.dev.phase = .running →
    (pagesGood s.m → requestAllowed s.m →
      resultRefusal s.m = none →
      ∃ t, exec (.commitRequest tag) s = .next t ∧
        t.m.cmt.pend.isSome = true ∧
        (∀ p, t.m.cmt.pend = some p → p.mask = s.m.maskReg ∧ p.ctl = s.m.cfg 0x050C ∧ p.tick = s.m.tickReg ∧
          p.tag = tag ∧ p.seq = (seqAdvanced s.m).cmt.seq ∧ p.capAt = s.m.now ∧ p.held = false ∧
          (∀ a, p.words.get? a =
            if (maskPages s.m.maskReg).contains (pageOf a) = true then s.m.staged.get? a else none)) ∧
        (∀ a, t.m.staged.get? a =
          if (maskPages s.m.maskReg).contains (pageOf a) = true then none else s.m.staged.get? a) ∧
        t.m.cmt.seq = (seqAdvanced s.m).cmt.seq ∧ (∀ a, t.m.cfg a = s.m.cfg a) ∧
        settlesTo s t { s.m with staged := t.m.staged, cmt := t.m.cmt }) ∧
    (maskPages s.m.maskReg = [] →
      ∃ t, exec (.commitRequest tag) s = .next t ∧ requestRefused tag 1 0 s t) ∧
    (∀ p, ((maskPages s.m.maskReg).find? fun p => !(maskPage p && headerPage s.m.dev.part p)) = some p →
      ∃ t, exec (.commitRequest tag) s = .next t ∧ requestRefused tag 1 p s t) ∧
    (pagesGood s.m → s.m.cmt.pend.isSome = true →
      ∃ t, exec (.commitRequest tag) s = .next t ∧ requestRefused tag 2 0 s t) ∧
    (pagesGood s.m → s.m.cmt.pend = none → (s.m.devState = 4 ∨ s.m.devState = 5 ∨ s.m.clk.refOk = false) →
      ∃ t, exec (.commitRequest tag) s = .next t ∧ requestRefused tag 3 0 s t) ∧
    (pagesGood s.m → s.m.cmt.pend = none → s.m.devState ≠ 4 → s.m.devState ≠ 5 → s.m.clk.refOk = true →
      s.m.cmt.takeArmed = true → s.m.takeBlock = true →
      ∃ t, exec (.commitRequest tag) s = .next t ∧ requestRefused tag 4 0 s t) ∧
    (stateAllows s.m → atReload (s.m.cfg 0x050C) = true → (s.m.tb (refTbOf (s.m.cfg 0x050C))).counting = false →
      ∃ t, exec (.commitRequest tag) s = .next t ∧ requestRefused tag 5 0 s t) ∧
    (stateAllows s.m → atReload (s.m.cfg 0x050C) = true → (s.m.tb (refTbOf (s.m.cfg 0x050C))).counting = true →
      s.m.mismatched (maskPages s.m.maskReg) (refTbOf (s.m.cfg 0x050C)) ≠ [] →
      ∃ t, exec (.commitRequest tag) s = .next t ∧
        requestRefused tag 6 ((((s.m.mismatched (maskPages s.m.maskReg) (refTbOf (s.m.cfg 0x050C))).filter
          (· < 24)).head?.map chPage).getD 0) s t) ∧
    (stateAllows s.m → applyOf (s.m.cfg 0x050C) = 3 →
      ((s.m.tickReg - s.m.time).toNat = 0 ∨ 2 ^ 47 ≤ (s.m.tickReg - s.m.time).toNat) →
      ∃ t, exec (.commitRequest tag) s = .next t ∧ requestRefused tag 7 0 s t) ∧
    (stateAllows s.m → applyOf (s.m.cfg 0x050C) = 3 → 2 ^ 31 < (s.m.tickReg - s.m.time).toNat →
      (s.m.tickReg - s.m.time).toNat < 2 ^ 47 →
      ∃ t, exec (.commitRequest tag) s = .next t ∧ requestRefused tag 8 0 s t) ∧
    (pagesGood s.m → requestAllowed s.m → ∀ x, resultRefusal s.m = some x →
      ∃ t, exec (.commitRequest tag) s = .next t ∧ requestRefused tag x.reason x.page s t ∧
        ∀ n, n < s.m.nch → (t.m.ch n).flt.code =
          if x.chs.contains n = true ∧ (s.m.ch n).flt.code = 0 then 0xF else (s.m.ch n).flt.code)

/-- The apply (R62, R63, R295): every captured word becomes active in one step, staged words and time stay; LA holds the
request's number and tag and APPLIED is reported; with TAKE_CONTROL armed the device becomes governed, and only then. A
commit that the state holds is refused with HELD (R67); one whose point has not come waits. -/
def Obligations.CommitsApplyWhole : Prop :=
  (∀ s : State, ∀ p, s.m.cmt.pend = some p → p.held = false → s.m.applyDue p = true →
    ∃ t, exec .commitApply s = .next t ∧ t.m.cmt.pend = none ∧
      (∀ a, t.m.cfg a = ((p.words.reverse.find? fun x => x.1 == a).map (·.2)).getD (s.m.cfg a)) ∧
      t.m.cmt.laSeq = p.seq ∧ t.m.cmt.laTag = p.tag ∧
      t.m.cmt.laTick = (if applyOf p.ctl = 3 then p.tick else s.m.time) ∧ t.latched 0x05 0 ∧
      t.m.dev.governed = (s.m.dev.governed || s.m.cmt.takeArmed) ∧ t.m.staged = s.m.staged ∧ t.m.time = s.m.time ∧
      t.m.now = s.m.now ∧ t.m.dev.phase = s.m.dev.phase ∧
      (∀ n, n < s.m.nch → (maskPages p.mask).contains (chPage n) = true →
        (s.m.ch n).flt.code = 0xF → (t.m.ch n).flt.code ≠ 0xF) ∧
      (∀ n, (t.m.ch n).meas.energy = (s.m.ch n).meas.energy ∧ (t.m.ch n).prot.i2tX = (s.m.ch n).prot.i2tX) ∧
      evtKept s.m t.m ∧ sramApartFromCaptures s t ∧ sameStore s t) ∧
  (∀ s : State, ∀ p, s.m.cmt.pend = some p → p.held = true →
    ∃ t, exec .commitApply s = .next t ∧ t.m.cmt.pend = none ∧ t.m.cmt.lrReason = 3 ∧ t.m.cmt.lrSeq = p.seq ∧
      t.m.cmt.lrTag = p.tag ∧ t.latched 0x05 1 ∧ sameConfig s t ∧ t.m.dev.governed = s.m.dev.governed ∧
      (∀ n, (t.m.ch n).stage = (s.m.ch n).stage ∧ t.m.st n = s.m.st n) ∧ sameStore s t) ∧
  (∀ s : State, (∀ p, s.m.cmt.pend = some p → p.held = false ∧ s.m.applyDue p = false) →
    ∃ t, exec .commitApply s = .next t ∧ settlesTo s t s.m)

/-- ABORT, DISCARD and the arming of TAKE_CONTROL (R59, R64, R69): an abort cancels the pending commit with reason 0x0E and
its staged words are lost; a discard drops the staged words of the named pages; TAKE_CONTROL arms in limp-home alone. -/
def Obligations.CommitCommands : Prop :=
  (∀ s : State, ∀ p, s.m.cmt.pend = some p →
    ∃ t, exec .abort s = .next t ∧ t.m.cmt.pend = none ∧ t.m.cmt.lrReason = 0x0E ∧ t.m.cmt.lrSeq = p.seq ∧
      t.m.cmt.lrTag = p.tag ∧ t.latched 0x05 2 ∧ sameConfig s t ∧ t.m.dev = s.m.dev ∧
      (∀ n, (t.m.ch n).stage = (s.m.ch n).stage ∧ t.m.st n = s.m.st n) ∧ sameStore s t) ∧
  (∀ s : State, s.m.cmt.pend = none → ∃ t, exec .abort s = .next t ∧ settlesTo s t s.m) ∧
  (∀ s : State, exec .discard s = .next { s with m := { s.m with
    staged := s.m.staged.filter fun x => !(maskPages s.m.maskReg).contains (pageOf x.1) } }) ∧
  (∀ s : State, s.m.dev.phase = .running → s.m.dev.governed = false →
    ∃ t, exec .takeControlArm s = .next t ∧ settlesTo s t { s.m with cmt := { s.m.cmt with takeArmed := true } }) ∧
  (∀ s : State, s.m.dev.governed = true → ∃ t, exec .takeControlArm s = .next t ∧ settlesTo s t s.m) ∧
  (∀ s : State,
    ∃ t, exec .takeControlDisarm s = .next t ∧ settlesTo s t { s.m with cmt := { s.m.cmt with takeArmed := false } })

/-- The commands that set the time or clear counters and readings (R175, R185, R247, R329, R356, R389, R392, R418, R437,
R460 to R462): DEV.TIME takes DEV.TSET unless a tick commit waits (R13), and each clear clears what its map names; an
increment of the energy count in the step of its clear stays in the residue. -/
def Obligations.ClearsAreExact : Prop :=
  (∀ s : State, (∀ p, s.m.cmt.pend = some p → applyOf p.ctl ≠ 3) →
    ∃ t, exec .tset s = .next t ∧ t.latched 0x00 3 ∧
      becomes s t { s.m with time := s.m.cfg 0x0015 ++ s.m.cfg 0x0014 ++ s.m.cfg 0x0013 }) ∧
  (∀ s : State, ∀ p, s.m.cmt.pend = some p → applyOf p.ctl = 3 →
    ∃ t, exec .tset s = .next t ∧ t.latched 0x00 4 ∧ becomes s t s.m) ∧
  (∀ s : State,
    exec .clrLost s = .next { s with m := { s.m with dev := { s.m.dev with frLost := 0 } } } ∧
    exec .clkClrCnt s = .next { s with m := { s.m with
      clk := { s.m.clk with refLossCnt := 0, lfLossCnt := 0, cpLossCnt := 0 } } } ∧
    exec .pwrClr s = .next { s with m := { s.m with
      pwr := { s.m.pwr with vbbMin := 0xFFFF, vbbMax := 0, vddLossCnt := 0, uvCnt := 0, ovCnt := 0 } } } ∧
    exec .hspClrCnt s = .next { s with m := { s.m with
      port := { s.m.port with crcCnt := 0, frmCnt := 0, udrCnt := 0, errAddr := 0, errCmd := 0 } } } ∧
    exec .ringClrLost s = .next { s with m := { s.m with rings := { s.m.rings with eqLost := 0, eqOvf := false } } } ∧
    exec .clrDrift s = .next { s with m := { s.m with
      otp := { s.m.otp with drift := 0, driftCnt := 0, driftLast := 0 } } } ∧
    exec .jnlClrCnt s = .next { s with m := { s.m with
      jnl := { s.m.jnl with ovwCnt := 0, splitCnt := 0, corrCnt := 0, wfailCnt := 0 } } }) ∧
  (∀ s : State, s.m.dev.part.isX = true →
    exec .zcClrCnt s = .next { s with m := { s.m with zc := { s.m.zc with cntAcc := 0, cntOutl := 0, cntRel := 0 } } } ∧
    exec .siteClrCnt s = .next { s with m := { s.m with
      site := { s.m.site with cntOk := 0, cntLost := 0, cntAuth := 0, cntReplay := 0, cntEras := 0, cntRs := 0 } } }) ∧
  (∀ s : State, s.m.dev.part.isX = false → exec .zcClrCnt s = .next s ∧ exec .siteClrCnt s = .next s) ∧
  (∀ (ch : Ch) (s : State), ch.val < s.m.nch →
    exec (.clrPeak ch) s = .next { s with m := s.m.modCh ch fun c =>
      { c with meas := { c.meas with iPeak := 0, iOvr := false, vOvr := false, eGap := false },
               sig := { c.sig with envErr := false } } } ∧
    exec (.clrE ch none) s = .next { s with m := s.m.modCh ch fun c =>
      { c with meas := { c.meas with energy := 0, eRes := 0 } } } ∧
    exec (.clrSig ch) s = .next { s with m := s.m.modCh ch fun c => { c with sig := { c.sig with cnt := 0, fcnt := 0 } } }) ∧
  (∀ (ch : Ch) (x : Sample) (s : State), ch.val < s.m.nch → (Instr.clrE ch (some x)).WellFormed = true →
    ∃ t, exec (.converterSample x) { s with m := s.m.modCh ch fun c =>
        { c with meas := { c.meas with energy := 0, eRes := 0 } } } = .next t ∧
      exec (.clrE ch (some x)) s = .next { t with m := t.m.modCh ch fun c =>
        { c with meas := { c.meas with energy := 0, eRes := c.meas.eRes + 960000 * c.meas.energy.toNat } } })

/-! ## Direct writes -/

/-- A word with these properties takes writes at address `a`: implemented, on a page of the part that is not key-locked. -/
def Claim.writable (s : State) (a : BitVec 16) (r : Reg) : Prop :=
  s.m.pastEnd (pageOf a.toNat) (offOf a.toNat) = false ∧ sramPage (pageOf a.toNat) = false ∧
    s.m.keyLocked (pageOf a.toNat) = false ∧ regAt (pageOf a.toNat) (offOf a.toNat) = some r

/-- RW words whose write only stores: not RING.EN, RING.CFGr, PG_EVTEN, ZC.CFG or a multi-word value. -/
def Claim.plainRw (a : BitVec 16) : Prop :=
  a ≠ 0x0408 ∧ a ≠ 0x1008 ∧ ¬(0x0410 ≤ a.toNat ∧ a.toNat ≤ 0x0417) ∧ offOf a.toNat ≠ 4 ∧ heldGroup a.toNat = none

/-- A write by access type (R3, R45, R48, R50, R51, R52): RS words are staged, RW and unsealed RL words take effect, writes
to RO words, to sealed RL words and to a key-locked page are discarded and reported, SRAM words are stored, and words past
the page or on an absent page take nothing. RING.CFGr of a claimed ring discards its write (R332), and ZC.CFG with EN = 0
takes the tracker to UNLOCKED (R364). -/
def Claim.writesByAccess : Prop :=
  (∀ (a : BitVec 16) (w : Word) (s : State), ∀ r, regAt (pageOf a.toNat) (offOf a.toNat) = some r → writable s a r →
    (r.acc = .rs → exec (.registerWrite a w) s =
      .next { s with m := { s.m with staged := s.m.staged.set a.toNat (w &&& r.mask) } }) ∧
    (r.acc = .ro → ∃ t, exec (.registerWrite a w) s = .next t ∧ t.latched (pageOf a.toNat) 15 ∧ becomes s t s.m) ∧
    (r.acc = .rw → plainRw a →
      ∃ t, exec (.registerWrite a w) s = .next t ∧ becomes s t { s.m with active := t.m.active } ∧
        (∀ b, t.m.cfg b = if b = a.toNat then w &&& r.mask else s.m.cfg b)) ∧
    (r.acc = .rl → s.m.otp.rlSeal = false →
      ∃ t, exec (.registerWrite a w) s = .next t ∧ becomes s t { s.m with active := t.m.active } ∧
        (∀ b, t.m.cfg b = if b = a.toNat then w &&& r.mask else s.m.cfg b)) ∧
    (r.acc = .rl → s.m.otp.rlSeal = true →
      ∃ t, exec (.registerWrite a w) s = .next t ∧ t.latched (pageOf a.toNat) 15 ∧ becomes s t s.m)) ∧
  (∀ (r : Fin 8) (w : Word) (s : State), s.m.ringClaims r = true →
    ∃ t, exec (.registerWrite (BitVec.ofNat 16 (0x0410 + r)) w) s = .next t ∧ t.latched 0x04 15 ∧ becomes s t s.m) ∧
  (∀ (w : Word) (s : State), s.m.dev.part.isX = true → bit w 0 = false →
    ∃ t, exec (.registerWrite 0x1008 w) s = .next t ∧ t.m.zc.st = .unlocked ∧ t.m.staged = s.m.staged ∧
      (∀ b, t.m.cfg b = if b = 0x1008 then w &&& (regAt 0x10 8).elim 0 Reg.mask else s.m.cfg b) ∧
      (∀ n, t.m.ch n = s.m.ch n) ∧ t.sram = s.sram ∧ sameStore s t) ∧
  (∀ (a : BitVec 16) (w : Word) (s : State), s.m.pastEnd (pageOf a.toNat) (offOf a.toNat) = true →
    exec (.registerWrite a w) s = .next s) ∧
  (∀ (off : Byte) (w : Word) (s : State), s.m.keyLocked 0x12 = true → off.toNat ≤ 0x3F → off ≠ 3 →
    ∃ t, exec (.registerWrite ((0x12 : Byte) ++ off) w) s = .next t ∧ t.latched 0x12 15 ∧
      becomes s t { s.m with sec := { s.m.sec with denyCnt := inc16 s.m.sec.denyCnt } }) ∧
  (∀ (page off : Byte) (w : Word) (s : State), 0x80 ≤ page.toNat → page.toNat ≤ 0xBF →
    ∃ t, exec (.registerWrite (page ++ off) w) s = .next t ∧ t.m = s.m ∧ sameStore s t ∧
      (∀ i, t.sramWord i = if i = 256 * (page.toNat - 0x80) + off.toNat then w else s.sramWord i))

/-- The multi-word RW values and the page events (R49, R57): lower words wait for the highest, which makes the whole value
take effect; a W1C write clears the bits written as 1 but those whose event occurs then; PG_EVTEN selects the bits that are
routed. -/
def Claim.multiwordWrites : Prop :=
  (∀ (a : BitVec 16) (w : Word) (s : State), ∀ g, heldGroup a.toNat = some g →
    (a.toNat < g.2 → ∃ t, exec (.rwMultiwordWrite a w) s = .next t ∧
      (∀ b, t.m.held.get? b = if b = a.toNat then some w else s.m.held.get? b) ∧
      becomes s t { s.m with held := t.m.held }) ∧
    (a.toNat = g.2 → ∃ t, exec (.rwMultiwordWrite a w) s = .next t ∧
      (∀ b, t.m.cfg b = if b = a.toNat then w
        else if g.1 ≤ b ∧ b < g.2 then (s.m.held.get? b).getD (s.m.cfg b) else s.m.cfg b) ∧
      (t.m.held.get? g.1 = none ∧ t.m.held.get? (g.1 + 1) = none) ∧
      becomes s t { s.m with active := t.m.active, held := t.m.held })) ∧
  (∀ (a : BitVec 16) (w : Word) (s : State), heldGroup a.toNat = none → exec (.rwMultiwordWrite a w) s = .next s) ∧
  (∀ (page : Byte) (bits same : Word) (s : State), headerPage s.m.dev.part page.toNat = true → page ≠ 4 →
    ∃ t, exec (.pgEvtClear page bits same) s = .next t ∧
      (∀ i, t.latched page.toNat i ↔
        (s.latched page.toNat i ∧ bits.getLsbD i = false ∨ (same &&& (0x8000 ||| evtBits page.toNat)).getLsbD i = true)) ∧
      (∀ p i, p ≠ page.toNat → s.latched p i → t.latched p i) ∧
      t.m.quiet = s.m.quiet ∧ t.sram = s.sram ∧ sameStore s t) ∧
  (∀ (page : Byte) (bits : Word) (s : State), headerPage s.m.dev.part page.toNat = true →
    s.m.keyLocked page.toNat = false →
    ∃ t, exec (.pgEvtenWrite page bits) s = .next t ∧
      (∀ b, t.m.cfg b = if b = adr page.toNat 4 then bits &&& (0x8000 ||| evtBits page.toNat) else s.m.cfg b) ∧
      becomes s t { s.m with active := t.m.active })

/-- The command words (R50): a write of its value to a WO word is that command. -/
def Claim.commandWords : Prop :=
  ∀ (w : Word) (ch : Ch) (s : State), ch.val < s.m.nch →
    exec (.registerWrite 0x0510 w) s = exec (.commitRequest w) s ∧
    exec (.registerWrite 0x0511 1) s = exec .abort s ∧ exec (.registerWrite 0x0511 2) s = exec .discard s ∧
    exec (.registerWrite 0x0512 0x7A4C) s = exec .takeControlArm s ∧
    (w ≠ 0x7A4C → exec (.registerWrite 0x0512 w) s = exec .takeControlDisarm s) ∧
    exec (.registerWrite 0x0409 w) s = exec (.ringDbWrite w) s ∧
    exec (.registerWrite 0x040E 0x5201) s = exec .ringClrLost s ∧
    exec (.registerWrite 0x0408 w) s = exec (.ringEnable (w &&& 0xFF)) s ∧
    exec (.registerWrite 0x000F 0x4401) s = exec .tset s ∧ exec (.registerWrite 0x0B0A w) s = exec (.watchdogKick w) s ∧
    exec (.registerWrite (BitVec.ofNat 16 (adr (chPage ch) 0x37)) 0x5201) s = exec (.retryCountClear ch) s ∧
    exec (.registerWrite (BitVec.ofNat 16 (adr (chPage ch) 0x7F)) 0xFC01) s = exec (.faultClear ch) s ∧
    exec (.registerWrite (BitVec.ofNat 16 (adr (chPage ch) 0x4B)) 0x4D02) s = exec (.clrE ch none) s ∧
    exec (.registerWrite (BitVec.ofNat 16 (adr (chPage ch) 0x0F)) 1) s = exec (.clrClamp ch) s

/-- Direct writes: by access type, of multi-word values and of events, and of command words (R3, R45, R48 to R52, R57). -/
def Obligations.DirectWrites : Prop := writesByAccess ∧ multiwordWrites ∧ commandWords

/-! ## Frames -/

/-- Only the port's words change, and the watchdog grant ends with the falling CSN (R354). -/
def Claim.frameOnly (s t : State) : Prop :=
  becomes s t { s.m with port := t.m.port, mst := { s.m.mst with csn := true, wdgGrant := false } }

/-- A frame fails its framing check (R307, R329, R330): FRAME_ERR is reported and counted, with its command and address,
and nothing is executed. -/
def Claim.failsFraming (cmd : Nat) (addr : Word) (s t : State) : Prop :=
  t.m.port.frameErr = true ∧ t.m.port.crcErr = false ∧ t.m.port.late = false ∧
    t.m.port.frmCnt = inc16 s.m.port.frmCnt ∧ t.m.port.frames = s.m.port.frames ∧ t.m.port.errAddr = addr ∧
    t.m.port.errCmd = wd (cmd + 256 * 64) ∧ t.latched 0x03 1 ∧ frameOnly s t

/-- A frame fails its CRC check (R307, R316): CRC_ERR is reported and counted, and nothing is executed. -/
def Claim.failsCrc (cmd : Nat) (addr : Word) (s t : State) : Prop :=
  t.m.port.crcErr = true ∧ t.m.port.frameErr = false ∧ t.m.port.late = false ∧
    t.m.port.crcCnt = inc16 s.m.port.crcCnt ∧ t.m.port.frames = s.m.port.frames ∧ t.m.port.errAddr = addr ∧
    t.m.port.errCmd = wd (cmd + 256 * 128) ∧ t.latched 0x03 0 ∧ frameOnly s t

/-- The port is silent (R304, R443) before LIMP, without VDD and during a transaction of its own master: no frame does
anything. -/
def Claim.portSilent (s : State) : Prop :=
  (s.m.dev.phase ≠ .running ∨ s.m.pwr.vddOk = false ∨ s.m.mst.active.isSome = true) ∧ s.m.port.ignore = false

/-- The frame in progress at a collision is ignored, and ends with its CSN rising (R355). -/
def Claim.frameIgnored (s : State) : State :=
  { s with m := { s.m with port := { s.m.port with ignore := false }, mst := { s.m.mst with csn := true } } }

/-- The stage shifts out what it holds while the next one comes in (R322, R323): its response, or LATE with zeros while the
previous command still executes. -/
def Claim.shiftsOut (s t : State) (x : ChainStage) : Prop :=
  t.m.port.tx = (if x.early then [0, 0] else [s.m.port.respAddr, s.m.port.respData]) ∧
    t.m.port.txStatus = (if x.early then 0x10 ||| (s.m.statusByte &&& 0x07) else s.m.port.respStat)

/-- A stage of chain mode fails its framing check, or its CRC check (`crc`) (R325, R326): it is reported and counted, executes
nothing, and answers ADDR and DATA as received. -/
def Claim.stageFails (cmd : Nat) (x : ChainStage) (crc : Bool) (s t : State) : Prop :=
  shiftsOut s t x ∧ t.m.port.respAddr = x.addr ∧ t.m.port.respData = x.data ∧ t.m.port.frameErr = !crc ∧
    t.m.port.crcErr = crc ∧ t.m.port.late = x.late ∧ t.m.port.frames = s.m.port.frames ∧ t.m.port.errAddr = x.addr ∧
    t.m.port.errCmd = wd (cmd + 256 * ((if crc then 128 else 64) + if x.late then 16 else 0)) ∧
    t.m.port.crcCnt = (if crc then inc16 s.m.port.crcCnt else s.m.port.crcCnt) ∧
    t.m.port.frmCnt = (if crc then s.m.port.frmCnt else inc16 s.m.port.frmCnt) ∧
    t.latched 0x03 (if crc then 0 else 1) ∧ frameOnly s t

/-- The running CRC bytes a read frame sends (R316); from an underrun at word `k` on, their complement (R311). -/
def Claim.sentCrcs (cmd : Nat) (addr : Word) (late : Option Nat) (ws : List Word) : List Byte :=
  (List.range ws.length).map fun i =>
    let c := crc8 (BitVec.ofNat 8 cmd :: wordSent addr ++ (ws.take (i + 1)).flatMap wordSent)
    if late.any (· ≤ i) then ~~~ c else c

/-- The words a frame has sent of the `ws` it read (R311, R312): a partly transferred last one is discarded, and those from an
underrun on are 0xFFFF. -/
def Claim.wordsOut (f : ReadFrame) (ws : List Word) : List Word :=
  (if f.part then ws.dropLast else ws).zipIdx.map fun p => if f.late.any (· ≤ p.2) then 0xFFFF else p.1

/-- A read frame with opcode `cmd` (R58, R304, R305, R308 to R312, R316, R321, R322): in addressed mode it returns the words from
its address upward, 0x0000 past the page's end, 0xFFFF from an underrun on, with the running CRC when it is enabled; RDY
falls before the first word and before those that are not ready. A frame cut short, or with an opcode of neither mode, is
reported and reads nothing, as does any in chain mode; a silent port answers nothing. Reads change nothing but the port,
the snapshot latch and what the SRAM's correction repairs. -/
def Claim.readReturns (cmd : Nat) (mk : ReadFrame → Instr) : Prop :=
  ∀ (f : ReadFrame) (s : State), (mk f).WellFormed = true →
    (portSilent s → exec (mk f) s = .next s) ∧ (s.m.port.ignore = true → exec (mk f) s = .next (frameIgnored s)) ∧
    (s.m.portOn = true → s.m.port.chain = true →
      ∃ t, exec (mk f) s = .next t ∧ stageFails ((f.cmd.map (·.toNat)).getD cmd) f.stage false s t) ∧
    (s.m.portOn = true → s.m.port.chain = false → ∀ c, f.cmd = some c →
      ∃ t, exec (mk f) s = .next t ∧ failsFraming c.toNat 0 s t) ∧
    (s.m.portOn = true → s.m.port.chain = false → f.cmd = none → f.cut = true →
      ∃ t, exec (mk f) s = .next t ∧ failsFraming cmd f.addr s t) ∧
    (s.m.portOn = true → s.m.port.chain = false → f.cmd = none → f.cut = false →
      ∃ t, exec (mk f) s = .next t ∧
        t.m.port.tx = wordsOut f
          ((s.on Mach.beginFrame).readBurst (pageOf f.addr.toNat) (offOf f.addr.toNat) f.words).1 ∧
        t.m.port.tx.length = (if f.part then f.words - 1 else f.words) ∧ t.m.port.frames = s.m.port.frames + 1 ∧
        t.m.port.txCrc = (if s.m.crcOn then sentCrcs cmd f.addr f.late t.m.port.tx else []) ∧
        t.m.port.txStatus = s.m.statusByte ∧
        t.m.port.pastEnd = (f.words != 0 && s.m.pastEnd (pageOf f.addr.toNat) (offOf f.addr.toNat + f.words - 1)) ∧
        t.m.port.late = f.late.any (· < f.words) ∧
        (t.m.port.late = true → t.m.port.udrCnt = inc16 s.m.port.udrCnt ∧ t.latched 0x03 4) ∧
        (t.m.port.late = false → t.m.port.udrCnt = s.m.port.udrCnt) ∧
        (∀ k, k < f.words → (t.m.port.rdyFalls.contains k = true ↔ k = 0 ∨ f.wait.contains k = true ∨ f.late = some k)) ∧
        (f.words = 1 → f.part = false → f.late = none → s.m.pastEnd (pageOf f.addr.toNat) (offOf f.addr.toNat) = false →
          f.addr ≠ 0x110A → sramPage (pageOf f.addr.toNat) = false →
          snapGroup (pageOf f.addr.toNat) (offOf f.addr.toNat) = none →
          t.m.port.tx = [s.value (pageOf f.addr.toNat) (offOf f.addr.toNat)]) ∧
        t.m.quiet = ({ s.m with port := t.m.port, mst := { s.m.mst with csn := true, wdgGrant := false },
                                snap := t.m.snap } : Mach).quiet ∧
        evtKept s.m t.m ∧ (s.eccBad = [] → t.sram = s.sram ∧ t.eccBad = []) ∧ sameStore s t)

/-- The six read frames return what their address and word count name. -/
def Claim.readFrames : Prop :=
  readReturns 0x03 .read ∧ readReturns 0x0B .readFast ∧ readReturns 0x3B .readDual ∧ readReturns 0xBB .readDualIo ∧
    readReturns 0x6B .readQuad ∧ readReturns 0xEB .readQuadIo

/-- A write frame with `ws` at `addr` that passes its framing check. -/
def Claim.wholeWrite (addr : Word) (ws : List Word) (crcOn : Bool) (crc : Byte) (x : ChainStage) : WriteFrame :=
  ⟨addr, false, 16 * ws.length + (if crcOn then 8 else 0), ws, crc, x⟩

/-- The CRC byte of a write frame (R316). -/
def Claim.writeCrc (cmd : Nat) (addr : Word) (ws : List Word) : Byte :=
  crc8 (BitVec.ofNat 8 cmd :: wordSent addr ++ ws.flatMap wordSent)

/-- A write frame with opcode `cmd` (R53, R58, R305, R313, R316, R322): in addressed mode a frame of 1 to 64 whole words with a
good CRC writes them by ascending address and then runs their commands; a frame of one word is a register write. A frame
that fails a check executes nothing, nor does any in chain mode, and a silent port takes nothing. -/
def Claim.writeTakes (cmd : Nat) (mk : WriteFrame → Instr) : Prop :=
  ∀ s : State,
    (∀ f : WriteFrame, (portSilent s → exec (mk f) s = .next s) ∧
      (s.m.port.ignore = true → exec (mk f) s = .next (frameIgnored s)) ∧
      (s.m.portOn = true → s.m.port.chain = true →
        ∃ t, exec (mk f) s = .next t ∧ stageFails cmd f.stage false s t) ∧
      (s.m.portOn = true → s.m.port.chain = false → (f.cut = true ∨ f.data = [] ∨ 64 < f.data.length ∨
          f.bits ≠ 16 * f.data.length + (if s.m.crcOn then 8 else 0)) →
        ∃ t, exec (mk f) s = .next t ∧ failsFraming cmd f.addr s t)) ∧
    (∀ (addr : Word) (ws : List Word) (crc : Byte) (x : ChainStage), s.m.portOn = true → s.m.port.chain = false →
      ws ≠ [] → ws.length ≤ 64 →
      (s.m.crcOn = true → crc ≠ writeCrc cmd addr ws →
        ∃ t, exec (mk (wholeWrite addr ws s.m.crcOn crc x)) s = .next t ∧ failsCrc cmd addr s t) ∧
      (∃ t, exec (mk (wholeWrite addr ws s.m.crcOn (writeCrc cmd addr ws) x)) s = .next t ∧
        t.m.port.frames = s.m.port.frames + 1 ∧ t.m.port.crcErr = false ∧ t.m.port.frameErr = false ∧
        t.m.port.pastEnd = ((s.on Mach.beginFrame).writeFrameWords addr ws).2.pastEnd ∧
        t.m.port.wdisc = ((s.on Mach.beginFrame).writeFrameWords addr ws).2.wdisc ∧
        becomes ((s.on Mach.beginFrame).writeFrameWords addr ws).1 t
          { ((s.on Mach.beginFrame).writeFrameWords addr ws).1.m with
            port := t.m.port, mst := { ((s.on Mach.beginFrame).writeFrameWords addr ws).1.m.mst with csn := true } })) ∧
    (∀ (addr w : Word), exec (.registerWrite addr w) s = .next (s.writeFrameWords addr [w]).1)

/-- The three write frames write their words. -/
def Claim.writeFrames : Prop :=
  writeTakes 0x02 .write ∧ writeTakes 0xA2 .writeDual ∧ writeTakes 0x32 .writeQuad

/-- Read and write frames move the words they name (R58, R305, R307 to R316). -/
def Obligations.FramesMoveWords : Prop := readFrames ∧ writeFrames

/-! ## Short frames and chain stages -/

/-- The framing of a stage (R325): once enumerated its chain's length, else any number of whole stages. -/
def Claim.stageFramed (s : State) (x : ChainStage) : Prop :=
  x.bits ≠ 0 ∧ if s.m.port.enum then x.bits = 48 * s.m.port.len else x.bits % 48 = 0

/-- The CRC byte of a stage (R326). -/
def Claim.stageCrc (cmd : Byte) (x : ChainStage) : Byte := crc8 (cmd :: wordSent x.addr ++ wordSent x.data)

/-- A stage with a good CRC byte. -/
def Claim.withCrc (cmd : Byte) (x : ChainStage) : ChainStage := { x with crc := stageCrc cmd x }

/-- A stage fails as its checks say (R325, R326): first the framing, then the CRC. -/
def Claim.stageChecked (cmd : Byte) (c : Instr) (x : ChainStage) (s : State) : Prop :=
  (¬ stageFramed s x → ∃ t, exec c s = .next t ∧ stageFails cmd.toNat x false s t) ∧
  (stageFramed s x → x.crc ≠ stageCrc cmd x → ∃ t, exec c s = .next t ∧ stageFails cmd.toNat x true s t)

/-- The stage sends what it holds (R323), and holds this response to its command afterwards. -/
def Claim.answers (s t : State) (x : ChainStage) (addr data : Word) (last : Bool) : Prop :=
  shiftsOut s t x ∧ t.m.port.respAddr = addr ∧ t.m.port.respData = data ∧
    t.m.port.lastAddr = (if last then addr else s.m.port.lastAddr) ∧
    t.m.port.lastData = (if last then data else s.m.port.lastData) ∧ t.m.port.frames = s.m.port.frames + 1 ∧
    t.m.port.late = x.late ∧ t.m.port.frameErr = false ∧ t.m.port.crcErr = false

/-- A RESET_EN or RESET frame with good CRC bytes. -/
def Claim.shortCrc (cmd : Byte) (f : ShortFrame) : ShortFrame := ⟨f.bits, crc8 [cmd], withCrc cmd f.stage⟩

/-- The framing of a RESET_EN or RESET frame (R316, R319, R320, R325). -/
def Claim.shortFramed (s : State) (f : ShortFrame) : Prop :=
  if s.m.port.chain = true then stageFramed s f.stage else f.bits = if s.m.crcOn then 8 else 0

/-- STATUS, DOORBELL, RESET_EN and RESET (R317, R319, R320, R324): the state word as often as clocked, a doorbell handed to the
rings, and a software reset after RESET_EN alone; frames that fail a check are reported and do nothing, as are STATUS, ID and
DOORBELL in chain mode; a silent port takes none. -/
def Obligations.ShortFramesAct : Prop :=
  (∀ (n : Nat) (x : ChainStage) (s : State), s.m.portOn = true →
    (s.m.port.chain = false →
      ∃ t, exec (.status n x) s = .next t ∧ frameOnly s t ∧ t.m.port.frames = s.m.port.frames + 1 ∧
        t.m.port.tx = List.replicate n (wd (4096 * s.m.devState + flag s.m.cmt.pend.isSome 11 + flag s.m.cmt.takeArmed 10 +
          flag (s.m.devState == 4 || s.m.devState == 5 || !s.m.clk.refOk) 9 + flag s.m.takeBlock 8))) ∧
    (s.m.port.chain = true →
      (∃ t, exec (.status n x) s = .next t ∧ stageFails 0x05 x false s t) ∧
      (∃ t, exec (.id n x) s = .next t ∧ stageFails 0x9F x false s t))) ∧
  (∀ (f : ShortFrame) (w : Word) (s : State), s.m.portOn = true →
    (s.m.port.chain = false →
      ∃ t, exec (.doorbell ⟨if s.m.crcOn then 24 else 16, crc8 (0x0D :: wordSent w), f.stage⟩ w) s = .next t ∧
        (∀ u, exec (.ringDbWrite w) s = .next u →
          becomes u t { u.m with port := t.m.port, mst := { s.m.mst with csn := true, wdgGrant := false } }) ∧
        t.m.port.frames = s.m.port.frames + 1) ∧
    (s.m.port.chain = false → f.bits ≠ (if s.m.crcOn then 24 else 16) →
      ∃ t, exec (.doorbell f w) s = .next t ∧ failsFraming 0x0D 0 s t) ∧
    (s.m.port.chain = false → s.m.crcOn = true → f.crc ≠ crc8 (0x0D :: wordSent w) →
      ∃ t, exec (.doorbell ⟨24, f.crc, f.stage⟩ w) s = .next t ∧ failsCrc 0x0D 0 s t) ∧
    (s.m.port.chain = true → ∃ t, exec (.doorbell f w) s = .next t ∧ stageFails 0x0D f.stage false s t)) ∧
  (∀ (f : ShortFrame) (s : State), s.m.portOn = true →
    (shortFramed s f → ∃ t, exec (.resetEn (shortCrc 0x66 f)) s = .next t ∧ t.m.port.rstArmed = true ∧ frameOnly s t ∧
      (s.m.port.chain = true → answers s t f.stage 0 0 true)) ∧
    (shortFramed s f → s.m.port.rstArmed = true → s.m.dev.latched = true →
      ∃ t, exec (.reset (shortCrc 0x99 f)) s = .next t ∧ clearedByReset t ∧ t.m.dev.phase = .sensing ∧
        t.m.devState = 1 ∧ t.m.dev.rstKind = 3 ∧ t.m.dev.rstCnt = inc16 s.m.dev.rstCnt ∧ t.m.time = s.m.time ∧
        (∀ n, n < s.m.nch → t.m.st n = .safe ∧ (t.m.ch n).meas.energy = (s.m.ch n).meas.energy) ∧
        t.m.thm.temps = s.m.thm.temps ∧ t.sram = s.sram ∧ storeHeld s t) ∧
    (s.m.port.chain = false →
      (f.bits ≠ (if s.m.crcOn then 8 else 0) → ∃ t, exec (.resetEn f) s = .next t ∧ failsFraming 0x66 0 s t) ∧
      (s.m.crcOn = true → f.crc ≠ crc8 [0x66] →
        ∃ t, exec (.resetEn ⟨8, f.crc, f.stage⟩) s = .next t ∧ failsCrc 0x66 0 s t) ∧
      (s.m.port.rstArmed = false ∨ f.bits ≠ (if s.m.crcOn then 8 else 0) →
        ∃ t, exec (.reset f) s = .next t ∧ failsFraming 0x99 0 s t) ∧
      (s.m.port.rstArmed = true → s.m.crcOn = true → f.crc ≠ crc8 [0x99] →
        ∃ t, exec (.reset ⟨8, f.crc, f.stage⟩) s = .next t ∧ failsCrc 0x99 0 s t)) ∧
    (s.m.port.chain = true → stageChecked 0x66 (.resetEn f) f.stage s ∧
      (s.m.port.rstArmed = true → stageChecked 0x99 (.reset f) f.stage s) ∧
      (s.m.port.rstArmed = false → ∃ t, exec (.reset f) s = .next t ∧ stageFails 0x99 f.stage false s t))) ∧
  (∀ (f : ShortFrame) (w : Word) (n : Nat) (x : ChainStage) (s : State),
    (portSilent s → exec (.status n x) s = .next s ∧ exec (.id n x) s = .next s ∧ exec (.doorbell f w) s = .next s ∧
      exec (.resetEn f) s = .next s ∧ exec (.reset f) s = .next s) ∧
    (s.m.port.ignore = true → exec (.status n x) s = .next (frameIgnored s) ∧ exec (.id n x) s = .next (frameIgnored s) ∧
      exec (.doorbell f w) s = .next (frameIgnored s) ∧ exec (.resetEn f) s = .next (frameIgnored s) ∧
      exec (.reset f) s = .next (frameIgnored s)))

/-- The chain stages (R322 to R326): NOP repeats the latest response, a write is a register write, a read answers the word,
an enumeration stores the position and the length; a stage that fails a check executes nothing and answers what came in; in
addressed mode they fail their framing check, and a silent port takes none. -/
def Obligations.ChainStagesAct : Prop :=
  (∀ (x : ChainStage) (s : State), s.m.portOn = true → s.m.port.chain = true →
    stageChecked 0x00 (.nopReadback x) x s ∧ stageChecked 0x01 (.chainWrite x) x s ∧
    stageChecked 0x08 (.chainRead x) x s ∧ stageChecked 0x0F (.chainEnumerate x) x s ∧
    (stageFramed s x → ∃ t, exec (.nopReadback (withCrc 0x00 x)) s = .next t ∧
      answers s t x s.m.port.lastAddr s.m.port.lastData false ∧ frameOnly s t) ∧
    (stageFramed s x → ∃ t, exec (.chainWrite (withCrc 0x01 x)) s = .next t ∧ answers s t x x.addr x.data true ∧
      (∀ r, regAt (pageOf x.addr.toNat) (offOf x.addr.toNat) = some r → writable s x.addr r → r.acc = .rs →
        becomes s t { s.m with staged := s.m.staged.set x.addr.toNat (x.data &&& r.mask), port := t.m.port,
                               mst := { s.m.mst with csn := true, wdgGrant := false } })) ∧
    (stageFramed s x → ∃ t, exec (.chainRead (withCrc 0x08 x)) s = .next t ∧
      answers s t x x.addr t.m.port.respData true ∧
      (s.m.pastEnd (pageOf x.addr.toNat) (offOf x.addr.toNat) = true → t.m.port.respData = 0 ∧ t.m.port.pastEnd = true) ∧
      (s.m.pastEnd (pageOf x.addr.toNat) (offOf x.addr.toNat) = false → sramPage (pageOf x.addr.toNat) = false →
        x.addr ≠ 0x110A → snapGroup (pageOf x.addr.toNat) (offOf x.addr.toNat) = none → pageOf x.addr.toNat ≠ 3 →
        t.m.port.respData = s.value (pageOf x.addr.toNat) (offOf x.addr.toNat)) ∧
      (s.eccBad = [] → t.sram = s.sram) ∧ sameConfig s t ∧ sameStore s t) ∧
    (stageFramed s x →
      (1 ≤ fld x.data 8 8 → fld x.data 8 8 ≤ 16 → fld x.data 0 8 < fld x.data 8 8 →
        ∃ t, exec (.chainEnumerate (withCrc 0x0F x)) s = .next t ∧ t.m.port.enum = true ∧
          t.m.port.pos = fld x.data 0 8 ∧ t.m.port.len = fld x.data 8 8 ∧ t.latched 0x03 5 ∧
          answers s t x x.data s.m.dev.part.code true ∧ frameOnly s t) ∧
      ((fld x.data 8 8 = 0 ∨ 16 < fld x.data 8 8 ∨ fld x.data 8 8 ≤ fld x.data 0 8) →
        ∃ t, exec (.chainEnumerate (withCrc 0x0F x)) s = .next t ∧ stageFails 0x0F x false s t ∧ t.m.port.enum = s.m.port.enum))) ∧
  (∀ (x : ChainStage) (s : State), s.m.portOn = true → s.m.port.chain = false →
    (∃ t, exec (.nopReadback x) s = .next t ∧ failsFraming 0x00 0 s t) ∧
    (∃ t, exec (.chainWrite x) s = .next t ∧ failsFraming 0x01 0 s t) ∧
    (∃ t, exec (.chainRead x) s = .next t ∧ failsFraming 0x08 0 s t) ∧
    (∃ t, exec (.chainEnumerate x) s = .next t ∧ failsFraming 0x0F 0 s t)) ∧
  (∀ (x : ChainStage) (s : State),
    (portSilent s → exec (.nopReadback x) s = .next s ∧ exec (.chainWrite x) s = .next s ∧
      exec (.chainRead x) s = .next s ∧ exec (.chainEnumerate x) s = .next s) ∧
    (s.m.port.ignore = true → exec (.nopReadback x) s = .next (frameIgnored s) ∧
      exec (.chainWrite x) s = .next (frameIgnored s) ∧ exec (.chainRead x) s = .next (frameIgnored s) ∧
      exec (.chainEnumerate x) s = .next (frameIgnored s)))

/-! ## The rings -/

/-- The rings alone change. -/
def Claim.ringsOnly (s t : State) : Prop := becomes s t { s.m with rings := t.m.rings }

/-- Doorbells (R335): a valid doorbell sets TAIL of an enabled SQ or HEAD of CQ or EQ and nothing else; an invalid one is
kept in RING.DB_ERR and reported. -/
def Claim.doorbells : Prop :=
  ∀ (w : Word) (s : State),
    (s.m.ringOn (fld w 0 3) = true → fld w 0 3 < 6 →
      (fld w 8 8 + 256 - s.m.ringHead (fld w 0 3)) % 256 ≤ s.m.ringSize (fld w 0 3) →
      (fld w 8 8 + 256 - s.m.ringTail (fld w 0 3)) % 256 ≤ (fld w 8 8 + 256 - s.m.ringHead (fld w 0 3)) % 256 →
      ∃ t, exec (.ringDbWrite w) s = .next t ∧ t.m.ringTail (fld w 0 3) = fld w 8 8 ∧
        (∀ k, k ≠ fld w 0 3 → t.m.ringTail k = s.m.ringTail k) ∧
        becomes s t { s.m with rings := { s.m.rings with tail := t.m.rings.tail } }) ∧
    (s.m.ringOn (fld w 0 3) = true → 6 ≤ fld w 0 3 →
      (s.m.ringTail (fld w 0 3) + 256 - fld w 8 8) % 256 ≤ s.m.ringCount (fld w 0 3) →
      ∃ t, exec (.ringDbWrite w) s = .next t ∧ t.m.ringHead (fld w 0 3) = fld w 8 8 ∧
        (∀ k, k ≠ fld w 0 3 → t.m.ringHead k = s.m.ringHead k) ∧
        becomes s t { s.m with rings := { s.m.rings with head := t.m.rings.head } }) ∧
    ((s.m.ringOn (fld w 0 3) = false ∨
        fld w 0 3 < 6 ∧ s.m.ringSize (fld w 0 3) < (fld w 8 8 + 256 - s.m.ringHead (fld w 0 3)) % 256 ∨
        6 ≤ fld w 0 3 ∧ s.m.ringCount (fld w 0 3) < (s.m.ringTail (fld w 0 3) + 256 - fld w 8 8) % 256) →
      ∃ t, exec (.ringDbWrite w) s = .next t ∧ t.latched 0x04 1 ∧
        becomes s t { s.m with rings := { s.m.rings with dbErr := w } })

/-- `w` asks for ring `r` to change alone. -/
def Claim.asksOnly (w : Word) (r : Nat) (on : Bool) (s : State) : Prop :=
  bit w r = on ∧ s.m.ringClaims r = !on ∧ ∀ k, k < 8 → k ≠ r → bit w k = s.m.ringClaims k

/-- The place of a ring lets it be enabled (R333). -/
def Claim.ringPlaced (m : Mach) (r : Nat) : Prop :=
  m.ringBase r % m.ringSize r = 0 ∧ ∀ k, k < 8 → k ≠ r → m.ringClaims k = true →
    m.ringBase r + m.ringSize r ≤ m.ringBase k ∨ m.ringBase k + m.ringSize k ≤ m.ringBase r

/-- Enabling and disabling (R333, R341): a ring that fits starts with its indices at 0, CQ and EQ once word 0 of every slot
is cleared; one that does not fit stays off with CFG_ERR; one that is disabled keeps its commands in flight. -/
def Claim.enabling : Prop :=
  (∀ (w : Word) (r : Fin 8) (s : State), asksOnly w r true s → ringPlaced s.m r →
    ∃ t, exec (.ringEnable w) s = .next t ∧ t.m.ringHead r = 0 ∧ t.m.ringTail r = 0 ∧ t.m.ringOn r = decide (r.val < 6) ∧
      t.m.rings.clr.getLsbD r = decide (6 ≤ r.val) ∧
      (∀ k, k < 8 → k ≠ r.val → t.m.ringOn k = s.m.ringOn k ∧ t.m.ringHead k = s.m.ringHead k ∧
        t.m.ringTail k = s.m.ringTail k) ∧ ringsOnly s t) ∧
  (∀ (w : Word) (r : Fin 8) (s : State), asksOnly w r true s → ¬ ringPlaced s.m r →
    ∃ t, exec (.ringEnable w) s = .next t ∧ t.latched 0x04 2 ∧ becomes s t s.m) ∧
  (∀ (w : Word) (r : Fin 8) (s : State), asksOnly w r false s → r ≠ 7 →
    ∃ t, exec (.ringEnable w) s = .next t ∧ t.m.ringOn r = false ∧ t.m.rings.infl = s.m.rings.infl ∧
      (∀ k, k < 8 → k ≠ r.val → t.m.ringOn k = s.m.ringOn k) ∧ ringsOnly s t) ∧
  (∀ (r : Fin 8) (s : State), s.m.rings.clr.getLsbD r = true →
    ∃ t, exec (.ringClearDone r) s = .next t ∧ t.m.ringOn r = true ∧
      (∀ i, i < s.m.ringSize r → t.sramWord (s.m.slotWord r i) = 0) ∧
      (∀ a, (∀ i, i < s.m.ringSize r → a / 2 ≠ s.m.slotWord r i) → Memory.read t.sram a = Memory.read s.sram a) ∧
      t.m = { s.m with rings := { s.m.rings with en := t.m.rings.en, clr := t.m.rings.clr } } ∧ sameStore s t) ∧
  (∀ (r : Fin 8) (s : State), s.m.rings.clr.getLsbD r = false → exec (.ringClearDone r) s = .next s)

/-- The entry written at TAIL of ring `r`: word 0 `head` with PHASE, then the words `ws`; TAIL advances, and no other byte
of the SRAM changes (R339). -/
def Claim.postsEntry (r head : Nat) (ws : List Word) (s t : State) : Prop :=
  t.sramWord (s.m.slotWord r (s.m.ringTail r)) =
      wd (head + if s.m.ringTail r / s.m.ringSize r % 2 = 0 then 0x8000 else 0) ∧
    (∀ k w, ws[k]? = some w → t.sramWord (s.m.slotWord r (s.m.ringTail r) + 1 + k) = w) ∧
    (∀ a, (a / 2 < s.m.slotWord r (s.m.ringTail r) ∨ s.m.slotWord r (s.m.ringTail r) + ws.length < a / 2) →
      Memory.read t.sram a = Memory.read s.sram a) ∧
    t.m.ringTail r = (s.m.ringTail r + 1) % 256

/-- The rings write entries (R339 to R341, R343): CQ takes the oldest completion, whose command is then no longer in
flight; EQ takes an OVERFLOW entry before any other, then the oldest fault-record item that waits for it, then collected
entries; entries that find EQ full are lost. -/
def Claim.entries : Prop :=
  (∀ s : State, s.m.ringOn 6 = true → s.m.ringFull 6 = false → ∀ c, s.m.rings.compl.head? = some c →
    ∃ t, exec .cqPost s = .next t ∧ t.m.rings.compl = s.m.rings.compl.tail ∧
      postsEntry 6 (c.opcode + 256 * c.tag.toNat) [wd (c.status + 256 * c.state), wd (c.ring + 256 * c.idx),
        wordOf c.time.toNat 0, wordOf c.time.toNat 1, wordOf c.time.toNat 2, c.res0, c.res1] s t ∧
      (c.own = true → ∀ i, i ∈ t.m.rings.infl → ¬(i.tag = c.tag.toNat ∧ i.ring = c.ring ∧ i.idx = c.idx)) ∧
      (c.own = false → t.m.rings.infl = s.m.rings.infl) ∧ t.latched 0x04 0 ∧ evtKept s.m t.m ∧
      t.m.quiet = ({ s.m with rings := t.m.rings } : Mach).quiet ∧ sameStore s t) ∧
  (∀ s : State, (s.m.ringOn 6 = false ∨ s.m.ringFull 6 = true ∨ s.m.rings.compl = []) → exec .cqPost s = .next s) ∧
  (∀ s : State, s.m.ringOn 7 = true → s.m.ringFull 7 = false → s.m.rings.ovfDue = true →
    ∃ t, exec .eqPost s = .next t ∧ t.m.rings.ovfDue = false ∧
      postsEntry 7 (4 + 256 * 5) [0, wordOf s.m.time.toNat 0, wordOf s.m.time.toNat 1, wordOf s.m.time.toNat 2,
        wd s.m.rings.eqLost, 0, 0] s t ∧
      t.m = { s.m with rings := { s.m.rings with ovfDue := false, tail := t.m.rings.tail } } ∧ sameStore s t) ∧
  (∀ s : State, s.m.ringOn 7 = true → s.m.ringFull 7 = false → s.m.rings.ovfDue = false →
    ∀ it, s.m.frq.find? (·.eqDue) = some it → it.kind = 0 →
    ∃ t, exec .eqPost s = .next t ∧
      postsEntry 7 (0x20 + it.ch + 256 * 1) [wd (it.ch + 256 * it.code + 4096 * it.detail), wordOf it.time.toNat 0,
        wordOf it.time.toNat 1, wordOf it.time.toNat 2, wd it.st, wd it.est, 0] s t ∧
      t.m = { s.m with rings := { s.m.rings with tail := t.m.rings.tail }, frq := t.m.frq } ∧ sameStore s t) ∧
  (∀ s : State, s.m.ringOn 7 = true → s.m.ringFull 7 = false → s.m.rings.ovfDue = false →
    s.m.frq.find? (·.eqDue) = none → ∀ e, s.m.rings.evq.head? = some e → e.type ≠ 0 →
    ∃ t, exec .eqPost s = .next t ∧ t.m.rings.evq = s.m.rings.evq.tail ∧
      postsEntry 7 (e.page + 256 * e.type) [e.w1, wordOf e.time.toNat 0, wordOf e.time.toNat 1, wordOf e.time.toNat 2,
        e.w5, e.w6, e.w7] s t ∧
      t.m = { s.m with rings := { s.m.rings with evq := t.m.rings.evq, tail := t.m.rings.tail } } ∧ sameStore s t) ∧
  (∀ s : State, s.m.ringOn 7 = true → s.m.ringFull 7 = true →
    ∃ t, exec .eqPost s = .next t ∧ t.m.rings.evq = [] ∧
      t.m.rings.eqLost = (if s.m.rings.evq = [] then s.m.rings.eqLost
        else min 0xFFFF (s.m.rings.eqLost + s.m.rings.evq.length)) ∧
      (s.m.rings.evq ≠ [] → t.m.rings.eqOvf = true) ∧ t.m.frq = s.m.frq ∧ becomes s t s.m) ∧
  (∀ s : State, s.m.ringOn 7 = false → exec .eqPost s = .next s)

/-- The rings (R333 to R335, R339 to R341, R343). -/
def Obligations.RingsMoveTheirIndices : Prop := doorbells ∧ enabling ∧ entries

/-! ## Commands through the rings -/

/-- The state with another machine. -/
def Claim.onlyM (s : State) (m : Mach) : State := { s with m := m }

/-- The machine after the command `i` has ended with a completion of this time that waits for CQ (R339, R342). -/
def Claim.answeredAt (time : Time) (i : Infl) (own : Bool) (status state : Nat) (r0 r1 : Word) (m : Mach) : Mach :=
  { m with rings := { m.rings with compl := m.rings.compl ++
    [{ opcode := i.opcode, tag := BitVec.ofNat 6 i.tag, status := status, state := state, ring := i.ring, idx := i.idx,
       time := time, res0 := r0, res1 := r1, dp := dpRing i.ring, own := own }] } }

/-- The same at the present time. -/
def Claim.answered (i : Infl) (own : Bool) (status state : Nat) (r0 r1 : Word) (m : Mach) : Mach :=
  answeredAt m.time i own status state r0 r1 m

/-- The descriptor at the head of ring `r` (R331, R336). -/
def Claim.headDescriptor (r : Nat) (s : State) : Infl :=
  ⟨r, s.m.ringHead r, (List.range 8).map fun k => s.sramWord (s.m.slotWord r (s.m.ringHead r) + k)⟩

/-- The descriptor is one its ring and the part accept (R337, R338). -/
def Claim.acceptable (i : Infl) (m : Mach) : Prop :=
  opcodeOn i.ring i.opcode = true ∧ tagOn i.ring i.tag = true ∧ (opcodeX i.opcode = true → m.dev.part.isX = true)

/-- A fetch (R336 to R338, R342 to R344): in the engine's turn the descriptor at HEAD is taken whole and HEAD advances; with
its tag free it is in flight; a busy tag, an uncorrectable word, a wrong opcode or tag, or an absent feature completes it at
once with its status. Out of turn nothing happens, but that the engine looks at the head of SQ5. -/
def Claim.fetches : Prop :=
  (∀ (r : Fin 6) (s : State), s.fetchTurn r = true → s.eccBad = [] →
    ∃ t, exec (.descriptorFetch r) s = .next t ∧ t.m.ringHead r = (s.m.ringHead r + 1) % 256 ∧
      (∀ k, k ≠ r.val → t.m.ringHead k = s.m.ringHead k) ∧
      (s.m.tagBusy (headDescriptor r s).tag = true → t.m.rings.infl = s.m.rings.infl ∧
        t.m.rings.compl = (answered (headDescriptor r s) false 3 6 0 0 s.m).rings.compl) ∧
      (s.m.tagBusy (headDescriptor r s).tag = false → t.m.rings.infl = s.m.rings.infl ++ [headDescriptor r s]) ∧
      (s.m.tagBusy (headDescriptor r s).tag = false → acceptable (headDescriptor r s) s.m →
        t.m.rings.compl = s.m.rings.compl) ∧
      (s.m.tagBusy (headDescriptor r s).tag = false → opcodeOn r (headDescriptor r s).opcode = false →
        t.m.rings.compl = (answered (headDescriptor r s) true 1 6 0 0 s.m).rings.compl) ∧
      (s.m.tagBusy (headDescriptor r s).tag = false → opcodeOn r (headDescriptor r s).opcode = true →
        tagOn r (headDescriptor r s).tag = false →
        t.m.rings.compl = (answered (headDescriptor r s) true 2 6 0 0 s.m).rings.compl) ∧
      (s.m.tagBusy (headDescriptor r s).tag = false → opcodeOn r (headDescriptor r s).opcode = true →
        tagOn r (headDescriptor r s).tag = true → opcodeX (headDescriptor r s).opcode = true →
        s.m.dev.part.isX = false →
        t.m.rings.compl = (answered (headDescriptor r s) true 0xC 6 0 0 s.m).rings.compl) ∧
      ringsOnly s t) ∧
  (∀ (r : Fin 6) (k : Fin 8) (s : State), s.fetchTurn r = true →
    s.eccBad = [(s.m.slotWord r (s.m.ringHead r) + k, true)] →
    ∃ t, exec (.descriptorFetch r) s = .next t ∧
      (t.m.rings.compl.map fun c => (c.status, c.state)) = (s.m.rings.compl.map fun c => (c.status, c.state)) ++ [(0x0D, 6)] ∧
      t.latched 0x04 5 ∧ t.latched 0x00 1 ∧ ringsOnly s t) ∧
  (∀ (r : Fin 6) (s : State), s.fetchTurn r = false → r ≠ 5 ∨ s.eccBad = [] → exec (.descriptorFetch r) s = .next s) ∧
  (∀ s : State, s.m.dev.phase = .running → s.m.ringOn 0 = true → s.m.ringOn 6 = true → s.m.ringCount 0 ≠ 0 →
    s.m.inflCount false < s.m.ringSize 6 - s.m.ringCount 6 → s.m.cmt.pend = none → s.fetchTurn 0 = true)

/-- A command row does nothing while no command of its opcode is in flight under its tag. -/
def Claim.needsTag (opcode : Nat) (mk : Tag → Instr) : Prop :=
  ∀ (tag : Tag) (s : State), s.m.executing tag opcode = none → exec (mk tag) s = .next s

/-- So of every command row that names a tag (R338). -/
def Claim.needTags : Prop :=
  needsTag 0x01 .ringWrite ∧ needsTag 0x03 .ringCommit ∧ needsTag 0x08 .suspend ∧ needsTag 0x09 .resume ∧
  needsTag 0x0A .cancel ∧ needsTag 0x0B .opStatus ∧ needsTag 0x40 .otpProgram ∧ needsTag 0x41 .otpVerify ∧
  needsTag 0x42 .jnlCompact ∧ needsTag 0x43 .dlRecal ∧ needsTag 0x44 .thmSweep ∧ needsTag 0x50 .sigLearn ∧
  needsTag 0x51 .measSnap ∧ needsTag 0x60 .slJoin ∧ needsTag 0x61 .slSend ∧ needsTag 0x70 .mstXfer ∧
  needsTag 0x71 .chainEnum

/-- WRITE on a ring (R338): its 1 to 4 words are written as one frame, with PAST_END and WDISC in RESULT0. -/
def Claim.ringWrites : Prop :=
  ∀ (tag : Tag) (s : State), ∀ i, s.m.executing tag 0x01 = some i →
    (1 ≤ fld (i.word 3) 0 3 → fld (i.word 3) 0 3 ≤ 4 →
      ∃ t, exec (.ringWrite tag) s = .next t ∧
        t = { (s.writeFrameWords (i.word 2) ((i.words.drop 4).take (fld (i.word 3) 0 3))).1 with
              m := answered i true 0 5
                (wd (flag (s.writeFrameWords (i.word 2) ((i.words.drop 4).take (fld (i.word 3) 0 3))).2.pastEnd 0 +
                  flag (s.writeFrameWords (i.word 2) ((i.words.drop 4).take (fld (i.word 3) 0 3))).2.wdisc 1)) 0
                (s.writeFrameWords (i.word 2) ((i.words.drop 4).take (fld (i.word 3) 0 3))).1.m }) ∧
    ((fld (i.word 3) 0 3 = 0 ∨ 4 < fld (i.word 3) 0 3) →
      exec (.ringWrite tag) s = .next (onlyM s (answered i true 2 6 0 0 s.m)))

/-- COMMIT on a ring (R60, R67, R338): its request names the pages, the apply point and the tag of its descriptor; captured,
it holds the ring tag until the commit ends; refused, as it is while a commit waits, it completes REFUSED with the number and
the reason. One that has raised its request waits for its commit. -/
def Claim.ringCommits : Prop :=
  (∀ (tag : Tag) (s : State), (s.m.cmt.pend.bind (·.ringTag)) = some tag →
    ∃ t, exec (.ringCommit tag) s = .next t ∧ settlesTo s t s.m) ∧
  ∀ (tag : Tag) (s : State), ∀ i, s.m.executing tag 0x03 = some i → s.m.dev.phase = .running →
    (s.m.cmt.pend.bind (·.ringTag)) ≠ some tag →
    ∃ t, exec (.ringCommit tag) s = .next t ∧ (∀ a, t.m.cfg a = s.m.cfg a) ∧
      t.m.cmt.seq = (if s.m.cmt.seq = 0xFFFF then 1 else s.m.cmt.seq + 1) ∧
      (s.m.cmt.pend.isSome = true → t.m.cmt.pend = s.m.cmt.pend) ∧
      (s.m.cmt.pend = none → ∀ p, t.m.cmt.pend = some p → p.mask = i.word 5 ++ i.word 4 ++ i.word 3 ++ i.word 2 ∧ p.ctl = i.word 6 ∧
        p.tag = i.word 7 ∧ p.ringTag = some tag ∧ p.seq = t.m.cmt.seq ∧ t.m.rings.compl = s.m.rings.compl) ∧
      (s.m.cmt.pend.isSome = true ∨ t.m.cmt.pend = none → t.m.cmt.lrSeq = t.m.cmt.seq ∧ t.m.cmt.lrTag = i.word 7 ∧ t.latched 0x05 1 ∧
        t.m.rings.compl = (answered i true 8 6 t.m.cmt.lrSeq t.m.cmt.lrReason s.m).rings.compl ∧
        t.m.staged = s.m.staged) ∧
      sameStore s t

/-- MEAS_SNAP (R338): the first sample after the fetch of each named channel, in ascending order, is stored in the SRAM, and the
completion carries that sample's time; until it has come the command waits. Parameters out of range complete BAD_PARAM. -/
def Claim.measSnaps : Prop :=
  ∀ (tag : Tag) (s : State), ∀ i, s.m.executing tag 0x51 = some i →
    ((∀ n, n ∈ i.snapChs → n < s.m.nch) → fld (i.word 4) 8 8 + i.snapChs.length ≤ 256 →
      (s.m.rings.snaps.find? fun x => x.tag == i.tag) = none → exec (.measSnap tag) s = .next s) ∧
    ((∀ n, n ∈ i.snapChs → n < s.m.nch) → fld (i.word 4) 8 8 + i.snapChs.length ≤ 256 →
      ∀ x, (s.m.rings.snaps.find? fun x => x.tag == i.tag) = some x →
      ∃ t, exec (.measSnap tag) s = .next t ∧
        t.m = answeredAt x.time i true 0 5 (wd i.snapChs.length) 0
          { s.m with rings := { s.m.rings with snaps := s.m.rings.snaps.filter fun y => y.tag != i.tag } } ∧
        (∀ k n, i.snapChs[k]? = some n →
          t.sramWord (256 * fld (i.word 4) 0 6 + fld (i.word 4) 8 8 + k) = satS16 (nth x.i n 0)) ∧
        (∀ a, (a / 2 < 256 * fld (i.word 4) 0 6 + fld (i.word 4) 8 8 ∨
            256 * fld (i.word 4) 0 6 + fld (i.word 4) 8 8 + i.snapChs.length ≤ a / 2) →
          Memory.read t.sram a = Memory.read s.sram a) ∧ sameStore s t) ∧
    ((256 < fld (i.word 4) 8 8 + i.snapChs.length ∨ ∃ n, n < 24 ∧ i.snapChs.contains n = true ∧ s.m.nch ≤ n) →
      exec (.measSnap tag) s = .next (onlyM s (answered i true 2 6 0 0 s.m)))

/-- Fetches and the commands that end at once (R336 to R338, R342 to R344). -/
def Obligations.RingCommandsRun : Prop := fetches ∧ needTags ∧ ringWrites ∧ ringCommits ∧ measSnaps

/-! ## Long operations -/

/-- Operation `o` with another state and cause. -/
def Claim.opMoved (o : LongOp) (st : OpSt) (cause : Nat) (m : Mach) : Mach :=
  { m with ops := m.ops.map fun x =>
    if x.kind = o.kind ∧ x.tag = o.tag ∧ x.auto = o.auto then { x with st := st, cause := cause } else x }

/-- Operation `o` has ended (R346, R347): it is no longer live, is the latest of its kind, and completes unless AUTO_JOIN
began it. -/
def Claim.opEnded (o : LongOp) (st : OpSt) (status : Nat) (r0 r1 : Word) (m : Mach) : Mach :=
  let m' := { m with ops := m.ops.filter fun x => !(x.kind == o.kind && x.tag == o.tag && x.auto == o.auto)
                     opLast := (o.kind, { o with st := st }) :: m.opLast.filter fun p => p.1 != o.kind }
  if o.auto then m' else answered o.infl true status st.code r0 r1 m'

/-- A control command for a tag without a live operation completes TAG_UNKNOWN (R345). -/
def Claim.unknownTag (opcode : Nat) (mk : Tag → Instr) : Prop :=
  ∀ (tag : Tag) (s : State), ∀ i, s.m.executing tag opcode = some i →
    (s.m.ops.find? fun o => o.tag.toNat == fld (i.word 2) 0 6 && !o.auto) = none →
    exec (mk tag) s = .next (onlyM s (answered i true 4 6 0 0 s.m))

/-- SUSPEND (R346, R347): only the kinds that can be suspended; a suspended one stays; a verify stands at the word it has come to,
a capture being learnt is not taken, and an enumeration suspends between frames. -/
def Claim.suspends : Prop :=
  ∀ (tag : Tag) (s : State), ∀ i, s.m.executing tag 0x08 = some i →
    ∀ o, (s.m.ops.find? fun o => o.tag.toNat == fld (i.word 2) 0 6 && !o.auto) = some o →
    (o.kind = 7 → s.m.mst.active.isSome = true → exec (.suspend tag) s = .next s) ∧
    (suspendable o.kind = false →
      exec (.suspend tag) s = .next (onlyM s.verifyStep (answered i true 5 6 0 0 s.verifyStep.m))) ∧
    (suspendable o.kind = true → (o.kind = 7 → s.m.mst.active = none) → o.st = .suspended →
      exec (.suspend tag) s = .next (onlyM s.verifyStep (answered i true 0 5 0 0 s.verifyStep.m))) ∧
    (suspendable o.kind = true → (o.kind = 7 → s.m.mst.active = none) → o.st ≠ .suspended →
      ∃ t, exec (.suspend tag) s = .next t ∧ t.latched 0x04 4 ∧
        becomes s.verifyStep t (answered i true 0 5 0 0 (opMoved o .suspended 1
          (if o.kind = 5 ∧ o.st = .running then
            s.verifyStep.m.modCh (s.m.leader o.learnCh) fun c =>
              { c with sig := { c.sig with cap := c.sig.cap.map fun x => { x with skip := true } } }
           else s.verifyStep.m))))

/-- Operation `o` has resumed (R346, R348): it runs again where it had run and the OTP controller is free for it, else it is
queued again; a verify counts on from now. -/
def Claim.opResumed (o : LongOp) (m : Mach) : Mach :=
  if o.ran = true ∧ ¬(o.kind ≤ 1 ∧ ((m.opRunning 0).isSome = true ∨ (m.opRunning 1).isSome = true)) then
    { m with ops := m.ops.map fun x =>
      if x.kind = o.kind ∧ x.tag = o.tag ∧ x.auto = o.auto then
        { x with st := .running, cause := 0, aux := if o.kind = 1 then [(m.now : Int)] else x.aux }
      else x }
  else opMoved o .queued 0 m

/-- RESUME (R346, R348): only a suspended operation, and once no condition forces it to stay; a program that has not taken its
image makes the checks of its issue. -/
def Claim.resumes : Prop :=
  ∀ (tag : Tag) (s : State), ∀ i, s.m.executing tag 0x09 = some i →
    ∀ o, (s.m.ops.find? fun o => o.tag.toNat == fld (i.word 2) 0 6 && !o.auto) = some o →
    ((o.kind = 0 → ∀ r, s.m.opRunning 0 = some r → r.aux ≠ []) →
      (o.st ≠ .suspended → exec (.resume tag) s = .next (onlyM s (answered i true 6 6 0 0 s.m))) ∧
      (o.st = .suspended → s.m.forcedNow o.kind = true →
        exec (.resume tag) s = .next (onlyM s (answered i true 7 6 0 0 s.m))) ∧
      (o.st = .suspended → s.m.forcedNow o.kind = false → (o.kind = 0 → o.aux ≠ []) →
        exec (.resume tag) s = .next (onlyM s (answered i true 0 5 0 0 (opResumed o s.m)))) ∧
      (o.st = .suspended → s.m.forcedNow o.kind = false → o.kind = 0 → o.aux = [] →
        exec (.resume tag) s = .next ((onlyM s (answered i true 0 5 0 0 (opResumed o s.m))).checkImage o)))

/-- What a cancelled operation holds is free again: the delay line, or the join of the link. -/
def Claim.opFreed (o : LongOp) (m : Mach) : Mach :=
  if o.st = .queued then m
  else if o.kind = 3 then { m with dl := { m.dl with busy := false } }
  else if o.kind = 6 then { m with site := { m.site with join := none } } else m

/-- CANCEL and STATUS (R345, R347, R348): a cancelled operation ends CANCELLED with its progress, an OTP operation reports its
position, and the command ends OK; STATUS answers the state, the cause and the progress. -/
def Claim.cancelsAndStatus : Prop :=
  (∀ (tag : Tag) (s : State), ∀ i, s.m.executing tag 0x0A = some i →
    ∀ o, (s.m.ops.find? fun o => o.tag.toNat == fld (i.word 2) 0 6 && !o.auto) = some o →
    (o.kind ≠ 1 → (o.kind = 0 → o.st ≠ .running) →
      exec (.cancel tag) s = .next (onlyM s (answered i true 0 5 0 0
        (opEnded { o with prog := s.m.opProg o } .cancelled 0x0F 0 (if o.kind = 0 then wd (s.m.opProg o) else 0)
          (opFreed o s.m))))) ∧
    (o.kind = 1 → ∀ v, s.verifyStep.m.opTarget i = some v →
      exec (.cancel tag) s = .next (onlyM s.verifyStep (answered i true 0 5 0 0
        (opEnded { v with prog := s.verifyStep.m.opProg v } .cancelled 0x0F 0 (wd (s.verifyStep.m.opProg v))
          s.verifyStep.m))))) ∧
  (∀ (tag : Tag) (s : State), ∀ i, s.m.executing tag 0x0A = some i →
    ∀ o, (s.m.ops.find? fun o => o.tag.toNat == fld (i.word 2) 0 6 && !o.auto) = some o →
    o.kind = 0 → o.st = .running →
    ∃ t, exec (.cancel tag) s = .next t ∧ t.m.rings.compl = (answered i true 0 5 0 0
      (opEnded o .cancelled 0x0F 0 (wd (min 0xFFFF o.prog)) s.m)).rings.compl ∧ storeHeld s t) ∧
  (∀ (tag : Tag) (s : State), ∀ i, s.m.executing tag 0x0B = some i →
    ∀ o, (s.m.ops.find? fun o => o.tag.toNat == fld (i.word 2) 0 6 && !o.auto) = some o →
      exec (.opStatus tag) s = .next (onlyM s (answered i true 0 5
        (wd (o.st.code + 8 * (if o.st = .suspended then o.cause else 0))) (wd (s.m.opProg o)) s.m))) ∧
  unknownTag 0x08 .suspend ∧ unknownTag 0x09 .resume ∧ unknownTag 0x0A .cancel ∧ unknownTag 0x0B .opStatus

/-- Operation control (R345 to R348). -/
def Claim.operationControl : Prop := suspends ∧ resumes ∧ cancelsAndStatus

/-- A new operation, queued (R347). -/
def Claim.queuedOp (i : Infl) (kind : Nat) (m : Mach) : Mach :=
  { m with ops := m.ops ++ [{ kind := kind, tag := BitVec.ofNat 6 i.tag, st := .queued, cause := 0, ran := false, prog := 0,
                              words := i.words, ring := i.ring, idx := i.idx, auto := false, aux := [] }] }

/-- A submission whose parameters `good` accepts is queued, else it completes BAD_PARAM. -/
def Claim.submits (opcode kind : Nat) (mk : Tag → Instr) (good : Infl → Mach → Bool) : Prop :=
  ∀ (tag : Tag) (s : State), ∀ i, s.m.executing tag opcode = some i →
    (good i s.m = true → exec (mk tag) s = .next (onlyM s (queuedOp i kind s.m))) ∧
    (good i s.m = false → exec (mk tag) s = .next (onlyM s (answered i true 2 6 0 0 s.m)))

/-- Submission (R183, R279, R338, R351, R375, R414, R415, R417, R430): with parameters in range a long operation is queued.
Programming is refused LOCKED while protection is in force, on every region but FT and ID. -/
def Claim.submissions : Prop :=
  submits 0x43 3 .dlRecal (fun _ _ => true) ∧
  submits 0x44 4 .thmSweep (fun i _ => decide (60 ≤ (i.word 2).toNat ∧ (i.word 2).toNat ≤ 600)) ∧
  submits 0x50 5 .sigLearn (fun i m => decide (fld (i.word 2) 0 5 < m.nch)) ∧
  submits 0x60 6 .slJoin (fun i _ => decide (1 ≤ fld (i.word 2) 0 10 ∧ fld (i.word 2) 0 10 ≤ 600)) ∧
  submits 0x71 7 .chainEnum (fun i m =>
    bit (m.cfg (0x1110 + fld (i.word 2) 0 3)) 0 && decide (fld (m.cfg 0x1109) 0 4 ≠ 0)) ∧
  submits 0x41 1 .otpVerify (fun i _ => !(bit (i.word 2) 8 && i.imageTooLong false)) ∧
  (∀ (tag : Tag) (s : State), ∀ i, s.m.executing tag 0x42 = some i → s.m.dev.part.isX = true →
    exec (.jnlCompact tag) s = .next (onlyM s (queuedOp i 2 s.m))) ∧
  (∀ (tag : Tag) (s : State), ∀ i, s.m.executing tag 0x40 = some i →
    (i.imageTooLong i.withSeal = true → exec (.otpProgram tag) s = .next (onlyM s (answered i true 2 6 0 0 s.m))) ∧
    (i.imageTooLong i.withSeal = false → s.m.protected? = true → i.region ≠ 0 → i.region ≠ 1 →
      exec (.otpProgram tag) s = .next (onlyM s (answered i true 9 6 0 0
        { s.m with sec := { s.m.sec with denyCnt := inc16 s.m.sec.denyCnt } }))) ∧
    (i.imageTooLong i.withSeal = false → (s.m.protected? = false ∨ i.region = 0 ∨ i.region = 1) →
      exec (.otpProgram tag) s = .next (onlyM s (queuedOp i 0 s.m))))

/-- The SRAM words of the image of a programming operation (R414). -/
def Claim.imageWords (o : LongOp) (s : State) : List Word :=
  (List.range (o.infl.imageLen o.infl.withSeal)).map fun j => s.sramWord (o.infl.imageAt + j)

/-- Operation `o` runs. -/
def Claim.opStarted (o : LongOp) (aux : List Int) (m : Mach) : Mach :=
  { m with ops := m.ops.map fun x =>
    if x.kind = o.kind ∧ x.tag = o.tag ∧ x.auto = o.auto then { x with st := .running, ran := true, aux := aux } else x }

/-- The start of the oldest queued operation of a kind whose resource is free (R183, R207, R279, R346, R347, R375, R411, R415): a
recalibration needs REFCLK, a sweep begins its record, a join needs a role and a key, learning CAP_EN; programming runs its
checks and takes its image, and outside its window an OTP operation is suspended at once. -/
def Claim.starts : Prop :=
  (∀ (k : Fin 8) (s : State),
    (s.m.dev.phase ≠ .running ∨ s.m.resourceFree k = false ∨ s.m.opQueued k = none) →
    exec (.longOpStart k) s = .next s) ∧
  (∀ (k : Fin 8) (s : State), s.m.dev.phase = .running → s.m.resourceFree k = true → ∀ o, s.m.opQueued k = some o →
    (k = 2 ∨ k = 7 → exec (.longOpStart k) s = .next (onlyM s (opStarted o o.aux s.m))) ∧
    (k = 4 → exec (.longOpStart k) s = .next (onlyM s ({ opStarted o [(s.m.lf : Int)] s.m with
      thm := { s.m.thm with sweep := [] } }))) ∧
    (k = 3 → s.m.clk.refOk = true →
      exec (.longOpStart k) s = .next (onlyM s ({ opStarted o [(s.m.now : Int)] s.m with
        dl := { s.m.dl with busy := true } }))) ∧
    (k = 3 → s.m.clk.refOk = false →
      ∃ t, exec (.longOpStart k) s = .next t ∧ t.m.ops = (opEnded o .failed 0x0E 0 (wd o.prog) s.m).ops ∧
        t.m.dl = s.m.dl ∧ sameStore s t) ∧
    (k = 6 → s.m.siteRole = 0 → exec (.longOpStart k) s = .next (onlyM s (opEnded o .failed 0x0E 5 (wd o.prog) s.m))) ∧
    (k = 6 → s.m.siteRole ≠ 0 → s.m.keyErr = true →
      exec (.longOpStart k) s = .next (onlyM s (opEnded o .failed 0x0E 3 (wd o.prog) s.m))) ∧
    (k = 6 → s.m.siteRole ≠ 0 → s.m.keyErr = false →
      ∃ t, exec (.longOpStart k) s = .next t ∧
        t.m = { opStarted o o.aux s.m with site := { s.m.site with
          join := some ⟨0, 0, false, s.m.zc.st == .locked⟩, timedOut := false } } ∧ t.sram = s.sram ∧ sameStore s t) ∧
    (k = 5 → bit (s.m.lw o.learnCh 0x43) 3 = true →
      exec (.longOpStart k) s = .next (onlyM s (opStarted o (if o.ran then o.aux else []) s.m))) ∧
    (k = 5 → bit (s.m.lw o.learnCh 0x43) 3 = false →
      ∃ t, exec (.longOpStart k) s = .next t ∧ t.m.ops = (opEnded o .failed 0x0E 0 (wd o.prog) s.m).ops ∧
        sameStore s t) ∧
    (k = 1 → s.m.winVdd = true → s.m.clk.refOk = true →
      exec (.longOpStart k) s = .next (onlyM s (opStarted o [(s.m.now : Int)] s.m))) ∧
    (k = 1 → (s.m.winVdd = false ∨ s.m.clk.refOk = false) →
      ∃ t, exec (.longOpStart k) s = .next t ∧ t.latched 0x0C 6 ∧ t.latched 0x04 4 ∧
        becomes s t (opMoved o .suspended 2 (opStarted o [(s.m.now : Int)] s.m))) ∧
    (k = 0 → s.m.winAll = false →
      ∃ t, exec (.longOpStart k) s = .next t ∧ t.latched 0x0C 6 ∧ t.latched 0x04 4 ∧
        becomes s t (opMoved o .suspended 2 (opStarted o o.aux s.m))) ∧
    (k = 0 → s.m.winAll = true → o.aux ≠ [] → exec (.longOpStart k) s = .next (onlyM s (opStarted o o.aux s.m))) ∧
    (k = 0 → s.m.winAll = true → o.aux = [] → s.eccBad = [] →
      (∀ r, s.programCheck (imageWords o s) false o.infl = some r →
        ∃ t, exec (.longOpStart k) s = .next t ∧
          t.m.rings.compl = (opEnded { o with aux := [] } .failed 0x0E (wd r) 0 s.m).rings.compl ∧ t.sram = s.sram ∧
          sameStore s t) ∧
      (s.programCheck (imageWords o s) false o.infl = none →
        ∃ t, exec (.longOpStart k) s = .next t ∧ t.m.rings = s.m.rings ∧
          (∀ x, t.m.opRunning 0 = some x → x.tag = o.tag → x.aux.length = regionLen o.infl.region + 1 ∧
            x.prog = if o.infl.sealOnly then dataPositions o.infl.region else 0) ∧
          (∀ j, j < regionLen o.infl.region → secretWord (regionBase o.infl.region + j) = true →
            ∀ c, c < 4 → t.sramWord (o.infl.imageAt + 4 * j + c) = 0) ∧ sameStore s t)))

/-- The ends of running operations (R207, R279, R325, R346, R416, R417, R430): a finished one ends DONE with its results, another
FAILED; a recalibration's map reaches the compare units, a sweep ends by its record and fit, a verify by its words, an
enumeration by the devices found. One that is not over goes on, and ends of kinds that end in their own events do nothing. -/
def Claim.ends : Prop :=
  (∀ (k : Fin 8) (e : OpEnd) (s : State), (Instr.longOpEnd k e).WellFormed = true → s.m.opRunning k = none →
    exec (.longOpEnd k e) s = .next s) ∧
  (∀ (k : Fin 8) (e : OpEnd) (s : State), ∀ o, s.m.opRunning k = some o →
    (k = 3 → (Instr.longOpEnd k e).WellFormed = true → e.ok = true →
      ∃ t, exec (.longOpEnd k e) s = .next t ∧
        t.m = opEnded { o with prog := 512 } .done 0 0 0 { s.m with
          dl := { s.m.dl with busy := false, map := true, fine := e.map }, outs := t.m.outs } ∧
        (∀ x, x ∈ s.m.units → (t.m.out x).riseEl = nth e.map (s.m.out x).rise.fine 0 ∧
          (t.m.out x).fallEl = nth e.map (s.m.out x).fall.fine 0) ∧
        (∀ x, { t.m.out x with riseEl := 0, fallEl := 0 } = { s.m.out x with riseEl := 0, fallEl := 0 }) ∧
        t.sram = s.sram ∧ sameStore s t) ∧
    (k = 3 → e.ok = false → exec (.longOpEnd k e) s = .next (onlyM s
      (opEnded { o with prog := s.m.opProg o } .failed 0x0E e.reason (wd (s.m.opProg o))
        { s.m with dl := { s.m.dl with busy := false } }))) ∧
    (k = 4 → 3 ≤ sweepSpan s.m.thm.sweep → (Config.sweepFit s.m.thm.sweep).2.2 ≤ 1 →
      ∃ t, exec (.longOpEnd k e) s = .next t ∧ t.m.thm.idValid = true ∧
        (t.m.thm.idRba, t.m.thm.idChs) =
          (wd (min 0xFFFF (inUnits (Config.sweepFit s.m.thm.sweep).1).toNat),
            wd (min 0xFFFF (inUnits (Config.sweepFit s.m.thm.sweep).2.1).toNat)) ∧
        t.m = opEnded { o with prog := s.m.sweepSeconds o } .done 0 0 0 { s.m with thm := { s.m.thm with
          idValid := true, idRba := t.m.thm.idRba, idChs := t.m.thm.idChs, idRes := t.m.thm.idRes } } ∧
        t.sram = s.sram ∧ sameStore s t) ∧
    (k = 4 → (sweepSpan s.m.thm.sweep < 3 ∨ 1 < (Config.sweepFit s.m.thm.sweep).2.2) →
      ∃ t, exec (.longOpEnd k e) s = .next t ∧ t.m.thm = s.m.thm ∧
        t.m.ops = (opEnded o .failed 0x0E 0 (wd (s.m.sweepSeconds o)) s.m).ops ∧ t.sram = s.sram ∧ sameStore s t) ∧
    (k = 2 → s.nextMove = none → s.m.jnl.busy = none → exec (.longOpEnd k e) s = .next (onlyM s (opEnded o .done 0 (wd o.prog) 0 s.m))) ∧
    (k = 0 → o.endPos ≤ o.prog →
      exec (.longOpEnd k e) s = .next (onlyM s (opEnded o .done 0 (wd (s.marginalCount o.infl.region)) (wd o.prog) s.m))) ∧
    (k = 2 → (s.nextMove.isSome = true ∨ s.m.jnl.busy.isSome = true) → exec (.longOpEnd k e) s = .next s) ∧
    (k = 0 → o.prog < o.endPos → exec (.longOpEnd k e) s = .next s) ∧
    (k = 1 → bit (o.word 2) 8 = false →
      ∃ t, exec (.longOpEnd k e) s = .next t ∧ t.m.opRunning 1 ≠ some o ∧
        t.m.rings.compl = (opEnded o .done 0 (wd (s.marginalCount o.infl.region)) (wd o.verifyLen) s.m).rings.compl ∧
        (∀ w, w ∈ verifyWords o.infl.region → w < 128 → t.m.otp.marg.getLsbD w = s.nv.marginal w ∧
          t.m.otp.corr.getLsbD w = (s.nv.read w).2.1 ∧ t.m.otp.uncorr.getLsbD w = (s.nv.read w).2.2) ∧
        t.sram = s.sram ∧ sameStore s t) ∧
    (k = 1 → bit (o.word 2) 8 = true → s.eccBad = [] →
      ∃ t, exec (.longOpEnd k e) s = .next t ∧ t.m.opRunning 1 ≠ some o ∧
        (∀ j, ((List.range (regionLen o.infl.region)).find? fun j => (s.nv.read (regionBase o.infl.region + j)).1 !=
            s.m.imageStored ((List.range (o.infl.imageLen false)).map fun c => s.sramWord (o.infl.imageAt + c)) o.infl j) =
            some j →
          t.m.rings.compl = (opEnded o .failed 0x0E 7 (wd j) s.m).rings.compl) ∧ sameStore s t) ∧
    (k = 7 → s.m.mst.active.isSome = true → exec (.longOpEnd k e) s = .next s) ∧
    (k = 7 → s.m.mst.active = none →
      (o.aux = [] → exec (.longOpEnd k e) s = .next s) ∧
      (∀ a, o.aux.head? = some a → a.toNat = 0 → ∃ t, exec (.longOpEnd k e) s = .next t ∧
        t.m.ops = (opEnded o .failed 0x0E 0 (wd o.prog) s.m).ops ∧ (∀ x, t.m.cfg x = s.m.cfg x) ∧ sameStore s t) ∧
      (∀ a, o.aux.head? = some a → 1 ≤ a.toNat → a.toNat ≤ 16 → 2 ≤ o.prog →
        ∃ t, exec (.longOpEnd k e) s = .next t ∧
          fld (t.m.cfg (0x1110 + fld (o.word 2) 0 3)) 6 4 = a.toNat - 1 ∧
          (∀ x, x ≠ 0x1110 + fld (o.word 2) 0 3 → t.m.cfg x = s.m.cfg x) ∧
          t.m = { opEnded o .done 0 (wd a.toNat) 0 s.m with active := t.m.active } ∧ t.sram = s.sram ∧ sameStore s t)) ∧
    (k = 5 → bit (s.m.lw o.learnCh 0x43) 3 = true → exec (.longOpEnd k e) s = .next s) ∧
    (k = 6 → exec (.longOpEnd k e) s = .next s))

/-- Long operations are submitted, start, are suspended, resumed and cancelled, and end (R345 to R348). -/
def Obligations.LongOperations : Prop := operationControl ∧ submissions ∧ starts ∧ ends

/-! ## The port master -/

/-- The grants and the halt (R353, R354): a grant is given at once, and ends at once or with the transaction in progress;
the watchdog grant ends with the next falling CSN. Parts without the master have none. -/
def Claim.grants : Prop :=
  (∀ s : State, s.m.dev.part.isX = true →
    exec .mstGrant s = .next (onlyM s { s.m with mst := { s.m.mst with grant := true, revoke := false } }) ∧
    (s.m.mst.active = none → exec .mstRevoke s = .next (onlyM s { s.m with mst := { s.m.mst with grant := false } })) ∧
    (s.m.mst.active.isSome = true →
      exec .mstRevoke s = .next (onlyM s { s.m with mst := { s.m.mst with revoke := s.m.mst.grant } })) ∧
    exec .mstClearHalt s = .next (onlyM s { s.m with mst := { s.m.mst with halt := false } })) ∧
  (∀ s : State, exec .watchdogGrantEnd s = .next (onlyM s { s.m with mst := { s.m.mst with wdgGrant := false } })) ∧
  (∀ s : State, s.m.dev.part.isX = false →
    exec .mstGrant s = .next s ∧ exec .mstRevoke s = .next s ∧ exec .mstClearHalt s = .next s)

/-- The master may start a transaction for descriptor `i` (R352 to R355). -/
def Claim.masterFree (s : State) (i : Infl) : Prop :=
  s.m.dev.phase = .running ∧ s.m.pwr.vddOk = true ∧ s.m.clk.refOk = true ∧ s.m.mst.active = none ∧ s.m.mst.halt = false ∧
    s.m.mst.csn = true ∧ (s.m.mst.wdgGrant = true ∨ s.m.mst.grant = true ∧ bit (i.word 1) 0 = false)

/-- The words a write of descriptor `i` sends. -/
def Claim.wordsToSend (i : Infl) (s : State) : List Word :=
  (List.range (if i.opcode = 0x70 ∧ i.mstReads = false then i.mstWords else 0)).map fun k => s.sramWord (i.mstAt + k)

/-- MST_XFER and the start of a transaction (R322, R350 to R355): a descriptor out of range completes BAD_PARAM; any other waits
for the master, which takes it when it is granted, idle, not halted and CSN is high. The frame it sends holds opcode, address
and the words of a write, on a chain six bytes a stage with the command at its position. -/
def Claim.transactionsStart : Prop :=
  (∀ (tag : Tag) (s : State), ∀ i, s.m.executing tag 0x70 = some i →
    (s.m.mst.active = none → s.m.mstBad i = true →
      exec (.mstXfer tag) s = .next (onlyM s (answered i true 2 6 0 0 s.m))) ∧
    (s.m.mstBad i = false → exec (.mstXfer tag) s = .next s)) ∧
  (∀ s : State, s.eccBad = [] → ∀ i, s.m.mstNext = some i →
    (masterFree s i → exec .mstTransactionStart s = .next (onlyM s { s.m with mst := { s.m.mst with
      active := some i, second := false, sel := fld (i.word 2) 0 3, tx := s.m.mstFrame i (wordsToSend i s),
      dummy := if i.opcode = 0x70 ∧ i.mstOp = 0x0B ∧ bit (s.m.mstTgt i) 0 = false
        then max 1 (fld (s.m.mstTgt i) 2 4) else 0 } })) ∧
    (¬ masterFree s i → exec .mstTransactionStart s = .next s)) ∧
  (∀ (i : Infl) (ws : List Word) (s : State), i.opcode = 0x70 →
    (bit (s.m.mstTgt i) 0 = false → i.mstOp = 0x0B → s.m.mstFrame i ws = 0x0B :: wordSent (i.word 3)) ∧
    (bit (s.m.mstTgt i) 0 = false → i.mstOp = 0x02 → s.m.mstFrame i ws =
      0x02 :: wordSent (i.word 3) ++ ws.flatMap wordSent ++
        if bit (s.m.mstTgt i) 1 then [crc8 (0x02 :: wordSent (i.word 3) ++ ws.flatMap wordSent)] else []) ∧
    (bit (s.m.mstTgt i) 0 = true → (s.m.mstFrame i ws).length = 6 * (fld (s.m.mstTgt i) 6 4 + 1) ∧
      (fld (i.word 4) 8 4 ≤ fld (s.m.mstTgt i) 6 4 →
        ((s.m.mstFrame i ws).drop (6 * (fld (s.m.mstTgt i) 6 4 - fld (i.word 4) 8 4))).take 3 =
          BitVec.ofNat 8 i.mstOp :: wordSent (i.word 3)))) ∧
  (∀ s : State, s.m.mstNext = none → exec .mstTransactionStart s = .next s)

/-- The master is idle again; a revoked grant has ended. -/
def Claim.masterIdle (x : Mst) : Mst := { x with active := none, second := false, grant := x.grant && !x.revoke, revoke := false }

/-- The transaction of `i` moved its words (R350, R353): those a read returned are stored, the completion holds their number
and the status byte, and the master is idle. -/
def Claim.transactionDone (i : Infl) (words : List Word) (status : Byte) (s t : State) : Prop :=
  t.m = { answered i true 0 5 (wd i.mstWords) (wd status.toNat) s.m with
    mst := masterIdle { s.m.mst with xferCnt := inc16 s.m.mst.xferCnt } } ∧
  (i.mstReads = true → ∀ k, k < i.mstWords → t.sramWord (i.mstAt + k) = nth words k 0xFFFF) ∧
  (i.mstReads = false → t.sram = s.sram) ∧
  (∀ a, (a / 2 < i.mstAt ∨ i.mstAt + i.mstWords ≤ a / 2) → Memory.read t.sram a = Memory.read s.sram a) ∧ sameStore s t

/-- A transaction that ends without OK halts SQ5 and keeps the target and its status byte (R353, R357). -/
def Claim.masterHalted (stat : Nat) (s t : State) : Prop :=
  t.m.mst.halt = true ∧ t.m.mst.active = none ∧ t.m.mst.errSel = s.m.mst.sel ∧ t.m.mst.errStat = BitVec.ofNat 8 stat ∧
    t.latched 0x11 2 ∧ sameConfig s t ∧ sameStore s t ∧
    (∀ n, (t.m.ch n).stage = (s.m.ch n).stage ∧ t.m.st n = s.m.st n)

/-- The end of a transaction (R350 to R353, R355): an addressed one ends with its frame, a chain one with its second frame;
a CRC mismatch is a BUS_ERROR, a collision a BUS_COLLISION, and either halts SQ5, the host frame of a collision being
ignored; an enumeration's frame counts as its progress, and its first one finds the chain's length. -/
def Claim.transactionsEnd : Prop :=
  (∀ (status : Byte) (ws : List Word) (crcOk : Bool) (s : State), s.m.dev.part.isX = true →
    ∀ i, s.m.mst.active = some i → i.opcode = 0x70 →
    (bit (s.m.mstTgt i) 0 = false → (crcOk = true ∨ i.mstReads = false ∨ bit (s.m.mstTgt i) 1 = false) →
      ∃ t, exec (.mstTransactionEnd status ws crcOk) s = .next t ∧ transactionDone i ws status s t) ∧
    (bit (s.m.mstTgt i) 0 = false → crcOk = false → i.mstReads = true → bit (s.m.mstTgt i) 1 = true →
      ∃ t, exec (.mstTransactionEnd status ws crcOk) s = .next t ∧ masterHalted status.toNat s t ∧ t.latched 0x11 1 ∧
        (t.m.rings.compl.map (·.status)) = (s.m.rings.compl.map (·.status)) ++ [0x0B]) ∧
    (bit (s.m.mstTgt i) 0 = true → s.m.mst.second = false →
      exec (.mstTransactionEnd status ws crcOk) s = .next (onlyM s { s.m with mst := { s.m.mst with
        second := true, tx := (List.replicate (fld (s.m.mstTgt i) 6 4 + 1) (stageBytes 0 0 0)).flatten } })) ∧
    (bit (s.m.mstTgt i) 0 = true → s.m.mst.second = true →
      exec (.mstTransactionEnd status ws crcOk) s = .next s)) ∧
  (∀ (status : Byte) (ws : List Word) (crcOk : Bool) (s : State), s.m.dev.part.isX = true →
    ∀ i, s.m.mst.active = some i → i.opcode = 0x71 →
    ∃ t, exec (.mstTransactionEnd status ws crcOk) s = .next t ∧
      t.m = { s.m with mst := masterIdle s.m.mst, ops := t.m.ops } ∧
      t.m.ops.map (·.prog) = (s.m.ops.map fun o => match s.m.opRunning 7 with
        | some r => if o.kind = r.kind ∧ o.tag = r.tag ∧ o.auto = r.auto then o.prog + 1 else o.prog
        | none => o.prog) ∧
      (∀ r, s.m.opRunning 7 = some r → r.aux = [] → t.m.opRunning 7 =
        some { r with prog := r.prog + 1, aux := [(stagesFound ws : Int)] }) ∧ t.sram = s.sram ∧ sameStore s t) ∧
  (∀ (status : Byte) (addr data : Word) (crcOk : Bool) (s : State), s.m.dev.part.isX = true →
    ∀ i, s.m.mst.active = some i → i.opcode = 0x70 →
    (s.m.mst.second = true → crcOk = true →
      ∃ t, exec (.mstChainReadback status addr data crcOk) s = .next t ∧ transactionDone i [data] status s t) ∧
    (s.m.mst.second = true → crcOk = false →
      ∃ t, exec (.mstChainReadback status addr data crcOk) s = .next t ∧ masterHalted status.toNat s t ∧ t.latched 0x11 1) ∧
    (s.m.mst.second = false → exec (.mstChainReadback status addr data crcOk) s = .next s)) ∧
  (∀ (cmdDone : Bool) (status : Byte) (clocked : Bool) (s : State), s.m.dev.part.isX = true →
    ∀ i, s.m.mst.active = some i → i.opcode ≠ 0x71 →
    ∃ t, exec (.masterCollision cmdDone status clocked) s = .next t ∧ t.m.port.ignore = clocked ∧
      masterHalted (if cmdDone then status.toNat else 0) s t ∧ t.latched 0x11 0 ∧
      t.m.mst.collCnt = inc16 s.m.mst.collCnt ∧ t.m.mst.wdgGrant = false ∧
      (t.m.rings.compl.map (·.status)) = (s.m.rings.compl.map (·.status)) ++ [0x0A] ∧
      (cmdDone = false → t.sram = s.sram)) ∧
  (∀ (cmdDone : Bool) (status : Byte) (clocked : Bool) (s : State), s.m.dev.part.isX = true →
    ∀ i, s.m.mst.active = some i → i.opcode = 0x71 →
    ∃ t, exec (.masterCollision cmdDone status clocked) s = .next t ∧ t.m.port.ignore = clocked ∧
      masterHalted (if cmdDone then status.toNat else 0) s t ∧ t.latched 0x11 0 ∧
      t.m.mst.collCnt = inc16 s.m.mst.collCnt ∧ t.sram = s.sram ∧
      (∀ o, s.m.opRunning 7 = some o →
        ∀ x, x ∈ t.m.ops → ¬(x.kind = o.kind ∧ x.tag = o.tag ∧ x.auto = o.auto))) ∧
  (∀ (status : Byte) (ws : List Word) (addr data : Word) (b c : Bool) (s : State), s.m.mst.active = none →
    exec (.mstTransactionEnd status ws b) s = .next s ∧ exec (.mstChainReadback status addr data b) s = .next s ∧
      exec (.masterCollision b status c) s = .next s)

/-- The port master (R350 to R355). -/
def Obligations.MasterTransactions : Prop := grants ∧ transactionsStart ∧ transactionsEnd

/-! ## The zero-crossing tracker -/

/-- The period the tracker last measured is a mains period within 200 µs of the one before (R364). -/
def Claim.goodPeriod (m : Mach) (a : Nat) : Prop :=
  m.zc.per16 ≠ 0 ∧ 48000000 ≤ 65 * (m.crossing - a) ∧ 45 * (m.crossing - a) ≤ 48000000 ∧
    m.crossing - a ≤ m.zc.per16 / 16 + 9600 ∧ m.zc.per16 / 16 ≤ m.crossing - a + 9600

/-- The instant of the last crossing on the DEV.TIME scale, for a crossing at the tracker's own instant. -/
def Claim.crossingTime (m : Mach) : BitVec 48 := m.time - BitVec.ofNat 48 (m.now - m.crossing)

/-- Every join that waits for the lock listens (R375). -/
def Claim.joinsListen (x : Site) : Option Join := x.join.map fun j => { j with listening := true }

/-- A qualifying edge (R363, R364): the first starts ACQUIRE; ten good crossings in a row lock, which fixes a coordinator's
cycle count and lets a waiting join listen; a crossing near a prediction is used; a second one near the crossing already
used is not; another counts as an outlier, and the fifth outlier in a row starts ACQUIRE again; in HOLDOVER an outlier is
ignored. A tracker that does not run takes none. -/
def Claim.edges : Prop :=
  (∀ s : State, s.m.zcOn = false → exec .zcEdge s = .next s) ∧
  (∀ s : State, s.m.zcOn = true →
    (s.m.zc.st = .unlocked → exec .zcEdge s = .next (onlyM s { s.m with zc := { s.m.zc with
      st := .acquire, lastAt := some s.m.crossing, run := 0, per16 := 0, outl := 0 } })) ∧
    (s.m.zc.st = .acquire → s.m.zc.lastAt = none → exec .zcEdge s = .next (onlyM s { s.m with zc := { s.m.zc with
      lastAt := some s.m.crossing, run := 0, per16 := 0 } })) ∧
    (s.m.zc.st = .acquire → ∀ a, s.m.zc.lastAt = some a →
      (goodPeriod s.m a → s.m.zc.run < 9 → exec .zcEdge s = .next (onlyM s { s.m with zc := { s.m.zc with
        lastAt := some s.m.crossing, run := s.m.zc.run + 1, per16 := 16 * (s.m.crossing - a) } })) ∧
      (¬ goodPeriod s.m a → exec .zcEdge s = .next (onlyM s { s.m with zc := { s.m.zc with
        lastAt := some s.m.crossing, run := 0, per16 := 16 * (s.m.crossing - a) } })) ∧
      (goodPeriod s.m a → 9 ≤ s.m.zc.run →
        ∃ t, exec .zcEdge s = .next t ∧ t.latched 0x10 0 ∧
          t.m.zc = { s.m.zc with st := .locked, per16 := 16 * (s.m.crossing - a), lastAt := some s.m.crossing,
                                 predAt := s.m.crossing, bases := [], outl := 0, run := 0, six := t.m.zc.six } ∧
          t.m.zc.six = decide (55000 ≤ t.m.zcFreq) ∧
          (s.m.siteRole = 2 → t.m.site.cyc6 = t.m.zc.six ∧ t.m.site.ncKnown = true) ∧
          (s.m.siteRole ≠ 2 → t.m.site.cyc6 = s.m.site.cyc6 ∧ t.m.site.ncKnown = s.m.site.ncKnown) ∧
          becomes s t { s.m with zc := t.m.zc, site := { s.m.site with
            cyc6 := t.m.site.cyc6, ncKnown := t.m.site.ncKnown, join := joinsListen s.m.site } })) ∧
    (s.m.tracking = true → (s.m.zc.nearest s.m.crossing).2.natAbs ≤ 9600 →
      ((s.m.zc.nearest s.m.crossing).1 ≠ 0 →
        ∃ t, exec .zcEdge s = .next t ∧ t.m.zc.st = .locked ∧ t.m.zc.outl = 0 ∧ t.m.zc.cntAcc = inc16 s.m.zc.cntAcc ∧
          t.m.zc.lastAt = some s.m.crossing ∧ t.m.zc.lastT = crossingTime s.m ∧
          t = onlyM s { s.m with zc := t.m.zc, site := { s.m.site with join := joinsListen s.m.site } }) ∧
      ((s.m.zc.nearest s.m.crossing).1 = 0 → exec .zcEdge s = .next s)) ∧
    (s.m.zc.st = .locked → 9600 < (s.m.zc.nearest s.m.crossing).2.natAbs →
      ∃ t, exec .zcEdge s = .next t ∧ t.latched 0x10 3 ∧ t.m.zc.cntOutl = inc16 s.m.zc.cntOutl ∧
        (s.m.zc.outl < 4 → t.m.zc = { s.m.zc with outl := s.m.zc.outl + 1, cntOutl := inc16 s.m.zc.cntOutl }) ∧
        (4 ≤ s.m.zc.outl → t.m.zc.st = .acquire ∧ t.m.zc.cntRel = inc16 s.m.zc.cntRel ∧ t.latched 0x10 4) ∧
        becomes s t { s.m with zc := t.m.zc }) ∧
    (s.m.zc.st = .holdover → 9600 < (s.m.zc.nearest s.m.crossing).2.natAbs → exec .zcEdge s = .next s))

/-- The tracker with its crossings lost. -/
def Claim.zcLost (z : Zc) : Zc := { z with st := .unlocked, outl := 0, run := 0, lastAt := none }

/-- The tracker is UNLOCKED, which ends the membership of an acting standby and of a coordinator; with AUTO_JOIN the
coordinator begins to join again. Of any other device nothing but the tracker changes (R496). -/
def Claim.unlockedTo (s t : State) : Prop :=
  t.m.zc = zcLost s.m.zc ∧
  ((s.m.site.acting = true ∨ s.m.siteRole = 2 ∧ s.m.site.joined = true) →
    t.m.site.joined = false ∧ t.m.site.acting = false ∧
    settlesTo s t { s.m with zc := t.m.zc, site := t.m.site, ops := t.m.ops, opLast := t.m.opLast, rings := t.m.rings }) ∧
  (s.m.site.acting = false → s.m.siteRole = 2 → s.m.site.joined = true → s.m.siteAuto = true → s.m.keyErr = false →
    ∃ o ∈ t.m.ops, o.kind = 6 ∧ o.auto = true) ∧
  (s.m.site.acting = false → (s.m.siteRole ≠ 2 ∨ s.m.site.joined = false) → settlesTo s t { s.m with zc := zcLost s.m.zc })

/-- The tracker loses its crossings (R364, R496): ACQUIRE ends UNLOCKED after 100 ms without an edge, LOCKED passes to
HOLDOVER, and HOLDOVER ends UNLOCKED with its event; in another state each does nothing. -/
def Claim.losses : Prop :=
  (∀ s : State, s.m.zc.st = .acquire → ∃ t, exec .zcAcquireTimeout s = .next t ∧ unlockedTo s t) ∧
  (∀ s : State, s.m.zc.st ≠ .acquire → exec .zcAcquireTimeout s = .next s) ∧
  (∀ s : State, s.m.dev.part.isX = true → s.m.zc.st = .locked →
    ∃ t, exec .zcHoldover s = .next t ∧ t.latched 0x10 1 ∧
      becomes s t { s.m with zc := { s.m.zc with st := .holdover, holdAt := s.m.now } }) ∧
  (∀ s : State, s.m.zc.st ≠ .locked → exec .zcHoldover s = .next s) ∧
  (∀ s : State, s.m.dev.part.isX = true → s.m.zc.st = .holdover →
    ∃ t, exec .zcUnlock s = .next t ∧ t.latched 0x10 2 ∧ unlockedTo s t) ∧
  (∀ s : State, s.m.zc.st ≠ .holdover → ∃ t, exec .zcUnlock s = .next t ∧ settlesTo s t s.m)

/-- The zero-crossing tracker (R363 to R365, R496). -/
def Obligations.TrackerFollowsTheMains : Prop := edges ∧ losses

/-! ## The site link -/

/-- Site events change the link's words and the completions and operations they end; nothing else. -/
def Claim.siteOnly (s t : State) : Prop :=
  settlesTo s t { s.m with site := t.m.site, ops := t.m.ops, opLast := t.m.opLast, rings := t.m.rings }

/-- Byte `i` of a received beacon, as a number. -/
def Claim.beaconNum (f : BeaconRx) (i k : Nat) : Nat := beNat (slice f.bytes i k)

/-- The checks of R371 before the key, on a beacon of the own site. -/
def Claim.beaconWhole (f : BeaconRx) (m : Mach) : Prop :=
  crc16 (f.bytes.take 116) = BitVec.ofNat 16 (beaconNum f 116 2) ∧ beaconNum f 0 1 = 0x11 ∧
    BitVec.ofNat 16 (beaconNum f 1 2) = m.cfg 0x0F09

/-- An operation has listened to one more frond. -/
def Claim.positionAdvanced (o : LongOp) (m : Mach) : Mach :=
  { m with ops := m.ops.map fun x =>
    if x.kind = o.kind ∧ x.tag = o.tag ∧ x.auto = o.auto then { x with prog := o.prog + 1 } else x }

/-- The tag of a beacon verifies (R371). -/
def Claim.beaconTagged (f : BeaconRx) (m : Mach) : Prop :=
  m.keyErr = false ∧ beaconNum f 14 1 = m.otp.skVer ∧ (cmac m.otp.sk (f.bytes.take 112)).take 4 = slice f.bytes 112 4

/-- The site words of a beacon whose erased symbols are counted. -/
def Claim.erasedBy (k : Nat) (x : Site) : Site := { x with cntEras := min 0xFFFF (x.cntEras + k) }

/-- What an accepted beacon leaves (R371, R375, R378, R380): its counter, time and budgets, no beacon lost, and its count; a
member's ladder level is 0; a coordinator that listens to join reports CONFLICT and its join fails; one that does not join
counts the fronds since a handover was announced. -/
def Claim.accepted (f : BeaconRx) (s t : State) : Prop :=
  t.m.site.cntOk = inc16 s.m.site.cntOk ∧ t.m.site.fc = beaconNum f 4 4 ∧ t.m.site.frond = beaconNum f 4 4 ∧
  t.m.site.fcValid = true ∧ t.m.site.lost = 0 ∧ t.m.site.crcLost = false ∧ t.m.site.bcnThis = true ∧
  t.m.site.stime = BitVec.ofNat 48 (beaconNum f 8 6) ∧ t.m.site.keyver = false ∧
  (s.m.siteIdent ≠ 0 → s.m.siteIdent ≤ 30 →
    t.m.site.lastMain = beaconNum f (22 + 3 * (s.m.siteIdent - 1)) 3 / 4096 ∧
    t.m.site.lastAux = beaconNum f (22 + 3 * (s.m.siteIdent - 1)) 3 % 4096) ∧
  (s.m.siteRole ≠ 2 → s.m.site.joined = true → t.m.site.ladder = 0) ∧
  (s.m.siteRole = 2 → ∀ o, s.m.opRunning 6 = some o → ∀ j, s.m.site.join = some j → j.listening = true →
    t.m.site.conflict = true ∧ t.m.site.join = none ∧
    (∀ x, x ∈ t.m.ops → ¬(x.kind = o.kind ∧ x.tag = o.tag ∧ x.auto = o.auto)) ∧
    (o.auto = false → t.m.rings.compl = (answered o.infl true 0x0E 6 2 (wd o.prog) s.m).rings.compl)) ∧
  (s.m.siteRole = 2 → (s.m.opRunning 6 = none ∨ s.m.site.join = none) →
    t.m.site.hoSeen = (if s.m.site.conflict = true ∧ (byteAt f.bytes 15).testBit 1 = true ∧ byteAt f.bytes 16 = 0
      then s.m.site.hoSeen + 1 else 0) ∧ t.m.ops = s.m.ops) ∧
  siteOnly s t

/-- A received beacon (R371, R373, R380): one with a bad CRC, of another site, with another key version or tag, or with a
counter that is not new, is counted under its reason and used for nothing but its erased symbols; any other is accepted. A
device that does not listen takes none. -/
def Claim.beacons : Prop :=
  ∀ (f : BeaconRx) (s : State), (Instr.beaconReceive f).WellFormed = true →
    (s.m.listens = false → ∃ t, exec (.beaconReceive f) s = .next t ∧ settlesTo s t s.m) ∧
    (s.m.listens = true → crc16 (f.bytes.take 116) ≠ BitVec.ofNat 16 (beaconNum f 116 2) →
      ∃ t, exec (.beaconReceive f) s = .next t ∧ settlesTo s t { s.m with site := { erasedBy f.erased s.m.site with
        cntLost := inc16 s.m.site.cntLost, crcLost := true } }) ∧
    (s.m.listens = true → crc16 (f.bytes.take 116) = BitVec.ofNat 16 (beaconNum f 116 2) →
      (beaconNum f 0 1 ≠ 0x11 ∨ BitVec.ofNat 16 (beaconNum f 1 2) ≠ s.m.cfg 0x0F09) →
      ∃ t, exec (.beaconReceive f) s = .next t ∧ settlesTo s t { s.m with site := erasedBy f.erased s.m.site }) ∧
    (s.m.listens = true → beaconWhole f s.m → ¬ beaconTagged f s.m →
      ∃ t, exec (.beaconReceive f) s = .next t ∧ t.latched 0x0F 4 ∧
        settlesTo s t { s.m with site := { erasedBy f.erased s.m.site with
          cntAuth := inc16 s.m.site.cntAuth, keyver := !s.m.keyErr && beaconNum f 14 1 != s.m.otp.skVer } }) ∧
    (s.m.listens = true → beaconWhole f s.m → beaconTagged f s.m →
      (s.m.site.fcValid = true → beaconNum f 4 4 ≤ s.m.site.fc →
        ∃ t, exec (.beaconReceive f) s = .next t ∧ t.latched 0x0F 4 ∧
          settlesTo s t { s.m with site := { erasedBy f.erased s.m.site with
            cntReplay := inc16 s.m.site.cntReplay, keyver := false } }) ∧
      ((s.m.site.fcValid = false ∨ s.m.site.fc < beaconNum f 4 4) →
        ∃ t, exec (.beaconReceive f) s = .next t ∧ accepted f s t))

/-- A lost beacon (R375, R380, R389): a member or standby counts it, once with a beacon of the frond whose CRC failed, and
its ladder level follows the number lost; a listening coordinator has listened to one more frond. A device that does not
listen counts none. -/
def Claim.lostBeacons : Prop :=
  (∀ s : State, s.m.listens = true → s.m.siteRole ≠ 2 →
    ∃ t, exec .beaconLost s = .next t ∧ t.latched 0x0F 3 ∧ t.m.site.lost = min 255 (s.m.site.lost + 1) ∧
      t.m.site.frond = s.m.site.frond + 1 ∧ t.m.site.crcLost = false ∧
      t.m.site.cntLost = (if s.m.site.crcLost = true then s.m.site.cntLost else inc16 s.m.site.cntLost) ∧
      (s.m.site.joined = true → t.m.site.ladder =
        if t.m.site.lost ≤ 3 then 1 else if t.m.site.lost ≤ 13 then 2 else 3) ∧ siteOnly s t) ∧
  (∀ s : State, s.m.listens = true → s.m.siteRole = 2 →
    ∃ t, exec .beaconLost s = .next t ∧ t.m.site.lost = s.m.site.lost ∧ t.m.site.frond = s.m.site.frond + 1 ∧
      t.m.site.hoSeen = (if s.m.site.hoSeen = 0 then 0 else s.m.site.hoSeen + 1) ∧
      (∀ o, s.m.opRunning 6 = some o → ∀ j, s.m.site.join = some j → j.listening = true →
        t.m.ops = (positionAdvanced o s.m).ops) ∧
      ((s.m.opRunning 6 = none ∨ s.m.site.join = none) → t.m.ops = s.m.ops) ∧ siteOnly s t) ∧
  (∀ s : State, s.m.listens = false → ∃ t, exec .beaconLost s = .next t ∧ settlesTo s t s.m)

/-- The fields of a sent beacon (R369, R371): its type, the site, the frond counter, the tag and the CRC. -/
def Claim.beaconSent (fc : Nat) (m : Mach) (l : List Byte) : Prop :=
  l.length = 136 ∧ beNat (slice l 4 4) = fc ∧ byteAt l 0 = 0x11 ∧ BitVec.ofNat 16 (beNat (slice l 1 2)) = m.cfg 0x0F09 ∧
    slice l 112 4 = (cmac m.otp.sk (l.take 112)).take 4 ∧ BitVec.ofNat 16 (beNat (slice l 116 2)) = crc16 (l.take 116)

/-- What a beacon sent leaves beside its bytes: the site words, and the counter block it may reserve (R373). -/
def Claim.beaconLeft (s t : State) : Prop :=
  settlesTo s t { s.m with site := t.m.site, frq := t.m.frq, dev := { s.m.dev with frLost := t.m.dev.frLost } }

/-- A primary coordinator in CONFLICT that has seen the whole of a handover (R378). -/
def Claim.handoverSeen (m : Mach) : Prop := m.siteRole = 2 ∧ m.site.conflict = true ∧ 3 ≤ m.site.hoSeen

/-- Coordinating (R366, R369, R373, R377, R378, R382, R383): a standby takes over once its rank's beacons are missing, with
the counter after the present frond's, and its payload in progress ends with ROLE; the freeze point publishes the table; a
beacon is sent by a device that coordinates, and by a primary that resumes after a handover; the third beacon that announces
a handover is the acting standby's last. -/
def Claim.coordinates : Prop :=
  (∀ s : State, s.m.siteTx = true → s.m.siteRole = 3 → s.m.site.joined = true → s.m.site.acting = false →
    3 + s.m.siteRank ≤ s.m.site.lost → s.m.tracking = true → s.m.site.ncKnown = true →
    ∃ t, exec .standbyTakeover s = .next t ∧ t.m.site.acting = true ∧ t.latched 0x0F 6 ∧
      t.m.site.table = s.m.site.beacon ∧ t.m.site.fcNext = s.m.site.frond + 1 ∧ t.m.site.send = none ∧
      (∀ q, s.m.site.send = some q →
        t.m.rings.compl = (answered q.infl true 0 5 (wd q.used) 3 s.m).rings.compl) ∧ siteOnly s t) ∧
  (∀ s : State, (s.m.siteTx = false ∨ s.m.siteRole ≠ 3 ∨ s.m.site.joined = false ∨ s.m.site.acting = true ∨
      s.m.site.lost < 3 + s.m.siteRank ∨ s.m.tracking = false ∨ s.m.site.ncKnown = false) →
    ∃ t, exec .standbyTakeover s = .next t ∧ settlesTo s t s.m) ∧
  (∀ s : State, s.m.siteOn = true → s.m.coordinating = true →
    (s.m.site.pubPend = true → ∃ t, exec .freezePoint s = .next t ∧ t.latched 0x0F 10 ∧ t.m.site.pubPend = false ∧
      (∀ i, i < 31 → t.m.site.table[i]? =
        some (fld (s.m.cfg (0x0F30 + 2 * i)) 0 12, fld (s.m.cfg (0x0F31 + 2 * i)) 0 12)) ∧
      t.m.site.built = t.m.site.table ∧ siteOnly s t) ∧
    (s.m.site.pubPend = false → ∃ t, exec .freezePoint s = .next t ∧
      settlesTo s t { s.m with site := { s.m.site with built := s.m.site.table } })) ∧
  (∀ s : State, (s.m.siteOn = false ∨ s.m.coordinating = false) →
    ∃ t, exec .freezePoint s = .next t ∧ settlesTo s t s.m) ∧
  (∀ s : State, s.m.siteTx = true → s.m.tracking = true → s.m.coordinating = true → ¬ handoverSeen s.m →
    s.m.site.fcNext < 4294967296 →
    ∃ t, exec .beaconTransmit s = .next t ∧ t.m.site.fcNext = s.m.site.fcNext + 1 ∧ t.m.site.frond = s.m.site.fcNext ∧
      t.m.site.ackNow = 0 ∧ t.m.site.hoLeft = s.m.site.hoLeft - 1 ∧ beaconSent s.m.site.fcNext s.m t.m.site.txFrame ∧
      (s.m.site.hoLeft = 1 → t.m.site.acting = false) ∧ (s.m.site.hoLeft ≠ 1 → t.m.site.acting = s.m.site.acting) ∧
      (s.m.site.acting = false → s.m.site.fcBlock ≤ s.m.site.fcNext → s.m.site.fcNext < t.m.site.fcBlock) ∧
      beaconLeft s t) ∧
  (∀ s : State, s.m.siteTx = true → s.m.tracking = true → handoverSeen s.m →
    max (max s.m.site.fcNext s.m.site.fcBlock) (s.m.site.frond + 1) < 4294967296 →
    ∃ t, exec .beaconTransmit s = .next t ∧ t.m.site.joined = true ∧ t.m.site.conflict = false ∧ t.m.site.hoSeen = 0 ∧
      s.m.site.frond < t.m.site.frond ∧ beaconSent t.m.site.frond s.m t.m.site.txFrame ∧ beaconLeft s t) ∧
  (∀ s : State, (s.m.siteTx = false ∨ s.m.tracking = false ∨ s.m.coordinating = false ∧ ¬ handoverSeen s.m) →
    ∃ t, exec .beaconTransmit s = .next t ∧ settlesTo s t s.m)

/-- The record slot of pinna `j` in SRAM: the 32-byte block its words stand in (R384). -/
def Claim.pinnaBlock (m : Mach) (j : Nat) : Nat := 16 * (fld (m.cfg 0x0F25) 0 6 + (j - 1) / 15) + (j - 1) % 15

/-- The tag of a received pinna verifies under the frond counter sent last (R371). -/
def Claim.pinnaTagged (l : List Byte) (m : Mach) : Prop :=
  m.keyErr = false ∧ (cmac m.otp.sk (beBytes 4 (m.site.fcNext - 1) ++ l.take 19)).take 4 = slice l 19 4

/-- The counter of the frond is one accepted from identity `j` before. -/
def Claim.pinnaOld (j : Nat) (m : Mach) : Prop := ∃ k, m.site.pinLast j = some k ∧ m.site.fcNext - 1 ≤ k

/-- A received pinna changes the site words to `x` apart from ACK, which the frond's last usable pinna takes over, and of the
SRAM its own record alone, where RX.STORE asks for one (R384). -/
def Claim.pinnaTaken (j : Nat) (x : Site) (s t : State) : Prop :=
  t.m.quiet = ({ s.m with site := { x with ack := t.m.site.ack } } : Mach).quiet ∧ evtKept s.m t.m ∧ sameStore s t ∧
    t.m.site.ack = (if j = s.m.npin then x.ackNow else s.m.site.ack) ∧
    (j = s.m.npin → bit (s.m.cfg 0x0F25) 8 = true → t.latched 0x0F 7) ∧
    (bit (s.m.cfg 0x0F25) 8 = false → t.sram = s.sram) ∧
    ∀ a, (bit (s.m.cfg 0x0F25) 8 = false ∨ a / 32 ≠ pinnaBlock s.m j) → Memory.read t.sram a = Memory.read s.sram a

/-- Pinnae (R367, R368, R370, R371, R383, R384): one sent carries the identity, its payload, its tag and its CRC; one received
is acknowledged when its CRC, identity, tag and counter pass, else counted under its reason. -/
def Claim.pinnae : Prop :=
  (∀ s : State, s.m.pinnaDue = true → s.m.site.send = none →
    ∃ t, exec .pinnaTransmit s = .next t ∧ t.m.site.txFrame.length = 24 ∧
      byteAt t.m.site.txFrame 0 = s.m.siteIdent ∧
      slice t.m.site.txFrame 19 4 = (cmac s.m.otp.sk (beBytes 4 s.m.site.frond ++ t.m.site.txFrame.take 19)).take 4 ∧
      slice t.m.site.txFrame 23 1 = [crc8 (t.m.site.txFrame.take 23)] ∧
      t = onlyM s { s.m with site := { s.m.site with txFrame := t.m.site.txFrame } }) ∧
  (∀ s : State, s.m.pinnaDue = true → ∀ q, s.m.site.send = some q →
    ∃ t, exec .pinnaTransmit s = .next t ∧ byteAt t.m.site.txFrame 0 = s.m.siteIdent + 32 ∧
      slice t.m.site.txFrame 19 4 = (cmac s.m.otp.sk (beBytes 4 s.m.site.frond ++ t.m.site.txFrame.take 19)).take 4 ∧
      slice t.m.site.txFrame 23 1 = [crc8 (t.m.site.txFrame.take 23)] ∧
      t.m.site = { s.m.site with
        txFrame := t.m.site.txFrame, send := some { q with used := q.used + 1, sent := true } } ∧
      (s.eccBad = [] → t = onlyM s { s.m with site := t.m.site })) ∧
  (∀ s : State, s.m.pinnaDue = false → exec .pinnaTransmit s = .next s) ∧
  (∀ (j : Fin 31) (bytes : Option (List Byte)) (erased : Nat) (s : State),
    (Instr.pinnaReceive j bytes erased).WellFormed = true →
    ((s.m.siteOn = false ∨ s.m.coordinating = false ∨ j = 0 ∨ s.m.npin < j.val) →
      exec (.pinnaReceive j bytes erased) s = .next s) ∧
    (s.m.siteOn = true → s.m.coordinating = true → j ≠ 0 → j.val ≤ s.m.npin →
      ((bytes = none ∨ ∀ l, bytes = some l → crc8 (l.take 23) ≠ nth l 23 0 ∨ byteAt l 0 % 32 ≠ j.val) →
        ∃ t, exec (.pinnaReceive j bytes erased) s = .next t ∧ pinnaTaken j (erasedBy erased s.m.site) s t) ∧
      (∀ l, bytes = some l → crc8 (l.take 23) = nth l 23 0 → byteAt l 0 % 32 = j.val →
        (¬ pinnaTagged l s.m → ∃ t, exec (.pinnaReceive j bytes erased) s = .next t ∧ t.latched 0x0F 4 ∧
          pinnaTaken j { erasedBy erased s.m.site with cntAuth := inc16 s.m.site.cntAuth } s t) ∧
        (pinnaTagged l s.m → pinnaOld j s.m → ∃ t, exec (.pinnaReceive j bytes erased) s = .next t ∧ t.latched 0x0F 4 ∧
          pinnaTaken j { erasedBy erased s.m.site with cntReplay := inc16 s.m.site.cntReplay } s t) ∧
        (pinnaTagged l s.m → ¬ pinnaOld j s.m → ∃ t, exec (.pinnaReceive j bytes erased) s = .next t ∧
          t.m.site.pinLast j = some (s.m.site.fcNext - 1) ∧
          pinnaTaken j { erasedBy erased s.m.site with
            ackNow := s.m.site.ackNow ||| BitVec.ofNat 32 (2 ^ j.val), pinFc := t.m.site.pinFc } s t))))

/-- Membership (R375, R376, R378, R382, R383, R389): a join ends by its listening or its timeout; LEAVE ends the membership;
PUBLISH and HANDOVER act for the coordinator alone; a payload is taken, or ends with the reason it cannot be sent. -/
def Claim.membership : Prop :=
  (∀ s : State, s.m.siteOn = true → s.m.siteRole = 2 → s.m.tracking = true →
    ∀ o, s.m.opRunning 6 = some o → ∀ j, s.m.site.join = some j → j.listening = true →
    ∃ t, exec .joinListenEnd s = .next t ∧ t.m.site.joined = true ∧ t.m.site.join = none ∧
      (∀ x, x ∈ t.m.ops → ¬(x.kind = o.kind ∧ x.tag = o.tag ∧ x.auto = o.auto)) ∧
      t.m.site.conflict = false ∧ t.m.site.coord = 0 ∧ t.m.site.fcNext = s.m.site.fcNext ∧
      (o.auto = false → t.m.rings.compl =
        (answered o.infl true 0 5 (wordOf s.m.site.fcNext 0) 0 s.m).rings.compl) ∧ siteOnly s t) ∧
  (∀ s : State, (s.m.opRunning 6 = none ∨ s.m.site.join = none) →
    (∃ t, exec .joinListenEnd s = .next t ∧ settlesTo s t s.m) ∧
      (∃ t, exec .joinTimeout s = .next t ∧ settlesTo s t s.m)) ∧
  (∀ s : State, ∀ o, s.m.opRunning 6 = some o → ∀ j, s.m.site.join = some j → o.auto = false →
    ∃ t, exec .joinTimeout s = .next t ∧ t.m.site.join = none ∧
      t.m.rings.compl = (answered o.infl true 0x0E 6 (if s.m.siteRole = 2 ∧ j.listening = false then 4 else 1)
        (wd o.prog) s.m).rings.compl ∧ siteOnly s t) ∧
  (∀ s : State, s.m.dev.part.isX = true →
    (s.m.coordinating = true →
      exec .publish s = .next (onlyM s { s.m with site := { s.m.site with pubPend := true } })) ∧
    (s.m.coordinating = false → exec .publish s = .next s) ∧
    (s.m.site.acting = true → s.m.site.hoLeft = 0 →
      exec .handover s = .next (onlyM s { s.m with site := { s.m.site with hoLeft := 3 } })) ∧
    (s.m.site.acting = false → exec .handover s = .next s) ∧
    (∃ t, exec .leave s = .next t ∧ t.m.site.joined = false ∧ t.m.site.acting = false ∧ t.m.site.send = none ∧
      t.m.site.ladder = (if s.m.siteRole = 0 then 0 else 3) ∧
      t.m.site.auxBud = (if s.m.siteRole = 0 then 0xFFF else s.m.limpAux) ∧ siteOnly s t)) ∧
  (∀ s : State, s.m.dev.part.isX = false → exec .publish s = .next s ∧ exec .handover s = .next s) ∧
  (∀ (tag : Tag) (s : State), ∀ i, s.m.executing tag 0x61 = some i →
    ((256 < fld (i.word 2) 8 8 + 9 ∨ fld (i.word 3) 0 5 = 0 ∨ 20 < fld (i.word 3) 0 5) →
      exec (.slSend tag) s = .next (onlyM s (answered i true 2 6 0 0 s.m))) ∧
    (fld (i.word 2) 8 8 + 9 ≤ 256 → 1 ≤ fld (i.word 3) 0 5 → fld (i.word 3) 0 5 ≤ 20 →
      ((s.m.siteRole = 2 ∨ s.m.site.acting = true) →
        exec (.slSend tag) s = .next (onlyM s (answered i true 0 5 0 3 s.m))) ∧
      (s.m.siteRole ≠ 2 → s.m.site.acting = false → s.m.site.joined = false →
        exec (.slSend tag) s = .next (onlyM s (answered i true 0 5 0 2 s.m))) ∧
      (s.m.siteRole ≠ 2 → s.m.site.acting = false → s.m.site.joined = true → s.m.site.send = none →
        exec (.slSend tag) s = .next (onlyM s { s.m with site := { s.m.site with send := some ⟨i, 0, false⟩ } }))))

/-- The site link (R366 to R384). -/
def Obligations.SiteLinkFrames : Prop := beacons ∧ lostBeacons ∧ coordinates ∧ pinnae ∧ membership

/-! ## Shedding -/

/-- An evaluation holds exactly the channels of the shed set (R385 to R387): the loads are reported, a running channel that
enters the set is in SHED with code 0xE and off, one in SHED that leaves it with no other hold starts as from OFF, and a
channel whose place in the set is the same keeps its state. -/
def Claim.shedTo (set : List Nat) (m : Mach) (s t : State) : Prop :=
  (∀ l, l ∈ m.leaders → (t.m.ch l).limp.siteHold = set.contains l) ∧
  t.m.site.auxLoad = m.pwrSum (m.leaders.filter m.demanding) ∧
  t.m.site.shedLoad = m.pwrSum (m.leaders.filter m.demanding) - m.pwrSum set ∧
  (∀ l, l ∈ m.leaders → (m.ch l).limp.siteHold = false → set.contains l = true → (m.st l).running = true →
    t.m.st l = .shed ∧ (t.m.ch l).flt.code = 0xE ∧ (t.m.ch l).limp.shedCnt = inc16 (m.ch l).limp.shedCnt ∧
      ∀ k, k ∈ m.members l → (t.m.ch k).stage.gateOn = false) ∧
  (∀ l, l ∈ m.leaders → (m.ch l).limp.siteHold = true → set.contains l = false → m.st l = .shed →
    t.m.held? l = false → t.m.startsTo l (t.m.st l)) ∧
  (∀ l, l ∈ m.leaders → (m.ch l).limp.siteHold = set.contains l → t.m.st l = m.st l ∧ (t.m.ch l).stage = (m.ch l).stage) ∧
  t.m.thm = m.thm ∧ evtKept s.m t.m ∧ sramApartFromCaptures s t ∧ sameStore s t ∧ sameConfig s t

/-- The shed set (R386): nothing without SHED_EN or under the full budget; else every channel shed before that can still be
shed stays but for one a restoring evaluation returns, and channels join in shed order until the load fits. -/
def Obligations.ShedEvaluationsHoldTheSet : Prop :=
  (∀ (restoring : Bool) (s : State), s.m.dev.part.isX = true → s.m.dev.phase = .running →
    ∃ t, exec (.shedEvaluation restoring) s = .next t ∧ shedTo (s.m.shedSet restoring) s.m s t ∧
      ((s.m.shedEn = false ∨ s.m.shedBudget = 0xFFF) → ∀ l, l ∈ s.m.leaders → (t.m.ch l).limp.siteHold = false) ∧
      (s.m.shedEn = true → s.m.shedBudget ≠ 0xFFF → ∀ l, l ∈ s.m.leaders →
        ((t.m.ch l).limp.siteHold = true → s.m.eligible l = true) ∧
        (restoring = false → (s.m.ch l).limp.siteHold = true → s.m.eligible l = true →
          (t.m.ch l).limp.siteHold = true)) ∧
      (s.m.shedEn = true → s.m.shedBudget ≠ 0xFFF →
        t.m.site.shedLoad ≤ s.m.shedBudget ∨ ∀ l, l ∈ s.m.leaders → s.m.eligible l = true →
          (t.m.ch l).limp.siteHold = true)) ∧
  (∀ s : State, s.m.dev.part.isX = true → s.m.dev.phase = .running → s.m.siteRole ≠ 0 →
    ∃ t, exec .budgetFeedStale s = .next t ∧ t.m.site.stale = true ∧
      shedTo ((({ s.m with site := { s.m.site with stale := true } } : Mach)).shedSet true) s.m s t) ∧
  (∀ (restoring : Bool) (s : State), (s.m.dev.part.isX = false ∨ s.m.dev.phase ≠ .running) →
    (∃ t, exec (.shedEvaluation restoring) s = .next t ∧ settlesTo s t s.m) ∧
      (∃ t, exec .budgetFeedStale s = .next t ∧ settlesTo s t s.m))

/-! ## One-time-programmable memory -/

/-- The operation's position alone advances. -/
def Claim.positionPassed (o : LongOp) (m : Mach) : Mach :=
  { m with ops := m.ops.map fun x =>
    if x.kind = o.kind ∧ x.tag = o.tag ∧ x.auto = o.auto then { x with prog := o.prog + 1 } else x }

/-- A running programming operation is suspended by the window, and its pulse is cut (R346, R411). -/
def Claim.windowSuspends (o : LongOp) (s t : State) : Prop :=
  t.latched 0x0C 6 ∧ t.latched 0x04 4 ∧ t.m.opRunning 0 ≠ some o ∧
    (t.m.ops.filter (·.kind != 1)).map (·.prog) = (s.m.ops.filter (·.kind != 1)).map (·.prog) ∧
    t.m.rings.compl = s.m.rings.compl ∧ sameConfig s t ∧
    t.nv.jnl = s.nv.jnl ∧ t.sram = s.sram ∧ storeHeld s t

/-- One position of a running programming operation (R411 to R413): outside the window the operation is suspended before its
pulse; past the end nothing happens; a 0 of the image is passed without a pulse; a 1 whose cells all verify is set in its
word and bit, and in no other cell; a single cell that stays unset ends the operation FAILED with its position; whichever
cells verify, no programmed cell is lost and no other word changes. -/
def Claim.positions : Prop :=
  (∀ (set : BitVec 3) (s : State), s.m.opRunning 0 = none → exec (.otpBitProgram set) s = .next s) ∧
  (∀ (set : BitVec 3) (s : State), ∀ o, s.m.opRunning 0 = some o →
    (s.m.winAll = false → o.auto = false →
      ∃ t, exec (.otpBitProgram set) s = .next t ∧ windowSuspends o s t ∧ t.nv = s.nv) ∧
    (o.endPos ≤ o.prog → s.m.winAll = true → exec (.otpBitProgram set) s = .next s) ∧
    (o.prog < o.endPos → s.m.winAll = true →
      (o.imageBit o.prog = false →
        exec (.otpBitProgram set) s = .next (onlyM s (positionPassed o s.m))) ∧
      (o.imageBit o.prog = true →
        ∃ t, exec (.otpBitProgram set) s = .next t ∧ (∀ i, i ≠ (o.place o.prog).1 → t.nv.word i = s.nv.word i) ∧
          t.nv.jnl = s.nv.jnl ∧ t.sram = s.sram ∧ storeHeld s t ∧
          (set = 7 → t.m.ops = (positionPassed o s.m).ops ∧
            (t.nv.word (o.place o.prog).1).c0.getLsbD (o.place o.prog).2.1 = true ∧
            ((o.place o.prog).2.2 = true → (t.nv.word (o.place o.prog).1).c1.getLsbD (o.place o.prog).2.1 = true ∧
              (t.nv.word (o.place o.prog).1).c2.getLsbD (o.place o.prog).2.1 = true) ∧
            (∀ b, b ≠ (o.place o.prog).2.1 → (t.nv.word (o.place o.prog).1).c0.getLsbD b =
              (s.nv.word (o.place o.prog).1).c0.getLsbD b) ∧
            t.m = { s.m with ops := t.m.ops, free := t.m.free, otp := t.m.otp }) ∧
          (set = 0 → (o.place o.prog).2.2 = false → (s.nv.word (o.place o.prog).1).isSet 0 (o.place o.prog).2.1 = false →
            t.m.otp.failK = o.prog ∧
            (∀ x, x ∈ t.m.ops → ¬(x.kind = o.kind ∧ x.tag = o.tag ∧ x.auto = o.auto)) ∧
            (o.auto = false → t.m.rings.compl = (answered o.infl true 0x0E 6 1 (wd o.prog) s.m).rings.compl)))))

/-- A condition of the window is lost: VDD and the supply as reported, the temperature and REFCLK as the state shows. -/
def Claim.conditionLost (c : WinCond) (m : Mach) : Prop :=
  c = .vdd ∨ c = .supply ∨ c = .temperature ∧ m.winTemp = false ∨ c = .refclk ∧ m.clk.refOk = false

/-- The programming window (R410, R411, R417): its conditions are kept as they are reported; one that is lost suspends a
running programming operation with its position kept, and VDD or REFCLK a running verification. -/
def Claim.window : Prop :=
  (∀ s : State, exec .programmingWindowMet s = .next (onlyM s { s.m with otp := { s.m.otp with
    winVdd := true, winSup := true } })) ∧
  (∀ (c : WinCond) (s : State), (¬ conditionLost c s.m ∨
      s.m.opRunning 0 = none ∧ (s.m.opRunning 1 = none ∨ c = .supply ∨ c = .temperature)) →
    exec (.otpWindowViolation c) s = .next (onlyM s { s.m with otp := { s.m.otp with
      winVdd := s.m.otp.winVdd && c != .vdd, winSup := s.m.otp.winSup && c != .supply } })) ∧
  (∀ (c : WinCond) (s : State), ∀ o, s.m.opRunning 0 = some o → o.auto = false →
    conditionLost c s.m →
    ∃ t, exec (.otpWindowViolation c) s = .next t ∧ windowSuspends o s t ∧
      t.m.otp.winVdd = (s.m.otp.winVdd && c != .vdd) ∧ t.m.otp.winSup = (s.m.otp.winSup && c != .supply)) ∧
  (∀ (c : WinCond) (s : State), ∀ o, s.m.opRunning 1 = some o → o.auto = false → s.m.opRunning 0 = none →
    (c = .vdd ∨ c = .refclk ∧ s.m.clk.refOk = false) →
    ∃ t, exec (.otpWindowViolation c) s = .next t ∧ t.latched 0x0C 6 ∧ t.m.opRunning 1 ≠ some o ∧
      t.m.rings.compl = s.m.rings.compl ∧ sameConfig s t ∧ sameStore s t ∧ t.sram = s.sram) ∧
  (∀ (mv : Nat) (s : State),
    (({ s.m with pwr := { s.m.pwr with vppMv := mv } } : Mach).winSupply = true ∨ s.m.opRunning 0 = none →
      exec (.vppPresence mv) s = .next (onlyM s { s.m with pwr := { s.m.pwr with vppMv := mv } })) ∧
    (({ s.m with pwr := { s.m.pwr with vppMv := mv } } : Mach).winSupply = false →
      ∀ o, s.m.opRunning 0 = some o → o.auto = false →
      ∃ t, exec (.vppPresence mv) s = .next t ∧ t.m.pwr = { s.m.pwr with vppMv := mv } ∧ windowSuspends o s t))

/-- The present word's value at normal level once the given cells have drifted. -/
def Claim.reread (f0 f1 f2 : BitVec 72) (s : State) : BitVec 64 :=
  let i := s.m.otp.refresh % 128
  (NonVol.read (s.nv.setWord i ((s.nv.word i).drifted (wordTriple i) f0 f1 f2)) i).1

/-- The refresh (R398): it rereads one word after another; the cells that have drifted stay so in the array, which changes in
no other word; a value that differs from the latched word is reported as a drift, unless the word was programmed since POR,
and the latch stays. -/
def Claim.refreshes : Prop :=
  ∀ (f0 f1 f2 : BitVec 72) (s : State), ∃ t, exec (.otpRefresh f0 f1 f2) s = .next t ∧
    t.nv.word (s.m.otp.refresh % 128) =
      (s.nv.word (s.m.otp.refresh % 128)).drifted (wordTriple (s.m.otp.refresh % 128)) f0 f1 f2 ∧
    (∀ i, i ≠ s.m.otp.refresh % 128 → t.nv.word i = s.nv.word i) ∧ t.nv.jnl = s.nv.jnl ∧
    t.sram = s.sram ∧ t.eccBad = s.eccBad ∧ t.pending = s.pending ∧ evtKept s.m t.m ∧
    ((s.m.dev.latched = false ∨ s.m.otp.written.getLsbD (s.m.otp.refresh % 128) = true ∨
        reread f0 f1 f2 s = nth s.m.otp.words (s.m.otp.refresh % 128) 0) →
      t.m = { s.m with otp := { s.m.otp with refresh := (s.m.otp.refresh % 128 + 1) % 128 } }) ∧
    (s.m.dev.latched = true → s.m.otp.written.getLsbD (s.m.otp.refresh % 128) = false →
      reread f0 f1 f2 s ≠ nth s.m.otp.words (s.m.otp.refresh % 128) 0 →
      t.latched 0x0C 0 ∧ t.m.otp.drift.getLsbD (s.m.otp.refresh % 128) = true ∧
        (∀ i, i ≠ s.m.otp.refresh % 128 → t.m.otp.drift.getLsbD i = s.m.otp.drift.getLsbD i) ∧
        t.m.quiet = ({ s.m with otp := { s.m.otp with
          refresh := (s.m.otp.refresh % 128 + 1) % 128, drift := t.m.otp.drift,
          driftCnt := inc16 s.m.otp.driftCnt, driftLast := s.m.otp.refresh % 128 } } : Mach).quiet)

/-- The one-time-programmable memory (R398, R410 to R413). -/
def Obligations.OtpPulsesAndWindow : Prop := positions ∧ window ∧ refreshes

/-! ## The journal -/

/-- The journal's own words change, with the non-volatile store's journal. -/
def Claim.journalOnly (s t : State) : Prop :=
  t.nv.otp = s.nv.otp ∧ t.sram = s.sram ∧ t.pending = s.pending ∧ evtKept s.m t.m ∧
    t.m.quiet = ({ s.m with jnl := t.m.jnl, free := t.m.free, frq := t.m.frq, ops := t.m.ops } : Mach).quiet

/-- The reading after a reset (R422, R427, R433): the next SEQ follows every record found, the counters are those of the
newest COUNTERS record, a POR counting itself, and READY is reported. -/
def Claim.scans : Prop :=
  (∀ s : State, (s.m.dev.part.isX = false ∨ s.m.jnl.ready = true ∨ s.m.dev.phase ≠ .running) →
    exec .jnlScan s = .next s) ∧
  (∀ s : State, s.m.dev.part.isX = true → s.m.jnl.ready = false → s.m.dev.phase = .running →
    ∃ t, exec .jnlScan s = .next t ∧ t.m.jnl.ready = true ∧ t.latched 0x0D 5 ∧
      (∀ j r, (s.nv.slot j).record = some r → j < 64 → recSeq r < t.m.jnl.seq) ∧
      (∀ c, s.nv.counters = some c →
        t.m.jnl.porTotal = beNat (slice c 18 4) + (if s.m.dev.rstKind = 1 then 1 else 0) ∧
        t.m.sec.fails = beNat (slice c 22 2) ∧ t.m.jnl.rel = beNat (slice c 26 4)) ∧
      (s.nv.counters = none → t.m.sec.fails = 0 ∧ t.m.jnl.rel = 0) ∧
      (t.m.jnl.split = true → t.latched 0x0D 2) ∧ sameConfig s t ∧ sameStore s t ∧ t.sram = s.sram)

/-- A record is written (R421, R425, R426): with nothing to write nothing happens; the oldest queued item takes the next SEQ
and goes to copy A of a usable slot, which reads as no record until its copy verifies; a verified copy A is followed by copy
B, a verified copy B ends the record; a copy that fails twice retires its slot. -/
def Claim.records : Prop :=
  (∀ s : State, (s.m.dev.part.isX = false ∨ s.m.jnl.ready = false ∨ s.m.thm.jnlHold = true ∨
      s.m.jnl.busy = none ∧ s.m.frq.find? (·.jnlDue) = none ∧ s.m.opRunning 2 = none) →
    exec .jnlRecordWrite s = .next s) ∧
  (∀ s : State, s.m.dev.part.isX = true → s.m.jnl.ready = true → s.m.thm.jnlHold = false → s.m.jnl.busy = none →
    ∀ it, s.m.frq.find? (·.jnlDue) = some it → ∀ p, s.pickSlot = some p →
    ∃ t, exec .jnlRecordWrite s = .next t ∧ t.m.jnl.seq = s.m.jnl.seq + 1 ∧ t.m.jnl.busy.isSome = true ∧
      (∀ w, t.m.jnl.busy = some w → w.slot = p.1 ∧ w.copyB = false ∧ w.wait = false ∧ recType w.bytes = it.recType ∧
        (s.m.jnl.seq < 4294967296 → recSeq w.bytes = s.m.jnl.seq) ∧
        recWear w.bytes = (s.nv.wear p.1 + 1) % 16777216 ∧ intact w.bytes = true) ∧
      intact (t.nv.slot p.1).a = false ∧ (t.nv.slot p.1).b = (s.nv.slot p.1).b ∧
      (∀ j, j ≠ p.1 → t.nv.slot j = s.nv.slot j) ∧ (p.2 = true → t.latched 0x0D 1) ∧
      (t.m.frq.filter (·.jnlDue)) = (s.m.frq.filter (·.jnlDue)).tail ∧ journalOnly s t) ∧
  (∀ (ok : Bool) (s : State), (s.m.jnl.busy = none ∨ ∀ w, s.m.jnl.busy = some w → w.wait = true) →
    exec (.jnlCopyDone ok) s = .next s) ∧
  (∀ s : State, s.m.dev.part.isX = true → ∀ w, s.m.jnl.busy = some w → w.wait = false →
    (w.copyB = false → s.m.thm.jnlHold = false →
      ∃ t, exec (.jnlCopyDone true) s = .next t ∧ (t.nv.slot w.slot).a = w.bytes ∧ intact (t.nv.slot w.slot).b = false ∧
        t.m.jnl.busy = some { w with copyB := true, tried := false, wait := false, since := s.m.now } ∧
        (∀ j, j ≠ w.slot → t.nv.slot j = s.nv.slot j) ∧ journalOnly s t) ∧
    (w.copyB = true →
      ∃ t, exec (.jnlCopyDone true) s = .next t ∧ (t.nv.slot w.slot).b = w.bytes ∧
        (t.nv.slot w.slot).a = (s.nv.slot w.slot).a ∧ t.m.jnl.busy = none ∧ t.m.jnl.last = w.slot ∧
        t.m.jnl.wrCnt = inc16 s.m.jnl.wrCnt ∧ t.latched 0x0D 0 ∧
        (∀ j, j ≠ w.slot → t.nv.slot j = s.nv.slot j) ∧ journalOnly s t) ∧
    (w.tried = false → s.m.thm.jnlHold = false →
      ∃ t, exec (.jnlCopyDone false) s = .next t ∧
        t.m.jnl.busy = some { w with tried := true, wait := false, since := s.m.now } ∧
        (∀ j, j ≠ w.slot → t.nv.slot j = s.nv.slot j) ∧ journalOnly s t) ∧
    (w.tried = true →
      ∃ t, exec (.jnlCopyDone false) s = .next t ∧ (w.slot < 64 → t.m.jnl.retired.getLsbD w.slot = true) ∧
        t.m.jnl.wfailCnt = inc16 s.m.jnl.wfailCnt ∧ t.latched 0x0D 3 ∧
        (∀ v, t.m.jnl.busy = some v → v.slot ≠ w.slot ∨ 64 ≤ w.slot) ∧ journalOnly s t))

/-- The item an ENERGY snapshot queues for bank `b` (R422, R424). -/
def Claim.energyItem (m : Mach) (b : Nat) : FrItem :=
  { kind := 3, ch := 0, code := 0, detail := 0, st := 0, est := 0, aux := 0, tts := 0, time := m.time,
    pay := beBytes 1 b ++ (List.range 4).flatMap fun i => beBytes 6 (m.ch (4 * b + i)).meas.energy.toNat,
    eqDue := false, jnlDue := true }

/-- Snapshots and the release (R424, R429, R431): one ENERGY record per bank is queued while the fault record has room; the
release mark moves to the next SEQ, unless protection denies it. -/
def Claim.snapshots : Prop :=
  (∀ s : State, s.m.dev.part.isX = true → s.m.frq.length ≤ 26 →
    exec .snap s = .next (onlyM s { s.m with frq := s.m.frq ++ s.m.allBanks.map (energyItem s.m) }) ∧
    (fld (s.m.cfg 0x0D08) 0 8 ≠ 0 → s.m.dev.phase = .running → exec .energySnapshot s =
      .next (onlyM s { s.m with frq := s.m.frq ++ s.m.allBanks.map (energyItem s.m) }))) ∧
  (∀ s : State, (fld (s.m.cfg 0x0D08) 0 8 = 0 ∨ s.m.dev.phase ≠ .running) → exec .energySnapshot s = .next s) ∧
  (∀ s : State, s.m.dev.part.isX = false → exec .snap s = .next s ∧ exec .jnlRelease s = .next s) ∧
  (∀ s : State, s.m.dev.part.isX = true → s.m.protected? = true →
    ∃ t, exec .jnlRelease s = .next t ∧ t.latched 0x0D 4 ∧
      becomes s t { s.m with sec := { s.m.sec with denyCnt := inc16 s.m.sec.denyCnt } }) ∧
  (∀ s : State, s.m.dev.part.isX = true → s.m.protected? = false → s.m.jnl.ready = true →
    ∃ t, exec .jnlRelease s = .next t ∧ becomes s t { s.m with
      jnl := { s.m.jnl with rel := s.m.jnl.seq }, frq := t.m.frq, dev := { s.m.dev with frLost := t.m.dev.frLost } })

/-- The journal (R420 to R429). -/
def Obligations.JournalRecords : Prop := scans ∧ records ∧ snapshots

/-! ## Security -/

/-- An attempt ends with a result, and the key buffer is cleared (R432). -/
def Claim.attemptEnds (r : Nat) (m : Mach) : Mach := { m with sec := { m.sec with result := r, keys := [], compare := false } }

/-- Owner unlock (R431 to R434): lockout, a missing digest and the back-off end an attempt at once; the right key unlocks
and clears the failures, a wrong one is counted, and from the third on the back-off runs; LOCK ends it. -/
def Claim.unlocks : Prop :=
  (∀ s : State, s.m.dev.part.isX = true →
    (s.m.otp.kdConf = true → exec .unlock s = .next (onlyM s (attemptEnds 4 s.m))) ∧
    (s.m.otp.kdConf = false → s.m.otp.kdValid = false → exec .unlock s = .next (onlyM s (attemptEnds 3 s.m))) ∧
    (s.m.otp.kdConf = false → s.m.otp.kdValid = true → s.m.sec.backoff = true →
      exec .unlock s = .next (onlyM s (attemptEnds 2 s.m))) ∧
    (s.m.otp.kdConf = false → s.m.otp.kdValid = true → s.m.sec.backoff = false →
      exec .unlock s = .next (onlyM s { s.m with sec := { s.m.sec with compare := true } }))) ∧
  (∀ s : State, (s.m.sec.compare = false ∨ s.m.jnl.ready = false ∨ s.m.countersDue = true) →
    exec .unlockCompare s = .next s) ∧
  (∀ s : State, s.m.dev.part.isX = true → s.m.sec.compare = true → s.m.jnl.ready = true → s.m.countersDue = false →
    (s.m.sec.backoff = true → exec .unlockCompare s = .next (onlyM s (attemptEnds 2 s.m))) ∧
    (s.m.sec.backoff = false → beNat (sha256 s.m.keyBytes) = s.m.otp.kd.toNat →
      ∃ t, exec .unlockCompare s = .next t ∧ t.latched 0x0E 0 ∧ t.m.protected? = false ∧
        becomes s t { attemptEnds 1 s.m with
          sec := { (attemptEnds 1 s.m).sec with unlocked := true, unlCnt := inc16 s.m.sec.unlCnt, fails := 0 }
          frq := t.m.frq, dev := { s.m.dev with frLost := t.m.dev.frLost } }) ∧
    (s.m.sec.backoff = false → beNat (sha256 s.m.keyBytes) ≠ s.m.otp.kd.toNat →
      ∃ t, exec .unlockCompare s = .next t ∧ t.latched 0x0E 1 ∧
        becomes s t { attemptEnds 5 s.m with
          sec := { (attemptEnds 5 s.m).sec with
            fails := inc16 s.m.sec.fails, failTot := inc16 s.m.sec.failTot,
            backoff := decide (3 ≤ inc16 s.m.sec.fails), backAt := s.m.lf }
          frq := t.m.frq, dev := { s.m.dev with frLost := t.m.dev.frLost } })) ∧
  (∀ s : State, s.m.dev.part.isX = true → s.m.sec.unlocked = true →
    ∃ t, exec .lock s = .next t ∧ t.latched 0x0E 2 ∧ becomes s t { s.m with sec := { s.m.sec with unlocked := false } }) ∧
  (∀ s : State, s.m.sec.unlocked = false → exec .lock s = .next s) ∧
  (∀ s : State, s.m.dev.part.isX = true → s.m.sec.backoff = true →
    ∃ t, exec .backoffEnd s = .next t ∧ t.latched 0x0E 4 ∧
      becomes s t { s.m with sec := { s.m.sec with backoff := false } }) ∧
  (∀ s : State, s.m.sec.backoff = false → exec .backoffEnd s = .next s)

/-- Attestation (R436): with a sealed identity the nonce, the identity and the digest are taken; the tag of that message is
the CMAC under the device secret; without one the attempt is not accepted. -/
def Claim.attests : Prop :=
  (∀ s : State, s.m.dev.part.isX = true → s.m.sec.attBusy = false →
    (s.m.region 1 ≠ 2 → exec .attest s = .next (onlyM s { s.m with sec := { s.m.sec with
      tag := List.replicate 16 0, result := 6 } })) ∧
    (s.m.region 1 = 2 → exec .attest s = .next (onlyM s { s.m with sec := { s.m.sec with
      tag := List.replicate 16 0, attBusy := true,
      attMsg := ((List.range 8).flatMap fun i => beBytes 2 (s.m.cfg (0x0E20 + i)).toNat) ++
        ((List.range 4).flatMap fun i => beBytes 8 (s.m.otpWord (32 + i))) ++ s.m.sec.cfgDig } }))) ∧
  (∀ s : State, (s.m.dev.part.isX = false ∨ s.m.sec.attBusy = true) → exec .attest s = .next s) ∧
  (∀ s : State, s.m.dev.part.isX = true → s.m.sec.attBusy = true →
    ∃ t, exec .attestDone s = .next t ∧ t.latched 0x0E 3 ∧
      becomes s t { s.m with sec := { s.m.sec with
        attBusy := false, attMsg := [], tag := cmac s.m.deviceSecret s.m.sec.attMsg, attCnt := inc16 s.m.sec.attCnt } }) ∧
  (∀ s : State, s.m.sec.attBusy = false → exec .attestDone s = .next s)

/-- Owner unlock and attestation (R431 to R436). -/
def Obligations.UnlockAndAttest : Prop := unlocks ∧ attests
end

