-- ==== Sys2Proof/Laws/State.lean ====
section
/-! SUPPORT. What each update of the state leaves as it is, one lemma per field, so that no proof unfolds a record
update; and what the entries of the indexed fields read after one. -/

namespace Sys2Proof.Machine

/-! ## The state around the machine -/

@[simp] theorem State.on_m (f : Mach → Mach) (s : State) : (s.on f).m = f s.m := rfl
@[simp] theorem State.on_sram (f : Mach → Mach) (s : State) : (s.on f).sram = s.sram := rfl
@[simp] theorem State.on_eccBad (f : Mach → Mach) (s : State) : (s.on f).eccBad = s.eccBad := rfl
@[simp] theorem State.on_nv (f : Mach → Mach) (s : State) : (s.on f).nv = s.nv := rfl
@[simp] theorem State.on_pending (f : Mach → Mach) (s : State) : (s.on f).pending = s.pending := rfl
@[simp] theorem State.sramSet_m (a : Nat) (v : Word) (s : State) : (s.sramSet a v).m = s.m := rfl
@[simp] theorem State.sramSet_nv (a : Nat) (v : Word) (s : State) : (s.sramSet a v).nv = s.nv := rfl
@[simp] theorem State.sramSet_pending (a : Nat) (v : Word) (s : State) : (s.sramSet a v).pending = s.pending := rfl

@[simp] theorem State.sramSetList_m (vs : List Word) : ∀ (a : Nat) (s : State), (s.sramSetList a vs).m = s.m := by
  induction vs with
  | nil => intros; rfl
  | cons v t ih => intro a s; exact ih (a + 1) (s.sramSet a v)
@[simp] theorem State.sramSetList_nv (vs : List Word) : ∀ (a : Nat) (s : State), (s.sramSetList a vs).nv = s.nv := by
  induction vs with
  | nil => intros; rfl
  | cons v t ih => intro a s; exact ih (a + 1) (s.sramSet a v)
@[simp] theorem State.sramSetList_pending (vs : List Word) :
    ∀ (a : Nat) (s : State), (s.sramSetList a vs).pending = s.pending := by
  induction vs with
  | nil => intros; rfl
  | cons v t ih => intro a s; exact ih (a + 1) (s.sramSet a v)

/-! ## modCh -/

@[simp] theorem Mach.modCh_now (n : Nat) (f : Chan → Chan) (m : Mach) : (m.modCh n f).now = m.now := by
  unfold Mach.modCh; split <;> rfl
@[simp] theorem Mach.modCh_time (n : Nat) (f : Chan → Chan) (m : Mach) : (m.modCh n f).time = m.time := by
  unfold Mach.modCh; split <;> rfl
@[simp] theorem Mach.modCh_free (n : Nat) (f : Chan → Chan) (m : Mach) : (m.modCh n f).free = m.free := by
  unfold Mach.modCh; split <;> rfl
@[simp] theorem Mach.modCh_active (n : Nat) (f : Chan → Chan) (m : Mach) : (m.modCh n f).active = m.active := by
  unfold Mach.modCh; split <;> rfl
@[simp] theorem Mach.modCh_staged (n : Nat) (f : Chan → Chan) (m : Mach) : (m.modCh n f).staged = m.staged := by
  unfold Mach.modCh; split <;> rfl
@[simp] theorem Mach.modCh_held (n : Nat) (f : Chan → Chan) (m : Mach) : (m.modCh n f).held = m.held := by
  unfold Mach.modCh; split <;> rfl
@[simp] theorem Mach.modCh_evt (n : Nat) (f : Chan → Chan) (m : Mach) : (m.modCh n f).evt = m.evt := by
  unfold Mach.modCh; split <;> rfl
@[simp] theorem Mach.modCh_evtNew (n : Nat) (f : Chan → Chan) (m : Mach) : (m.modCh n f).evtNew = m.evtNew := by
  unfold Mach.modCh; split <;> rfl
@[simp] theorem Mach.modCh_snap (n : Nat) (f : Chan → Chan) (m : Mach) : (m.modCh n f).snap = m.snap := by
  unfold Mach.modCh; split <;> rfl
@[simp] theorem Mach.modCh_dev (n : Nat) (f : Chan → Chan) (m : Mach) : (m.modCh n f).dev = m.dev := by
  unfold Mach.modCh; split <;> rfl
@[simp] theorem Mach.modCh_clk (n : Nat) (f : Chan → Chan) (m : Mach) : (m.modCh n f).clk = m.clk := by
  unfold Mach.modCh; split <;> rfl
@[simp] theorem Mach.modCh_pwr (n : Nat) (f : Chan → Chan) (m : Mach) : (m.modCh n f).pwr = m.pwr := by
  unfold Mach.modCh; split <;> rfl
@[simp] theorem Mach.modCh_dbg (n : Nat) (f : Chan → Chan) (m : Mach) : (m.modCh n f).dbg = m.dbg := by
  unfold Mach.modCh; split <;> rfl
@[simp] theorem Mach.modCh_cmt (n : Nat) (f : Chan → Chan) (m : Mach) : (m.modCh n f).cmt = m.cmt := by
  unfold Mach.modCh; split <;> rfl
@[simp] theorem Mach.modCh_outs (n : Nat) (f : Chan → Chan) (m : Mach) : (m.modCh n f).outs = m.outs := by
  unfold Mach.modCh; split <;> rfl
@[simp] theorem Mach.modCh_tbs (n : Nat) (f : Chan → Chan) (m : Mach) : (m.modCh n f).tbs = m.tbs := by
  unfold Mach.modCh; split <;> rfl
@[simp] theorem Mach.modCh_pairs (n : Nat) (f : Chan → Chan) (m : Mach) : (m.modCh n f).pairs = m.pairs := by
  unfold Mach.modCh; split <;> rfl
@[simp] theorem Mach.modCh_trips (n : Nat) (f : Chan → Chan) (m : Mach) : (m.modCh n f).trips = m.trips := by
  unfold Mach.modCh; split <;> rfl
@[simp] theorem Mach.modCh_tachs (n : Nat) (f : Chan → Chan) (m : Mach) : (m.modCh n f).tachs = m.tachs := by
  unfold Mach.modCh; split <;> rfl
@[simp] theorem Mach.modCh_dl (n : Nat) (f : Chan → Chan) (m : Mach) : (m.modCh n f).dl = m.dl := by
  unfold Mach.modCh; split <;> rfl
@[simp] theorem Mach.modCh_thm (n : Nat) (f : Chan → Chan) (m : Mach) : (m.modCh n f).thm = m.thm := by
  unfold Mach.modCh; split <;> rfl
@[simp] theorem Mach.modCh_limp (n : Nat) (f : Chan → Chan) (m : Mach) : (m.modCh n f).limp = m.limp := by
  unfold Mach.modCh; split <;> rfl
@[simp] theorem Mach.modCh_port (n : Nat) (f : Chan → Chan) (m : Mach) : (m.modCh n f).port = m.port := by
  unfold Mach.modCh; split <;> rfl
@[simp] theorem Mach.modCh_rings (n : Nat) (f : Chan → Chan) (m : Mach) : (m.modCh n f).rings = m.rings := by
  unfold Mach.modCh; split <;> rfl
@[simp] theorem Mach.modCh_ops (n : Nat) (f : Chan → Chan) (m : Mach) : (m.modCh n f).ops = m.ops := by
  unfold Mach.modCh; split <;> rfl
@[simp] theorem Mach.modCh_opLast (n : Nat) (f : Chan → Chan) (m : Mach) : (m.modCh n f).opLast = m.opLast := by
  unfold Mach.modCh; split <;> rfl
@[simp] theorem Mach.modCh_mst (n : Nat) (f : Chan → Chan) (m : Mach) : (m.modCh n f).mst = m.mst := by
  unfold Mach.modCh; split <;> rfl
@[simp] theorem Mach.modCh_site (n : Nat) (f : Chan → Chan) (m : Mach) : (m.modCh n f).site = m.site := by
  unfold Mach.modCh; split <;> rfl
@[simp] theorem Mach.modCh_zc (n : Nat) (f : Chan → Chan) (m : Mach) : (m.modCh n f).zc = m.zc := by
  unfold Mach.modCh; split <;> rfl
@[simp] theorem Mach.modCh_otp (n : Nat) (f : Chan → Chan) (m : Mach) : (m.modCh n f).otp = m.otp := by
  unfold Mach.modCh; split <;> rfl
@[simp] theorem Mach.modCh_frq (n : Nat) (f : Chan → Chan) (m : Mach) : (m.modCh n f).frq = m.frq := by
  unfold Mach.modCh; split <;> rfl
@[simp] theorem Mach.modCh_jnl (n : Nat) (f : Chan → Chan) (m : Mach) : (m.modCh n f).jnl = m.jnl := by
  unfold Mach.modCh; split <;> rfl
@[simp] theorem Mach.modCh_sec (n : Nat) (f : Chan → Chan) (m : Mach) : (m.modCh n f).sec = m.sec := by
  unfold Mach.modCh; split <;> rfl

/-! ## modOut -/

@[simp] theorem Mach.modOut_now (o : Nat) (f : OutUnit → OutUnit) (m : Mach) : (m.modOut o f).now = m.now := by
  unfold Mach.modOut; split <;> rfl
@[simp] theorem Mach.modOut_time (o : Nat) (f : OutUnit → OutUnit) (m : Mach) : (m.modOut o f).time = m.time := by
  unfold Mach.modOut; split <;> rfl
@[simp] theorem Mach.modOut_free (o : Nat) (f : OutUnit → OutUnit) (m : Mach) : (m.modOut o f).free = m.free := by
  unfold Mach.modOut; split <;> rfl
@[simp] theorem Mach.modOut_active (o : Nat) (f : OutUnit → OutUnit) (m : Mach) : (m.modOut o f).active = m.active := by
  unfold Mach.modOut; split <;> rfl
@[simp] theorem Mach.modOut_staged (o : Nat) (f : OutUnit → OutUnit) (m : Mach) : (m.modOut o f).staged = m.staged := by
  unfold Mach.modOut; split <;> rfl
@[simp] theorem Mach.modOut_held (o : Nat) (f : OutUnit → OutUnit) (m : Mach) : (m.modOut o f).held = m.held := by
  unfold Mach.modOut; split <;> rfl
@[simp] theorem Mach.modOut_evt (o : Nat) (f : OutUnit → OutUnit) (m : Mach) : (m.modOut o f).evt = m.evt := by
  unfold Mach.modOut; split <;> rfl
@[simp] theorem Mach.modOut_evtNew (o : Nat) (f : OutUnit → OutUnit) (m : Mach) : (m.modOut o f).evtNew = m.evtNew := by
  unfold Mach.modOut; split <;> rfl
@[simp] theorem Mach.modOut_snap (o : Nat) (f : OutUnit → OutUnit) (m : Mach) : (m.modOut o f).snap = m.snap := by
  unfold Mach.modOut; split <;> rfl
@[simp] theorem Mach.modOut_dev (o : Nat) (f : OutUnit → OutUnit) (m : Mach) : (m.modOut o f).dev = m.dev := by
  unfold Mach.modOut; split <;> rfl
@[simp] theorem Mach.modOut_clk (o : Nat) (f : OutUnit → OutUnit) (m : Mach) : (m.modOut o f).clk = m.clk := by
  unfold Mach.modOut; split <;> rfl
@[simp] theorem Mach.modOut_pwr (o : Nat) (f : OutUnit → OutUnit) (m : Mach) : (m.modOut o f).pwr = m.pwr := by
  unfold Mach.modOut; split <;> rfl
@[simp] theorem Mach.modOut_dbg (o : Nat) (f : OutUnit → OutUnit) (m : Mach) : (m.modOut o f).dbg = m.dbg := by
  unfold Mach.modOut; split <;> rfl
@[simp] theorem Mach.modOut_cmt (o : Nat) (f : OutUnit → OutUnit) (m : Mach) : (m.modOut o f).cmt = m.cmt := by
  unfold Mach.modOut; split <;> rfl
@[simp] theorem Mach.modOut_chans (o : Nat) (f : OutUnit → OutUnit) (m : Mach) : (m.modOut o f).chans = m.chans := by
  unfold Mach.modOut; split <;> rfl
@[simp] theorem Mach.modOut_tbs (o : Nat) (f : OutUnit → OutUnit) (m : Mach) : (m.modOut o f).tbs = m.tbs := by
  unfold Mach.modOut; split <;> rfl
@[simp] theorem Mach.modOut_pairs (o : Nat) (f : OutUnit → OutUnit) (m : Mach) : (m.modOut o f).pairs = m.pairs := by
  unfold Mach.modOut; split <;> rfl
@[simp] theorem Mach.modOut_trips (o : Nat) (f : OutUnit → OutUnit) (m : Mach) : (m.modOut o f).trips = m.trips := by
  unfold Mach.modOut; split <;> rfl
@[simp] theorem Mach.modOut_tachs (o : Nat) (f : OutUnit → OutUnit) (m : Mach) : (m.modOut o f).tachs = m.tachs := by
  unfold Mach.modOut; split <;> rfl
@[simp] theorem Mach.modOut_dl (o : Nat) (f : OutUnit → OutUnit) (m : Mach) : (m.modOut o f).dl = m.dl := by
  unfold Mach.modOut; split <;> rfl
@[simp] theorem Mach.modOut_thm (o : Nat) (f : OutUnit → OutUnit) (m : Mach) : (m.modOut o f).thm = m.thm := by
  unfold Mach.modOut; split <;> rfl
@[simp] theorem Mach.modOut_limp (o : Nat) (f : OutUnit → OutUnit) (m : Mach) : (m.modOut o f).limp = m.limp := by
  unfold Mach.modOut; split <;> rfl
@[simp] theorem Mach.modOut_port (o : Nat) (f : OutUnit → OutUnit) (m : Mach) : (m.modOut o f).port = m.port := by
  unfold Mach.modOut; split <;> rfl
@[simp] theorem Mach.modOut_rings (o : Nat) (f : OutUnit → OutUnit) (m : Mach) : (m.modOut o f).rings = m.rings := by
  unfold Mach.modOut; split <;> rfl
@[simp] theorem Mach.modOut_ops (o : Nat) (f : OutUnit → OutUnit) (m : Mach) : (m.modOut o f).ops = m.ops := by
  unfold Mach.modOut; split <;> rfl
@[simp] theorem Mach.modOut_opLast (o : Nat) (f : OutUnit → OutUnit) (m : Mach) : (m.modOut o f).opLast = m.opLast := by
  unfold Mach.modOut; split <;> rfl
@[simp] theorem Mach.modOut_mst (o : Nat) (f : OutUnit → OutUnit) (m : Mach) : (m.modOut o f).mst = m.mst := by
  unfold Mach.modOut; split <;> rfl
@[simp] theorem Mach.modOut_site (o : Nat) (f : OutUnit → OutUnit) (m : Mach) : (m.modOut o f).site = m.site := by
  unfold Mach.modOut; split <;> rfl
@[simp] theorem Mach.modOut_zc (o : Nat) (f : OutUnit → OutUnit) (m : Mach) : (m.modOut o f).zc = m.zc := by
  unfold Mach.modOut; split <;> rfl
@[simp] theorem Mach.modOut_otp (o : Nat) (f : OutUnit → OutUnit) (m : Mach) : (m.modOut o f).otp = m.otp := by
  unfold Mach.modOut; split <;> rfl
@[simp] theorem Mach.modOut_frq (o : Nat) (f : OutUnit → OutUnit) (m : Mach) : (m.modOut o f).frq = m.frq := by
  unfold Mach.modOut; split <;> rfl
@[simp] theorem Mach.modOut_jnl (o : Nat) (f : OutUnit → OutUnit) (m : Mach) : (m.modOut o f).jnl = m.jnl := by
  unfold Mach.modOut; split <;> rfl
@[simp] theorem Mach.modOut_sec (o : Nat) (f : OutUnit → OutUnit) (m : Mach) : (m.modOut o f).sec = m.sec := by
  unfold Mach.modOut; split <;> rfl

/-! ## modTb -/

@[simp] theorem Mach.modTb_now (k : Nat) (f : Timebase → Timebase) (m : Mach) : (m.modTb k f).now = m.now := by
  unfold Mach.modTb; split <;> rfl
@[simp] theorem Mach.modTb_time (k : Nat) (f : Timebase → Timebase) (m : Mach) : (m.modTb k f).time = m.time := by
  unfold Mach.modTb; split <;> rfl
@[simp] theorem Mach.modTb_free (k : Nat) (f : Timebase → Timebase) (m : Mach) : (m.modTb k f).free = m.free := by
  unfold Mach.modTb; split <;> rfl
@[simp] theorem Mach.modTb_active (k : Nat) (f : Timebase → Timebase) (m : Mach) : (m.modTb k f).active = m.active := by
  unfold Mach.modTb; split <;> rfl
@[simp] theorem Mach.modTb_staged (k : Nat) (f : Timebase → Timebase) (m : Mach) : (m.modTb k f).staged = m.staged := by
  unfold Mach.modTb; split <;> rfl
@[simp] theorem Mach.modTb_held (k : Nat) (f : Timebase → Timebase) (m : Mach) : (m.modTb k f).held = m.held := by
  unfold Mach.modTb; split <;> rfl
@[simp] theorem Mach.modTb_evt (k : Nat) (f : Timebase → Timebase) (m : Mach) : (m.modTb k f).evt = m.evt := by
  unfold Mach.modTb; split <;> rfl
@[simp] theorem Mach.modTb_evtNew (k : Nat) (f : Timebase → Timebase) (m : Mach) : (m.modTb k f).evtNew = m.evtNew := by
  unfold Mach.modTb; split <;> rfl
@[simp] theorem Mach.modTb_snap (k : Nat) (f : Timebase → Timebase) (m : Mach) : (m.modTb k f).snap = m.snap := by
  unfold Mach.modTb; split <;> rfl
@[simp] theorem Mach.modTb_dev (k : Nat) (f : Timebase → Timebase) (m : Mach) : (m.modTb k f).dev = m.dev := by
  unfold Mach.modTb; split <;> rfl
@[simp] theorem Mach.modTb_clk (k : Nat) (f : Timebase → Timebase) (m : Mach) : (m.modTb k f).clk = m.clk := by
  unfold Mach.modTb; split <;> rfl
@[simp] theorem Mach.modTb_pwr (k : Nat) (f : Timebase → Timebase) (m : Mach) : (m.modTb k f).pwr = m.pwr := by
  unfold Mach.modTb; split <;> rfl
@[simp] theorem Mach.modTb_dbg (k : Nat) (f : Timebase → Timebase) (m : Mach) : (m.modTb k f).dbg = m.dbg := by
  unfold Mach.modTb; split <;> rfl
@[simp] theorem Mach.modTb_cmt (k : Nat) (f : Timebase → Timebase) (m : Mach) : (m.modTb k f).cmt = m.cmt := by
  unfold Mach.modTb; split <;> rfl
@[simp] theorem Mach.modTb_chans (k : Nat) (f : Timebase → Timebase) (m : Mach) : (m.modTb k f).chans = m.chans := by
  unfold Mach.modTb; split <;> rfl
@[simp] theorem Mach.modTb_outs (k : Nat) (f : Timebase → Timebase) (m : Mach) : (m.modTb k f).outs = m.outs := by
  unfold Mach.modTb; split <;> rfl
@[simp] theorem Mach.modTb_pairs (k : Nat) (f : Timebase → Timebase) (m : Mach) : (m.modTb k f).pairs = m.pairs := by
  unfold Mach.modTb; split <;> rfl
@[simp] theorem Mach.modTb_trips (k : Nat) (f : Timebase → Timebase) (m : Mach) : (m.modTb k f).trips = m.trips := by
  unfold Mach.modTb; split <;> rfl
@[simp] theorem Mach.modTb_tachs (k : Nat) (f : Timebase → Timebase) (m : Mach) : (m.modTb k f).tachs = m.tachs := by
  unfold Mach.modTb; split <;> rfl
@[simp] theorem Mach.modTb_dl (k : Nat) (f : Timebase → Timebase) (m : Mach) : (m.modTb k f).dl = m.dl := by
  unfold Mach.modTb; split <;> rfl
@[simp] theorem Mach.modTb_thm (k : Nat) (f : Timebase → Timebase) (m : Mach) : (m.modTb k f).thm = m.thm := by
  unfold Mach.modTb; split <;> rfl
@[simp] theorem Mach.modTb_limp (k : Nat) (f : Timebase → Timebase) (m : Mach) : (m.modTb k f).limp = m.limp := by
  unfold Mach.modTb; split <;> rfl
@[simp] theorem Mach.modTb_port (k : Nat) (f : Timebase → Timebase) (m : Mach) : (m.modTb k f).port = m.port := by
  unfold Mach.modTb; split <;> rfl
@[simp] theorem Mach.modTb_rings (k : Nat) (f : Timebase → Timebase) (m : Mach) : (m.modTb k f).rings = m.rings := by
  unfold Mach.modTb; split <;> rfl
@[simp] theorem Mach.modTb_ops (k : Nat) (f : Timebase → Timebase) (m : Mach) : (m.modTb k f).ops = m.ops := by
  unfold Mach.modTb; split <;> rfl
@[simp] theorem Mach.modTb_opLast (k : Nat) (f : Timebase → Timebase) (m : Mach) : (m.modTb k f).opLast = m.opLast := by
  unfold Mach.modTb; split <;> rfl
@[simp] theorem Mach.modTb_mst (k : Nat) (f : Timebase → Timebase) (m : Mach) : (m.modTb k f).mst = m.mst := by
  unfold Mach.modTb; split <;> rfl
@[simp] theorem Mach.modTb_site (k : Nat) (f : Timebase → Timebase) (m : Mach) : (m.modTb k f).site = m.site := by
  unfold Mach.modTb; split <;> rfl
@[simp] theorem Mach.modTb_zc (k : Nat) (f : Timebase → Timebase) (m : Mach) : (m.modTb k f).zc = m.zc := by
  unfold Mach.modTb; split <;> rfl
@[simp] theorem Mach.modTb_otp (k : Nat) (f : Timebase → Timebase) (m : Mach) : (m.modTb k f).otp = m.otp := by
  unfold Mach.modTb; split <;> rfl
@[simp] theorem Mach.modTb_frq (k : Nat) (f : Timebase → Timebase) (m : Mach) : (m.modTb k f).frq = m.frq := by
  unfold Mach.modTb; split <;> rfl
@[simp] theorem Mach.modTb_jnl (k : Nat) (f : Timebase → Timebase) (m : Mach) : (m.modTb k f).jnl = m.jnl := by
  unfold Mach.modTb; split <;> rfl
@[simp] theorem Mach.modTb_sec (k : Nat) (f : Timebase → Timebase) (m : Mach) : (m.modTb k f).sec = m.sec := by
  unfold Mach.modTb; split <;> rfl

/-! ## modPair -/

@[simp] theorem Mach.modPair_now (k : Nat) (f : Pair → Pair) (m : Mach) : (m.modPair k f).now = m.now := by
  unfold Mach.modPair; split <;> rfl
@[simp] theorem Mach.modPair_time (k : Nat) (f : Pair → Pair) (m : Mach) : (m.modPair k f).time = m.time := by
  unfold Mach.modPair; split <;> rfl
@[simp] theorem Mach.modPair_free (k : Nat) (f : Pair → Pair) (m : Mach) : (m.modPair k f).free = m.free := by
  unfold Mach.modPair; split <;> rfl
@[simp] theorem Mach.modPair_active (k : Nat) (f : Pair → Pair) (m : Mach) : (m.modPair k f).active = m.active := by
  unfold Mach.modPair; split <;> rfl
@[simp] theorem Mach.modPair_staged (k : Nat) (f : Pair → Pair) (m : Mach) : (m.modPair k f).staged = m.staged := by
  unfold Mach.modPair; split <;> rfl
@[simp] theorem Mach.modPair_held (k : Nat) (f : Pair → Pair) (m : Mach) : (m.modPair k f).held = m.held := by
  unfold Mach.modPair; split <;> rfl
@[simp] theorem Mach.modPair_evt (k : Nat) (f : Pair → Pair) (m : Mach) : (m.modPair k f).evt = m.evt := by
  unfold Mach.modPair; split <;> rfl
@[simp] theorem Mach.modPair_evtNew (k : Nat) (f : Pair → Pair) (m : Mach) : (m.modPair k f).evtNew = m.evtNew := by
  unfold Mach.modPair; split <;> rfl
@[simp] theorem Mach.modPair_snap (k : Nat) (f : Pair → Pair) (m : Mach) : (m.modPair k f).snap = m.snap := by
  unfold Mach.modPair; split <;> rfl
@[simp] theorem Mach.modPair_dev (k : Nat) (f : Pair → Pair) (m : Mach) : (m.modPair k f).dev = m.dev := by
  unfold Mach.modPair; split <;> rfl
@[simp] theorem Mach.modPair_clk (k : Nat) (f : Pair → Pair) (m : Mach) : (m.modPair k f).clk = m.clk := by
  unfold Mach.modPair; split <;> rfl
@[simp] theorem Mach.modPair_pwr (k : Nat) (f : Pair → Pair) (m : Mach) : (m.modPair k f).pwr = m.pwr := by
  unfold Mach.modPair; split <;> rfl
@[simp] theorem Mach.modPair_dbg (k : Nat) (f : Pair → Pair) (m : Mach) : (m.modPair k f).dbg = m.dbg := by
  unfold Mach.modPair; split <;> rfl
@[simp] theorem Mach.modPair_cmt (k : Nat) (f : Pair → Pair) (m : Mach) : (m.modPair k f).cmt = m.cmt := by
  unfold Mach.modPair; split <;> rfl
@[simp] theorem Mach.modPair_chans (k : Nat) (f : Pair → Pair) (m : Mach) : (m.modPair k f).chans = m.chans := by
  unfold Mach.modPair; split <;> rfl
@[simp] theorem Mach.modPair_outs (k : Nat) (f : Pair → Pair) (m : Mach) : (m.modPair k f).outs = m.outs := by
  unfold Mach.modPair; split <;> rfl
@[simp] theorem Mach.modPair_tbs (k : Nat) (f : Pair → Pair) (m : Mach) : (m.modPair k f).tbs = m.tbs := by
  unfold Mach.modPair; split <;> rfl
@[simp] theorem Mach.modPair_trips (k : Nat) (f : Pair → Pair) (m : Mach) : (m.modPair k f).trips = m.trips := by
  unfold Mach.modPair; split <;> rfl
@[simp] theorem Mach.modPair_tachs (k : Nat) (f : Pair → Pair) (m : Mach) : (m.modPair k f).tachs = m.tachs := by
  unfold Mach.modPair; split <;> rfl
@[simp] theorem Mach.modPair_dl (k : Nat) (f : Pair → Pair) (m : Mach) : (m.modPair k f).dl = m.dl := by
  unfold Mach.modPair; split <;> rfl
@[simp] theorem Mach.modPair_thm (k : Nat) (f : Pair → Pair) (m : Mach) : (m.modPair k f).thm = m.thm := by
  unfold Mach.modPair; split <;> rfl
@[simp] theorem Mach.modPair_limp (k : Nat) (f : Pair → Pair) (m : Mach) : (m.modPair k f).limp = m.limp := by
  unfold Mach.modPair; split <;> rfl
@[simp] theorem Mach.modPair_port (k : Nat) (f : Pair → Pair) (m : Mach) : (m.modPair k f).port = m.port := by
  unfold Mach.modPair; split <;> rfl
@[simp] theorem Mach.modPair_rings (k : Nat) (f : Pair → Pair) (m : Mach) : (m.modPair k f).rings = m.rings := by
  unfold Mach.modPair; split <;> rfl
@[simp] theorem Mach.modPair_ops (k : Nat) (f : Pair → Pair) (m : Mach) : (m.modPair k f).ops = m.ops := by
  unfold Mach.modPair; split <;> rfl
@[simp] theorem Mach.modPair_opLast (k : Nat) (f : Pair → Pair) (m : Mach) : (m.modPair k f).opLast = m.opLast := by
  unfold Mach.modPair; split <;> rfl
@[simp] theorem Mach.modPair_mst (k : Nat) (f : Pair → Pair) (m : Mach) : (m.modPair k f).mst = m.mst := by
  unfold Mach.modPair; split <;> rfl
@[simp] theorem Mach.modPair_site (k : Nat) (f : Pair → Pair) (m : Mach) : (m.modPair k f).site = m.site := by
  unfold Mach.modPair; split <;> rfl
@[simp] theorem Mach.modPair_zc (k : Nat) (f : Pair → Pair) (m : Mach) : (m.modPair k f).zc = m.zc := by
  unfold Mach.modPair; split <;> rfl
@[simp] theorem Mach.modPair_otp (k : Nat) (f : Pair → Pair) (m : Mach) : (m.modPair k f).otp = m.otp := by
  unfold Mach.modPair; split <;> rfl
@[simp] theorem Mach.modPair_frq (k : Nat) (f : Pair → Pair) (m : Mach) : (m.modPair k f).frq = m.frq := by
  unfold Mach.modPair; split <;> rfl
@[simp] theorem Mach.modPair_jnl (k : Nat) (f : Pair → Pair) (m : Mach) : (m.modPair k f).jnl = m.jnl := by
  unfold Mach.modPair; split <;> rfl
@[simp] theorem Mach.modPair_sec (k : Nat) (f : Pair → Pair) (m : Mach) : (m.modPair k f).sec = m.sec := by
  unfold Mach.modPair; split <;> rfl

/-! ## modTach -/

@[simp] theorem Mach.modTach_now (i : Nat) (f : Tach → Tach) (m : Mach) : (m.modTach i f).now = m.now := by
  unfold Mach.modTach; split <;> rfl
@[simp] theorem Mach.modTach_time (i : Nat) (f : Tach → Tach) (m : Mach) : (m.modTach i f).time = m.time := by
  unfold Mach.modTach; split <;> rfl
@[simp] theorem Mach.modTach_free (i : Nat) (f : Tach → Tach) (m : Mach) : (m.modTach i f).free = m.free := by
  unfold Mach.modTach; split <;> rfl
@[simp] theorem Mach.modTach_active (i : Nat) (f : Tach → Tach) (m : Mach) : (m.modTach i f).active = m.active := by
  unfold Mach.modTach; split <;> rfl
@[simp] theorem Mach.modTach_staged (i : Nat) (f : Tach → Tach) (m : Mach) : (m.modTach i f).staged = m.staged := by
  unfold Mach.modTach; split <;> rfl
@[simp] theorem Mach.modTach_held (i : Nat) (f : Tach → Tach) (m : Mach) : (m.modTach i f).held = m.held := by
  unfold Mach.modTach; split <;> rfl
@[simp] theorem Mach.modTach_evt (i : Nat) (f : Tach → Tach) (m : Mach) : (m.modTach i f).evt = m.evt := by
  unfold Mach.modTach; split <;> rfl
@[simp] theorem Mach.modTach_evtNew (i : Nat) (f : Tach → Tach) (m : Mach) : (m.modTach i f).evtNew = m.evtNew := by
  unfold Mach.modTach; split <;> rfl
@[simp] theorem Mach.modTach_snap (i : Nat) (f : Tach → Tach) (m : Mach) : (m.modTach i f).snap = m.snap := by
  unfold Mach.modTach; split <;> rfl
@[simp] theorem Mach.modTach_dev (i : Nat) (f : Tach → Tach) (m : Mach) : (m.modTach i f).dev = m.dev := by
  unfold Mach.modTach; split <;> rfl
@[simp] theorem Mach.modTach_clk (i : Nat) (f : Tach → Tach) (m : Mach) : (m.modTach i f).clk = m.clk := by
  unfold Mach.modTach; split <;> rfl
@[simp] theorem Mach.modTach_pwr (i : Nat) (f : Tach → Tach) (m : Mach) : (m.modTach i f).pwr = m.pwr := by
  unfold Mach.modTach; split <;> rfl
@[simp] theorem Mach.modTach_dbg (i : Nat) (f : Tach → Tach) (m : Mach) : (m.modTach i f).dbg = m.dbg := by
  unfold Mach.modTach; split <;> rfl
@[simp] theorem Mach.modTach_cmt (i : Nat) (f : Tach → Tach) (m : Mach) : (m.modTach i f).cmt = m.cmt := by
  unfold Mach.modTach; split <;> rfl
@[simp] theorem Mach.modTach_chans (i : Nat) (f : Tach → Tach) (m : Mach) : (m.modTach i f).chans = m.chans := by
  unfold Mach.modTach; split <;> rfl
@[simp] theorem Mach.modTach_outs (i : Nat) (f : Tach → Tach) (m : Mach) : (m.modTach i f).outs = m.outs := by
  unfold Mach.modTach; split <;> rfl
@[simp] theorem Mach.modTach_tbs (i : Nat) (f : Tach → Tach) (m : Mach) : (m.modTach i f).tbs = m.tbs := by
  unfold Mach.modTach; split <;> rfl
@[simp] theorem Mach.modTach_pairs (i : Nat) (f : Tach → Tach) (m : Mach) : (m.modTach i f).pairs = m.pairs := by
  unfold Mach.modTach; split <;> rfl
@[simp] theorem Mach.modTach_trips (i : Nat) (f : Tach → Tach) (m : Mach) : (m.modTach i f).trips = m.trips := by
  unfold Mach.modTach; split <;> rfl
@[simp] theorem Mach.modTach_dl (i : Nat) (f : Tach → Tach) (m : Mach) : (m.modTach i f).dl = m.dl := by
  unfold Mach.modTach; split <;> rfl
@[simp] theorem Mach.modTach_thm (i : Nat) (f : Tach → Tach) (m : Mach) : (m.modTach i f).thm = m.thm := by
  unfold Mach.modTach; split <;> rfl
@[simp] theorem Mach.modTach_limp (i : Nat) (f : Tach → Tach) (m : Mach) : (m.modTach i f).limp = m.limp := by
  unfold Mach.modTach; split <;> rfl
@[simp] theorem Mach.modTach_port (i : Nat) (f : Tach → Tach) (m : Mach) : (m.modTach i f).port = m.port := by
  unfold Mach.modTach; split <;> rfl
@[simp] theorem Mach.modTach_rings (i : Nat) (f : Tach → Tach) (m : Mach) : (m.modTach i f).rings = m.rings := by
  unfold Mach.modTach; split <;> rfl
@[simp] theorem Mach.modTach_ops (i : Nat) (f : Tach → Tach) (m : Mach) : (m.modTach i f).ops = m.ops := by
  unfold Mach.modTach; split <;> rfl
@[simp] theorem Mach.modTach_opLast (i : Nat) (f : Tach → Tach) (m : Mach) : (m.modTach i f).opLast = m.opLast := by
  unfold Mach.modTach; split <;> rfl
@[simp] theorem Mach.modTach_mst (i : Nat) (f : Tach → Tach) (m : Mach) : (m.modTach i f).mst = m.mst := by
  unfold Mach.modTach; split <;> rfl
@[simp] theorem Mach.modTach_site (i : Nat) (f : Tach → Tach) (m : Mach) : (m.modTach i f).site = m.site := by
  unfold Mach.modTach; split <;> rfl
@[simp] theorem Mach.modTach_zc (i : Nat) (f : Tach → Tach) (m : Mach) : (m.modTach i f).zc = m.zc := by
  unfold Mach.modTach; split <;> rfl
@[simp] theorem Mach.modTach_otp (i : Nat) (f : Tach → Tach) (m : Mach) : (m.modTach i f).otp = m.otp := by
  unfold Mach.modTach; split <;> rfl
@[simp] theorem Mach.modTach_frq (i : Nat) (f : Tach → Tach) (m : Mach) : (m.modTach i f).frq = m.frq := by
  unfold Mach.modTach; split <;> rfl
@[simp] theorem Mach.modTach_jnl (i : Nat) (f : Tach → Tach) (m : Mach) : (m.modTach i f).jnl = m.jnl := by
  unfold Mach.modTach; split <;> rfl
@[simp] theorem Mach.modTach_sec (i : Nat) (f : Tach → Tach) (m : Mach) : (m.modTach i f).sec = m.sec := by
  unfold Mach.modTach; split <;> rfl

/-! ## modBank -/

@[simp] theorem Mach.modBank_now (b : Nat) (f : BankT → BankT) (m : Mach) : (m.modBank b f).now = m.now := by
  unfold Mach.modBank; split <;> rfl
@[simp] theorem Mach.modBank_time (b : Nat) (f : BankT → BankT) (m : Mach) : (m.modBank b f).time = m.time := by
  unfold Mach.modBank; split <;> rfl
@[simp] theorem Mach.modBank_free (b : Nat) (f : BankT → BankT) (m : Mach) : (m.modBank b f).free = m.free := by
  unfold Mach.modBank; split <;> rfl
@[simp] theorem Mach.modBank_active (b : Nat) (f : BankT → BankT) (m : Mach) : (m.modBank b f).active = m.active := by
  unfold Mach.modBank; split <;> rfl
@[simp] theorem Mach.modBank_staged (b : Nat) (f : BankT → BankT) (m : Mach) : (m.modBank b f).staged = m.staged := by
  unfold Mach.modBank; split <;> rfl
@[simp] theorem Mach.modBank_held (b : Nat) (f : BankT → BankT) (m : Mach) : (m.modBank b f).held = m.held := by
  unfold Mach.modBank; split <;> rfl
@[simp] theorem Mach.modBank_evt (b : Nat) (f : BankT → BankT) (m : Mach) : (m.modBank b f).evt = m.evt := by
  unfold Mach.modBank; split <;> rfl
@[simp] theorem Mach.modBank_evtNew (b : Nat) (f : BankT → BankT) (m : Mach) : (m.modBank b f).evtNew = m.evtNew := by
  unfold Mach.modBank; split <;> rfl
@[simp] theorem Mach.modBank_snap (b : Nat) (f : BankT → BankT) (m : Mach) : (m.modBank b f).snap = m.snap := by
  unfold Mach.modBank; split <;> rfl
@[simp] theorem Mach.modBank_dev (b : Nat) (f : BankT → BankT) (m : Mach) : (m.modBank b f).dev = m.dev := by
  unfold Mach.modBank; split <;> rfl
@[simp] theorem Mach.modBank_clk (b : Nat) (f : BankT → BankT) (m : Mach) : (m.modBank b f).clk = m.clk := by
  unfold Mach.modBank; split <;> rfl
@[simp] theorem Mach.modBank_pwr (b : Nat) (f : BankT → BankT) (m : Mach) : (m.modBank b f).pwr = m.pwr := by
  unfold Mach.modBank; split <;> rfl
@[simp] theorem Mach.modBank_dbg (b : Nat) (f : BankT → BankT) (m : Mach) : (m.modBank b f).dbg = m.dbg := by
  unfold Mach.modBank; split <;> rfl
@[simp] theorem Mach.modBank_cmt (b : Nat) (f : BankT → BankT) (m : Mach) : (m.modBank b f).cmt = m.cmt := by
  unfold Mach.modBank; split <;> rfl
@[simp] theorem Mach.modBank_chans (b : Nat) (f : BankT → BankT) (m : Mach) : (m.modBank b f).chans = m.chans := by
  unfold Mach.modBank; split <;> rfl
@[simp] theorem Mach.modBank_outs (b : Nat) (f : BankT → BankT) (m : Mach) : (m.modBank b f).outs = m.outs := by
  unfold Mach.modBank; split <;> rfl
@[simp] theorem Mach.modBank_tbs (b : Nat) (f : BankT → BankT) (m : Mach) : (m.modBank b f).tbs = m.tbs := by
  unfold Mach.modBank; split <;> rfl
@[simp] theorem Mach.modBank_pairs (b : Nat) (f : BankT → BankT) (m : Mach) : (m.modBank b f).pairs = m.pairs := by
  unfold Mach.modBank; split <;> rfl
@[simp] theorem Mach.modBank_trips (b : Nat) (f : BankT → BankT) (m : Mach) : (m.modBank b f).trips = m.trips := by
  unfold Mach.modBank; split <;> rfl
@[simp] theorem Mach.modBank_tachs (b : Nat) (f : BankT → BankT) (m : Mach) : (m.modBank b f).tachs = m.tachs := by
  unfold Mach.modBank; split <;> rfl
@[simp] theorem Mach.modBank_dl (b : Nat) (f : BankT → BankT) (m : Mach) : (m.modBank b f).dl = m.dl := by
  unfold Mach.modBank; split <;> rfl
@[simp] theorem Mach.modBank_limp (b : Nat) (f : BankT → BankT) (m : Mach) : (m.modBank b f).limp = m.limp := by
  unfold Mach.modBank; split <;> rfl
@[simp] theorem Mach.modBank_port (b : Nat) (f : BankT → BankT) (m : Mach) : (m.modBank b f).port = m.port := by
  unfold Mach.modBank; split <;> rfl
@[simp] theorem Mach.modBank_rings (b : Nat) (f : BankT → BankT) (m : Mach) : (m.modBank b f).rings = m.rings := by
  unfold Mach.modBank; split <;> rfl
@[simp] theorem Mach.modBank_ops (b : Nat) (f : BankT → BankT) (m : Mach) : (m.modBank b f).ops = m.ops := by
  unfold Mach.modBank; split <;> rfl
@[simp] theorem Mach.modBank_opLast (b : Nat) (f : BankT → BankT) (m : Mach) : (m.modBank b f).opLast = m.opLast := by
  unfold Mach.modBank; split <;> rfl
@[simp] theorem Mach.modBank_mst (b : Nat) (f : BankT → BankT) (m : Mach) : (m.modBank b f).mst = m.mst := by
  unfold Mach.modBank; split <;> rfl
@[simp] theorem Mach.modBank_site (b : Nat) (f : BankT → BankT) (m : Mach) : (m.modBank b f).site = m.site := by
  unfold Mach.modBank; split <;> rfl
@[simp] theorem Mach.modBank_zc (b : Nat) (f : BankT → BankT) (m : Mach) : (m.modBank b f).zc = m.zc := by
  unfold Mach.modBank; split <;> rfl
@[simp] theorem Mach.modBank_otp (b : Nat) (f : BankT → BankT) (m : Mach) : (m.modBank b f).otp = m.otp := by
  unfold Mach.modBank; split <;> rfl
@[simp] theorem Mach.modBank_frq (b : Nat) (f : BankT → BankT) (m : Mach) : (m.modBank b f).frq = m.frq := by
  unfold Mach.modBank; split <;> rfl
@[simp] theorem Mach.modBank_jnl (b : Nat) (f : BankT → BankT) (m : Mach) : (m.modBank b f).jnl = m.jnl := by
  unfold Mach.modBank; split <;> rfl
@[simp] theorem Mach.modBank_sec (b : Nat) (f : BankT → BankT) (m : Mach) : (m.modBank b f).sec = m.sec := by
  unfold Mach.modBank; split <;> rfl

/-! ## modSensor -/

@[simp] theorem Mach.modSensor_now (x : Nat) (f : Sensor → Sensor) (m : Mach) : (m.modSensor x f).now = m.now := by
  unfold Mach.modSensor; split <;> rfl
@[simp] theorem Mach.modSensor_time (x : Nat) (f : Sensor → Sensor) (m : Mach) : (m.modSensor x f).time = m.time := by
  unfold Mach.modSensor; split <;> rfl
@[simp] theorem Mach.modSensor_free (x : Nat) (f : Sensor → Sensor) (m : Mach) : (m.modSensor x f).free = m.free := by
  unfold Mach.modSensor; split <;> rfl
@[simp] theorem Mach.modSensor_active (x : Nat) (f : Sensor → Sensor) (m : Mach) : (m.modSensor x f).active = m.active := by
  unfold Mach.modSensor; split <;> rfl
@[simp] theorem Mach.modSensor_staged (x : Nat) (f : Sensor → Sensor) (m : Mach) : (m.modSensor x f).staged = m.staged := by
  unfold Mach.modSensor; split <;> rfl
@[simp] theorem Mach.modSensor_held (x : Nat) (f : Sensor → Sensor) (m : Mach) : (m.modSensor x f).held = m.held := by
  unfold Mach.modSensor; split <;> rfl
@[simp] theorem Mach.modSensor_evt (x : Nat) (f : Sensor → Sensor) (m : Mach) : (m.modSensor x f).evt = m.evt := by
  unfold Mach.modSensor; split <;> rfl
@[simp] theorem Mach.modSensor_evtNew (x : Nat) (f : Sensor → Sensor) (m : Mach) : (m.modSensor x f).evtNew = m.evtNew := by
  unfold Mach.modSensor; split <;> rfl
@[simp] theorem Mach.modSensor_snap (x : Nat) (f : Sensor → Sensor) (m : Mach) : (m.modSensor x f).snap = m.snap := by
  unfold Mach.modSensor; split <;> rfl
@[simp] theorem Mach.modSensor_dev (x : Nat) (f : Sensor → Sensor) (m : Mach) : (m.modSensor x f).dev = m.dev := by
  unfold Mach.modSensor; split <;> rfl
@[simp] theorem Mach.modSensor_clk (x : Nat) (f : Sensor → Sensor) (m : Mach) : (m.modSensor x f).clk = m.clk := by
  unfold Mach.modSensor; split <;> rfl
@[simp] theorem Mach.modSensor_pwr (x : Nat) (f : Sensor → Sensor) (m : Mach) : (m.modSensor x f).pwr = m.pwr := by
  unfold Mach.modSensor; split <;> rfl
@[simp] theorem Mach.modSensor_dbg (x : Nat) (f : Sensor → Sensor) (m : Mach) : (m.modSensor x f).dbg = m.dbg := by
  unfold Mach.modSensor; split <;> rfl
@[simp] theorem Mach.modSensor_cmt (x : Nat) (f : Sensor → Sensor) (m : Mach) : (m.modSensor x f).cmt = m.cmt := by
  unfold Mach.modSensor; split <;> rfl
@[simp] theorem Mach.modSensor_chans (x : Nat) (f : Sensor → Sensor) (m : Mach) : (m.modSensor x f).chans = m.chans := by
  unfold Mach.modSensor; split <;> rfl
@[simp] theorem Mach.modSensor_outs (x : Nat) (f : Sensor → Sensor) (m : Mach) : (m.modSensor x f).outs = m.outs := by
  unfold Mach.modSensor; split <;> rfl
@[simp] theorem Mach.modSensor_tbs (x : Nat) (f : Sensor → Sensor) (m : Mach) : (m.modSensor x f).tbs = m.tbs := by
  unfold Mach.modSensor; split <;> rfl
@[simp] theorem Mach.modSensor_pairs (x : Nat) (f : Sensor → Sensor) (m : Mach) : (m.modSensor x f).pairs = m.pairs := by
  unfold Mach.modSensor; split <;> rfl
@[simp] theorem Mach.modSensor_trips (x : Nat) (f : Sensor → Sensor) (m : Mach) : (m.modSensor x f).trips = m.trips := by
  unfold Mach.modSensor; split <;> rfl
@[simp] theorem Mach.modSensor_tachs (x : Nat) (f : Sensor → Sensor) (m : Mach) : (m.modSensor x f).tachs = m.tachs := by
  unfold Mach.modSensor; split <;> rfl
@[simp] theorem Mach.modSensor_dl (x : Nat) (f : Sensor → Sensor) (m : Mach) : (m.modSensor x f).dl = m.dl := by
  unfold Mach.modSensor; split <;> rfl
@[simp] theorem Mach.modSensor_limp (x : Nat) (f : Sensor → Sensor) (m : Mach) : (m.modSensor x f).limp = m.limp := by
  unfold Mach.modSensor; split <;> rfl
@[simp] theorem Mach.modSensor_port (x : Nat) (f : Sensor → Sensor) (m : Mach) : (m.modSensor x f).port = m.port := by
  unfold Mach.modSensor; split <;> rfl
@[simp] theorem Mach.modSensor_rings (x : Nat) (f : Sensor → Sensor) (m : Mach) : (m.modSensor x f).rings = m.rings := by
  unfold Mach.modSensor; split <;> rfl
@[simp] theorem Mach.modSensor_ops (x : Nat) (f : Sensor → Sensor) (m : Mach) : (m.modSensor x f).ops = m.ops := by
  unfold Mach.modSensor; split <;> rfl
@[simp] theorem Mach.modSensor_opLast (x : Nat) (f : Sensor → Sensor) (m : Mach) : (m.modSensor x f).opLast = m.opLast := by
  unfold Mach.modSensor; split <;> rfl
@[simp] theorem Mach.modSensor_mst (x : Nat) (f : Sensor → Sensor) (m : Mach) : (m.modSensor x f).mst = m.mst := by
  unfold Mach.modSensor; split <;> rfl
@[simp] theorem Mach.modSensor_site (x : Nat) (f : Sensor → Sensor) (m : Mach) : (m.modSensor x f).site = m.site := by
  unfold Mach.modSensor; split <;> rfl
@[simp] theorem Mach.modSensor_zc (x : Nat) (f : Sensor → Sensor) (m : Mach) : (m.modSensor x f).zc = m.zc := by
  unfold Mach.modSensor; split <;> rfl
@[simp] theorem Mach.modSensor_otp (x : Nat) (f : Sensor → Sensor) (m : Mach) : (m.modSensor x f).otp = m.otp := by
  unfold Mach.modSensor; split <;> rfl
@[simp] theorem Mach.modSensor_frq (x : Nat) (f : Sensor → Sensor) (m : Mach) : (m.modSensor x f).frq = m.frq := by
  unfold Mach.modSensor; split <;> rfl
@[simp] theorem Mach.modSensor_jnl (x : Nat) (f : Sensor → Sensor) (m : Mach) : (m.modSensor x f).jnl = m.jnl := by
  unfold Mach.modSensor; split <;> rfl
@[simp] theorem Mach.modSensor_sec (x : Nat) (f : Sensor → Sensor) (m : Mach) : (m.modSensor x f).sec = m.sec := by
  unfold Mach.modSensor; split <;> rfl

/-! ## modThm -/

@[simp] theorem Mach.modThm_now (f : Thallus → Thallus) (m : Mach) : (m.modThm f).now = m.now := rfl
@[simp] theorem Mach.modThm_time (f : Thallus → Thallus) (m : Mach) : (m.modThm f).time = m.time := rfl
@[simp] theorem Mach.modThm_free (f : Thallus → Thallus) (m : Mach) : (m.modThm f).free = m.free := rfl
@[simp] theorem Mach.modThm_active (f : Thallus → Thallus) (m : Mach) : (m.modThm f).active = m.active := rfl
@[simp] theorem Mach.modThm_staged (f : Thallus → Thallus) (m : Mach) : (m.modThm f).staged = m.staged := rfl
@[simp] theorem Mach.modThm_held (f : Thallus → Thallus) (m : Mach) : (m.modThm f).held = m.held := rfl
@[simp] theorem Mach.modThm_evt (f : Thallus → Thallus) (m : Mach) : (m.modThm f).evt = m.evt := rfl
@[simp] theorem Mach.modThm_evtNew (f : Thallus → Thallus) (m : Mach) : (m.modThm f).evtNew = m.evtNew := rfl
@[simp] theorem Mach.modThm_snap (f : Thallus → Thallus) (m : Mach) : (m.modThm f).snap = m.snap := rfl
@[simp] theorem Mach.modThm_dev (f : Thallus → Thallus) (m : Mach) : (m.modThm f).dev = m.dev := rfl
@[simp] theorem Mach.modThm_clk (f : Thallus → Thallus) (m : Mach) : (m.modThm f).clk = m.clk := rfl
@[simp] theorem Mach.modThm_pwr (f : Thallus → Thallus) (m : Mach) : (m.modThm f).pwr = m.pwr := rfl
@[simp] theorem Mach.modThm_dbg (f : Thallus → Thallus) (m : Mach) : (m.modThm f).dbg = m.dbg := rfl
@[simp] theorem Mach.modThm_cmt (f : Thallus → Thallus) (m : Mach) : (m.modThm f).cmt = m.cmt := rfl
@[simp] theorem Mach.modThm_chans (f : Thallus → Thallus) (m : Mach) : (m.modThm f).chans = m.chans := rfl
@[simp] theorem Mach.modThm_outs (f : Thallus → Thallus) (m : Mach) : (m.modThm f).outs = m.outs := rfl
@[simp] theorem Mach.modThm_tbs (f : Thallus → Thallus) (m : Mach) : (m.modThm f).tbs = m.tbs := rfl
@[simp] theorem Mach.modThm_pairs (f : Thallus → Thallus) (m : Mach) : (m.modThm f).pairs = m.pairs := rfl
@[simp] theorem Mach.modThm_trips (f : Thallus → Thallus) (m : Mach) : (m.modThm f).trips = m.trips := rfl
@[simp] theorem Mach.modThm_tachs (f : Thallus → Thallus) (m : Mach) : (m.modThm f).tachs = m.tachs := rfl
@[simp] theorem Mach.modThm_dl (f : Thallus → Thallus) (m : Mach) : (m.modThm f).dl = m.dl := rfl
@[simp] theorem Mach.modThm_thm (f : Thallus → Thallus) (m : Mach) : (m.modThm f).thm = f m.thm := rfl
@[simp] theorem Mach.modThm_limp (f : Thallus → Thallus) (m : Mach) : (m.modThm f).limp = m.limp := rfl
@[simp] theorem Mach.modThm_port (f : Thallus → Thallus) (m : Mach) : (m.modThm f).port = m.port := rfl
@[simp] theorem Mach.modThm_rings (f : Thallus → Thallus) (m : Mach) : (m.modThm f).rings = m.rings := rfl
@[simp] theorem Mach.modThm_ops (f : Thallus → Thallus) (m : Mach) : (m.modThm f).ops = m.ops := rfl
@[simp] theorem Mach.modThm_opLast (f : Thallus → Thallus) (m : Mach) : (m.modThm f).opLast = m.opLast := rfl
@[simp] theorem Mach.modThm_mst (f : Thallus → Thallus) (m : Mach) : (m.modThm f).mst = m.mst := rfl
@[simp] theorem Mach.modThm_site (f : Thallus → Thallus) (m : Mach) : (m.modThm f).site = m.site := rfl
@[simp] theorem Mach.modThm_zc (f : Thallus → Thallus) (m : Mach) : (m.modThm f).zc = m.zc := rfl
@[simp] theorem Mach.modThm_otp (f : Thallus → Thallus) (m : Mach) : (m.modThm f).otp = m.otp := rfl
@[simp] theorem Mach.modThm_frq (f : Thallus → Thallus) (m : Mach) : (m.modThm f).frq = m.frq := rfl
@[simp] theorem Mach.modThm_jnl (f : Thallus → Thallus) (m : Mach) : (m.modThm f).jnl = m.jnl := rfl
@[simp] theorem Mach.modThm_sec (f : Thallus → Thallus) (m : Mach) : (m.modThm f).sec = m.sec := rfl

/-! ## modPwr -/

@[simp] theorem Mach.modPwr_now (f : Pwr → Pwr) (m : Mach) : (m.modPwr f).now = m.now := rfl
@[simp] theorem Mach.modPwr_time (f : Pwr → Pwr) (m : Mach) : (m.modPwr f).time = m.time := rfl
@[simp] theorem Mach.modPwr_free (f : Pwr → Pwr) (m : Mach) : (m.modPwr f).free = m.free := rfl
@[simp] theorem Mach.modPwr_active (f : Pwr → Pwr) (m : Mach) : (m.modPwr f).active = m.active := rfl
@[simp] theorem Mach.modPwr_staged (f : Pwr → Pwr) (m : Mach) : (m.modPwr f).staged = m.staged := rfl
@[simp] theorem Mach.modPwr_held (f : Pwr → Pwr) (m : Mach) : (m.modPwr f).held = m.held := rfl
@[simp] theorem Mach.modPwr_evt (f : Pwr → Pwr) (m : Mach) : (m.modPwr f).evt = m.evt := rfl
@[simp] theorem Mach.modPwr_evtNew (f : Pwr → Pwr) (m : Mach) : (m.modPwr f).evtNew = m.evtNew := rfl
@[simp] theorem Mach.modPwr_snap (f : Pwr → Pwr) (m : Mach) : (m.modPwr f).snap = m.snap := rfl
@[simp] theorem Mach.modPwr_dev (f : Pwr → Pwr) (m : Mach) : (m.modPwr f).dev = m.dev := rfl
@[simp] theorem Mach.modPwr_clk (f : Pwr → Pwr) (m : Mach) : (m.modPwr f).clk = m.clk := rfl
@[simp] theorem Mach.modPwr_pwr (f : Pwr → Pwr) (m : Mach) : (m.modPwr f).pwr = f m.pwr := rfl
@[simp] theorem Mach.modPwr_dbg (f : Pwr → Pwr) (m : Mach) : (m.modPwr f).dbg = m.dbg := rfl
@[simp] theorem Mach.modPwr_cmt (f : Pwr → Pwr) (m : Mach) : (m.modPwr f).cmt = m.cmt := rfl
@[simp] theorem Mach.modPwr_chans (f : Pwr → Pwr) (m : Mach) : (m.modPwr f).chans = m.chans := rfl
@[simp] theorem Mach.modPwr_outs (f : Pwr → Pwr) (m : Mach) : (m.modPwr f).outs = m.outs := rfl
@[simp] theorem Mach.modPwr_tbs (f : Pwr → Pwr) (m : Mach) : (m.modPwr f).tbs = m.tbs := rfl
@[simp] theorem Mach.modPwr_pairs (f : Pwr → Pwr) (m : Mach) : (m.modPwr f).pairs = m.pairs := rfl
@[simp] theorem Mach.modPwr_trips (f : Pwr → Pwr) (m : Mach) : (m.modPwr f).trips = m.trips := rfl
@[simp] theorem Mach.modPwr_tachs (f : Pwr → Pwr) (m : Mach) : (m.modPwr f).tachs = m.tachs := rfl
@[simp] theorem Mach.modPwr_dl (f : Pwr → Pwr) (m : Mach) : (m.modPwr f).dl = m.dl := rfl
@[simp] theorem Mach.modPwr_thm (f : Pwr → Pwr) (m : Mach) : (m.modPwr f).thm = m.thm := rfl
@[simp] theorem Mach.modPwr_limp (f : Pwr → Pwr) (m : Mach) : (m.modPwr f).limp = m.limp := rfl
@[simp] theorem Mach.modPwr_port (f : Pwr → Pwr) (m : Mach) : (m.modPwr f).port = m.port := rfl
@[simp] theorem Mach.modPwr_rings (f : Pwr → Pwr) (m : Mach) : (m.modPwr f).rings = m.rings := rfl
@[simp] theorem Mach.modPwr_ops (f : Pwr → Pwr) (m : Mach) : (m.modPwr f).ops = m.ops := rfl
@[simp] theorem Mach.modPwr_opLast (f : Pwr → Pwr) (m : Mach) : (m.modPwr f).opLast = m.opLast := rfl
@[simp] theorem Mach.modPwr_mst (f : Pwr → Pwr) (m : Mach) : (m.modPwr f).mst = m.mst := rfl
@[simp] theorem Mach.modPwr_site (f : Pwr → Pwr) (m : Mach) : (m.modPwr f).site = m.site := rfl
@[simp] theorem Mach.modPwr_zc (f : Pwr → Pwr) (m : Mach) : (m.modPwr f).zc = m.zc := rfl
@[simp] theorem Mach.modPwr_otp (f : Pwr → Pwr) (m : Mach) : (m.modPwr f).otp = m.otp := rfl
@[simp] theorem Mach.modPwr_frq (f : Pwr → Pwr) (m : Mach) : (m.modPwr f).frq = m.frq := rfl
@[simp] theorem Mach.modPwr_jnl (f : Pwr → Pwr) (m : Mach) : (m.modPwr f).jnl = m.jnl := rfl
@[simp] theorem Mach.modPwr_sec (f : Pwr → Pwr) (m : Mach) : (m.modPwr f).sec = m.sec := rfl

/-! ## modClk -/

@[simp] theorem Mach.modClk_now (f : Clk → Clk) (m : Mach) : (m.modClk f).now = m.now := rfl
@[simp] theorem Mach.modClk_time (f : Clk → Clk) (m : Mach) : (m.modClk f).time = m.time := rfl
@[simp] theorem Mach.modClk_free (f : Clk → Clk) (m : Mach) : (m.modClk f).free = m.free := rfl
@[simp] theorem Mach.modClk_active (f : Clk → Clk) (m : Mach) : (m.modClk f).active = m.active := rfl
@[simp] theorem Mach.modClk_staged (f : Clk → Clk) (m : Mach) : (m.modClk f).staged = m.staged := rfl
@[simp] theorem Mach.modClk_held (f : Clk → Clk) (m : Mach) : (m.modClk f).held = m.held := rfl
@[simp] theorem Mach.modClk_evt (f : Clk → Clk) (m : Mach) : (m.modClk f).evt = m.evt := rfl
@[simp] theorem Mach.modClk_evtNew (f : Clk → Clk) (m : Mach) : (m.modClk f).evtNew = m.evtNew := rfl
@[simp] theorem Mach.modClk_snap (f : Clk → Clk) (m : Mach) : (m.modClk f).snap = m.snap := rfl
@[simp] theorem Mach.modClk_dev (f : Clk → Clk) (m : Mach) : (m.modClk f).dev = m.dev := rfl
@[simp] theorem Mach.modClk_clk (f : Clk → Clk) (m : Mach) : (m.modClk f).clk = f m.clk := rfl
@[simp] theorem Mach.modClk_pwr (f : Clk → Clk) (m : Mach) : (m.modClk f).pwr = m.pwr := rfl
@[simp] theorem Mach.modClk_dbg (f : Clk → Clk) (m : Mach) : (m.modClk f).dbg = m.dbg := rfl
@[simp] theorem Mach.modClk_cmt (f : Clk → Clk) (m : Mach) : (m.modClk f).cmt = m.cmt := rfl
@[simp] theorem Mach.modClk_chans (f : Clk → Clk) (m : Mach) : (m.modClk f).chans = m.chans := rfl
@[simp] theorem Mach.modClk_outs (f : Clk → Clk) (m : Mach) : (m.modClk f).outs = m.outs := rfl
@[simp] theorem Mach.modClk_tbs (f : Clk → Clk) (m : Mach) : (m.modClk f).tbs = m.tbs := rfl
@[simp] theorem Mach.modClk_pairs (f : Clk → Clk) (m : Mach) : (m.modClk f).pairs = m.pairs := rfl
@[simp] theorem Mach.modClk_trips (f : Clk → Clk) (m : Mach) : (m.modClk f).trips = m.trips := rfl
@[simp] theorem Mach.modClk_tachs (f : Clk → Clk) (m : Mach) : (m.modClk f).tachs = m.tachs := rfl
@[simp] theorem Mach.modClk_dl (f : Clk → Clk) (m : Mach) : (m.modClk f).dl = m.dl := rfl
@[simp] theorem Mach.modClk_thm (f : Clk → Clk) (m : Mach) : (m.modClk f).thm = m.thm := rfl
@[simp] theorem Mach.modClk_limp (f : Clk → Clk) (m : Mach) : (m.modClk f).limp = m.limp := rfl
@[simp] theorem Mach.modClk_port (f : Clk → Clk) (m : Mach) : (m.modClk f).port = m.port := rfl
@[simp] theorem Mach.modClk_rings (f : Clk → Clk) (m : Mach) : (m.modClk f).rings = m.rings := rfl
@[simp] theorem Mach.modClk_ops (f : Clk → Clk) (m : Mach) : (m.modClk f).ops = m.ops := rfl
@[simp] theorem Mach.modClk_opLast (f : Clk → Clk) (m : Mach) : (m.modClk f).opLast = m.opLast := rfl
@[simp] theorem Mach.modClk_mst (f : Clk → Clk) (m : Mach) : (m.modClk f).mst = m.mst := rfl
@[simp] theorem Mach.modClk_site (f : Clk → Clk) (m : Mach) : (m.modClk f).site = m.site := rfl
@[simp] theorem Mach.modClk_zc (f : Clk → Clk) (m : Mach) : (m.modClk f).zc = m.zc := rfl
@[simp] theorem Mach.modClk_otp (f : Clk → Clk) (m : Mach) : (m.modClk f).otp = m.otp := rfl
@[simp] theorem Mach.modClk_frq (f : Clk → Clk) (m : Mach) : (m.modClk f).frq = m.frq := rfl
@[simp] theorem Mach.modClk_jnl (f : Clk → Clk) (m : Mach) : (m.modClk f).jnl = m.jnl := rfl
@[simp] theorem Mach.modClk_sec (f : Clk → Clk) (m : Mach) : (m.modClk f).sec = m.sec := rfl

/-! ## modDev -/

@[simp] theorem Mach.modDev_now (f : Dev → Dev) (m : Mach) : (m.modDev f).now = m.now := rfl
@[simp] theorem Mach.modDev_time (f : Dev → Dev) (m : Mach) : (m.modDev f).time = m.time := rfl
@[simp] theorem Mach.modDev_free (f : Dev → Dev) (m : Mach) : (m.modDev f).free = m.free := rfl
@[simp] theorem Mach.modDev_active (f : Dev → Dev) (m : Mach) : (m.modDev f).active = m.active := rfl
@[simp] theorem Mach.modDev_staged (f : Dev → Dev) (m : Mach) : (m.modDev f).staged = m.staged := rfl
@[simp] theorem Mach.modDev_held (f : Dev → Dev) (m : Mach) : (m.modDev f).held = m.held := rfl
@[simp] theorem Mach.modDev_evt (f : Dev → Dev) (m : Mach) : (m.modDev f).evt = m.evt := rfl
@[simp] theorem Mach.modDev_evtNew (f : Dev → Dev) (m : Mach) : (m.modDev f).evtNew = m.evtNew := rfl
@[simp] theorem Mach.modDev_snap (f : Dev → Dev) (m : Mach) : (m.modDev f).snap = m.snap := rfl
@[simp] theorem Mach.modDev_dev (f : Dev → Dev) (m : Mach) : (m.modDev f).dev = f m.dev := rfl
@[simp] theorem Mach.modDev_clk (f : Dev → Dev) (m : Mach) : (m.modDev f).clk = m.clk := rfl
@[simp] theorem Mach.modDev_pwr (f : Dev → Dev) (m : Mach) : (m.modDev f).pwr = m.pwr := rfl
@[simp] theorem Mach.modDev_dbg (f : Dev → Dev) (m : Mach) : (m.modDev f).dbg = m.dbg := rfl
@[simp] theorem Mach.modDev_cmt (f : Dev → Dev) (m : Mach) : (m.modDev f).cmt = m.cmt := rfl
@[simp] theorem Mach.modDev_chans (f : Dev → Dev) (m : Mach) : (m.modDev f).chans = m.chans := rfl
@[simp] theorem Mach.modDev_outs (f : Dev → Dev) (m : Mach) : (m.modDev f).outs = m.outs := rfl
@[simp] theorem Mach.modDev_tbs (f : Dev → Dev) (m : Mach) : (m.modDev f).tbs = m.tbs := rfl
@[simp] theorem Mach.modDev_pairs (f : Dev → Dev) (m : Mach) : (m.modDev f).pairs = m.pairs := rfl
@[simp] theorem Mach.modDev_trips (f : Dev → Dev) (m : Mach) : (m.modDev f).trips = m.trips := rfl
@[simp] theorem Mach.modDev_tachs (f : Dev → Dev) (m : Mach) : (m.modDev f).tachs = m.tachs := rfl
@[simp] theorem Mach.modDev_dl (f : Dev → Dev) (m : Mach) : (m.modDev f).dl = m.dl := rfl
@[simp] theorem Mach.modDev_thm (f : Dev → Dev) (m : Mach) : (m.modDev f).thm = m.thm := rfl
@[simp] theorem Mach.modDev_limp (f : Dev → Dev) (m : Mach) : (m.modDev f).limp = m.limp := rfl
@[simp] theorem Mach.modDev_port (f : Dev → Dev) (m : Mach) : (m.modDev f).port = m.port := rfl
@[simp] theorem Mach.modDev_rings (f : Dev → Dev) (m : Mach) : (m.modDev f).rings = m.rings := rfl
@[simp] theorem Mach.modDev_ops (f : Dev → Dev) (m : Mach) : (m.modDev f).ops = m.ops := rfl
@[simp] theorem Mach.modDev_opLast (f : Dev → Dev) (m : Mach) : (m.modDev f).opLast = m.opLast := rfl
@[simp] theorem Mach.modDev_mst (f : Dev → Dev) (m : Mach) : (m.modDev f).mst = m.mst := rfl
@[simp] theorem Mach.modDev_site (f : Dev → Dev) (m : Mach) : (m.modDev f).site = m.site := rfl
@[simp] theorem Mach.modDev_zc (f : Dev → Dev) (m : Mach) : (m.modDev f).zc = m.zc := rfl
@[simp] theorem Mach.modDev_otp (f : Dev → Dev) (m : Mach) : (m.modDev f).otp = m.otp := rfl
@[simp] theorem Mach.modDev_frq (f : Dev → Dev) (m : Mach) : (m.modDev f).frq = m.frq := rfl
@[simp] theorem Mach.modDev_jnl (f : Dev → Dev) (m : Mach) : (m.modDev f).jnl = m.jnl := rfl
@[simp] theorem Mach.modDev_sec (f : Dev → Dev) (m : Mach) : (m.modDev f).sec = m.sec := rfl

/-! ## modSite -/

@[simp] theorem Mach.modSite_now (f : Site → Site) (m : Mach) : (m.modSite f).now = m.now := rfl
@[simp] theorem Mach.modSite_time (f : Site → Site) (m : Mach) : (m.modSite f).time = m.time := rfl
@[simp] theorem Mach.modSite_free (f : Site → Site) (m : Mach) : (m.modSite f).free = m.free := rfl
@[simp] theorem Mach.modSite_active (f : Site → Site) (m : Mach) : (m.modSite f).active = m.active := rfl
@[simp] theorem Mach.modSite_staged (f : Site → Site) (m : Mach) : (m.modSite f).staged = m.staged := rfl
@[simp] theorem Mach.modSite_held (f : Site → Site) (m : Mach) : (m.modSite f).held = m.held := rfl
@[simp] theorem Mach.modSite_evt (f : Site → Site) (m : Mach) : (m.modSite f).evt = m.evt := rfl
@[simp] theorem Mach.modSite_evtNew (f : Site → Site) (m : Mach) : (m.modSite f).evtNew = m.evtNew := rfl
@[simp] theorem Mach.modSite_snap (f : Site → Site) (m : Mach) : (m.modSite f).snap = m.snap := rfl
@[simp] theorem Mach.modSite_dev (f : Site → Site) (m : Mach) : (m.modSite f).dev = m.dev := rfl
@[simp] theorem Mach.modSite_clk (f : Site → Site) (m : Mach) : (m.modSite f).clk = m.clk := rfl
@[simp] theorem Mach.modSite_pwr (f : Site → Site) (m : Mach) : (m.modSite f).pwr = m.pwr := rfl
@[simp] theorem Mach.modSite_dbg (f : Site → Site) (m : Mach) : (m.modSite f).dbg = m.dbg := rfl
@[simp] theorem Mach.modSite_cmt (f : Site → Site) (m : Mach) : (m.modSite f).cmt = m.cmt := rfl
@[simp] theorem Mach.modSite_chans (f : Site → Site) (m : Mach) : (m.modSite f).chans = m.chans := rfl
@[simp] theorem Mach.modSite_outs (f : Site → Site) (m : Mach) : (m.modSite f).outs = m.outs := rfl
@[simp] theorem Mach.modSite_tbs (f : Site → Site) (m : Mach) : (m.modSite f).tbs = m.tbs := rfl
@[simp] theorem Mach.modSite_pairs (f : Site → Site) (m : Mach) : (m.modSite f).pairs = m.pairs := rfl
@[simp] theorem Mach.modSite_trips (f : Site → Site) (m : Mach) : (m.modSite f).trips = m.trips := rfl
@[simp] theorem Mach.modSite_tachs (f : Site → Site) (m : Mach) : (m.modSite f).tachs = m.tachs := rfl
@[simp] theorem Mach.modSite_dl (f : Site → Site) (m : Mach) : (m.modSite f).dl = m.dl := rfl
@[simp] theorem Mach.modSite_thm (f : Site → Site) (m : Mach) : (m.modSite f).thm = m.thm := rfl
@[simp] theorem Mach.modSite_limp (f : Site → Site) (m : Mach) : (m.modSite f).limp = m.limp := rfl
@[simp] theorem Mach.modSite_port (f : Site → Site) (m : Mach) : (m.modSite f).port = m.port := rfl
@[simp] theorem Mach.modSite_rings (f : Site → Site) (m : Mach) : (m.modSite f).rings = m.rings := rfl
@[simp] theorem Mach.modSite_ops (f : Site → Site) (m : Mach) : (m.modSite f).ops = m.ops := rfl
@[simp] theorem Mach.modSite_opLast (f : Site → Site) (m : Mach) : (m.modSite f).opLast = m.opLast := rfl
@[simp] theorem Mach.modSite_mst (f : Site → Site) (m : Mach) : (m.modSite f).mst = m.mst := rfl
@[simp] theorem Mach.modSite_site (f : Site → Site) (m : Mach) : (m.modSite f).site = f m.site := rfl
@[simp] theorem Mach.modSite_zc (f : Site → Site) (m : Mach) : (m.modSite f).zc = m.zc := rfl
@[simp] theorem Mach.modSite_otp (f : Site → Site) (m : Mach) : (m.modSite f).otp = m.otp := rfl
@[simp] theorem Mach.modSite_frq (f : Site → Site) (m : Mach) : (m.modSite f).frq = m.frq := rfl
@[simp] theorem Mach.modSite_jnl (f : Site → Site) (m : Mach) : (m.modSite f).jnl = m.jnl := rfl
@[simp] theorem Mach.modSite_sec (f : Site → Site) (m : Mach) : (m.modSite f).sec = m.sec := rfl

/-! ## modZc -/

@[simp] theorem Mach.modZc_now (f : Zc → Zc) (m : Mach) : (m.modZc f).now = m.now := rfl
@[simp] theorem Mach.modZc_time (f : Zc → Zc) (m : Mach) : (m.modZc f).time = m.time := rfl
@[simp] theorem Mach.modZc_free (f : Zc → Zc) (m : Mach) : (m.modZc f).free = m.free := rfl
@[simp] theorem Mach.modZc_active (f : Zc → Zc) (m : Mach) : (m.modZc f).active = m.active := rfl
@[simp] theorem Mach.modZc_staged (f : Zc → Zc) (m : Mach) : (m.modZc f).staged = m.staged := rfl
@[simp] theorem Mach.modZc_held (f : Zc → Zc) (m : Mach) : (m.modZc f).held = m.held := rfl
@[simp] theorem Mach.modZc_evt (f : Zc → Zc) (m : Mach) : (m.modZc f).evt = m.evt := rfl
@[simp] theorem Mach.modZc_evtNew (f : Zc → Zc) (m : Mach) : (m.modZc f).evtNew = m.evtNew := rfl
@[simp] theorem Mach.modZc_snap (f : Zc → Zc) (m : Mach) : (m.modZc f).snap = m.snap := rfl
@[simp] theorem Mach.modZc_dev (f : Zc → Zc) (m : Mach) : (m.modZc f).dev = m.dev := rfl
@[simp] theorem Mach.modZc_clk (f : Zc → Zc) (m : Mach) : (m.modZc f).clk = m.clk := rfl
@[simp] theorem Mach.modZc_pwr (f : Zc → Zc) (m : Mach) : (m.modZc f).pwr = m.pwr := rfl
@[simp] theorem Mach.modZc_dbg (f : Zc → Zc) (m : Mach) : (m.modZc f).dbg = m.dbg := rfl
@[simp] theorem Mach.modZc_cmt (f : Zc → Zc) (m : Mach) : (m.modZc f).cmt = m.cmt := rfl
@[simp] theorem Mach.modZc_chans (f : Zc → Zc) (m : Mach) : (m.modZc f).chans = m.chans := rfl
@[simp] theorem Mach.modZc_outs (f : Zc → Zc) (m : Mach) : (m.modZc f).outs = m.outs := rfl
@[simp] theorem Mach.modZc_tbs (f : Zc → Zc) (m : Mach) : (m.modZc f).tbs = m.tbs := rfl
@[simp] theorem Mach.modZc_pairs (f : Zc → Zc) (m : Mach) : (m.modZc f).pairs = m.pairs := rfl
@[simp] theorem Mach.modZc_trips (f : Zc → Zc) (m : Mach) : (m.modZc f).trips = m.trips := rfl
@[simp] theorem Mach.modZc_tachs (f : Zc → Zc) (m : Mach) : (m.modZc f).tachs = m.tachs := rfl
@[simp] theorem Mach.modZc_dl (f : Zc → Zc) (m : Mach) : (m.modZc f).dl = m.dl := rfl
@[simp] theorem Mach.modZc_thm (f : Zc → Zc) (m : Mach) : (m.modZc f).thm = m.thm := rfl
@[simp] theorem Mach.modZc_limp (f : Zc → Zc) (m : Mach) : (m.modZc f).limp = m.limp := rfl
@[simp] theorem Mach.modZc_port (f : Zc → Zc) (m : Mach) : (m.modZc f).port = m.port := rfl
@[simp] theorem Mach.modZc_rings (f : Zc → Zc) (m : Mach) : (m.modZc f).rings = m.rings := rfl
@[simp] theorem Mach.modZc_ops (f : Zc → Zc) (m : Mach) : (m.modZc f).ops = m.ops := rfl
@[simp] theorem Mach.modZc_opLast (f : Zc → Zc) (m : Mach) : (m.modZc f).opLast = m.opLast := rfl
@[simp] theorem Mach.modZc_mst (f : Zc → Zc) (m : Mach) : (m.modZc f).mst = m.mst := rfl
@[simp] theorem Mach.modZc_site (f : Zc → Zc) (m : Mach) : (m.modZc f).site = m.site := rfl
@[simp] theorem Mach.modZc_zc (f : Zc → Zc) (m : Mach) : (m.modZc f).zc = f m.zc := rfl
@[simp] theorem Mach.modZc_otp (f : Zc → Zc) (m : Mach) : (m.modZc f).otp = m.otp := rfl
@[simp] theorem Mach.modZc_frq (f : Zc → Zc) (m : Mach) : (m.modZc f).frq = m.frq := rfl
@[simp] theorem Mach.modZc_jnl (f : Zc → Zc) (m : Mach) : (m.modZc f).jnl = m.jnl := rfl
@[simp] theorem Mach.modZc_sec (f : Zc → Zc) (m : Mach) : (m.modZc f).sec = m.sec := rfl

/-! ## modOtp -/

@[simp] theorem Mach.modOtp_now (f : Otp → Otp) (m : Mach) : (m.modOtp f).now = m.now := rfl
@[simp] theorem Mach.modOtp_time (f : Otp → Otp) (m : Mach) : (m.modOtp f).time = m.time := rfl
@[simp] theorem Mach.modOtp_free (f : Otp → Otp) (m : Mach) : (m.modOtp f).free = m.free := rfl
@[simp] theorem Mach.modOtp_active (f : Otp → Otp) (m : Mach) : (m.modOtp f).active = m.active := rfl
@[simp] theorem Mach.modOtp_staged (f : Otp → Otp) (m : Mach) : (m.modOtp f).staged = m.staged := rfl
@[simp] theorem Mach.modOtp_held (f : Otp → Otp) (m : Mach) : (m.modOtp f).held = m.held := rfl
@[simp] theorem Mach.modOtp_evt (f : Otp → Otp) (m : Mach) : (m.modOtp f).evt = m.evt := rfl
@[simp] theorem Mach.modOtp_evtNew (f : Otp → Otp) (m : Mach) : (m.modOtp f).evtNew = m.evtNew := rfl
@[simp] theorem Mach.modOtp_snap (f : Otp → Otp) (m : Mach) : (m.modOtp f).snap = m.snap := rfl
@[simp] theorem Mach.modOtp_dev (f : Otp → Otp) (m : Mach) : (m.modOtp f).dev = m.dev := rfl
@[simp] theorem Mach.modOtp_clk (f : Otp → Otp) (m : Mach) : (m.modOtp f).clk = m.clk := rfl
@[simp] theorem Mach.modOtp_pwr (f : Otp → Otp) (m : Mach) : (m.modOtp f).pwr = m.pwr := rfl
@[simp] theorem Mach.modOtp_dbg (f : Otp → Otp) (m : Mach) : (m.modOtp f).dbg = m.dbg := rfl
@[simp] theorem Mach.modOtp_cmt (f : Otp → Otp) (m : Mach) : (m.modOtp f).cmt = m.cmt := rfl
@[simp] theorem Mach.modOtp_chans (f : Otp → Otp) (m : Mach) : (m.modOtp f).chans = m.chans := rfl
@[simp] theorem Mach.modOtp_outs (f : Otp → Otp) (m : Mach) : (m.modOtp f).outs = m.outs := rfl
@[simp] theorem Mach.modOtp_tbs (f : Otp → Otp) (m : Mach) : (m.modOtp f).tbs = m.tbs := rfl
@[simp] theorem Mach.modOtp_pairs (f : Otp → Otp) (m : Mach) : (m.modOtp f).pairs = m.pairs := rfl
@[simp] theorem Mach.modOtp_trips (f : Otp → Otp) (m : Mach) : (m.modOtp f).trips = m.trips := rfl
@[simp] theorem Mach.modOtp_tachs (f : Otp → Otp) (m : Mach) : (m.modOtp f).tachs = m.tachs := rfl
@[simp] theorem Mach.modOtp_dl (f : Otp → Otp) (m : Mach) : (m.modOtp f).dl = m.dl := rfl
@[simp] theorem Mach.modOtp_thm (f : Otp → Otp) (m : Mach) : (m.modOtp f).thm = m.thm := rfl
@[simp] theorem Mach.modOtp_limp (f : Otp → Otp) (m : Mach) : (m.modOtp f).limp = m.limp := rfl
@[simp] theorem Mach.modOtp_port (f : Otp → Otp) (m : Mach) : (m.modOtp f).port = m.port := rfl
@[simp] theorem Mach.modOtp_rings (f : Otp → Otp) (m : Mach) : (m.modOtp f).rings = m.rings := rfl
@[simp] theorem Mach.modOtp_ops (f : Otp → Otp) (m : Mach) : (m.modOtp f).ops = m.ops := rfl
@[simp] theorem Mach.modOtp_opLast (f : Otp → Otp) (m : Mach) : (m.modOtp f).opLast = m.opLast := rfl
@[simp] theorem Mach.modOtp_mst (f : Otp → Otp) (m : Mach) : (m.modOtp f).mst = m.mst := rfl
@[simp] theorem Mach.modOtp_site (f : Otp → Otp) (m : Mach) : (m.modOtp f).site = m.site := rfl
@[simp] theorem Mach.modOtp_zc (f : Otp → Otp) (m : Mach) : (m.modOtp f).zc = m.zc := rfl
@[simp] theorem Mach.modOtp_otp (f : Otp → Otp) (m : Mach) : (m.modOtp f).otp = f m.otp := rfl
@[simp] theorem Mach.modOtp_frq (f : Otp → Otp) (m : Mach) : (m.modOtp f).frq = m.frq := rfl
@[simp] theorem Mach.modOtp_jnl (f : Otp → Otp) (m : Mach) : (m.modOtp f).jnl = m.jnl := rfl
@[simp] theorem Mach.modOtp_sec (f : Otp → Otp) (m : Mach) : (m.modOtp f).sec = m.sec := rfl

/-! ## modJnl -/

@[simp] theorem Mach.modJnl_now (f : Jnl → Jnl) (m : Mach) : (m.modJnl f).now = m.now := rfl
@[simp] theorem Mach.modJnl_time (f : Jnl → Jnl) (m : Mach) : (m.modJnl f).time = m.time := rfl
@[simp] theorem Mach.modJnl_free (f : Jnl → Jnl) (m : Mach) : (m.modJnl f).free = m.free := rfl
@[simp] theorem Mach.modJnl_active (f : Jnl → Jnl) (m : Mach) : (m.modJnl f).active = m.active := rfl
@[simp] theorem Mach.modJnl_staged (f : Jnl → Jnl) (m : Mach) : (m.modJnl f).staged = m.staged := rfl
@[simp] theorem Mach.modJnl_held (f : Jnl → Jnl) (m : Mach) : (m.modJnl f).held = m.held := rfl
@[simp] theorem Mach.modJnl_evt (f : Jnl → Jnl) (m : Mach) : (m.modJnl f).evt = m.evt := rfl
@[simp] theorem Mach.modJnl_evtNew (f : Jnl → Jnl) (m : Mach) : (m.modJnl f).evtNew = m.evtNew := rfl
@[simp] theorem Mach.modJnl_snap (f : Jnl → Jnl) (m : Mach) : (m.modJnl f).snap = m.snap := rfl
@[simp] theorem Mach.modJnl_dev (f : Jnl → Jnl) (m : Mach) : (m.modJnl f).dev = m.dev := rfl
@[simp] theorem Mach.modJnl_clk (f : Jnl → Jnl) (m : Mach) : (m.modJnl f).clk = m.clk := rfl
@[simp] theorem Mach.modJnl_pwr (f : Jnl → Jnl) (m : Mach) : (m.modJnl f).pwr = m.pwr := rfl
@[simp] theorem Mach.modJnl_dbg (f : Jnl → Jnl) (m : Mach) : (m.modJnl f).dbg = m.dbg := rfl
@[simp] theorem Mach.modJnl_cmt (f : Jnl → Jnl) (m : Mach) : (m.modJnl f).cmt = m.cmt := rfl
@[simp] theorem Mach.modJnl_chans (f : Jnl → Jnl) (m : Mach) : (m.modJnl f).chans = m.chans := rfl
@[simp] theorem Mach.modJnl_outs (f : Jnl → Jnl) (m : Mach) : (m.modJnl f).outs = m.outs := rfl
@[simp] theorem Mach.modJnl_tbs (f : Jnl → Jnl) (m : Mach) : (m.modJnl f).tbs = m.tbs := rfl
@[simp] theorem Mach.modJnl_pairs (f : Jnl → Jnl) (m : Mach) : (m.modJnl f).pairs = m.pairs := rfl
@[simp] theorem Mach.modJnl_trips (f : Jnl → Jnl) (m : Mach) : (m.modJnl f).trips = m.trips := rfl
@[simp] theorem Mach.modJnl_tachs (f : Jnl → Jnl) (m : Mach) : (m.modJnl f).tachs = m.tachs := rfl
@[simp] theorem Mach.modJnl_dl (f : Jnl → Jnl) (m : Mach) : (m.modJnl f).dl = m.dl := rfl
@[simp] theorem Mach.modJnl_thm (f : Jnl → Jnl) (m : Mach) : (m.modJnl f).thm = m.thm := rfl
@[simp] theorem Mach.modJnl_limp (f : Jnl → Jnl) (m : Mach) : (m.modJnl f).limp = m.limp := rfl
@[simp] theorem Mach.modJnl_port (f : Jnl → Jnl) (m : Mach) : (m.modJnl f).port = m.port := rfl
@[simp] theorem Mach.modJnl_rings (f : Jnl → Jnl) (m : Mach) : (m.modJnl f).rings = m.rings := rfl
@[simp] theorem Mach.modJnl_ops (f : Jnl → Jnl) (m : Mach) : (m.modJnl f).ops = m.ops := rfl
@[simp] theorem Mach.modJnl_opLast (f : Jnl → Jnl) (m : Mach) : (m.modJnl f).opLast = m.opLast := rfl
@[simp] theorem Mach.modJnl_mst (f : Jnl → Jnl) (m : Mach) : (m.modJnl f).mst = m.mst := rfl
@[simp] theorem Mach.modJnl_site (f : Jnl → Jnl) (m : Mach) : (m.modJnl f).site = m.site := rfl
@[simp] theorem Mach.modJnl_zc (f : Jnl → Jnl) (m : Mach) : (m.modJnl f).zc = m.zc := rfl
@[simp] theorem Mach.modJnl_otp (f : Jnl → Jnl) (m : Mach) : (m.modJnl f).otp = m.otp := rfl
@[simp] theorem Mach.modJnl_frq (f : Jnl → Jnl) (m : Mach) : (m.modJnl f).frq = m.frq := rfl
@[simp] theorem Mach.modJnl_jnl (f : Jnl → Jnl) (m : Mach) : (m.modJnl f).jnl = f m.jnl := rfl
@[simp] theorem Mach.modJnl_sec (f : Jnl → Jnl) (m : Mach) : (m.modJnl f).sec = m.sec := rfl

/-! ## modSec -/

@[simp] theorem Mach.modSec_now (f : Sec → Sec) (m : Mach) : (m.modSec f).now = m.now := rfl
@[simp] theorem Mach.modSec_time (f : Sec → Sec) (m : Mach) : (m.modSec f).time = m.time := rfl
@[simp] theorem Mach.modSec_free (f : Sec → Sec) (m : Mach) : (m.modSec f).free = m.free := rfl
@[simp] theorem Mach.modSec_active (f : Sec → Sec) (m : Mach) : (m.modSec f).active = m.active := rfl
@[simp] theorem Mach.modSec_staged (f : Sec → Sec) (m : Mach) : (m.modSec f).staged = m.staged := rfl
@[simp] theorem Mach.modSec_held (f : Sec → Sec) (m : Mach) : (m.modSec f).held = m.held := rfl
@[simp] theorem Mach.modSec_evt (f : Sec → Sec) (m : Mach) : (m.modSec f).evt = m.evt := rfl
@[simp] theorem Mach.modSec_evtNew (f : Sec → Sec) (m : Mach) : (m.modSec f).evtNew = m.evtNew := rfl
@[simp] theorem Mach.modSec_snap (f : Sec → Sec) (m : Mach) : (m.modSec f).snap = m.snap := rfl
@[simp] theorem Mach.modSec_dev (f : Sec → Sec) (m : Mach) : (m.modSec f).dev = m.dev := rfl
@[simp] theorem Mach.modSec_clk (f : Sec → Sec) (m : Mach) : (m.modSec f).clk = m.clk := rfl
@[simp] theorem Mach.modSec_pwr (f : Sec → Sec) (m : Mach) : (m.modSec f).pwr = m.pwr := rfl
@[simp] theorem Mach.modSec_dbg (f : Sec → Sec) (m : Mach) : (m.modSec f).dbg = m.dbg := rfl
@[simp] theorem Mach.modSec_cmt (f : Sec → Sec) (m : Mach) : (m.modSec f).cmt = m.cmt := rfl
@[simp] theorem Mach.modSec_chans (f : Sec → Sec) (m : Mach) : (m.modSec f).chans = m.chans := rfl
@[simp] theorem Mach.modSec_outs (f : Sec → Sec) (m : Mach) : (m.modSec f).outs = m.outs := rfl
@[simp] theorem Mach.modSec_tbs (f : Sec → Sec) (m : Mach) : (m.modSec f).tbs = m.tbs := rfl
@[simp] theorem Mach.modSec_pairs (f : Sec → Sec) (m : Mach) : (m.modSec f).pairs = m.pairs := rfl
@[simp] theorem Mach.modSec_trips (f : Sec → Sec) (m : Mach) : (m.modSec f).trips = m.trips := rfl
@[simp] theorem Mach.modSec_tachs (f : Sec → Sec) (m : Mach) : (m.modSec f).tachs = m.tachs := rfl
@[simp] theorem Mach.modSec_dl (f : Sec → Sec) (m : Mach) : (m.modSec f).dl = m.dl := rfl
@[simp] theorem Mach.modSec_thm (f : Sec → Sec) (m : Mach) : (m.modSec f).thm = m.thm := rfl
@[simp] theorem Mach.modSec_limp (f : Sec → Sec) (m : Mach) : (m.modSec f).limp = m.limp := rfl
@[simp] theorem Mach.modSec_port (f : Sec → Sec) (m : Mach) : (m.modSec f).port = m.port := rfl
@[simp] theorem Mach.modSec_rings (f : Sec → Sec) (m : Mach) : (m.modSec f).rings = m.rings := rfl
@[simp] theorem Mach.modSec_ops (f : Sec → Sec) (m : Mach) : (m.modSec f).ops = m.ops := rfl
@[simp] theorem Mach.modSec_opLast (f : Sec → Sec) (m : Mach) : (m.modSec f).opLast = m.opLast := rfl
@[simp] theorem Mach.modSec_mst (f : Sec → Sec) (m : Mach) : (m.modSec f).mst = m.mst := rfl
@[simp] theorem Mach.modSec_site (f : Sec → Sec) (m : Mach) : (m.modSec f).site = m.site := rfl
@[simp] theorem Mach.modSec_zc (f : Sec → Sec) (m : Mach) : (m.modSec f).zc = m.zc := rfl
@[simp] theorem Mach.modSec_otp (f : Sec → Sec) (m : Mach) : (m.modSec f).otp = m.otp := rfl
@[simp] theorem Mach.modSec_frq (f : Sec → Sec) (m : Mach) : (m.modSec f).frq = m.frq := rfl
@[simp] theorem Mach.modSec_jnl (f : Sec → Sec) (m : Mach) : (m.modSec f).jnl = m.jnl := rfl
@[simp] theorem Mach.modSec_sec (f : Sec → Sec) (m : Mach) : (m.modSec f).sec = f m.sec := rfl

/-! ## modRings -/

@[simp] theorem Mach.modRings_now (f : Rings → Rings) (m : Mach) : (m.modRings f).now = m.now := rfl
@[simp] theorem Mach.modRings_time (f : Rings → Rings) (m : Mach) : (m.modRings f).time = m.time := rfl
@[simp] theorem Mach.modRings_free (f : Rings → Rings) (m : Mach) : (m.modRings f).free = m.free := rfl
@[simp] theorem Mach.modRings_active (f : Rings → Rings) (m : Mach) : (m.modRings f).active = m.active := rfl
@[simp] theorem Mach.modRings_staged (f : Rings → Rings) (m : Mach) : (m.modRings f).staged = m.staged := rfl
@[simp] theorem Mach.modRings_held (f : Rings → Rings) (m : Mach) : (m.modRings f).held = m.held := rfl
@[simp] theorem Mach.modRings_evt (f : Rings → Rings) (m : Mach) : (m.modRings f).evt = m.evt := rfl
@[simp] theorem Mach.modRings_evtNew (f : Rings → Rings) (m : Mach) : (m.modRings f).evtNew = m.evtNew := rfl
@[simp] theorem Mach.modRings_snap (f : Rings → Rings) (m : Mach) : (m.modRings f).snap = m.snap := rfl
@[simp] theorem Mach.modRings_dev (f : Rings → Rings) (m : Mach) : (m.modRings f).dev = m.dev := rfl
@[simp] theorem Mach.modRings_clk (f : Rings → Rings) (m : Mach) : (m.modRings f).clk = m.clk := rfl
@[simp] theorem Mach.modRings_pwr (f : Rings → Rings) (m : Mach) : (m.modRings f).pwr = m.pwr := rfl
@[simp] theorem Mach.modRings_dbg (f : Rings → Rings) (m : Mach) : (m.modRings f).dbg = m.dbg := rfl
@[simp] theorem Mach.modRings_cmt (f : Rings → Rings) (m : Mach) : (m.modRings f).cmt = m.cmt := rfl
@[simp] theorem Mach.modRings_chans (f : Rings → Rings) (m : Mach) : (m.modRings f).chans = m.chans := rfl
@[simp] theorem Mach.modRings_outs (f : Rings → Rings) (m : Mach) : (m.modRings f).outs = m.outs := rfl
@[simp] theorem Mach.modRings_tbs (f : Rings → Rings) (m : Mach) : (m.modRings f).tbs = m.tbs := rfl
@[simp] theorem Mach.modRings_pairs (f : Rings → Rings) (m : Mach) : (m.modRings f).pairs = m.pairs := rfl
@[simp] theorem Mach.modRings_trips (f : Rings → Rings) (m : Mach) : (m.modRings f).trips = m.trips := rfl
@[simp] theorem Mach.modRings_tachs (f : Rings → Rings) (m : Mach) : (m.modRings f).tachs = m.tachs := rfl
@[simp] theorem Mach.modRings_dl (f : Rings → Rings) (m : Mach) : (m.modRings f).dl = m.dl := rfl
@[simp] theorem Mach.modRings_thm (f : Rings → Rings) (m : Mach) : (m.modRings f).thm = m.thm := rfl
@[simp] theorem Mach.modRings_limp (f : Rings → Rings) (m : Mach) : (m.modRings f).limp = m.limp := rfl
@[simp] theorem Mach.modRings_port (f : Rings → Rings) (m : Mach) : (m.modRings f).port = m.port := rfl
@[simp] theorem Mach.modRings_rings (f : Rings → Rings) (m : Mach) : (m.modRings f).rings = f m.rings := rfl
@[simp] theorem Mach.modRings_ops (f : Rings → Rings) (m : Mach) : (m.modRings f).ops = m.ops := rfl
@[simp] theorem Mach.modRings_opLast (f : Rings → Rings) (m : Mach) : (m.modRings f).opLast = m.opLast := rfl
@[simp] theorem Mach.modRings_mst (f : Rings → Rings) (m : Mach) : (m.modRings f).mst = m.mst := rfl
@[simp] theorem Mach.modRings_site (f : Rings → Rings) (m : Mach) : (m.modRings f).site = m.site := rfl
@[simp] theorem Mach.modRings_zc (f : Rings → Rings) (m : Mach) : (m.modRings f).zc = m.zc := rfl
@[simp] theorem Mach.modRings_otp (f : Rings → Rings) (m : Mach) : (m.modRings f).otp = m.otp := rfl
@[simp] theorem Mach.modRings_frq (f : Rings → Rings) (m : Mach) : (m.modRings f).frq = m.frq := rfl
@[simp] theorem Mach.modRings_jnl (f : Rings → Rings) (m : Mach) : (m.modRings f).jnl = m.jnl := rfl
@[simp] theorem Mach.modRings_sec (f : Rings → Rings) (m : Mach) : (m.modRings f).sec = m.sec := rfl

/-! ## modMst -/

@[simp] theorem Mach.modMst_now (f : Mst → Mst) (m : Mach) : (m.modMst f).now = m.now := rfl
@[simp] theorem Mach.modMst_time (f : Mst → Mst) (m : Mach) : (m.modMst f).time = m.time := rfl
@[simp] theorem Mach.modMst_free (f : Mst → Mst) (m : Mach) : (m.modMst f).free = m.free := rfl
@[simp] theorem Mach.modMst_active (f : Mst → Mst) (m : Mach) : (m.modMst f).active = m.active := rfl
@[simp] theorem Mach.modMst_staged (f : Mst → Mst) (m : Mach) : (m.modMst f).staged = m.staged := rfl
@[simp] theorem Mach.modMst_held (f : Mst → Mst) (m : Mach) : (m.modMst f).held = m.held := rfl
@[simp] theorem Mach.modMst_evt (f : Mst → Mst) (m : Mach) : (m.modMst f).evt = m.evt := rfl
@[simp] theorem Mach.modMst_evtNew (f : Mst → Mst) (m : Mach) : (m.modMst f).evtNew = m.evtNew := rfl
@[simp] theorem Mach.modMst_snap (f : Mst → Mst) (m : Mach) : (m.modMst f).snap = m.snap := rfl
@[simp] theorem Mach.modMst_dev (f : Mst → Mst) (m : Mach) : (m.modMst f).dev = m.dev := rfl
@[simp] theorem Mach.modMst_clk (f : Mst → Mst) (m : Mach) : (m.modMst f).clk = m.clk := rfl
@[simp] theorem Mach.modMst_pwr (f : Mst → Mst) (m : Mach) : (m.modMst f).pwr = m.pwr := rfl
@[simp] theorem Mach.modMst_dbg (f : Mst → Mst) (m : Mach) : (m.modMst f).dbg = m.dbg := rfl
@[simp] theorem Mach.modMst_cmt (f : Mst → Mst) (m : Mach) : (m.modMst f).cmt = m.cmt := rfl
@[simp] theorem Mach.modMst_chans (f : Mst → Mst) (m : Mach) : (m.modMst f).chans = m.chans := rfl
@[simp] theorem Mach.modMst_outs (f : Mst → Mst) (m : Mach) : (m.modMst f).outs = m.outs := rfl
@[simp] theorem Mach.modMst_tbs (f : Mst → Mst) (m : Mach) : (m.modMst f).tbs = m.tbs := rfl
@[simp] theorem Mach.modMst_pairs (f : Mst → Mst) (m : Mach) : (m.modMst f).pairs = m.pairs := rfl
@[simp] theorem Mach.modMst_trips (f : Mst → Mst) (m : Mach) : (m.modMst f).trips = m.trips := rfl
@[simp] theorem Mach.modMst_tachs (f : Mst → Mst) (m : Mach) : (m.modMst f).tachs = m.tachs := rfl
@[simp] theorem Mach.modMst_dl (f : Mst → Mst) (m : Mach) : (m.modMst f).dl = m.dl := rfl
@[simp] theorem Mach.modMst_thm (f : Mst → Mst) (m : Mach) : (m.modMst f).thm = m.thm := rfl
@[simp] theorem Mach.modMst_limp (f : Mst → Mst) (m : Mach) : (m.modMst f).limp = m.limp := rfl
@[simp] theorem Mach.modMst_port (f : Mst → Mst) (m : Mach) : (m.modMst f).port = m.port := rfl
@[simp] theorem Mach.modMst_rings (f : Mst → Mst) (m : Mach) : (m.modMst f).rings = m.rings := rfl
@[simp] theorem Mach.modMst_ops (f : Mst → Mst) (m : Mach) : (m.modMst f).ops = m.ops := rfl
@[simp] theorem Mach.modMst_opLast (f : Mst → Mst) (m : Mach) : (m.modMst f).opLast = m.opLast := rfl
@[simp] theorem Mach.modMst_mst (f : Mst → Mst) (m : Mach) : (m.modMst f).mst = f m.mst := rfl
@[simp] theorem Mach.modMst_site (f : Mst → Mst) (m : Mach) : (m.modMst f).site = m.site := rfl
@[simp] theorem Mach.modMst_zc (f : Mst → Mst) (m : Mach) : (m.modMst f).zc = m.zc := rfl
@[simp] theorem Mach.modMst_otp (f : Mst → Mst) (m : Mach) : (m.modMst f).otp = m.otp := rfl
@[simp] theorem Mach.modMst_frq (f : Mst → Mst) (m : Mach) : (m.modMst f).frq = m.frq := rfl
@[simp] theorem Mach.modMst_jnl (f : Mst → Mst) (m : Mach) : (m.modMst f).jnl = m.jnl := rfl
@[simp] theorem Mach.modMst_sec (f : Mst → Mst) (m : Mach) : (m.modMst f).sec = m.sec := rfl

/-! ## setCfg -/

@[simp] theorem Mach.setCfg_now (a : Nat) (w : Word) (m : Mach) : (m.setCfg a w).now = m.now := rfl
@[simp] theorem Mach.setCfg_time (a : Nat) (w : Word) (m : Mach) : (m.setCfg a w).time = m.time := rfl
@[simp] theorem Mach.setCfg_free (a : Nat) (w : Word) (m : Mach) : (m.setCfg a w).free = m.free := rfl
@[simp] theorem Mach.setCfg_staged (a : Nat) (w : Word) (m : Mach) : (m.setCfg a w).staged = m.staged := rfl
@[simp] theorem Mach.setCfg_held (a : Nat) (w : Word) (m : Mach) : (m.setCfg a w).held = m.held := rfl
@[simp] theorem Mach.setCfg_evt (a : Nat) (w : Word) (m : Mach) : (m.setCfg a w).evt = m.evt := rfl
@[simp] theorem Mach.setCfg_evtNew (a : Nat) (w : Word) (m : Mach) : (m.setCfg a w).evtNew = m.evtNew := rfl
@[simp] theorem Mach.setCfg_snap (a : Nat) (w : Word) (m : Mach) : (m.setCfg a w).snap = m.snap := rfl
@[simp] theorem Mach.setCfg_dev (a : Nat) (w : Word) (m : Mach) : (m.setCfg a w).dev = m.dev := rfl
@[simp] theorem Mach.setCfg_clk (a : Nat) (w : Word) (m : Mach) : (m.setCfg a w).clk = m.clk := rfl
@[simp] theorem Mach.setCfg_pwr (a : Nat) (w : Word) (m : Mach) : (m.setCfg a w).pwr = m.pwr := rfl
@[simp] theorem Mach.setCfg_dbg (a : Nat) (w : Word) (m : Mach) : (m.setCfg a w).dbg = m.dbg := rfl
@[simp] theorem Mach.setCfg_cmt (a : Nat) (w : Word) (m : Mach) : (m.setCfg a w).cmt = m.cmt := rfl
@[simp] theorem Mach.setCfg_chans (a : Nat) (w : Word) (m : Mach) : (m.setCfg a w).chans = m.chans := rfl
@[simp] theorem Mach.setCfg_outs (a : Nat) (w : Word) (m : Mach) : (m.setCfg a w).outs = m.outs := rfl
@[simp] theorem Mach.setCfg_tbs (a : Nat) (w : Word) (m : Mach) : (m.setCfg a w).tbs = m.tbs := rfl
@[simp] theorem Mach.setCfg_pairs (a : Nat) (w : Word) (m : Mach) : (m.setCfg a w).pairs = m.pairs := rfl
@[simp] theorem Mach.setCfg_trips (a : Nat) (w : Word) (m : Mach) : (m.setCfg a w).trips = m.trips := rfl
@[simp] theorem Mach.setCfg_tachs (a : Nat) (w : Word) (m : Mach) : (m.setCfg a w).tachs = m.tachs := rfl
@[simp] theorem Mach.setCfg_dl (a : Nat) (w : Word) (m : Mach) : (m.setCfg a w).dl = m.dl := rfl
@[simp] theorem Mach.setCfg_thm (a : Nat) (w : Word) (m : Mach) : (m.setCfg a w).thm = m.thm := rfl
@[simp] theorem Mach.setCfg_limp (a : Nat) (w : Word) (m : Mach) : (m.setCfg a w).limp = m.limp := rfl
@[simp] theorem Mach.setCfg_port (a : Nat) (w : Word) (m : Mach) : (m.setCfg a w).port = m.port := rfl
@[simp] theorem Mach.setCfg_rings (a : Nat) (w : Word) (m : Mach) : (m.setCfg a w).rings = m.rings := rfl
@[simp] theorem Mach.setCfg_ops (a : Nat) (w : Word) (m : Mach) : (m.setCfg a w).ops = m.ops := rfl
@[simp] theorem Mach.setCfg_opLast (a : Nat) (w : Word) (m : Mach) : (m.setCfg a w).opLast = m.opLast := rfl
@[simp] theorem Mach.setCfg_mst (a : Nat) (w : Word) (m : Mach) : (m.setCfg a w).mst = m.mst := rfl
@[simp] theorem Mach.setCfg_site (a : Nat) (w : Word) (m : Mach) : (m.setCfg a w).site = m.site := rfl
@[simp] theorem Mach.setCfg_zc (a : Nat) (w : Word) (m : Mach) : (m.setCfg a w).zc = m.zc := rfl
@[simp] theorem Mach.setCfg_otp (a : Nat) (w : Word) (m : Mach) : (m.setCfg a w).otp = m.otp := rfl
@[simp] theorem Mach.setCfg_frq (a : Nat) (w : Word) (m : Mach) : (m.setCfg a w).frq = m.frq := rfl
@[simp] theorem Mach.setCfg_jnl (a : Nat) (w : Word) (m : Mach) : (m.setCfg a w).jnl = m.jnl := rfl
@[simp] theorem Mach.setCfg_sec (a : Nat) (w : Word) (m : Mach) : (m.setCfg a w).sec = m.sec := rfl

/-! ## setEvtWord -/

@[simp] theorem Mach.setEvtWord_now (p : Nat) (w : Word) (m : Mach) : (m.setEvtWord p w).now = m.now := rfl
@[simp] theorem Mach.setEvtWord_time (p : Nat) (w : Word) (m : Mach) : (m.setEvtWord p w).time = m.time := rfl
@[simp] theorem Mach.setEvtWord_free (p : Nat) (w : Word) (m : Mach) : (m.setEvtWord p w).free = m.free := rfl
@[simp] theorem Mach.setEvtWord_active (p : Nat) (w : Word) (m : Mach) : (m.setEvtWord p w).active = m.active := rfl
@[simp] theorem Mach.setEvtWord_staged (p : Nat) (w : Word) (m : Mach) : (m.setEvtWord p w).staged = m.staged := rfl
@[simp] theorem Mach.setEvtWord_held (p : Nat) (w : Word) (m : Mach) : (m.setEvtWord p w).held = m.held := rfl
@[simp] theorem Mach.setEvtWord_evtNew (p : Nat) (w : Word) (m : Mach) : (m.setEvtWord p w).evtNew = m.evtNew := rfl
@[simp] theorem Mach.setEvtWord_snap (p : Nat) (w : Word) (m : Mach) : (m.setEvtWord p w).snap = m.snap := rfl
@[simp] theorem Mach.setEvtWord_dev (p : Nat) (w : Word) (m : Mach) : (m.setEvtWord p w).dev = m.dev := rfl
@[simp] theorem Mach.setEvtWord_clk (p : Nat) (w : Word) (m : Mach) : (m.setEvtWord p w).clk = m.clk := rfl
@[simp] theorem Mach.setEvtWord_pwr (p : Nat) (w : Word) (m : Mach) : (m.setEvtWord p w).pwr = m.pwr := rfl
@[simp] theorem Mach.setEvtWord_dbg (p : Nat) (w : Word) (m : Mach) : (m.setEvtWord p w).dbg = m.dbg := rfl
@[simp] theorem Mach.setEvtWord_cmt (p : Nat) (w : Word) (m : Mach) : (m.setEvtWord p w).cmt = m.cmt := rfl
@[simp] theorem Mach.setEvtWord_chans (p : Nat) (w : Word) (m : Mach) : (m.setEvtWord p w).chans = m.chans := rfl
@[simp] theorem Mach.setEvtWord_outs (p : Nat) (w : Word) (m : Mach) : (m.setEvtWord p w).outs = m.outs := rfl
@[simp] theorem Mach.setEvtWord_tbs (p : Nat) (w : Word) (m : Mach) : (m.setEvtWord p w).tbs = m.tbs := rfl
@[simp] theorem Mach.setEvtWord_pairs (p : Nat) (w : Word) (m : Mach) : (m.setEvtWord p w).pairs = m.pairs := rfl
@[simp] theorem Mach.setEvtWord_trips (p : Nat) (w : Word) (m : Mach) : (m.setEvtWord p w).trips = m.trips := rfl
@[simp] theorem Mach.setEvtWord_tachs (p : Nat) (w : Word) (m : Mach) : (m.setEvtWord p w).tachs = m.tachs := rfl
@[simp] theorem Mach.setEvtWord_dl (p : Nat) (w : Word) (m : Mach) : (m.setEvtWord p w).dl = m.dl := rfl
@[simp] theorem Mach.setEvtWord_thm (p : Nat) (w : Word) (m : Mach) : (m.setEvtWord p w).thm = m.thm := rfl
@[simp] theorem Mach.setEvtWord_limp (p : Nat) (w : Word) (m : Mach) : (m.setEvtWord p w).limp = m.limp := rfl
@[simp] theorem Mach.setEvtWord_port (p : Nat) (w : Word) (m : Mach) : (m.setEvtWord p w).port = m.port := rfl
@[simp] theorem Mach.setEvtWord_rings (p : Nat) (w : Word) (m : Mach) : (m.setEvtWord p w).rings = m.rings := rfl
@[simp] theorem Mach.setEvtWord_ops (p : Nat) (w : Word) (m : Mach) : (m.setEvtWord p w).ops = m.ops := rfl
@[simp] theorem Mach.setEvtWord_opLast (p : Nat) (w : Word) (m : Mach) : (m.setEvtWord p w).opLast = m.opLast := rfl
@[simp] theorem Mach.setEvtWord_mst (p : Nat) (w : Word) (m : Mach) : (m.setEvtWord p w).mst = m.mst := rfl
@[simp] theorem Mach.setEvtWord_site (p : Nat) (w : Word) (m : Mach) : (m.setEvtWord p w).site = m.site := rfl
@[simp] theorem Mach.setEvtWord_zc (p : Nat) (w : Word) (m : Mach) : (m.setEvtWord p w).zc = m.zc := rfl
@[simp] theorem Mach.setEvtWord_otp (p : Nat) (w : Word) (m : Mach) : (m.setEvtWord p w).otp = m.otp := rfl
@[simp] theorem Mach.setEvtWord_frq (p : Nat) (w : Word) (m : Mach) : (m.setEvtWord p w).frq = m.frq := rfl
@[simp] theorem Mach.setEvtWord_jnl (p : Nat) (w : Word) (m : Mach) : (m.setEvtWord p w).jnl = m.jnl := rfl
@[simp] theorem Mach.setEvtWord_sec (p : Nat) (w : Word) (m : Mach) : (m.setEvtWord p w).sec = m.sec := rfl

/-! ## setEvtFresh -/

@[simp] theorem Mach.setEvtFresh_now (p : Nat) (w : Word) (m : Mach) : (m.setEvtFresh p w).now = m.now := rfl
@[simp] theorem Mach.setEvtFresh_time (p : Nat) (w : Word) (m : Mach) : (m.setEvtFresh p w).time = m.time := rfl
@[simp] theorem Mach.setEvtFresh_free (p : Nat) (w : Word) (m : Mach) : (m.setEvtFresh p w).free = m.free := rfl
@[simp] theorem Mach.setEvtFresh_active (p : Nat) (w : Word) (m : Mach) : (m.setEvtFresh p w).active = m.active := rfl
@[simp] theorem Mach.setEvtFresh_staged (p : Nat) (w : Word) (m : Mach) : (m.setEvtFresh p w).staged = m.staged := rfl
@[simp] theorem Mach.setEvtFresh_held (p : Nat) (w : Word) (m : Mach) : (m.setEvtFresh p w).held = m.held := rfl
@[simp] theorem Mach.setEvtFresh_evt (p : Nat) (w : Word) (m : Mach) : (m.setEvtFresh p w).evt = m.evt := rfl
@[simp] theorem Mach.setEvtFresh_snap (p : Nat) (w : Word) (m : Mach) : (m.setEvtFresh p w).snap = m.snap := rfl
@[simp] theorem Mach.setEvtFresh_dev (p : Nat) (w : Word) (m : Mach) : (m.setEvtFresh p w).dev = m.dev := rfl
@[simp] theorem Mach.setEvtFresh_clk (p : Nat) (w : Word) (m : Mach) : (m.setEvtFresh p w).clk = m.clk := rfl
@[simp] theorem Mach.setEvtFresh_pwr (p : Nat) (w : Word) (m : Mach) : (m.setEvtFresh p w).pwr = m.pwr := rfl
@[simp] theorem Mach.setEvtFresh_dbg (p : Nat) (w : Word) (m : Mach) : (m.setEvtFresh p w).dbg = m.dbg := rfl
@[simp] theorem Mach.setEvtFresh_cmt (p : Nat) (w : Word) (m : Mach) : (m.setEvtFresh p w).cmt = m.cmt := rfl
@[simp] theorem Mach.setEvtFresh_chans (p : Nat) (w : Word) (m : Mach) : (m.setEvtFresh p w).chans = m.chans := rfl
@[simp] theorem Mach.setEvtFresh_outs (p : Nat) (w : Word) (m : Mach) : (m.setEvtFresh p w).outs = m.outs := rfl
@[simp] theorem Mach.setEvtFresh_tbs (p : Nat) (w : Word) (m : Mach) : (m.setEvtFresh p w).tbs = m.tbs := rfl
@[simp] theorem Mach.setEvtFresh_pairs (p : Nat) (w : Word) (m : Mach) : (m.setEvtFresh p w).pairs = m.pairs := rfl
@[simp] theorem Mach.setEvtFresh_trips (p : Nat) (w : Word) (m : Mach) : (m.setEvtFresh p w).trips = m.trips := rfl
@[simp] theorem Mach.setEvtFresh_tachs (p : Nat) (w : Word) (m : Mach) : (m.setEvtFresh p w).tachs = m.tachs := rfl
@[simp] theorem Mach.setEvtFresh_dl (p : Nat) (w : Word) (m : Mach) : (m.setEvtFresh p w).dl = m.dl := rfl
@[simp] theorem Mach.setEvtFresh_thm (p : Nat) (w : Word) (m : Mach) : (m.setEvtFresh p w).thm = m.thm := rfl
@[simp] theorem Mach.setEvtFresh_limp (p : Nat) (w : Word) (m : Mach) : (m.setEvtFresh p w).limp = m.limp := rfl
@[simp] theorem Mach.setEvtFresh_port (p : Nat) (w : Word) (m : Mach) : (m.setEvtFresh p w).port = m.port := rfl
@[simp] theorem Mach.setEvtFresh_rings (p : Nat) (w : Word) (m : Mach) : (m.setEvtFresh p w).rings = m.rings := rfl
@[simp] theorem Mach.setEvtFresh_ops (p : Nat) (w : Word) (m : Mach) : (m.setEvtFresh p w).ops = m.ops := rfl
@[simp] theorem Mach.setEvtFresh_opLast (p : Nat) (w : Word) (m : Mach) : (m.setEvtFresh p w).opLast = m.opLast := rfl
@[simp] theorem Mach.setEvtFresh_mst (p : Nat) (w : Word) (m : Mach) : (m.setEvtFresh p w).mst = m.mst := rfl
@[simp] theorem Mach.setEvtFresh_site (p : Nat) (w : Word) (m : Mach) : (m.setEvtFresh p w).site = m.site := rfl
@[simp] theorem Mach.setEvtFresh_zc (p : Nat) (w : Word) (m : Mach) : (m.setEvtFresh p w).zc = m.zc := rfl
@[simp] theorem Mach.setEvtFresh_otp (p : Nat) (w : Word) (m : Mach) : (m.setEvtFresh p w).otp = m.otp := rfl
@[simp] theorem Mach.setEvtFresh_frq (p : Nat) (w : Word) (m : Mach) : (m.setEvtFresh p w).frq = m.frq := rfl
@[simp] theorem Mach.setEvtFresh_jnl (p : Nat) (w : Word) (m : Mach) : (m.setEvtFresh p w).jnl = m.jnl := rfl
@[simp] theorem Mach.setEvtFresh_sec (p : Nat) (w : Word) (m : Mach) : (m.setEvtFresh p w).sec = m.sec := rfl

/-! ## latchEvt -/

@[simp] theorem Mach.latchEvt_now (p : Nat) (w : Word) (m : Mach) : (m.latchEvt p w).now = m.now := rfl
@[simp] theorem Mach.latchEvt_time (p : Nat) (w : Word) (m : Mach) : (m.latchEvt p w).time = m.time := rfl
@[simp] theorem Mach.latchEvt_free (p : Nat) (w : Word) (m : Mach) : (m.latchEvt p w).free = m.free := rfl
@[simp] theorem Mach.latchEvt_active (p : Nat) (w : Word) (m : Mach) : (m.latchEvt p w).active = m.active := rfl
@[simp] theorem Mach.latchEvt_staged (p : Nat) (w : Word) (m : Mach) : (m.latchEvt p w).staged = m.staged := rfl
@[simp] theorem Mach.latchEvt_held (p : Nat) (w : Word) (m : Mach) : (m.latchEvt p w).held = m.held := rfl
@[simp] theorem Mach.latchEvt_snap (p : Nat) (w : Word) (m : Mach) : (m.latchEvt p w).snap = m.snap := rfl
@[simp] theorem Mach.latchEvt_dev (p : Nat) (w : Word) (m : Mach) : (m.latchEvt p w).dev = m.dev := rfl
@[simp] theorem Mach.latchEvt_clk (p : Nat) (w : Word) (m : Mach) : (m.latchEvt p w).clk = m.clk := rfl
@[simp] theorem Mach.latchEvt_pwr (p : Nat) (w : Word) (m : Mach) : (m.latchEvt p w).pwr = m.pwr := rfl
@[simp] theorem Mach.latchEvt_dbg (p : Nat) (w : Word) (m : Mach) : (m.latchEvt p w).dbg = m.dbg := rfl
@[simp] theorem Mach.latchEvt_cmt (p : Nat) (w : Word) (m : Mach) : (m.latchEvt p w).cmt = m.cmt := rfl
@[simp] theorem Mach.latchEvt_chans (p : Nat) (w : Word) (m : Mach) : (m.latchEvt p w).chans = m.chans := rfl
@[simp] theorem Mach.latchEvt_outs (p : Nat) (w : Word) (m : Mach) : (m.latchEvt p w).outs = m.outs := rfl
@[simp] theorem Mach.latchEvt_tbs (p : Nat) (w : Word) (m : Mach) : (m.latchEvt p w).tbs = m.tbs := rfl
@[simp] theorem Mach.latchEvt_pairs (p : Nat) (w : Word) (m : Mach) : (m.latchEvt p w).pairs = m.pairs := rfl
@[simp] theorem Mach.latchEvt_trips (p : Nat) (w : Word) (m : Mach) : (m.latchEvt p w).trips = m.trips := rfl
@[simp] theorem Mach.latchEvt_tachs (p : Nat) (w : Word) (m : Mach) : (m.latchEvt p w).tachs = m.tachs := rfl
@[simp] theorem Mach.latchEvt_dl (p : Nat) (w : Word) (m : Mach) : (m.latchEvt p w).dl = m.dl := rfl
@[simp] theorem Mach.latchEvt_thm (p : Nat) (w : Word) (m : Mach) : (m.latchEvt p w).thm = m.thm := rfl
@[simp] theorem Mach.latchEvt_limp (p : Nat) (w : Word) (m : Mach) : (m.latchEvt p w).limp = m.limp := rfl
@[simp] theorem Mach.latchEvt_port (p : Nat) (w : Word) (m : Mach) : (m.latchEvt p w).port = m.port := rfl
@[simp] theorem Mach.latchEvt_rings (p : Nat) (w : Word) (m : Mach) : (m.latchEvt p w).rings = m.rings := rfl
@[simp] theorem Mach.latchEvt_ops (p : Nat) (w : Word) (m : Mach) : (m.latchEvt p w).ops = m.ops := rfl
@[simp] theorem Mach.latchEvt_opLast (p : Nat) (w : Word) (m : Mach) : (m.latchEvt p w).opLast = m.opLast := rfl
@[simp] theorem Mach.latchEvt_mst (p : Nat) (w : Word) (m : Mach) : (m.latchEvt p w).mst = m.mst := rfl
@[simp] theorem Mach.latchEvt_site (p : Nat) (w : Word) (m : Mach) : (m.latchEvt p w).site = m.site := rfl
@[simp] theorem Mach.latchEvt_zc (p : Nat) (w : Word) (m : Mach) : (m.latchEvt p w).zc = m.zc := rfl
@[simp] theorem Mach.latchEvt_otp (p : Nat) (w : Word) (m : Mach) : (m.latchEvt p w).otp = m.otp := rfl
@[simp] theorem Mach.latchEvt_frq (p : Nat) (w : Word) (m : Mach) : (m.latchEvt p w).frq = m.frq := rfl
@[simp] theorem Mach.latchEvt_jnl (p : Nat) (w : Word) (m : Mach) : (m.latchEvt p w).jnl = m.jnl := rfl
@[simp] theorem Mach.latchEvt_sec (p : Nat) (w : Word) (m : Mach) : (m.latchEvt p w).sec = m.sec := rfl

/-! ## nextFree -/

@[simp] theorem Mach.nextFree_now  (m : Mach) : (m.nextFree).now = m.now := rfl
@[simp] theorem Mach.nextFree_time  (m : Mach) : (m.nextFree).time = m.time := rfl
@[simp] theorem Mach.nextFree_active  (m : Mach) : (m.nextFree).active = m.active := rfl
@[simp] theorem Mach.nextFree_staged  (m : Mach) : (m.nextFree).staged = m.staged := rfl
@[simp] theorem Mach.nextFree_held  (m : Mach) : (m.nextFree).held = m.held := rfl
@[simp] theorem Mach.nextFree_evt  (m : Mach) : (m.nextFree).evt = m.evt := rfl
@[simp] theorem Mach.nextFree_evtNew  (m : Mach) : (m.nextFree).evtNew = m.evtNew := rfl
@[simp] theorem Mach.nextFree_snap  (m : Mach) : (m.nextFree).snap = m.snap := rfl
@[simp] theorem Mach.nextFree_dev  (m : Mach) : (m.nextFree).dev = m.dev := rfl
@[simp] theorem Mach.nextFree_clk  (m : Mach) : (m.nextFree).clk = m.clk := rfl
@[simp] theorem Mach.nextFree_pwr  (m : Mach) : (m.nextFree).pwr = m.pwr := rfl
@[simp] theorem Mach.nextFree_dbg  (m : Mach) : (m.nextFree).dbg = m.dbg := rfl
@[simp] theorem Mach.nextFree_cmt  (m : Mach) : (m.nextFree).cmt = m.cmt := rfl
@[simp] theorem Mach.nextFree_chans  (m : Mach) : (m.nextFree).chans = m.chans := rfl
@[simp] theorem Mach.nextFree_outs  (m : Mach) : (m.nextFree).outs = m.outs := rfl
@[simp] theorem Mach.nextFree_tbs  (m : Mach) : (m.nextFree).tbs = m.tbs := rfl
@[simp] theorem Mach.nextFree_pairs  (m : Mach) : (m.nextFree).pairs = m.pairs := rfl
@[simp] theorem Mach.nextFree_trips  (m : Mach) : (m.nextFree).trips = m.trips := rfl
@[simp] theorem Mach.nextFree_tachs  (m : Mach) : (m.nextFree).tachs = m.tachs := rfl
@[simp] theorem Mach.nextFree_dl  (m : Mach) : (m.nextFree).dl = m.dl := rfl
@[simp] theorem Mach.nextFree_thm  (m : Mach) : (m.nextFree).thm = m.thm := rfl
@[simp] theorem Mach.nextFree_limp  (m : Mach) : (m.nextFree).limp = m.limp := rfl
@[simp] theorem Mach.nextFree_port  (m : Mach) : (m.nextFree).port = m.port := rfl
@[simp] theorem Mach.nextFree_rings  (m : Mach) : (m.nextFree).rings = m.rings := rfl
@[simp] theorem Mach.nextFree_ops  (m : Mach) : (m.nextFree).ops = m.ops := rfl
@[simp] theorem Mach.nextFree_opLast  (m : Mach) : (m.nextFree).opLast = m.opLast := rfl
@[simp] theorem Mach.nextFree_mst  (m : Mach) : (m.nextFree).mst = m.mst := rfl
@[simp] theorem Mach.nextFree_site  (m : Mach) : (m.nextFree).site = m.site := rfl
@[simp] theorem Mach.nextFree_zc  (m : Mach) : (m.nextFree).zc = m.zc := rfl
@[simp] theorem Mach.nextFree_otp  (m : Mach) : (m.nextFree).otp = m.otp := rfl
@[simp] theorem Mach.nextFree_frq  (m : Mach) : (m.nextFree).frq = m.frq := rfl
@[simp] theorem Mach.nextFree_jnl  (m : Mach) : (m.nextFree).jnl = m.jnl := rfl
@[simp] theorem Mach.nextFree_sec  (m : Mach) : (m.nextFree).sec = m.sec := rfl

/-! ## setHead -/

@[simp] theorem Mach.setHead_now (r v : Nat) (m : Mach) : (m.setHead r v).now = m.now := by
  unfold Mach.setHead; split <;> rfl
@[simp] theorem Mach.setHead_time (r v : Nat) (m : Mach) : (m.setHead r v).time = m.time := by
  unfold Mach.setHead; split <;> rfl
@[simp] theorem Mach.setHead_free (r v : Nat) (m : Mach) : (m.setHead r v).free = m.free := by
  unfold Mach.setHead; split <;> rfl
@[simp] theorem Mach.setHead_active (r v : Nat) (m : Mach) : (m.setHead r v).active = m.active := by
  unfold Mach.setHead; split <;> rfl
@[simp] theorem Mach.setHead_staged (r v : Nat) (m : Mach) : (m.setHead r v).staged = m.staged := by
  unfold Mach.setHead; split <;> rfl
@[simp] theorem Mach.setHead_held (r v : Nat) (m : Mach) : (m.setHead r v).held = m.held := by
  unfold Mach.setHead; split <;> rfl
@[simp] theorem Mach.setHead_evt (r v : Nat) (m : Mach) : (m.setHead r v).evt = m.evt := by
  unfold Mach.setHead; split <;> rfl
@[simp] theorem Mach.setHead_evtNew (r v : Nat) (m : Mach) : (m.setHead r v).evtNew = m.evtNew := by
  unfold Mach.setHead; split <;> rfl
@[simp] theorem Mach.setHead_snap (r v : Nat) (m : Mach) : (m.setHead r v).snap = m.snap := by
  unfold Mach.setHead; split <;> rfl
@[simp] theorem Mach.setHead_dev (r v : Nat) (m : Mach) : (m.setHead r v).dev = m.dev := by
  unfold Mach.setHead; split <;> rfl
@[simp] theorem Mach.setHead_clk (r v : Nat) (m : Mach) : (m.setHead r v).clk = m.clk := by
  unfold Mach.setHead; split <;> rfl
@[simp] theorem Mach.setHead_pwr (r v : Nat) (m : Mach) : (m.setHead r v).pwr = m.pwr := by
  unfold Mach.setHead; split <;> rfl
@[simp] theorem Mach.setHead_dbg (r v : Nat) (m : Mach) : (m.setHead r v).dbg = m.dbg := by
  unfold Mach.setHead; split <;> rfl
@[simp] theorem Mach.setHead_cmt (r v : Nat) (m : Mach) : (m.setHead r v).cmt = m.cmt := by
  unfold Mach.setHead; split <;> rfl
@[simp] theorem Mach.setHead_chans (r v : Nat) (m : Mach) : (m.setHead r v).chans = m.chans := by
  unfold Mach.setHead; split <;> rfl
@[simp] theorem Mach.setHead_outs (r v : Nat) (m : Mach) : (m.setHead r v).outs = m.outs := by
  unfold Mach.setHead; split <;> rfl
@[simp] theorem Mach.setHead_tbs (r v : Nat) (m : Mach) : (m.setHead r v).tbs = m.tbs := by
  unfold Mach.setHead; split <;> rfl
@[simp] theorem Mach.setHead_pairs (r v : Nat) (m : Mach) : (m.setHead r v).pairs = m.pairs := by
  unfold Mach.setHead; split <;> rfl
@[simp] theorem Mach.setHead_trips (r v : Nat) (m : Mach) : (m.setHead r v).trips = m.trips := by
  unfold Mach.setHead; split <;> rfl
@[simp] theorem Mach.setHead_tachs (r v : Nat) (m : Mach) : (m.setHead r v).tachs = m.tachs := by
  unfold Mach.setHead; split <;> rfl
@[simp] theorem Mach.setHead_dl (r v : Nat) (m : Mach) : (m.setHead r v).dl = m.dl := by
  unfold Mach.setHead; split <;> rfl
@[simp] theorem Mach.setHead_thm (r v : Nat) (m : Mach) : (m.setHead r v).thm = m.thm := by
  unfold Mach.setHead; split <;> rfl
@[simp] theorem Mach.setHead_limp (r v : Nat) (m : Mach) : (m.setHead r v).limp = m.limp := by
  unfold Mach.setHead; split <;> rfl
@[simp] theorem Mach.setHead_port (r v : Nat) (m : Mach) : (m.setHead r v).port = m.port := by
  unfold Mach.setHead; split <;> rfl
@[simp] theorem Mach.setHead_ops (r v : Nat) (m : Mach) : (m.setHead r v).ops = m.ops := by
  unfold Mach.setHead; split <;> rfl
@[simp] theorem Mach.setHead_opLast (r v : Nat) (m : Mach) : (m.setHead r v).opLast = m.opLast := by
  unfold Mach.setHead; split <;> rfl
@[simp] theorem Mach.setHead_mst (r v : Nat) (m : Mach) : (m.setHead r v).mst = m.mst := by
  unfold Mach.setHead; split <;> rfl
@[simp] theorem Mach.setHead_site (r v : Nat) (m : Mach) : (m.setHead r v).site = m.site := by
  unfold Mach.setHead; split <;> rfl
@[simp] theorem Mach.setHead_zc (r v : Nat) (m : Mach) : (m.setHead r v).zc = m.zc := by
  unfold Mach.setHead; split <;> rfl
@[simp] theorem Mach.setHead_otp (r v : Nat) (m : Mach) : (m.setHead r v).otp = m.otp := by
  unfold Mach.setHead; split <;> rfl
@[simp] theorem Mach.setHead_frq (r v : Nat) (m : Mach) : (m.setHead r v).frq = m.frq := by
  unfold Mach.setHead; split <;> rfl
@[simp] theorem Mach.setHead_jnl (r v : Nat) (m : Mach) : (m.setHead r v).jnl = m.jnl := by
  unfold Mach.setHead; split <;> rfl
@[simp] theorem Mach.setHead_sec (r v : Nat) (m : Mach) : (m.setHead r v).sec = m.sec := by
  unfold Mach.setHead; split <;> rfl

/-! ## setTail -/

@[simp] theorem Mach.setTail_now (r v : Nat) (m : Mach) : (m.setTail r v).now = m.now := by
  unfold Mach.setTail; split <;> rfl
@[simp] theorem Mach.setTail_time (r v : Nat) (m : Mach) : (m.setTail r v).time = m.time := by
  unfold Mach.setTail; split <;> rfl
@[simp] theorem Mach.setTail_free (r v : Nat) (m : Mach) : (m.setTail r v).free = m.free := by
  unfold Mach.setTail; split <;> rfl
@[simp] theorem Mach.setTail_active (r v : Nat) (m : Mach) : (m.setTail r v).active = m.active := by
  unfold Mach.setTail; split <;> rfl
@[simp] theorem Mach.setTail_staged (r v : Nat) (m : Mach) : (m.setTail r v).staged = m.staged := by
  unfold Mach.setTail; split <;> rfl
@[simp] theorem Mach.setTail_held (r v : Nat) (m : Mach) : (m.setTail r v).held = m.held := by
  unfold Mach.setTail; split <;> rfl
@[simp] theorem Mach.setTail_evt (r v : Nat) (m : Mach) : (m.setTail r v).evt = m.evt := by
  unfold Mach.setTail; split <;> rfl
@[simp] theorem Mach.setTail_evtNew (r v : Nat) (m : Mach) : (m.setTail r v).evtNew = m.evtNew := by
  unfold Mach.setTail; split <;> rfl
@[simp] theorem Mach.setTail_snap (r v : Nat) (m : Mach) : (m.setTail r v).snap = m.snap := by
  unfold Mach.setTail; split <;> rfl
@[simp] theorem Mach.setTail_dev (r v : Nat) (m : Mach) : (m.setTail r v).dev = m.dev := by
  unfold Mach.setTail; split <;> rfl
@[simp] theorem Mach.setTail_clk (r v : Nat) (m : Mach) : (m.setTail r v).clk = m.clk := by
  unfold Mach.setTail; split <;> rfl
@[simp] theorem Mach.setTail_pwr (r v : Nat) (m : Mach) : (m.setTail r v).pwr = m.pwr := by
  unfold Mach.setTail; split <;> rfl
@[simp] theorem Mach.setTail_dbg (r v : Nat) (m : Mach) : (m.setTail r v).dbg = m.dbg := by
  unfold Mach.setTail; split <;> rfl
@[simp] theorem Mach.setTail_cmt (r v : Nat) (m : Mach) : (m.setTail r v).cmt = m.cmt := by
  unfold Mach.setTail; split <;> rfl
@[simp] theorem Mach.setTail_chans (r v : Nat) (m : Mach) : (m.setTail r v).chans = m.chans := by
  unfold Mach.setTail; split <;> rfl
@[simp] theorem Mach.setTail_outs (r v : Nat) (m : Mach) : (m.setTail r v).outs = m.outs := by
  unfold Mach.setTail; split <;> rfl
@[simp] theorem Mach.setTail_tbs (r v : Nat) (m : Mach) : (m.setTail r v).tbs = m.tbs := by
  unfold Mach.setTail; split <;> rfl
@[simp] theorem Mach.setTail_pairs (r v : Nat) (m : Mach) : (m.setTail r v).pairs = m.pairs := by
  unfold Mach.setTail; split <;> rfl
@[simp] theorem Mach.setTail_trips (r v : Nat) (m : Mach) : (m.setTail r v).trips = m.trips := by
  unfold Mach.setTail; split <;> rfl
@[simp] theorem Mach.setTail_tachs (r v : Nat) (m : Mach) : (m.setTail r v).tachs = m.tachs := by
  unfold Mach.setTail; split <;> rfl
@[simp] theorem Mach.setTail_dl (r v : Nat) (m : Mach) : (m.setTail r v).dl = m.dl := by
  unfold Mach.setTail; split <;> rfl
@[simp] theorem Mach.setTail_thm (r v : Nat) (m : Mach) : (m.setTail r v).thm = m.thm := by
  unfold Mach.setTail; split <;> rfl
@[simp] theorem Mach.setTail_limp (r v : Nat) (m : Mach) : (m.setTail r v).limp = m.limp := by
  unfold Mach.setTail; split <;> rfl
@[simp] theorem Mach.setTail_port (r v : Nat) (m : Mach) : (m.setTail r v).port = m.port := by
  unfold Mach.setTail; split <;> rfl
@[simp] theorem Mach.setTail_ops (r v : Nat) (m : Mach) : (m.setTail r v).ops = m.ops := by
  unfold Mach.setTail; split <;> rfl
@[simp] theorem Mach.setTail_opLast (r v : Nat) (m : Mach) : (m.setTail r v).opLast = m.opLast := by
  unfold Mach.setTail; split <;> rfl
@[simp] theorem Mach.setTail_mst (r v : Nat) (m : Mach) : (m.setTail r v).mst = m.mst := by
  unfold Mach.setTail; split <;> rfl
@[simp] theorem Mach.setTail_site (r v : Nat) (m : Mach) : (m.setTail r v).site = m.site := by
  unfold Mach.setTail; split <;> rfl
@[simp] theorem Mach.setTail_zc (r v : Nat) (m : Mach) : (m.setTail r v).zc = m.zc := by
  unfold Mach.setTail; split <;> rfl
@[simp] theorem Mach.setTail_otp (r v : Nat) (m : Mach) : (m.setTail r v).otp = m.otp := by
  unfold Mach.setTail; split <;> rfl
@[simp] theorem Mach.setTail_frq (r v : Nat) (m : Mach) : (m.setTail r v).frq = m.frq := by
  unfold Mach.setTail; split <;> rfl
@[simp] theorem Mach.setTail_jnl (r v : Nat) (m : Mach) : (m.setTail r v).jnl = m.jnl := by
  unfold Mach.setTail; split <;> rfl
@[simp] theorem Mach.setTail_sec (r v : Nat) (m : Mach) : (m.setTail r v).sec = m.sec := by
  unfold Mach.setTail; split <;> rfl

/-! ## eqLose -/

@[simp] theorem Mach.eqLose_now (b : Bool) (m : Mach) : (m.eqLose b).now = m.now := by
  cases b <;> cases h : m.rings.eqOvf <;> simp [Mach.eqLose, h]
@[simp] theorem Mach.eqLose_time (b : Bool) (m : Mach) : (m.eqLose b).time = m.time := by
  cases b <;> cases h : m.rings.eqOvf <;> simp [Mach.eqLose, h]
@[simp] theorem Mach.eqLose_free (b : Bool) (m : Mach) : (m.eqLose b).free = m.free := by
  cases b <;> cases h : m.rings.eqOvf <;> simp [Mach.eqLose, h]
@[simp] theorem Mach.eqLose_active (b : Bool) (m : Mach) : (m.eqLose b).active = m.active := by
  cases b <;> cases h : m.rings.eqOvf <;> simp [Mach.eqLose, h]
@[simp] theorem Mach.eqLose_staged (b : Bool) (m : Mach) : (m.eqLose b).staged = m.staged := by
  cases b <;> cases h : m.rings.eqOvf <;> simp [Mach.eqLose, h]
@[simp] theorem Mach.eqLose_held (b : Bool) (m : Mach) : (m.eqLose b).held = m.held := by
  cases b <;> cases h : m.rings.eqOvf <;> simp [Mach.eqLose, h]
@[simp] theorem Mach.eqLose_snap (b : Bool) (m : Mach) : (m.eqLose b).snap = m.snap := by
  cases b <;> cases h : m.rings.eqOvf <;> simp [Mach.eqLose, h]
@[simp] theorem Mach.eqLose_dev (b : Bool) (m : Mach) : (m.eqLose b).dev = m.dev := by
  cases b <;> cases h : m.rings.eqOvf <;> simp [Mach.eqLose, h]
@[simp] theorem Mach.eqLose_clk (b : Bool) (m : Mach) : (m.eqLose b).clk = m.clk := by
  cases b <;> cases h : m.rings.eqOvf <;> simp [Mach.eqLose, h]
@[simp] theorem Mach.eqLose_pwr (b : Bool) (m : Mach) : (m.eqLose b).pwr = m.pwr := by
  cases b <;> cases h : m.rings.eqOvf <;> simp [Mach.eqLose, h]
@[simp] theorem Mach.eqLose_dbg (b : Bool) (m : Mach) : (m.eqLose b).dbg = m.dbg := by
  cases b <;> cases h : m.rings.eqOvf <;> simp [Mach.eqLose, h]
@[simp] theorem Mach.eqLose_cmt (b : Bool) (m : Mach) : (m.eqLose b).cmt = m.cmt := by
  cases b <;> cases h : m.rings.eqOvf <;> simp [Mach.eqLose, h]
@[simp] theorem Mach.eqLose_chans (b : Bool) (m : Mach) : (m.eqLose b).chans = m.chans := by
  cases b <;> cases h : m.rings.eqOvf <;> simp [Mach.eqLose, h]
@[simp] theorem Mach.eqLose_outs (b : Bool) (m : Mach) : (m.eqLose b).outs = m.outs := by
  cases b <;> cases h : m.rings.eqOvf <;> simp [Mach.eqLose, h]
@[simp] theorem Mach.eqLose_tbs (b : Bool) (m : Mach) : (m.eqLose b).tbs = m.tbs := by
  cases b <;> cases h : m.rings.eqOvf <;> simp [Mach.eqLose, h]
@[simp] theorem Mach.eqLose_pairs (b : Bool) (m : Mach) : (m.eqLose b).pairs = m.pairs := by
  cases b <;> cases h : m.rings.eqOvf <;> simp [Mach.eqLose, h]
@[simp] theorem Mach.eqLose_trips (b : Bool) (m : Mach) : (m.eqLose b).trips = m.trips := by
  cases b <;> cases h : m.rings.eqOvf <;> simp [Mach.eqLose, h]
@[simp] theorem Mach.eqLose_tachs (b : Bool) (m : Mach) : (m.eqLose b).tachs = m.tachs := by
  cases b <;> cases h : m.rings.eqOvf <;> simp [Mach.eqLose, h]
@[simp] theorem Mach.eqLose_dl (b : Bool) (m : Mach) : (m.eqLose b).dl = m.dl := by
  cases b <;> cases h : m.rings.eqOvf <;> simp [Mach.eqLose, h]
@[simp] theorem Mach.eqLose_thm (b : Bool) (m : Mach) : (m.eqLose b).thm = m.thm := by
  cases b <;> cases h : m.rings.eqOvf <;> simp [Mach.eqLose, h]
@[simp] theorem Mach.eqLose_limp (b : Bool) (m : Mach) : (m.eqLose b).limp = m.limp := by
  cases b <;> cases h : m.rings.eqOvf <;> simp [Mach.eqLose, h]
@[simp] theorem Mach.eqLose_port (b : Bool) (m : Mach) : (m.eqLose b).port = m.port := by
  cases b <;> cases h : m.rings.eqOvf <;> simp [Mach.eqLose, h]
@[simp] theorem Mach.eqLose_ops (b : Bool) (m : Mach) : (m.eqLose b).ops = m.ops := by
  cases b <;> cases h : m.rings.eqOvf <;> simp [Mach.eqLose, h]
@[simp] theorem Mach.eqLose_opLast (b : Bool) (m : Mach) : (m.eqLose b).opLast = m.opLast := by
  cases b <;> cases h : m.rings.eqOvf <;> simp [Mach.eqLose, h]
@[simp] theorem Mach.eqLose_mst (b : Bool) (m : Mach) : (m.eqLose b).mst = m.mst := by
  cases b <;> cases h : m.rings.eqOvf <;> simp [Mach.eqLose, h]
@[simp] theorem Mach.eqLose_site (b : Bool) (m : Mach) : (m.eqLose b).site = m.site := by
  cases b <;> cases h : m.rings.eqOvf <;> simp [Mach.eqLose, h]
@[simp] theorem Mach.eqLose_zc (b : Bool) (m : Mach) : (m.eqLose b).zc = m.zc := by
  cases b <;> cases h : m.rings.eqOvf <;> simp [Mach.eqLose, h]
@[simp] theorem Mach.eqLose_otp (b : Bool) (m : Mach) : (m.eqLose b).otp = m.otp := by
  cases b <;> cases h : m.rings.eqOvf <;> simp [Mach.eqLose, h]
@[simp] theorem Mach.eqLose_frq (b : Bool) (m : Mach) : (m.eqLose b).frq = m.frq := by
  cases b <;> cases h : m.rings.eqOvf <;> simp [Mach.eqLose, h]
@[simp] theorem Mach.eqLose_jnl (b : Bool) (m : Mach) : (m.eqLose b).jnl = m.jnl := by
  cases b <;> cases h : m.rings.eqOvf <;> simp [Mach.eqLose, h]
@[simp] theorem Mach.eqLose_sec (b : Bool) (m : Mach) : (m.eqLose b).sec = m.sec := by
  cases b <;> cases h : m.rings.eqOvf <;> simp [Mach.eqLose, h]

/-! ## collect -/

@[simp] theorem Mach.collect_now (e : EqEv) (m : Mach) : (m.collect e).now = m.now := by
  unfold Mach.collect; split <;> (try split) <;> simp
@[simp] theorem Mach.collect_time (e : EqEv) (m : Mach) : (m.collect e).time = m.time := by
  unfold Mach.collect; split <;> (try split) <;> simp
@[simp] theorem Mach.collect_free (e : EqEv) (m : Mach) : (m.collect e).free = m.free := by
  unfold Mach.collect; split <;> (try split) <;> simp
@[simp] theorem Mach.collect_active (e : EqEv) (m : Mach) : (m.collect e).active = m.active := by
  unfold Mach.collect; split <;> (try split) <;> simp
@[simp] theorem Mach.collect_staged (e : EqEv) (m : Mach) : (m.collect e).staged = m.staged := by
  unfold Mach.collect; split <;> (try split) <;> simp
@[simp] theorem Mach.collect_held (e : EqEv) (m : Mach) : (m.collect e).held = m.held := by
  unfold Mach.collect; split <;> (try split) <;> simp
@[simp] theorem Mach.collect_snap (e : EqEv) (m : Mach) : (m.collect e).snap = m.snap := by
  unfold Mach.collect; split <;> (try split) <;> simp
@[simp] theorem Mach.collect_dev (e : EqEv) (m : Mach) : (m.collect e).dev = m.dev := by
  unfold Mach.collect; split <;> (try split) <;> simp
@[simp] theorem Mach.collect_clk (e : EqEv) (m : Mach) : (m.collect e).clk = m.clk := by
  unfold Mach.collect; split <;> (try split) <;> simp
@[simp] theorem Mach.collect_pwr (e : EqEv) (m : Mach) : (m.collect e).pwr = m.pwr := by
  unfold Mach.collect; split <;> (try split) <;> simp
@[simp] theorem Mach.collect_dbg (e : EqEv) (m : Mach) : (m.collect e).dbg = m.dbg := by
  unfold Mach.collect; split <;> (try split) <;> simp
@[simp] theorem Mach.collect_cmt (e : EqEv) (m : Mach) : (m.collect e).cmt = m.cmt := by
  unfold Mach.collect; split <;> (try split) <;> simp
@[simp] theorem Mach.collect_chans (e : EqEv) (m : Mach) : (m.collect e).chans = m.chans := by
  unfold Mach.collect; split <;> (try split) <;> simp
@[simp] theorem Mach.collect_outs (e : EqEv) (m : Mach) : (m.collect e).outs = m.outs := by
  unfold Mach.collect; split <;> (try split) <;> simp
@[simp] theorem Mach.collect_tbs (e : EqEv) (m : Mach) : (m.collect e).tbs = m.tbs := by
  unfold Mach.collect; split <;> (try split) <;> simp
@[simp] theorem Mach.collect_pairs (e : EqEv) (m : Mach) : (m.collect e).pairs = m.pairs := by
  unfold Mach.collect; split <;> (try split) <;> simp
@[simp] theorem Mach.collect_trips (e : EqEv) (m : Mach) : (m.collect e).trips = m.trips := by
  unfold Mach.collect; split <;> (try split) <;> simp
@[simp] theorem Mach.collect_tachs (e : EqEv) (m : Mach) : (m.collect e).tachs = m.tachs := by
  unfold Mach.collect; split <;> (try split) <;> simp
@[simp] theorem Mach.collect_dl (e : EqEv) (m : Mach) : (m.collect e).dl = m.dl := by
  unfold Mach.collect; split <;> (try split) <;> simp
@[simp] theorem Mach.collect_thm (e : EqEv) (m : Mach) : (m.collect e).thm = m.thm := by
  unfold Mach.collect; split <;> (try split) <;> simp
@[simp] theorem Mach.collect_limp (e : EqEv) (m : Mach) : (m.collect e).limp = m.limp := by
  unfold Mach.collect; split <;> (try split) <;> simp
@[simp] theorem Mach.collect_port (e : EqEv) (m : Mach) : (m.collect e).port = m.port := by
  unfold Mach.collect; split <;> (try split) <;> simp
@[simp] theorem Mach.collect_ops (e : EqEv) (m : Mach) : (m.collect e).ops = m.ops := by
  unfold Mach.collect; split <;> (try split) <;> simp
@[simp] theorem Mach.collect_opLast (e : EqEv) (m : Mach) : (m.collect e).opLast = m.opLast := by
  unfold Mach.collect; split <;> (try split) <;> simp
@[simp] theorem Mach.collect_mst (e : EqEv) (m : Mach) : (m.collect e).mst = m.mst := by
  unfold Mach.collect; split <;> (try split) <;> simp
@[simp] theorem Mach.collect_site (e : EqEv) (m : Mach) : (m.collect e).site = m.site := by
  unfold Mach.collect; split <;> (try split) <;> simp
@[simp] theorem Mach.collect_zc (e : EqEv) (m : Mach) : (m.collect e).zc = m.zc := by
  unfold Mach.collect; split <;> (try split) <;> simp
@[simp] theorem Mach.collect_otp (e : EqEv) (m : Mach) : (m.collect e).otp = m.otp := by
  unfold Mach.collect; split <;> (try split) <;> simp
@[simp] theorem Mach.collect_frq (e : EqEv) (m : Mach) : (m.collect e).frq = m.frq := by
  unfold Mach.collect; split <;> (try split) <;> simp
@[simp] theorem Mach.collect_jnl (e : EqEv) (m : Mach) : (m.collect e).jnl = m.jnl := by
  unfold Mach.collect; split <;> (try split) <;> simp
@[simp] theorem Mach.collect_sec (e : EqEv) (m : Mach) : (m.collect e).sec = m.sec := by
  unfold Mach.collect; split <;> (try split) <;> simp

/-! ## routePage -/

@[simp] theorem Mach.routePage_now (p : Nat) (w : Word) (m : Mach) : (m.routePage p w).now = m.now := by
  unfold Mach.routePage; simp only; split <;> simp
@[simp] theorem Mach.routePage_time (p : Nat) (w : Word) (m : Mach) : (m.routePage p w).time = m.time := by
  unfold Mach.routePage; simp only; split <;> simp
@[simp] theorem Mach.routePage_free (p : Nat) (w : Word) (m : Mach) : (m.routePage p w).free = m.free := by
  unfold Mach.routePage; simp only; split <;> simp
@[simp] theorem Mach.routePage_active (p : Nat) (w : Word) (m : Mach) : (m.routePage p w).active = m.active := by
  unfold Mach.routePage; simp only; split <;> simp
@[simp] theorem Mach.routePage_staged (p : Nat) (w : Word) (m : Mach) : (m.routePage p w).staged = m.staged := by
  unfold Mach.routePage; simp only; split <;> simp
@[simp] theorem Mach.routePage_held (p : Nat) (w : Word) (m : Mach) : (m.routePage p w).held = m.held := by
  unfold Mach.routePage; simp only; split <;> simp
@[simp] theorem Mach.routePage_snap (p : Nat) (w : Word) (m : Mach) : (m.routePage p w).snap = m.snap := by
  unfold Mach.routePage; simp only; split <;> simp
@[simp] theorem Mach.routePage_dev (p : Nat) (w : Word) (m : Mach) : (m.routePage p w).dev = m.dev := by
  unfold Mach.routePage; simp only; split <;> simp
@[simp] theorem Mach.routePage_clk (p : Nat) (w : Word) (m : Mach) : (m.routePage p w).clk = m.clk := by
  unfold Mach.routePage; simp only; split <;> simp
@[simp] theorem Mach.routePage_pwr (p : Nat) (w : Word) (m : Mach) : (m.routePage p w).pwr = m.pwr := by
  unfold Mach.routePage; simp only; split <;> simp
@[simp] theorem Mach.routePage_dbg (p : Nat) (w : Word) (m : Mach) : (m.routePage p w).dbg = m.dbg := by
  unfold Mach.routePage; simp only; split <;> simp
@[simp] theorem Mach.routePage_cmt (p : Nat) (w : Word) (m : Mach) : (m.routePage p w).cmt = m.cmt := by
  unfold Mach.routePage; simp only; split <;> simp
@[simp] theorem Mach.routePage_chans (p : Nat) (w : Word) (m : Mach) : (m.routePage p w).chans = m.chans := by
  unfold Mach.routePage; simp only; split <;> simp
@[simp] theorem Mach.routePage_outs (p : Nat) (w : Word) (m : Mach) : (m.routePage p w).outs = m.outs := by
  unfold Mach.routePage; simp only; split <;> simp
@[simp] theorem Mach.routePage_tbs (p : Nat) (w : Word) (m : Mach) : (m.routePage p w).tbs = m.tbs := by
  unfold Mach.routePage; simp only; split <;> simp
@[simp] theorem Mach.routePage_pairs (p : Nat) (w : Word) (m : Mach) : (m.routePage p w).pairs = m.pairs := by
  unfold Mach.routePage; simp only; split <;> simp
@[simp] theorem Mach.routePage_trips (p : Nat) (w : Word) (m : Mach) : (m.routePage p w).trips = m.trips := by
  unfold Mach.routePage; simp only; split <;> simp
@[simp] theorem Mach.routePage_tachs (p : Nat) (w : Word) (m : Mach) : (m.routePage p w).tachs = m.tachs := by
  unfold Mach.routePage; simp only; split <;> simp
@[simp] theorem Mach.routePage_dl (p : Nat) (w : Word) (m : Mach) : (m.routePage p w).dl = m.dl := by
  unfold Mach.routePage; simp only; split <;> simp
@[simp] theorem Mach.routePage_thm (p : Nat) (w : Word) (m : Mach) : (m.routePage p w).thm = m.thm := by
  unfold Mach.routePage; simp only; split <;> simp
@[simp] theorem Mach.routePage_limp (p : Nat) (w : Word) (m : Mach) : (m.routePage p w).limp = m.limp := by
  unfold Mach.routePage; simp only; split <;> simp
@[simp] theorem Mach.routePage_port (p : Nat) (w : Word) (m : Mach) : (m.routePage p w).port = m.port := by
  unfold Mach.routePage; simp only; split <;> simp
@[simp] theorem Mach.routePage_ops (p : Nat) (w : Word) (m : Mach) : (m.routePage p w).ops = m.ops := by
  unfold Mach.routePage; simp only; split <;> simp
@[simp] theorem Mach.routePage_opLast (p : Nat) (w : Word) (m : Mach) : (m.routePage p w).opLast = m.opLast := by
  unfold Mach.routePage; simp only; split <;> simp
@[simp] theorem Mach.routePage_mst (p : Nat) (w : Word) (m : Mach) : (m.routePage p w).mst = m.mst := by
  unfold Mach.routePage; simp only; split <;> simp
@[simp] theorem Mach.routePage_site (p : Nat) (w : Word) (m : Mach) : (m.routePage p w).site = m.site := by
  unfold Mach.routePage; simp only; split <;> simp
@[simp] theorem Mach.routePage_zc (p : Nat) (w : Word) (m : Mach) : (m.routePage p w).zc = m.zc := by
  unfold Mach.routePage; simp only; split <;> simp
@[simp] theorem Mach.routePage_otp (p : Nat) (w : Word) (m : Mach) : (m.routePage p w).otp = m.otp := by
  unfold Mach.routePage; simp only; split <;> simp
@[simp] theorem Mach.routePage_frq (p : Nat) (w : Word) (m : Mach) : (m.routePage p w).frq = m.frq := by
  unfold Mach.routePage; simp only; split <;> simp
@[simp] theorem Mach.routePage_jnl (p : Nat) (w : Word) (m : Mach) : (m.routePage p w).jnl = m.jnl := by
  unfold Mach.routePage; simp only; split <;> simp
@[simp] theorem Mach.routePage_sec (p : Nat) (w : Word) (m : Mach) : (m.routePage p w).sec = m.sec := by
  unfold Mach.routePage; simp only; split <;> simp

/-! ## event -/

@[simp] theorem Mach.event_now (p : Nat) (w : Word) (m : Mach) : (m.event p w).now = m.now := by
  unfold Mach.event; split <;> simp
@[simp] theorem Mach.event_time (p : Nat) (w : Word) (m : Mach) : (m.event p w).time = m.time := by
  unfold Mach.event; split <;> simp
@[simp] theorem Mach.event_free (p : Nat) (w : Word) (m : Mach) : (m.event p w).free = m.free := by
  unfold Mach.event; split <;> simp
@[simp] theorem Mach.event_active (p : Nat) (w : Word) (m : Mach) : (m.event p w).active = m.active := by
  unfold Mach.event; split <;> simp
@[simp] theorem Mach.event_staged (p : Nat) (w : Word) (m : Mach) : (m.event p w).staged = m.staged := by
  unfold Mach.event; split <;> simp
@[simp] theorem Mach.event_held (p : Nat) (w : Word) (m : Mach) : (m.event p w).held = m.held := by
  unfold Mach.event; split <;> simp
@[simp] theorem Mach.event_snap (p : Nat) (w : Word) (m : Mach) : (m.event p w).snap = m.snap := by
  unfold Mach.event; split <;> simp
@[simp] theorem Mach.event_dev (p : Nat) (w : Word) (m : Mach) : (m.event p w).dev = m.dev := by
  unfold Mach.event; split <;> simp
@[simp] theorem Mach.event_clk (p : Nat) (w : Word) (m : Mach) : (m.event p w).clk = m.clk := by
  unfold Mach.event; split <;> simp
@[simp] theorem Mach.event_pwr (p : Nat) (w : Word) (m : Mach) : (m.event p w).pwr = m.pwr := by
  unfold Mach.event; split <;> simp
@[simp] theorem Mach.event_dbg (p : Nat) (w : Word) (m : Mach) : (m.event p w).dbg = m.dbg := by
  unfold Mach.event; split <;> simp
@[simp] theorem Mach.event_cmt (p : Nat) (w : Word) (m : Mach) : (m.event p w).cmt = m.cmt := by
  unfold Mach.event; split <;> simp
@[simp] theorem Mach.event_chans (p : Nat) (w : Word) (m : Mach) : (m.event p w).chans = m.chans := by
  unfold Mach.event; split <;> simp
@[simp] theorem Mach.event_outs (p : Nat) (w : Word) (m : Mach) : (m.event p w).outs = m.outs := by
  unfold Mach.event; split <;> simp
@[simp] theorem Mach.event_tbs (p : Nat) (w : Word) (m : Mach) : (m.event p w).tbs = m.tbs := by
  unfold Mach.event; split <;> simp
@[simp] theorem Mach.event_pairs (p : Nat) (w : Word) (m : Mach) : (m.event p w).pairs = m.pairs := by
  unfold Mach.event; split <;> simp
@[simp] theorem Mach.event_trips (p : Nat) (w : Word) (m : Mach) : (m.event p w).trips = m.trips := by
  unfold Mach.event; split <;> simp
@[simp] theorem Mach.event_tachs (p : Nat) (w : Word) (m : Mach) : (m.event p w).tachs = m.tachs := by
  unfold Mach.event; split <;> simp
@[simp] theorem Mach.event_dl (p : Nat) (w : Word) (m : Mach) : (m.event p w).dl = m.dl := by
  unfold Mach.event; split <;> simp
@[simp] theorem Mach.event_thm (p : Nat) (w : Word) (m : Mach) : (m.event p w).thm = m.thm := by
  unfold Mach.event; split <;> simp
@[simp] theorem Mach.event_limp (p : Nat) (w : Word) (m : Mach) : (m.event p w).limp = m.limp := by
  unfold Mach.event; split <;> simp
@[simp] theorem Mach.event_port (p : Nat) (w : Word) (m : Mach) : (m.event p w).port = m.port := by
  unfold Mach.event; split <;> simp
@[simp] theorem Mach.event_ops (p : Nat) (w : Word) (m : Mach) : (m.event p w).ops = m.ops := by
  unfold Mach.event; split <;> simp
@[simp] theorem Mach.event_opLast (p : Nat) (w : Word) (m : Mach) : (m.event p w).opLast = m.opLast := by
  unfold Mach.event; split <;> simp
@[simp] theorem Mach.event_mst (p : Nat) (w : Word) (m : Mach) : (m.event p w).mst = m.mst := by
  unfold Mach.event; split <;> simp
@[simp] theorem Mach.event_site (p : Nat) (w : Word) (m : Mach) : (m.event p w).site = m.site := by
  unfold Mach.event; split <;> simp
@[simp] theorem Mach.event_zc (p : Nat) (w : Word) (m : Mach) : (m.event p w).zc = m.zc := by
  unfold Mach.event; split <;> simp
@[simp] theorem Mach.event_otp (p : Nat) (w : Word) (m : Mach) : (m.event p w).otp = m.otp := by
  unfold Mach.event; split <;> simp
@[simp] theorem Mach.event_frq (p : Nat) (w : Word) (m : Mach) : (m.event p w).frq = m.frq := by
  unfold Mach.event; split <;> simp
@[simp] theorem Mach.event_jnl (p : Nat) (w : Word) (m : Mach) : (m.event p w).jnl = m.jnl := by
  unfold Mach.event; split <;> simp
@[simp] theorem Mach.event_sec (p : Nat) (w : Word) (m : Mach) : (m.event p w).sec = m.sec := by
  unfold Mach.event; split <;> simp

/-! ## eventOwn -/

@[simp] theorem Mach.eventOwn_now (p : Nat) (w : Word) (e : EqEv) (m : Mach) : (m.eventOwn p w e).now = m.now := by
  unfold Mach.eventOwn; simp only; split <;> simp
@[simp] theorem Mach.eventOwn_time (p : Nat) (w : Word) (e : EqEv) (m : Mach) : (m.eventOwn p w e).time = m.time := by
  unfold Mach.eventOwn; simp only; split <;> simp
@[simp] theorem Mach.eventOwn_free (p : Nat) (w : Word) (e : EqEv) (m : Mach) : (m.eventOwn p w e).free = m.free := by
  unfold Mach.eventOwn; simp only; split <;> simp
@[simp] theorem Mach.eventOwn_active (p : Nat) (w : Word) (e : EqEv) (m : Mach) : (m.eventOwn p w e).active = m.active := by
  unfold Mach.eventOwn; simp only; split <;> simp
@[simp] theorem Mach.eventOwn_staged (p : Nat) (w : Word) (e : EqEv) (m : Mach) : (m.eventOwn p w e).staged = m.staged := by
  unfold Mach.eventOwn; simp only; split <;> simp
@[simp] theorem Mach.eventOwn_held (p : Nat) (w : Word) (e : EqEv) (m : Mach) : (m.eventOwn p w e).held = m.held := by
  unfold Mach.eventOwn; simp only; split <;> simp
@[simp] theorem Mach.eventOwn_snap (p : Nat) (w : Word) (e : EqEv) (m : Mach) : (m.eventOwn p w e).snap = m.snap := by
  unfold Mach.eventOwn; simp only; split <;> simp
@[simp] theorem Mach.eventOwn_dev (p : Nat) (w : Word) (e : EqEv) (m : Mach) : (m.eventOwn p w e).dev = m.dev := by
  unfold Mach.eventOwn; simp only; split <;> simp
@[simp] theorem Mach.eventOwn_clk (p : Nat) (w : Word) (e : EqEv) (m : Mach) : (m.eventOwn p w e).clk = m.clk := by
  unfold Mach.eventOwn; simp only; split <;> simp
@[simp] theorem Mach.eventOwn_pwr (p : Nat) (w : Word) (e : EqEv) (m : Mach) : (m.eventOwn p w e).pwr = m.pwr := by
  unfold Mach.eventOwn; simp only; split <;> simp
@[simp] theorem Mach.eventOwn_dbg (p : Nat) (w : Word) (e : EqEv) (m : Mach) : (m.eventOwn p w e).dbg = m.dbg := by
  unfold Mach.eventOwn; simp only; split <;> simp
@[simp] theorem Mach.eventOwn_cmt (p : Nat) (w : Word) (e : EqEv) (m : Mach) : (m.eventOwn p w e).cmt = m.cmt := by
  unfold Mach.eventOwn; simp only; split <;> simp
@[simp] theorem Mach.eventOwn_chans (p : Nat) (w : Word) (e : EqEv) (m : Mach) : (m.eventOwn p w e).chans = m.chans := by
  unfold Mach.eventOwn; simp only; split <;> simp
@[simp] theorem Mach.eventOwn_outs (p : Nat) (w : Word) (e : EqEv) (m : Mach) : (m.eventOwn p w e).outs = m.outs := by
  unfold Mach.eventOwn; simp only; split <;> simp
@[simp] theorem Mach.eventOwn_tbs (p : Nat) (w : Word) (e : EqEv) (m : Mach) : (m.eventOwn p w e).tbs = m.tbs := by
  unfold Mach.eventOwn; simp only; split <;> simp
@[simp] theorem Mach.eventOwn_pairs (p : Nat) (w : Word) (e : EqEv) (m : Mach) : (m.eventOwn p w e).pairs = m.pairs := by
  unfold Mach.eventOwn; simp only; split <;> simp
@[simp] theorem Mach.eventOwn_trips (p : Nat) (w : Word) (e : EqEv) (m : Mach) : (m.eventOwn p w e).trips = m.trips := by
  unfold Mach.eventOwn; simp only; split <;> simp
@[simp] theorem Mach.eventOwn_tachs (p : Nat) (w : Word) (e : EqEv) (m : Mach) : (m.eventOwn p w e).tachs = m.tachs := by
  unfold Mach.eventOwn; simp only; split <;> simp
@[simp] theorem Mach.eventOwn_dl (p : Nat) (w : Word) (e : EqEv) (m : Mach) : (m.eventOwn p w e).dl = m.dl := by
  unfold Mach.eventOwn; simp only; split <;> simp
@[simp] theorem Mach.eventOwn_thm (p : Nat) (w : Word) (e : EqEv) (m : Mach) : (m.eventOwn p w e).thm = m.thm := by
  unfold Mach.eventOwn; simp only; split <;> simp
@[simp] theorem Mach.eventOwn_limp (p : Nat) (w : Word) (e : EqEv) (m : Mach) : (m.eventOwn p w e).limp = m.limp := by
  unfold Mach.eventOwn; simp only; split <;> simp
@[simp] theorem Mach.eventOwn_port (p : Nat) (w : Word) (e : EqEv) (m : Mach) : (m.eventOwn p w e).port = m.port := by
  unfold Mach.eventOwn; simp only; split <;> simp
@[simp] theorem Mach.eventOwn_ops (p : Nat) (w : Word) (e : EqEv) (m : Mach) : (m.eventOwn p w e).ops = m.ops := by
  unfold Mach.eventOwn; simp only; split <;> simp
@[simp] theorem Mach.eventOwn_opLast (p : Nat) (w : Word) (e : EqEv) (m : Mach) : (m.eventOwn p w e).opLast = m.opLast := by
  unfold Mach.eventOwn; simp only; split <;> simp
@[simp] theorem Mach.eventOwn_mst (p : Nat) (w : Word) (e : EqEv) (m : Mach) : (m.eventOwn p w e).mst = m.mst := by
  unfold Mach.eventOwn; simp only; split <;> simp
@[simp] theorem Mach.eventOwn_site (p : Nat) (w : Word) (e : EqEv) (m : Mach) : (m.eventOwn p w e).site = m.site := by
  unfold Mach.eventOwn; simp only; split <;> simp
@[simp] theorem Mach.eventOwn_zc (p : Nat) (w : Word) (e : EqEv) (m : Mach) : (m.eventOwn p w e).zc = m.zc := by
  unfold Mach.eventOwn; simp only; split <;> simp
@[simp] theorem Mach.eventOwn_otp (p : Nat) (w : Word) (e : EqEv) (m : Mach) : (m.eventOwn p w e).otp = m.otp := by
  unfold Mach.eventOwn; simp only; split <;> simp
@[simp] theorem Mach.eventOwn_frq (p : Nat) (w : Word) (e : EqEv) (m : Mach) : (m.eventOwn p w e).frq = m.frq := by
  unfold Mach.eventOwn; simp only; split <;> simp
@[simp] theorem Mach.eventOwn_jnl (p : Nat) (w : Word) (e : EqEv) (m : Mach) : (m.eventOwn p w e).jnl = m.jnl := by
  unfold Mach.eventOwn; simp only; split <;> simp
@[simp] theorem Mach.eventOwn_sec (p : Nat) (w : Word) (e : EqEv) (m : Mach) : (m.eventOwn p w e).sec = m.sec := by
  unfold Mach.eventOwn; simp only; split <;> simp

/-! ## Reading an entry after a change -/

theorem vmod_get {α : Type} {n : Nat} (v : Vector α n) (i : Fin n) (f : α → α) (j : Nat) (h : j < n) :
    (vmod v i f)[j] = if j = i.val then f v[j] else v[j] := by
  unfold vmod
  rw [Vector.getElem_set]
  by_cases hij : i.val = j
  · subst hij; simp
  · simp [hij, Ne.symm hij]

/-- Entry `j` after a change of entry `n`. -/
theorem Mach.ch_modCh (n j : Nat) (f : Chan → Chan) (m : Mach) (h : n < 24) :
    (m.modCh n f).ch j = if j = n then f (m.ch j) else m.ch j := by
  unfold Mach.ch Mach.modCh
  simp only [h, dite_true]
  by_cases hj : j < 24
  · simp only [hj, dite_true, vmod_get]
  · have : j ≠ n := by omega
    simp [hj, this]

@[simp] theorem Mach.ch_modCh_self (n : Nat) (f : Chan → Chan) (m : Mach) (h : n < 24) :
    (m.modCh n f).ch n = f (m.ch n) := by simp [Mach.ch_modCh _ _ _ _ h]

@[simp] theorem Mach.ch_modCh_ne (n j : Nat) (f : Chan → Chan) (m : Mach) (h : j ≠ n) :
    (m.modCh n f).ch j = m.ch j := by
  by_cases hn : n < 24
  · simp [Mach.ch_modCh _ _ _ _ hn, h]
  · simp [Mach.modCh, hn]

/-- Changing entry `n` with a function that keeps a view of it keeps that view of every entry. -/
theorem Mach.ch_modCh_view {β : Type} (g : Chan → β) (n j : Nat) (f : Chan → Chan) (m : Mach) (h : ∀ c, g (f c) = g c) :
    g ((m.modCh n f).ch j) = g (m.ch j) := by
  by_cases hn : n < 24
  · rw [Mach.ch_modCh _ _ _ _ hn]; split
    · exact h _
    · rfl
  · simp [Mach.modCh, hn]

/-- Entry `j` after a change of entry `o`. -/
theorem Mach.out_modOut (o j : Nat) (f : OutUnit → OutUnit) (m : Mach) (h : o < 32) :
    (m.modOut o f).out j = if j = o then f (m.out j) else m.out j := by
  unfold Mach.out Mach.modOut
  simp only [h, dite_true]
  by_cases hj : j < 32
  · simp only [hj, dite_true, vmod_get]
  · have : j ≠ o := by omega
    simp [hj, this]

@[simp] theorem Mach.out_modOut_self (o : Nat) (f : OutUnit → OutUnit) (m : Mach) (h : o < 32) :
    (m.modOut o f).out o = f (m.out o) := by simp [Mach.out_modOut _ _ _ _ h]

@[simp] theorem Mach.out_modOut_ne (o j : Nat) (f : OutUnit → OutUnit) (m : Mach) (h : j ≠ o) :
    (m.modOut o f).out j = m.out j := by
  by_cases hn : o < 32
  · simp [Mach.out_modOut _ _ _ _ hn, h]
  · simp [Mach.modOut, hn]

/-- Changing entry `o` with a function that keeps a view of it keeps that view of every entry. -/
theorem Mach.out_modOut_view {β : Type} (g : OutUnit → β) (o j : Nat) (f : OutUnit → OutUnit) (m : Mach) (h : ∀ c, g (f c) = g c) :
    g ((m.modOut o f).out j) = g (m.out j) := by
  by_cases hn : o < 32
  · rw [Mach.out_modOut _ _ _ _ hn]; split
    · exact h _
    · rfl
  · simp [Mach.modOut, hn]

/-- Entry `j` after a change of entry `k`. -/
theorem Mach.tb_modTb (k j : Nat) (f : Timebase → Timebase) (m : Mach) (h : k < 8) :
    (m.modTb k f).tb j = if j = k then f (m.tb j) else m.tb j := by
  unfold Mach.tb Mach.modTb
  simp only [h, dite_true]
  by_cases hj : j < 8
  · simp only [hj, dite_true, vmod_get]
  · have : j ≠ k := by omega
    simp [hj, this]

@[simp] theorem Mach.tb_modTb_self (k : Nat) (f : Timebase → Timebase) (m : Mach) (h : k < 8) :
    (m.modTb k f).tb k = f (m.tb k) := by simp [Mach.tb_modTb _ _ _ _ h]

@[simp] theorem Mach.tb_modTb_ne (k j : Nat) (f : Timebase → Timebase) (m : Mach) (h : j ≠ k) :
    (m.modTb k f).tb j = m.tb j := by
  by_cases hn : k < 8
  · simp [Mach.tb_modTb _ _ _ _ hn, h]
  · simp [Mach.modTb, hn]

/-- Changing entry `k` with a function that keeps a view of it keeps that view of every entry. -/
theorem Mach.tb_modTb_view {β : Type} (g : Timebase → β) (k j : Nat) (f : Timebase → Timebase) (m : Mach) (h : ∀ c, g (f c) = g c) :
    g ((m.modTb k f).tb j) = g (m.tb j) := by
  by_cases hn : k < 8
  · rw [Mach.tb_modTb _ _ _ _ hn]; split
    · exact h _
    · rfl
  · simp [Mach.modTb, hn]

/-- Entry `j` after a change of entry `k`. -/
theorem Mach.pair_modPair (k j : Nat) (f : Pair → Pair) (m : Mach) (h : k < 16) :
    (m.modPair k f).pair j = if j = k then f (m.pair j) else m.pair j := by
  unfold Mach.pair Mach.modPair
  simp only [h, dite_true]
  by_cases hj : j < 16
  · simp only [hj, dite_true, vmod_get]
  · have : j ≠ k := by omega
    simp [hj, this]

@[simp] theorem Mach.pair_modPair_self (k : Nat) (f : Pair → Pair) (m : Mach) (h : k < 16) :
    (m.modPair k f).pair k = f (m.pair k) := by simp [Mach.pair_modPair _ _ _ _ h]

@[simp] theorem Mach.pair_modPair_ne (k j : Nat) (f : Pair → Pair) (m : Mach) (h : j ≠ k) :
    (m.modPair k f).pair j = m.pair j := by
  by_cases hn : k < 16
  · simp [Mach.pair_modPair _ _ _ _ hn, h]
  · simp [Mach.modPair, hn]

/-- Changing entry `k` with a function that keeps a view of it keeps that view of every entry. -/
theorem Mach.pair_modPair_view {β : Type} (g : Pair → β) (k j : Nat) (f : Pair → Pair) (m : Mach) (h : ∀ c, g (f c) = g c) :
    g ((m.modPair k f).pair j) = g (m.pair j) := by
  by_cases hn : k < 16
  · rw [Mach.pair_modPair _ _ _ _ hn]; split
    · exact h _
    · rfl
  · simp [Mach.modPair, hn]

/-- Entry `j` after a change of entry `i`. -/
theorem Mach.tach_modTach (i j : Nat) (f : Tach → Tach) (m : Mach) (h : i < 4) :
    (m.modTach i f).tach j = if j = i then f (m.tach j) else m.tach j := by
  unfold Mach.tach Mach.modTach
  simp only [h, dite_true]
  by_cases hj : j < 4
  · simp only [hj, dite_true, vmod_get]
  · have : j ≠ i := by omega
    simp [hj, this]

@[simp] theorem Mach.tach_modTach_self (i : Nat) (f : Tach → Tach) (m : Mach) (h : i < 4) :
    (m.modTach i f).tach i = f (m.tach i) := by simp [Mach.tach_modTach _ _ _ _ h]

@[simp] theorem Mach.tach_modTach_ne (i j : Nat) (f : Tach → Tach) (m : Mach) (h : j ≠ i) :
    (m.modTach i f).tach j = m.tach j := by
  by_cases hn : i < 4
  · simp [Mach.tach_modTach _ _ _ _ hn, h]
  · simp [Mach.modTach, hn]

/-- Changing entry `i` with a function that keeps a view of it keeps that view of every entry. -/
theorem Mach.tach_modTach_view {β : Type} (g : Tach → β) (i j : Nat) (f : Tach → Tach) (m : Mach) (h : ∀ c, g (f c) = g c) :
    g ((m.modTach i f).tach j) = g (m.tach j) := by
  by_cases hn : i < 4
  · rw [Mach.tach_modTach _ _ _ _ hn]; split
    · exact h _
    · rfl
  · simp [Mach.modTach, hn]

theorem Mach.bank_modBank (b j : Nat) (f : BankT → BankT) (m : Mach) (h : b < 6) :
    (m.modBank b f).bank j = if j = b then f (m.bank j) else m.bank j := by
  unfold Mach.bank Mach.modBank
  simp only [h, dite_true]
  by_cases hj : j < 6
  · simp only [hj, dite_true, vmod_get]
  · have : j ≠ b := by omega
    simp [hj, this]

theorem Mach.sensor_modSensor (x j : Nat) (f : Sensor → Sensor) (m : Mach) (h : x < 7) :
    (m.modSensor x f).sensor j = if j = x then f (m.sensor j) else m.sensor j := by
  unfold Mach.sensor Mach.modSensor
  simp only [h, dite_true]
  by_cases hj : j < 7
  · simp only [hj, dite_true, vmod_get]
  · have : j ≠ x := by omega
    simp [hj, this]

/-! ## Repeating -/

@[simp] theorem forList_nil {α σ : Type} (f : α → σ → σ) (s : σ) : forList [] f s = s := rfl
@[simp] theorem forList_cons {α σ : Type} (a : α) (l : List α) (f : α → σ → σ) (s : σ) :
    forList (a :: l) f s = forList l f (f a s) := rfl

/-- What every turn keeps, the repetition keeps. -/
theorem forList_keeps {α σ β : Type} (g : σ → β) (l : List α) (f : α → σ → σ)
    (h : ∀ a ∈ l, ∀ s, g (f a s) = g s) : ∀ s, g (forList l f s) = g s := by
  induction l with
  | nil => intro s; rfl
  | cons a t ih =>
    intro s
    rw [forList_cons, ih (fun b hb => h b (List.mem_cons_of_mem _ hb)), h a List.mem_cons_self]

/-- A property every turn keeps holds at the end. -/
theorem forList_inv {α σ : Type} (P : σ → Prop) (l : List α) (f : α → σ → σ)
    (h : ∀ a ∈ l, ∀ s, P s → P (f a s)) : ∀ s, P s → P (forList l f s) := by
  induction l with
  | nil => intro s hs; exact hs
  | cons a t ih =>
    intro s hs
    exact ih (fun b hb => h b (List.mem_cons_of_mem _ hb)) _ (h a List.mem_cons_self s hs)

/-- A relation that is reflexive and transitive and holds over every turn holds over the repetition. -/
theorem forList_rel {α σ : Type} (R : σ → σ → Prop) (l : List α) (f : α → σ → σ) (rfl' : ∀ s, R s s)
    (tr : ∀ a b c, R a b → R b c → R a c) (h : ∀ a ∈ l, ∀ s, R s (f a s)) : ∀ s, R s (forList l f s) := by
  induction l with
  | nil => intro s; exact rfl' s
  | cons a t ih =>
    intro s
    exact tr _ _ _ (h a List.mem_cons_self s) (ih (fun b hb => h b (List.mem_cons_of_mem _ hb)) _)

end Sys2Proof.Machine
end

