-- ==== Sys2Proof/Laws/Memory.lean ====
section
/-! SUPPORT. The laws of SRAM bytes and of word maps: a read after a write, and that every operation keeps the
canonical form. -/

namespace Sys2Proof.Machine

/-! ## Bytes -/

theorem Memory.read_insert (l : List Host.Cell) (a b : Nat) (v : Byte) :
    Memory.read (Memory.insert l a v) b = if b = a then v else Memory.read l b := by
  induction l with
  | nil => by_cases h : a = b <;> simp [Memory.insert, Memory.read, h, eq_comm]
  | cons c t ih =>
    obtain ⟨k, w⟩ := c
    unfold Memory.insert
    split
    · by_cases h : a = b <;> simp [Memory.read, h, eq_comm]
    · split
      · next hk => subst hk; by_cases h : a = b <;> simp [Memory.read, h, eq_comm]
      · next hk =>
        simp only [Memory.read, ih]
        by_cases h : k = b
        · have : b ≠ a := by omega
          simp [h, this]
        · simp [h]

theorem Memory.read_erase (l : List Host.Cell) (a b : Nat) :
    Memory.read (Memory.erase l a) b = if b = a then 0 else Memory.read l b := by
  induction l with
  | nil => simp [Memory.erase, Memory.read]
  | cons c t ih =>
    obtain ⟨k, w⟩ := c
    unfold Memory.erase at ih ⊢
    by_cases hk : k = a
    · subst hk
      simp only [List.filter_cons, bne_self_eq_false, Bool.false_eq_true, if_false, ih, Memory.read]
      by_cases h : b = k
      · simp [h]
      · simp [h, Ne.symm h]
    · simp only [List.filter_cons, bne_iff_ne, ne_eq, hk, not_false_eq_true, if_true, Memory.read, ih]
      by_cases h : k = b
      · have : b ≠ a := by omega
        simp [h, this]
      · simp [h]

/-- A byte read after a byte written. -/
theorem Memory.read_write (l : List Host.Cell) (a b : Nat) (v : Byte) :
    Memory.read (Memory.write l a v) b = if b = a then v else Memory.read l b := by
  unfold Memory.write
  split
  · next h => rw [Memory.read_erase, h]
  · exact Memory.read_insert l a b v

theorem Memory.insert_mem (l : List Host.Cell) (a : Nat) (v : Byte) (c : Host.Cell) (h : c ∈ Memory.insert l a v) :
    c = (a, v) ∨ c ∈ l := by
  induction l with
  | nil => simpa [Memory.insert] using h
  | cons d t ih =>
    obtain ⟨k, w⟩ := d
    unfold Memory.insert at h
    split at h
    · simpa using h
    · split at h
      · rcases List.mem_cons.mp h with h | h
        · exact .inl h
        · exact .inr (List.mem_cons_of_mem _ h)
      · rcases List.mem_cons.mp h with h | h
        · exact .inr (by simp [h])
        · rcases ih h with h | h
          · exact .inl h
          · exact .inr (List.mem_cons_of_mem _ h)

theorem Memory.insert_rising (l : List Host.Cell) (a : Nat) (v : Byte) (h : rising l) : rising (Memory.insert l a v) := by
  induction l with
  | nil => simp [Memory.insert, rising]
  | cons d t ih =>
    obtain ⟨k, w⟩ := d
    have ht := List.pairwise_cons.mp h
    unfold Memory.insert
    split
    · next hk =>
      refine List.pairwise_cons.mpr ⟨fun c hc => ?_, h⟩
      rcases List.mem_cons.mp hc with rfl | hc
      · exact hk
      · exact Nat.lt_trans hk (ht.1 c hc)
    · split
      · next hk => subst hk; exact List.pairwise_cons.mpr ⟨ht.1, ht.2⟩
      · next hk1 hk2 =>
        refine List.pairwise_cons.mpr ⟨fun c hc => ?_, ih ht.2⟩
        rcases Memory.insert_mem t a v c hc with rfl | hc
        · show k < a; omega
        · exact ht.1 c hc

/-- Writing a byte keeps the canonical form. -/
theorem Memory.write_wf (l : List Host.Cell) (a : Nat) (v : Byte) (h : Memory.wf l) : Memory.wf (Memory.write l a v) := by
  unfold Memory.write
  split
  · exact ⟨h.1.filter _, fun c hc => h.2 c (List.mem_of_mem_filter hc)⟩
  · next hv =>
    refine ⟨Memory.insert_rising l a v h.1, fun c hc => ?_⟩
    rcases Memory.insert_mem l a v c hc with rfl | hc
    · exact hv
    · exact h.2 c hc

theorem State.sramSet_wf (w : Nat) (v : Word) (s : State) (h : Memory.wf s.sram) : Memory.wf (s.sramSet w v).sram :=
  Memory.write_wf _ _ _ (Memory.write_wf _ _ _ h)

theorem State.sramSetList_wf (vs : List Word) :
    ∀ (w : Nat) (s : State), Memory.wf s.sram → Memory.wf (s.sramSetList w vs).sram := by
  induction vs with
  | nil => intro w s h; exact h
  | cons v t ih => intro w s h; exact ih (w + 1) _ (State.sramSet_wf w v s h)

/-- A byte after a word is stored. -/
theorem State.read_sramSet (w a : Nat) (v : Word) (s : State) :
    Memory.read (s.sramSet w v).sram a =
      if a = 2 * w + 1 then v.extractLsb' 8 8 else if a = 2 * w then v.extractLsb' 0 8 else Memory.read s.sram a := by
  unfold State.sramSet
  simp only [Memory.read_write]

/-- A word store leaves the bytes of other words. -/
theorem State.read_sramSet_ne (w a : Nat) (v : Word) (s : State) (h : a / 2 ≠ w) :
    Memory.read (s.sramSet w v).sram a = Memory.read s.sram a := by
  rw [State.read_sramSet, if_neg (by omega), if_neg (by omega)]

/-- A run of word stores leaves the bytes of words outside it. -/
theorem State.read_sramSetList_ne (vs : List Word) :
    ∀ (w : Nat) (s : State) (a : Nat), (a / 2 < w ∨ w + vs.length ≤ a / 2) →
      Memory.read (s.sramSetList w vs).sram a = Memory.read s.sram a := by
  induction vs with
  | nil => intros; rfl
  | cons v t ih =>
    intro w s a h
    simp only [List.length_cons] at h
    show Memory.read (State.sramSetList (w + 1) t (s.sramSet w v)).sram a = _
    rw [ih (w + 1) _ a (by omega), State.read_sramSet_ne w a v s (by omega)]

/-- A word reads back as it was stored. -/
theorem State.sramWord_sramSet (w : Nat) (v : Word) (s : State) : (s.sramSet w v).sramWord w = v := by
  unfold State.sramWord
  rw [State.read_sramSet, State.read_sramSet, if_pos rfl, if_neg (by omega), if_pos rfl]
  ext i hi
  simp only [BitVec.getElem_append, BitVec.getElem_extractLsb', Nat.zero_add]
  split
  · simp [hi]
  · rw [BitVec.getLsbD_eq_getElem (by omega)]
    congr 1; omega

/-- A word store leaves other words. -/
theorem State.sramWord_sramSet_ne (w u : Nat) (v : Word) (s : State) (h : u ≠ w) :
    (s.sramSet w v).sramWord u = s.sramWord u := by
  unfold State.sramWord
  rw [State.read_sramSet_ne _ _ _ _ (by omega), State.read_sramSet_ne _ _ _ _ (by omega)]

/-! ## Word maps -/

theorem WMap.get?_set (l : WMap) (k j : Nat) (w : Word) :
    WMap.get? (l.set k w) j = if j = k then some w else WMap.get? l j := by
  induction l with
  | nil => by_cases h : k = j <;> simp [WMap.set, WMap.get?, h, eq_comm]
  | cons c t ih =>
    obtain ⟨i, v⟩ := c
    unfold WMap.set
    split
    · by_cases h : k = j <;> simp [WMap.get?, h, eq_comm]
    · split
      · next hk => subst hk; by_cases h : k = j <;> simp [WMap.get?, h, eq_comm]
      · next hk =>
        simp only [WMap.get?, ih]
        by_cases h : i = j
        · have : j ≠ k := by omega
          simp [h, this]
        · simp [h]

theorem WMap.get?_del (l : WMap) (k j : Nat) :
    WMap.get? (l.del k) j = if j = k then none else WMap.get? l j := by
  induction l with
  | nil => simp [WMap.del, WMap.get?]
  | cons c t ih =>
    obtain ⟨i, v⟩ := c
    unfold WMap.del at ih ⊢
    by_cases hi : i = k
    · subst hi
      simp only [List.filter_cons, bne_self_eq_false, Bool.false_eq_true, if_false, ih, WMap.get?]
      by_cases h : j = i
      · simp [h]
      · simp [h, Ne.symm h]
    · simp only [List.filter_cons, bne_iff_ne, ne_eq, hi, not_false_eq_true, if_true, WMap.get?, ih]
      by_cases h : i = j
      · have : j ≠ k := by omega
        simp [h, this]
      · simp [h]

/-- An active word after a word is made active. -/
theorem Mach.cfg_setCfg (a b : Nat) (w : Word) (m : Mach) : (m.setCfg a w).cfg b = if b = a then w else m.cfg b := by
  unfold Mach.cfg Mach.setCfg
  simp only
  split
  · next h =>
    rw [WMap.get?_del]
    by_cases hb : b = a
    · subst hb; simp [h]
    · simp [hb]
  · rw [WMap.get?_set]
    by_cases hb : b = a <;> simp [hb]

/-- The event word of a page after one is stored. -/
theorem Mach.evtWord_setEvtWord (p q : Nat) (w : Word) (m : Mach) :
    (m.setEvtWord p w).evtWord q = if q = p then w else m.evtWord q := by
  unfold Mach.evtWord Mach.setEvtWord
  simp only
  split
  · next h =>
    rw [WMap.get?_del]
    by_cases hb : q = p
    · subst hb; simp [h]
    · simp [hb]
  · rw [WMap.get?_set]
    by_cases hb : q = p <;> simp [hb]

end Sys2Proof.Machine
end

