-- ==== Sys2Proof/Laws/Settle.lean ====
section
/-! SUPPORT. What an event of a page, and the settling after a change of a channel's state, can do. -/

namespace Sys2Proof.Machine

/-! ## Quiet and calm machines -/

@[simp] theorem Mach.quiet_idem (m : Mach) : m.quiet.quiet = m.quiet := rfl
@[simp] theorem Mach.quiet_setEvtWord (p : Nat) (w : Word) (m : Mach) : (m.setEvtWord p w).quiet = m.quiet := rfl
@[simp] theorem Mach.quiet_setEvtFresh (p : Nat) (w : Word) (m : Mach) : (m.setEvtFresh p w).quiet = m.quiet := rfl
@[simp] theorem Mach.quiet_latchEvt (p : Nat) (w : Word) (m : Mach) : (m.latchEvt p w).quiet = m.quiet := rfl

@[simp] theorem Mach.quiet_eqLose (b : Bool) (m : Mach) : (m.eqLose b).quiet = m.quiet := by
  cases b <;> cases h : m.rings.eqOvf <;> simp [Mach.eqLose, h] <;> rfl

@[simp] theorem Mach.quiet_collect (e : EqEv) (m : Mach) : (m.collect e).quiet = m.quiet := by
  unfold Mach.collect
  split
  · simp
  · split
    · simp
    · rfl

@[simp] theorem Mach.quiet_routePage (p : Nat) (w : Word) (m : Mach) : (m.routePage p w).quiet = m.quiet := by
  unfold Mach.routePage; simp only; split <;> simp

/-- An event changes the latched bits and the collected entries alone. -/
@[simp] theorem Mach.quiet_event (p : Nat) (w : Word) (m : Mach) : (m.event p w).quiet = m.quiet := by
  unfold Mach.event; split <;> simp

@[simp] theorem Mach.quiet_eventOwn (p : Nat) (w : Word) (e : EqEv) (m : Mach) : (m.eventOwn p w e).quiet = m.quiet := by
  unfold Mach.eventOwn; simp only; split <;> simp

/-- Machines that agree but for events agree but for events and settling. -/
theorem Mach.calm_of_quiet {m m' : Mach} (h : m.quiet = m'.quiet) : m.calm = m'.calm := by
  have hc : m.quiet.chans = m'.quiet.chans := congrArg Mach.chans h
  show ({ m.quiet with tachs := _, chans := vmap m.quiet.chans _ } : Mach) = _
  rw [hc, h]
  rfl

@[simp] theorem Mach.calm_event (p : Nat) (w : Word) (m : Mach) : (m.event p w).calm = m.calm :=
  Mach.calm_of_quiet (Mach.quiet_event p w m)

/-- Changing a channel apart from its signature words, or not at all. -/
theorem Mach.calm_modCh_sig (n : Nat) (f : Chan → Chan) (m : Mach)
    (hf : ∀ c, { f c with sig := Sig.reset } = { c with sig := Sig.reset }) : (m.modCh n f).calm = m.calm := by
  unfold Mach.modCh
  split
  · next h =>
    have hv : (vmap (vmod m.chans ⟨n, h⟩ f) fun _ c => { c with sig := Sig.reset }) =
        vmap m.chans fun _ c => { c with sig := Sig.reset } := by
      apply Vector.ext
      intro i hi
      simp only [vmap, Vector.getElem_ofFn, Fin.getElem_fin, vmod_get]
      split
      · exact hf _
      · rfl
    show ({ m.quiet with tachs := _, chans := vmap (vmod m.chans ⟨n, h⟩ f) _ } : Mach) = _
    rw [hv]
    rfl
  · rfl

/-- Changing one channel's signature words leaves the calm machine. -/
@[simp] theorem Mach.calm_modSig (n : Nat) (f : Sig → Sig) (m : Mach) : (m.modSig n f).calm = m.calm :=
  Mach.calm_modCh_sig n _ m fun _ => rfl

@[simp] theorem Mach.calm_modTach (i : Nat) (f : Tach → Tach) (m : Mach) : (m.modTach i f).calm = m.calm := by
  unfold Mach.modTach; split <;> rfl

@[simp] theorem Mach.calm_tachDisarm (i : Nat) (m : Mach) : (m.tachDisarm i).calm = m.calm := by
  simp [Mach.tachDisarm]

@[simp] theorem Mach.calm_tachSettle (m : Mach) : m.tachSettle.calm = m.calm := by
  unfold Mach.tachSettle
  exact forList_keeps Mach.calm _ _ (fun i _ m => by split <;> simp) m

/-! ## Latched events stay -/

theorem evtKept.rfl' (m : Mach) : evtKept m m := fun _ _ h => h
theorem evtKept.trans' {a b c : Mach} (h : evtKept a b) (k : evtKept b c) : evtKept a c := fun p i x => k p i (h p i x)

theorem evtKept_of_evt {a b : Mach} (h : b.evt = a.evt) : evtKept a b := by
  intro p i x; unfold Mach.evtWord at *; rw [h]; exact x

theorem evtKept_latchEvt (p : Nat) (w : Word) (m : Mach) : evtKept m (m.latchEvt p w) := by
  intro q i h
  show ((m.setEvtWord p (m.evtWord p ||| w)).evtWord q).getLsbD i = true
  rw [Mach.evtWord_setEvtWord]
  split
  · next hq => subst hq; simp [h]
  · exact h

theorem evtKept_eqLose (b : Bool) (m : Mach) : evtKept m (m.eqLose b) := by
  cases b with
  | false => exact evtKept_of_evt (by simp [Mach.eqLose])
  | true =>
    cases hb : m.rings.eqOvf with
    | true => exact evtKept_of_evt (by simp [Mach.eqLose, hb])
    | false =>
      refine evtKept.trans' (evtKept_latchEvt 0x04 0x0008 m) (evtKept_of_evt ?_)
      simp only [Mach.eqLose, hb]
      rfl

theorem evtKept_collect (e : EqEv) (m : Mach) : evtKept m (m.collect e) := by
  unfold Mach.collect
  split
  · exact evtKept_eqLose _ _
  · split
    · exact evtKept_eqLose _ _
    · exact evtKept_of_evt rfl

theorem evtKept_event (p : Nat) (w : Word) (m : Mach) : evtKept m (m.event p w) := by
  unfold Mach.event
  split
  · unfold Mach.routePage
    simp only
    split
    · exact (evtKept_latchEvt p w m).trans' (evtKept_collect _ _)
    · exact evtKept_latchEvt p w m
  · exact evtKept.rfl' m

/-- An event latches its bits on a page the part has (R49). -/
theorem Mach.evtWord_event_page (p : Nat) (w : Word) (m : Mach) (hp : headerPage m.dev.part p = true) :
    evtKept (m.latchEvt p w) (m.event p w) := by
  unfold Mach.event
  rw [if_pos hp]
  unfold Mach.routePage
  simp only
  split
  · exact evtKept_collect _ _
  · exact evtKept.rfl' _

/-! ## Settling -/

@[simp] theorem Mach.modSig_chcap (n : Nat) (f : Sig → Sig) (m : Mach) (k : Nat) (h : ∀ g, (f g).cap = g.cap) :
    ((m.modSig n f).ch k).sig.cap = (m.ch k).sig.cap :=
  Mach.ch_modCh_view (fun c => c.sig.cap) n k _ m fun c => h c.sig

/-- The captures of `b` are captures of `a`. -/
def capsWithin (a b : Mach) : Prop := ∀ n c, (b.ch n).sig.cap = some c → (a.ch n).sig.cap = some c

theorem capsWithin_of_eq {a b : Mach} (h : ∀ n, (b.ch n).sig.cap = (a.ch n).sig.cap) : capsWithin a b :=
  fun n c hc => by rw [← h n]; exact hc

/-- Settling, one channel at a time: what holds of `s` and `t` when `t` follows `s` by settling turns. -/
structure SettleRel (s t : State) : Prop where
  calm : t.m.calm = s.m.calm
  evt  : evtKept s.m t.m
  caps : capsWithin s.m t.m
  sram : sramApartFromCaptures s t
  keep : sameStore s t
  wf   : Memory.wf s.sram → Memory.wf t.sram

theorem SettleRel.rfl' (s : State) : SettleRel s s :=
  ⟨rfl, evtKept.rfl' _, fun _ _ h => h, fun _ _ => rfl, ⟨rfl, rfl⟩, id⟩

theorem SettleRel.trans' {a b c : State} (h : SettleRel a b) (k : SettleRel b c) : SettleRel a c where
  calm := k.calm.trans h.calm
  evt := h.evt.trans' k.evt
  caps := fun n x hx => h.caps n x (k.caps n x hx)
  sram := fun x hx => (k.sram x fun n y hy => hx n y (h.caps n y hy)).trans (h.sram x hx)
  keep := ⟨k.keep.1.trans h.keep.1, k.keep.2.trans h.keep.2⟩
  wf := fun x => k.wf (h.wf x)

/-- An effect on signature words and events that drops captures at most is a settling turn. -/
theorem SettleRel.on' (f : Mach → Mach) (s : State) (hc : (f s.m).calm = s.m.calm) (he : evtKept s.m (f s.m))
    (hk : capsWithin s.m (f s.m)) : SettleRel s (s.on f) :=
  ⟨hc, he, hk, fun _ _ => rfl, ⟨rfl, rfl⟩, id⟩

theorem Mach.ch_of_chans {a b : Mach} (h : b.chans = a.chans) (n : Nat) : b.ch n = a.ch n := by
  unfold Mach.ch; rw [h]

theorem SettleRel.cut (n : Nat) (c : Capture) (s : State) (hcap : (s.m.ch n).sig.cap = some c) (hk : c.k < 256) :
    SettleRel s (s.sigCut n c) := by
  have hkeep : ∀ k, k ≠ n → ((((s.m.modSig n fun g => { g with cap := none, result := 3, reason := 1 }).event
      (chPage n) 0x0080).ch k).sig.cap) = (s.m.ch k).sig.cap := by
    intro k hkn
    rw [Mach.ch_of_chans (Mach.event_chans _ _ _), Mach.modSig, Mach.ch_modCh_ne _ _ _ _ hkn]
  refine ⟨?_, ?_, ?_, ?_, ⟨?_, ?_⟩, ?_⟩
  · simp [State.sigCut]
  · simp only [State.sigCut, State.on_m, State.sramSetList_m]
    exact (evtKept_of_evt (Mach.modCh_evt _ _ _)).trans' (evtKept_event _ _ _)
  · intro k x hx
    simp only [State.sigCut, State.on_m, State.sramSetList_m] at hx
    by_cases hkn : k = n
    · subst hkn
      rw [Mach.ch_of_chans (Mach.event_chans _ _ _), Mach.modSig] at hx
      by_cases h24 : k < 24
      · rw [Mach.ch_modCh_self _ _ _ h24] at hx; cases hx
      · simp [Mach.ch, h24] at hcap; simp [Chan.reset, Sig.reset] at hcap
    · rw [hkeep k hkn] at hx; exact hx
  · intro a ha
    simp only [State.sigCut, State.on_sram]
    apply State.read_sramSetList_ne
    have hp := ha n c hcap
    simp only [sramIndex, List.length_replicate]
    omega
  · simp [State.sigCut]
  · simp [State.sigCut]
  · intro h
    exact State.sramSetList_wf _ _ _ h

/-- Settling changes the tach inputs and the signature words, writes the pages of captures it ends, and reports events:
nothing else. -/
theorem State.settle_rel (s : State) : SettleRel s s.settle := by
  have h0 : SettleRel s (s.on Mach.tachSettle) := by
    have hch : s.m.tachSettle.chans = s.m.chans :=
      forList_keeps Mach.chans _ _ (fun i _ m => by split <;> simp [Mach.tachDisarm]) s.m
    have hev : s.m.tachSettle.evt = s.m.evt :=
      forList_keeps Mach.evt _ _ (fun i _ m => by split <;> simp [Mach.tachDisarm]) s.m
    exact SettleRel.on' _ _ (by simp) (evtKept_of_evt hev)
      (capsWithin_of_eq fun n => by rw [Mach.ch_of_chans hch])
  refine h0.trans' ?_
  unfold State.settle
  refine forList_rel SettleRel _ _ SettleRel.rfl' (fun _ _ _ => SettleRel.trans') (fun n _ t => ?_) _
  dsimp only
  split
  · exact SettleRel.rfl' t
  · have h1 : SettleRel t (t.on (Mach.modSig n fun g => { g with armed := false, edged := false })) :=
      SettleRel.on' _ _ (by simp) (evtKept_of_evt (Mach.modCh_evt _ _ _))
        (capsWithin_of_eq fun k => Mach.modSig_chcap n _ _ k fun _ => rfl)
    split
    · next c hc =>
      split
      · next hk =>
        refine h1.trans' (SettleRel.cut n c _ ?_ hk)
        exact (Mach.modSig_chcap n (fun g => { g with armed := false, edged := false }) t.m n fun _ => rfl).trans hc
      · exact h1
    · exact h1

/-- A control-plane effect that keeps the captures and the latched events settles to itself. -/
theorem State.ctl_settlesTo (f : Mach → Mach) (s : State) (he : evtKept s.m (f s.m)) (hk : capsWithin s.m (f s.m)) :
    settlesTo s (s.ctl f) (f s.m) := by
  have h := State.settle_rel (s.on f)
  exact ⟨h.calm, he.trans' h.evt, fun a ha => h.sram a fun n c hc => ha n c (hk n c hc), h.keep.1, h.keep.2⟩

@[simp] theorem State.ctl_calm (f : Mach → Mach) (s : State) : (s.ctl f).m.calm = (f s.m).calm :=
  (State.settle_rel (s.on f)).calm
@[simp] theorem State.ctl_nv (f : Mach → Mach) (s : State) : (s.ctl f).nv = s.nv := (State.settle_rel (s.on f)).keep.1
@[simp] theorem State.ctl_pending (f : Mach → Mach) (s : State) : (s.ctl f).pending = s.pending :=
  (State.settle_rel (s.on f)).keep.2
theorem State.ctl_wf (f : Mach → Mach) (s : State) (h : Memory.wf s.sram) : Memory.wf (s.ctl f).sram :=
  (State.settle_rel (s.on f)).wf h

/-! ## Reading a field of a machine that is known but for settling -/

theorem calm_now {m m' : Mach} (h : m.calm = m'.calm) : m.now = m'.now :=
  (congrArg Mach.now h : m.calm.now = m'.calm.now)
theorem calm_time {m m' : Mach} (h : m.calm = m'.calm) : m.time = m'.time :=
  (congrArg Mach.time h : m.calm.time = m'.calm.time)
theorem calm_free {m m' : Mach} (h : m.calm = m'.calm) : m.free = m'.free :=
  (congrArg Mach.free h : m.calm.free = m'.calm.free)
theorem calm_active {m m' : Mach} (h : m.calm = m'.calm) : m.active = m'.active :=
  (congrArg Mach.active h : m.calm.active = m'.calm.active)
theorem calm_staged {m m' : Mach} (h : m.calm = m'.calm) : m.staged = m'.staged :=
  (congrArg Mach.staged h : m.calm.staged = m'.calm.staged)
theorem calm_held {m m' : Mach} (h : m.calm = m'.calm) : m.held = m'.held :=
  (congrArg Mach.held h : m.calm.held = m'.calm.held)
theorem calm_snap {m m' : Mach} (h : m.calm = m'.calm) : m.snap = m'.snap :=
  (congrArg Mach.snap h : m.calm.snap = m'.calm.snap)
theorem calm_dev {m m' : Mach} (h : m.calm = m'.calm) : m.dev = m'.dev :=
  (congrArg Mach.dev h : m.calm.dev = m'.calm.dev)
theorem calm_clk {m m' : Mach} (h : m.calm = m'.calm) : m.clk = m'.clk :=
  (congrArg Mach.clk h : m.calm.clk = m'.calm.clk)
theorem calm_pwr {m m' : Mach} (h : m.calm = m'.calm) : m.pwr = m'.pwr :=
  (congrArg Mach.pwr h : m.calm.pwr = m'.calm.pwr)
theorem calm_dbg {m m' : Mach} (h : m.calm = m'.calm) : m.dbg = m'.dbg :=
  (congrArg Mach.dbg h : m.calm.dbg = m'.calm.dbg)
theorem calm_cmt {m m' : Mach} (h : m.calm = m'.calm) : m.cmt = m'.cmt :=
  (congrArg Mach.cmt h : m.calm.cmt = m'.calm.cmt)
theorem calm_outs {m m' : Mach} (h : m.calm = m'.calm) : m.outs = m'.outs :=
  (congrArg Mach.outs h : m.calm.outs = m'.calm.outs)
theorem calm_tbs {m m' : Mach} (h : m.calm = m'.calm) : m.tbs = m'.tbs :=
  (congrArg Mach.tbs h : m.calm.tbs = m'.calm.tbs)
theorem calm_pairs {m m' : Mach} (h : m.calm = m'.calm) : m.pairs = m'.pairs :=
  (congrArg Mach.pairs h : m.calm.pairs = m'.calm.pairs)
theorem calm_trips {m m' : Mach} (h : m.calm = m'.calm) : m.trips = m'.trips :=
  (congrArg Mach.trips h : m.calm.trips = m'.calm.trips)
theorem calm_dl {m m' : Mach} (h : m.calm = m'.calm) : m.dl = m'.dl :=
  (congrArg Mach.dl h : m.calm.dl = m'.calm.dl)
theorem calm_thm {m m' : Mach} (h : m.calm = m'.calm) : m.thm = m'.thm :=
  (congrArg Mach.thm h : m.calm.thm = m'.calm.thm)
theorem calm_limp {m m' : Mach} (h : m.calm = m'.calm) : m.limp = m'.limp :=
  (congrArg Mach.limp h : m.calm.limp = m'.calm.limp)
theorem calm_port {m m' : Mach} (h : m.calm = m'.calm) : m.port = m'.port :=
  (congrArg Mach.port h : m.calm.port = m'.calm.port)
theorem calm_ops {m m' : Mach} (h : m.calm = m'.calm) : m.ops = m'.ops :=
  (congrArg Mach.ops h : m.calm.ops = m'.calm.ops)
theorem calm_opLast {m m' : Mach} (h : m.calm = m'.calm) : m.opLast = m'.opLast :=
  (congrArg Mach.opLast h : m.calm.opLast = m'.calm.opLast)
theorem calm_mst {m m' : Mach} (h : m.calm = m'.calm) : m.mst = m'.mst :=
  (congrArg Mach.mst h : m.calm.mst = m'.calm.mst)
theorem calm_site {m m' : Mach} (h : m.calm = m'.calm) : m.site = m'.site :=
  (congrArg Mach.site h : m.calm.site = m'.calm.site)
theorem calm_zc {m m' : Mach} (h : m.calm = m'.calm) : m.zc = m'.zc :=
  (congrArg Mach.zc h : m.calm.zc = m'.calm.zc)
theorem calm_otp {m m' : Mach} (h : m.calm = m'.calm) : m.otp = m'.otp :=
  (congrArg Mach.otp h : m.calm.otp = m'.calm.otp)
theorem calm_frq {m m' : Mach} (h : m.calm = m'.calm) : m.frq = m'.frq :=
  (congrArg Mach.frq h : m.calm.frq = m'.calm.frq)
theorem calm_jnl {m m' : Mach} (h : m.calm = m'.calm) : m.jnl = m'.jnl :=
  (congrArg Mach.jnl h : m.calm.jnl = m'.calm.jnl)
theorem calm_sec {m m' : Mach} (h : m.calm = m'.calm) : m.sec = m'.sec :=
  (congrArg Mach.sec h : m.calm.sec = m'.calm.sec)

/-- Everything of a channel but its signature words. -/
theorem calm_ch {m m' : Mach} (h : m.calm = m'.calm) (n : Nat) :
    { m.ch n with sig := Sig.reset } = { m'.ch n with sig := Sig.reset } := by
  by_cases hn : n < 24
  · have hc : m.calm.chans[n] = m'.calm.chans[n] := by rw [h]
    simpa [Mach.calm, Mach.quiet, vmap, Mach.ch, hn] using hc
  · simp [Mach.ch, hn]

end Sys2Proof.Machine
end

