-- ==== Sys2Proof/Laws/Tame.lean ====
section
/-! SUPPORT. What the shared operations on the whole state do at most: the queue stays, the SRAM keeps its form, and the
non-volatile store stays, or keeps its form and its programmed cells. -/

namespace Sys2Proof.Machine

/-- From `s` to `t` the queue and the non-volatile store stay, and the SRAM keeps its form. -/
structure Tame (s t : State) : Prop where
  pending : t.pending = s.pending
  nv      : t.nv = s.nv
  wf      : Memory.wf s.sram → Memory.wf t.sram

theorem Tame.rfl' (s : State) : Tame s s := ⟨rfl, rfl, id⟩
theorem Tame.trans' {a b c : State} (h : Tame a b) (k : Tame b c) : Tame a c :=
  ⟨k.pending.trans h.pending, k.nv.trans h.nv, fun x => k.wf (h.wf x)⟩

theorem Tame.on' (f : Mach → Mach) (s : State) : Tame s (s.on f) := ⟨rfl, rfl, id⟩
theorem Tame.ctl' (f : Mach → Mach) (s : State) : Tame s (s.ctl f) :=
  ⟨State.ctl_pending f s, State.ctl_nv f s, State.ctl_wf f s⟩
theorem Tame.withM (s : State) (m : Mach) : Tame s { s with m := m } := ⟨rfl, rfl, id⟩
theorem Tame.withEcc (s : State) (e : List (Nat × Bool)) (m : Mach) : Tame s { s with eccBad := e, m := m } := ⟨rfl, rfl, id⟩
theorem Tame.sramSet' (a : Nat) (v : Word) (s : State) : Tame s (s.sramSet a v) := ⟨rfl, rfl, State.sramSet_wf a v s⟩
theorem Tame.sramSetList' (a : Nat) (vs : List Word) (s : State) : Tame s (s.sramSetList a vs) :=
  ⟨State.sramSetList_pending vs a s, State.sramSetList_nv vs a s, State.sramSetList_wf vs a s⟩
theorem Tame.cleared (s : State) (m : Mach) : Tame s { s with sram := [], eccBad := [], m := m } :=
  ⟨rfl, rfl, fun _ => ⟨.nil, fun _ h => by cases h⟩⟩
theorem Tame.ite {s a b : State} {p : Prop} [Decidable p] (ha : Tame s a) (hb : Tame s b) : Tame s (if p then a else b) := by
  split
  · exact ha
  · exact hb
theorem Tame.forList' {α : Type} (l : List α) (f : α → State → State) (h : ∀ a s, Tame s (f a s)) (s : State) :
    Tame s (forList l f s) :=
  forList_rel Tame l f Tame.rfl' (fun _ _ _ => Tame.trans') (fun a _ s => h a s) s
theorem Tame.onlyIf' (b : Bool) (f : State → State) (h : ∀ s, Tame s (f s)) (s : State) : Tame s (onlyIf b f s) := by
  unfold onlyIf; exact Tame.ite (h s) (Tame.rfl' s)
theorem Tame.keyed' (w : Word) (k : Nat) (f : State → State) (h : ∀ s, Tame s (f s)) (s : State) : Tame s (keyed w k f s) := by
  unfold keyed; exact Tame.ite (h s) (Tame.rfl' s)

/-! ## SRAM reads and the signature engine -/

theorem State.sramRead_tame (w : Nat) (s : State) : Tame s (s.sramRead w).2.2 := by
  unfold State.sramRead
  split
  · exact Tame.rfl' s
  · exact ⟨rfl, rfl, id⟩
  · exact Tame.on' _ s

theorem State.sramReads_tame (n : Nat) : ∀ (w : Nat) (s : State), Tame s (s.sramReads w n).2.2 := by
  induction n with
  | zero => intro w s; exact Tame.rfl' s
  | succ n ih => intro w s; exact (State.sramRead_tame w s).trans' (ih (w + 1) _)

theorem State.sigSample_tame (n : Nat) (i : Int) (s : State) : Tame s (s.sigSample n i) := by
  unfold State.sigSample
  dsimp only
  split
  · split
    · exact Tame.rfl' s
    · split
      · exact Tame.on' _ s
      · exact (Tame.sramSet' _ _ s).trans' (Tame.on' _ _)
  · exact Tame.ite (Tame.on' _ s) (Tame.rfl' s)

theorem State.sigScan_tame (n page l : Nat) (xs : List Int) :
    ∀ (k nfail first : Nat) (s : State), Tame s (s.sigScan n page l k xs nfail first).2.2 := by
  induction xs with
  | nil => intros; exact Tame.rfl' _
  | cons x t ih =>
    intro k nfail first s
    unfold State.sigScan
    dsimp only
    split
    · exact ((State.sramRead_tame _ s).trans' (Tame.on' _ _)).trans' (ih _ _ _ _)
    · split <;> exact (State.sramRead_tame _ s).trans' (ih _ _ _ _)

theorem State.sigCompare_tame (n : Nat) (c : Capture) (s : State) : Tame s (s.sigCompare n c) := by
  unfold State.sigCompare
  dsimp only
  split
  · exact Tame.on' _ s
  · split
    · exact (State.sramRead_tame _ s).trans' (Tame.on' _ _)
    · split
      · exact (State.sramRead_tame _ s).trans' (Tame.on' _ _)
      · split
        · refine Tame.trans' (Tame.trans' (Tame.trans' (Tame.trans' ?_ (State.sigScan_tame _ _ _ _ _ _ _ _)) (Tame.on' _ _))
            (Tame.on' _ _)) (Tame.on' _ _)
          exact State.sramRead_tame _ s
        · refine Tame.trans' (Tame.trans' (Tame.trans' ?_ (State.sigScan_tame _ _ _ _ _ _ _ _)) (Tame.on' _ _)) (Tame.on' _ _)
          exact State.sramRead_tame _ s

theorem State.learn_tame (n : Nat) (c : Capture) (s : State) : Tame s (s.learn n c) := by
  unfold State.learn
  split
  · exact Tame.rfl' s
  · exact Tame.ite (Tame.rfl' s) (Tame.ite (Tame.on' _ s) ((Tame.sramSetList' _ _ s).trans' (Tame.on' _ _)))

theorem sampleAll_tame (x : Sample) (s : State) : Tame s (sampleAll x s) := by
  unfold sampleAll
  split
  · exact Tame.rfl' s
  · exact (Tame.on' _ s).trans' (Tame.forList' _ _ (fun n s => State.sigSample_tame n _ s) _)

/-! ## The site link -/

theorem State.storePinna_tame (j fc : Nat) (l : Option (List Byte)) (s : State) : Tame s (s.storePinna j fc l) := by
  unfold State.storePinna
  dsimp only
  split
  · refine Tame.trans' ?_ ((Tame.sramSet' _ _ _).trans' ((Tame.sramSet' _ _ _).trans' (Tame.sramSet' _ _ _)))
    cases l with
    | none => exact Tame.rfl' s
    | some l => exact Tame.sramSetList' _ _ s
  · exact Tame.rfl' s

theorem State.takePinna_tame (j : Nat) (b : Option (List Byte)) (s : State) : Tame s (s.takePinna j b) := by
  unfold State.takePinna
  exact ((Tame.on' _ s).trans' (Tame.ite (State.storePinna_tame _ _ _ _) (Tame.rfl' _))).trans' (Tame.on' _ _)

/-! ## OTP and journal, where the store stays -/

theorem State.zeroSecrets_tame (i : Infl) (s : State) : Tame s (s.zeroSecrets i) :=
  Tame.forList' _ _ (fun _ s => Tame.sramSetList' _ _ s) s

theorem State.readImage_tame (i : Infl) (c : Bool) (s : State) : Tame s (s.readImage i c).2.2 := State.sramReads_tame _ _ s

theorem State.programStart_tame (o : LongOp) (s : State) : Tame s (s.programStart o) := by
  unfold State.programStart
  dsimp only
  split
  · exact (State.readImage_tame _ _ s).trans' (Tame.on' _ _)
  · exact ((State.readImage_tame _ _ s).trans' (State.zeroSecrets_tame _ _)).trans' (Tame.on' _ _)

theorem State.programEnd_tame (o : LongOp) (s : State) : Tame s (s.programEnd o) :=
  Tame.ite (Tame.on' _ s) (Tame.rfl' s)

theorem State.verifyEnd_tame (o : LongOp) (s : State) : Tame s (s.verifyEnd o) := by
  unfold State.verifyEnd
  dsimp only
  split
  all_goals
    exact (((State.sramReads_tame _ _ s).trans' (Tame.on' _ _)).trans'
      (Tame.ite (State.zeroSecrets_tame _ _) (Tame.rfl' _))).trans' (Tame.on' _ _)

theorem State.verifyStep_tame (s : State) : Tame s s.verifyStep := by
  unfold State.verifyStep
  split
  · exact (Tame.on' _ s).trans' (Tame.on' _ _)
  · exact Tame.rfl' s

theorem State.endRecord_tame (w : JWrite) (s : State) : Tame s (s.endRecord w) := Tame.on' _ s

theorem State.compactEnd_tame (o : LongOp) (s : State) : Tame s (s.compactEnd o) :=
  Tame.ite (Tame.on' _ s) (Tame.rfl' s)

/-! ## Reading and posting -/

theorem State.capture_tame (s : State) (page : Nat) (g : Nat × Nat) : Tame s (s.capture page g) := Tame.on' _ s

theorem State.readAt_tame (page off : Nat) (s : State) : Tame s (s.readAt page off).2 := by
  unfold State.readAt
  split
  · exact Tame.rfl' s
  · split
    · exact State.sramRead_tame _ s
    · split
      · split
        · exact State.capture_tame s _ _
        · exact Tame.rfl' s
      · exact Tame.rfl' s

theorem State.readBurst_tame (page n : Nat) : ∀ (off : Nat) (s : State), Tame s (State.readBurst page off n s).2 := by
  induction n with
  | zero => intro off s; exact Tame.rfl' s
  | succ n ih => intro off s; exact (State.readAt_tame page off s).trans' (ih (off + 1) _)

theorem State.postEntry_tame (r head : Nat) (rest : List Word) (s : State) : Tame s (s.postEntry r head rest) :=
  ((Tame.sramSetList' _ _ s).trans' (Tame.sramSet' _ _ _)).trans' (Tame.on' _ _)

theorem State.postCompl_tame (c : Compl) (s : State) : Tame s (s.postCompl c) := by
  unfold State.postCompl
  exact (State.postEntry_tame _ _ _ s).trans' (Tame.on' _ _)

theorem State.postEvent_tame (page type : Nat) (w1 : Word) (t : Time) (w5 w6 w7 : Word) (s : State) :
    Tame s (s.postEvent page type w1 t w5 w6 w7) := State.postEntry_tame _ _ _ s

theorem State.postItem_tame (it : FrItem) (s : State) : Tame s (s.postItem it) :=
  Tame.ite (State.postEvent_tame _ _ _ _ _ _ _ s) (State.postEvent_tame _ _ _ _ _ _ _ s)

theorem State.postCollected_tame (e : EqEv) (s : State) : Tame s (s.postCollected e) :=
  Tame.ite ((State.postEvent_tame _ _ _ _ _ _ _ s).trans' (Tame.on' _ _)) (State.postEvent_tame _ _ _ _ _ _ _ s)

/-! ## Writes and their commands -/

theorem State.writeAt_tame (page off : Nat) (w : Word) (s : State) : Tame s (s.writeAt page off w).1 := by
  unfold State.writeAt
  split
  · exact Tame.rfl' s
  · split
    · exact Tame.sramSet' _ _ s
    · exact Tame.withM s _

theorem State.writeWords_tame (page : Nat) (ws : List Word) :
    ∀ (off : Nat) (s : State), Tame s (State.writeWords page off ws s).1 := by
  induction ws with
  | nil => intro off s; exact Tame.rfl' s
  | cons w t ih => intro off s; exact (State.writeAt_tame page off w s).trans' (ih (off + 1) _)

theorem State.leadCmd_tame (n : Nat) (f : Mach → Mach) (s : State) : Tame s (s.leadCmd n f) :=
  Tame.ite (Tame.ctl' f s) (Tame.rfl' s)

theorem State.woFault_tame (n : Nat) (w : Word) (s : State) : Tame s (s.woFault n w) :=
  Tame.ite (State.leadCmd_tame _ _ s) (Tame.ite (State.leadCmd_tame _ _ s) (Tame.ite (State.leadCmd_tame _ _ s) (Tame.rfl' s)))

theorem State.woRetry_tame (n : Nat) (w : Word) (s : State) : Tame s (s.woRetry n w) :=
  Tame.ite (State.leadCmd_tame _ _ s) (Tame.ite (State.leadCmd_tame _ _ s) (Tame.ite (State.leadCmd_tame _ _ s) (Tame.rfl' s)))

theorem State.woChannel_tame (n off : Nat) (w : Word) (s : State) : Tame s (s.woChannel n off w) := by
  unfold State.woChannel
  split
  · exact Tame.onlyIf' _ _ (fun s => Tame.ctl' _ s) s
  · exact Tame.onlyIf' _ _ (fun s => Tame.ctl' _ s) s
  · exact State.woRetry_tame n w s
  · exact Tame.keyed' _ _ _ (fun s => Tame.on' _ s) s
  · exact Tame.ite (Tame.ctl' _ s) (Tame.rfl' s)
  · exact Tame.ite (Tame.ctl' _ s) (Tame.rfl' s)
  · exact State.woFault_tame n w s
  · exact Tame.rfl' s

theorem State.woSite_tame (w : Word) (s : State) : Tame s (s.woSite w) := by
  unfold State.woSite
  refine Tame.keyed' _ _ _ (fun s => ?_) s
  dsimp only
  exact (((Tame.onlyIf' _ _ (fun s => Tame.on' _ s) s).trans' (Tame.onlyIf' _ _ (fun s => Tame.ctl' _ s) _)).trans'
    (Tame.onlyIf' _ _ (fun s => Tame.on' _ s) _)).trans' (Tame.onlyIf' _ _ (fun s => Tame.on' _ s) _)

theorem State.woDevice_tame (a : Nat) (w : Word) (s : State) : Tame s (s.woDevice a w) := by
  unfold State.woDevice
  split
  · exact Tame.keyed' _ _ _ (fun s => Tame.on' _ s) s
  · exact Tame.keyed' _ _ _ (fun s => Tame.on' _ s) s
  · exact Tame.keyed' _ _ _ (fun s => Tame.on' _ s) s
  · exact Tame.keyed' _ _ _ (fun s => Tame.on' _ s) s
  · exact Tame.on' _ s
  · exact Tame.keyed' _ _ _ (fun s => Tame.on' _ s) s
  · exact Tame.ctl' _ s
  · exact (Tame.onlyIf' _ _ (fun s => Tame.ctl' _ s) s).trans' (Tame.onlyIf' _ _ (fun s => Tame.on' _ s) _)
  · exact Tame.ite (Tame.ctl' _ s) (Tame.ctl' _ s)
  · exact Tame.ite (Tame.ctl' _ s) (Tame.rfl' s)
  · exact Tame.ite (Tame.ctl' _ s) (Tame.rfl' s)
  · exact Tame.ite (Tame.ctl' _ s) (Tame.rfl' s)
  · exact Tame.ite (Tame.ctl' _ s) (Tame.rfl' s)
  · exact Tame.rfl' s

theorem State.woDevice2_tame (a : Nat) (w : Word) (s : State) : Tame s (s.woDevice2 a w) := by
  unfold State.woDevice2
  split
  · exact Tame.keyed' _ _ _ (fun s => Tame.ctl' _ s) s
  · exact Tame.ctl' _ s
  · exact Tame.keyed' _ _ _ (fun s => Tame.on' _ s) s
  · exact Tame.keyed' _ _ _ (fun s => Tame.on' _ s) s
  · exact Tame.keyed' _ _ _ (fun s => Tame.on' _ s) s
  · exact Tame.keyed' _ _ _ (fun s => Tame.on' _ s) s
  · exact State.woSite_tame w s
  · exact Tame.keyed' _ _ _ (fun s => Tame.on' _ s) s
  · exact Tame.ite (Tame.on' _ s) (Tame.on' _ s)
  · exact Tame.ite (Tame.on' _ s) (Tame.rfl' s)
  · exact Tame.ite (Tame.ctl' _ s) (Tame.ite (Tame.ctl' _ s) (Tame.rfl' s))
  · exact Tame.rfl' s

theorem State.woCommand_tame (page off : Nat) (w : Word) (s : State) : Tame s (s.woCommand page off w) :=
  Tame.ite (Tame.rfl' s) (Tame.ite (State.woChannel_tame _ _ _ s)
    (Tame.ite (State.woDevice_tame _ _ s) (State.woDevice2_tame _ _ s)))

theorem State.runCommands_tame (page : Nat) (ws : List Word) :
    ∀ (off : Nat) (s : State), Tame s (State.runCommands page off ws s) := by
  induction ws with
  | nil => intro off s; exact Tame.rfl' s
  | cons w t ih => intro off s; exact (State.woCommand_tame page off w s).trans' (ih (off + 1) _)

/-- A frame's writes, with the commands they start. -/
theorem State.writeFrameWords_tame (addr : Word) (ws : List Word) (s : State) : Tame s (s.writeFrameWords addr ws).1 := by
  unfold State.writeFrameWords
  dsimp only
  refine Tame.trans' ?_ (State.runCommands_tame _ _ _ _)
  exact State.writeWords_tame _ _ _ s

theorem State.addressed_tame (cmd : Nat) (x : ChainStage) (f : State → State) (hf : ∀ s, Tame s (f s)) (s : State) :
    Tame s (s.addressed cmd x f) :=
  Tame.ite (Tame.on' _ s) (Tame.ite (Tame.on' _ s) ((Tame.on' _ s).trans' (hf _)))

theorem State.readWords_tame (cmd : Nat) (f : ReadFrame) (s : State) : Tame s (s.readWords cmd f) := by
  unfold State.readWords
  exact (State.readBurst_tame _ _ _ s).trans' (Tame.on' _ _)

theorem State.readFrame_tame (cmd : Nat) (f : ReadFrame) (s : State) : Tame s (s.readFrame cmd f) :=
  State.addressed_tame _ _ _
    (fun s => Tame.ite (Tame.on' _ s) (Tame.ite (Tame.on' _ s) (State.readWords_tame cmd f s))) s

theorem State.writeFrame_tame (cmd : Nat) (f : WriteFrame) (s : State) : Tame s (s.writeFrame cmd f) := by
  refine State.addressed_tame _ _ _ (fun s => ?_) s
  dsimp only
  exact Tame.ite (Tame.on' _ s) (Tame.ite (Tame.on' _ s) ((State.writeFrameWords_tame _ _ s).trans' (Tame.on' _ _)))

theorem State.plainRead_tame (cmd : Nat) (x : ChainStage) (ws : Mach → List Word) (s : State) :
    Tame s (s.plainRead cmd x ws) := State.addressed_tame _ _ _ (fun s => Tame.on' _ s) s

theorem State.stage_tame (cmd : Nat) (x : ChainStage) (nop : Bool) (f : State → State × Word × Word × FrameRes)
    (hf : ∀ s, Tame s (f s).1) (s : State) : Tame s (s.stage cmd x nop f) := by
  unfold State.stage
  dsimp only
  split
  · exact Tame.on' _ s
  · split
    · exact Tame.on' _ s
    · split
      · exact (Tame.on' _ s).trans' (Tame.on' _ _)
      · split <;> exact ((Tame.on' _ s).trans' (hf _)).trans' (Tame.on' _ _)

/-! ## The ring engines and the port master -/

theorem State.fetch_tame (r : Nat) (s : State) : Tame s (s.fetch r) := by
  have h := State.sramReads_tame 8 (s.m.slotWord r (s.m.ringHead r)) s
  unfold State.fetch
  dsimp only
  generalize s.sramReads (s.m.slotWord r (s.m.ringHead r)) 8 = x at h ⊢
  refine Tame.trans' h ?_
  exact Tame.on' _ _

theorem State.peekSq5_tame (s : State) : Tame s s.peekSq5 := Tame.ite (State.sramRead_tame _ s) (Tame.rfl' s)

theorem State.withCmd_tame (tag : Tag) (op : Nat) (f : Infl → State → State) (hf : ∀ i s, Tame s (f i s)) (s : State) :
    Tame s (s.withCmd tag op f) := by
  unfold State.withCmd
  split
  · exact hf _ s
  · exact Tame.rfl' s

theorem State.ringWrite_tame (i : Infl) (s : State) : Tame s (s.ringWrite i) := by
  unfold State.ringWrite
  dsimp only
  split
  · exact Tame.on' _ s
  · exact (State.writeFrameWords_tame _ _ s).trans' (Tame.on' _ _)

theorem State.measSnap_tame (i : Infl) (s : State) : Tame s (s.measSnap i) := by
  unfold State.measSnap
  dsimp only
  split
  · exact Tame.on' _ s
  · split
    · exact (Tame.sramSetList' _ _ s).trans' (Tame.on' _ _)
    · exact Tame.rfl' s

theorem State.checkImage_tame (o : LongOp) (s : State) : Tame s (s.checkImage o) := by
  unfold State.checkImage
  split
  · exact Tame.ite (State.programStart_tame _ s) (Tame.rfl' s)
  · exact Tame.rfl' s

theorem State.startOtp_tame (o : LongOp) (s : State) : Tame s (s.startOtp o) :=
  (Tame.on' _ s).trans' (Tame.ite (Tame.on' _ _) (State.checkImage_tame _ _))

theorem State.startOp_tame (o : LongOp) (s : State) : Tame s (s.startOp o) := by
  unfold State.startOp
  dsimp only
  split
  · exact State.startOtp_tame o s
  · exact State.startOtp_tame o s
  all_goals exact Tame.on' _ s

theorem State.endRunning_tame (o : LongOp) (e : OpEnd) (s : State) : Tame s (s.endRunning o e) := by
  unfold State.endRunning
  split
  · exact State.programEnd_tame o s
  · exact State.verifyEnd_tame o s
  · exact State.compactEnd_tame o s
  · exact Tame.on' _ s
  · exact Tame.on' _ s
  · exact Tame.on' _ s
  · exact Tame.rfl' s
  · exact Tame.ite (Tame.rfl' s) (Tame.on' _ s)

theorem State.mstDone_tame (i : Infl) (ws : List Word) (st : Byte) (ok : Bool) (s : State) : Tame s (s.mstDone i ws st ok) := by
  unfold State.mstDone
  dsimp only
  split
  all_goals exact (Tame.ite (Tame.sramSetList' _ _ s) (Tame.rfl' s)).trans' (Tame.on' _ _)

theorem State.mstAbort_tame (i : Infl) (st moved stat : Nat) (s : State) : Tame s (s.mstAbort i st moved stat) := by
  unfold State.mstAbort
  exact (Tame.ite (Tame.sramSetList' _ _ s) (Tame.rfl' s)).trans' (Tame.on' _ _)

theorem State.mstLoseVdd_tame (s : State) : Tame s s.mstLoseVdd := by
  unfold State.mstLoseVdd
  split
  · dsimp only
    split
    · exact Tame.on' _ s
    · exact (State.mstAbort_tame _ _ _ _ s).trans' (Tame.on' _ _)
  · exact Tame.rfl' s

end Sys2Proof.Machine
end

