-- ==== Sys2Proof/Laws/Store.lean ====
section
/-! SUPPORT. The non-volatile store: what a stored OTP word or journal copy reads as, that pulses only add cells, and
what the operations that change the store keep. -/

namespace Sys2Proof.Machine

/-! ## OTP words -/

theorem beq_match {α : Type} (k j : Nat) (x y : Option α) :
    (match k == j with | true => x | false => y) = if k = j then x else y := by
  by_cases h : k = j
  · rw [show (k == j) = true from by simp [h], if_pos h]
  · rw [show (k == j) = false from by simp [h], if_neg h]

theorem find?_cons_key {α : Type} (l : List (Nat × α)) (k j : Nat) (v : α) :
    (((k, v) :: l).find? fun p => p.1 == j) = if k = j then some (k, v) else l.find? fun p => p.1 == j := by
  rw [List.find?_cons]
  exact beq_match k j _ _

theorem find?_otpInsert (l : List (Nat × OtpWord)) (i j : Nat) (w : OtpWord) :
    ((otpInsert l i w).find? fun p => p.1 == j) =
      if i = j then some (i, w) else l.find? fun p => p.1 == j := by
  induction l with
  | nil => exact find?_cons_key [] i j w
  | cons c t ih =>
    obtain ⟨k, v⟩ := c
    unfold otpInsert
    split
    · exact find?_cons_key _ i j w
    · split
      · next hk =>
        subst hk
        rw [find?_cons_key, find?_cons_key]
        split <;> rfl
      · next hk =>
        rw [find?_cons_key, find?_cons_key, ih]
        split
        · next h => rw [if_neg (by omega)]
        · rfl

theorem find?_filter_ne {α : Type} (l : List (Nat × α)) (i j : Nat) :
    ((l.filter fun p => p.1 != i).find? fun p => p.1 == j) = if i = j then none else l.find? fun p => p.1 == j := by
  induction l with
  | nil => simp
  | cons c t ih =>
    obtain ⟨k, v⟩ := c
    rw [List.filter_cons]
    by_cases hk : k = i
    · subst hk
      rw [if_neg (by simp), ih, find?_cons_key]
      split <;> rfl
    · rw [if_pos (by simpa using hk), find?_cons_key, find?_cons_key, ih]
      split
      · next h => rw [if_neg (by omega)]
      · rfl

/-- A word of the array after one is stored. -/
theorem NonVol.word_setWord (nv : NonVol) (i j : Nat) (w : OtpWord) :
    (nv.setWord i w).word j = if i = j then w else nv.word j := by
  unfold NonVol.word NonVol.setWord
  by_cases h : w = .blank
  · simp only [h, if_true]
    rw [find?_filter_ne]
    by_cases hj : i = j <;> simp [hj]
  · simp only [h, if_false]
    rw [find?_otpInsert]
    by_cases hj : i = j <;> simp [hj]

theorem otpInsert_mem (l : List (Nat × OtpWord)) (i : Nat) (w : OtpWord) (p : Nat × OtpWord) (h : p ∈ otpInsert l i w) :
    p = (i, w) ∨ p ∈ l := by
  induction l with
  | nil => simpa [otpInsert] using h
  | cons d t ih =>
    obtain ⟨k, v⟩ := d
    unfold otpInsert at h
    split at h
    · simpa using h
    · split at h
      · rcases List.mem_cons.mp h with h | h
        · exact .inl h
        · exact .inr (List.mem_cons_of_mem _ h)
      · rcases List.mem_cons.mp h with h | h
        · exact .inr (by simp [h])
        · rcases ih h with h | h
          · exact .inl h
          · exact .inr (List.mem_cons_of_mem _ h)

theorem otpInsert_rising (l : List (Nat × OtpWord)) (i : Nat) (w : OtpWord) (h : rising l) : rising (otpInsert l i w) := by
  induction l with
  | nil => simp [otpInsert, rising]
  | cons d t ih =>
    obtain ⟨k, v⟩ := d
    have ht := List.pairwise_cons.mp h
    unfold otpInsert
    split
    · next hk =>
      refine List.pairwise_cons.mpr ⟨fun c hc => ?_, h⟩
      rcases List.mem_cons.mp hc with rfl | hc
      · exact hk
      · exact Nat.lt_trans hk (ht.1 c hc)
    · split
      · next hk => subst hk; exact List.pairwise_cons.mpr ⟨ht.1, ht.2⟩
      · next hk1 hk2 =>
        refine List.pairwise_cons.mpr ⟨fun c hc => ?_, ih ht.2⟩
        rcases otpInsert_mem t i w c hc with rfl | hc
        · show k < i; omega
        · exact ht.1 c hc

theorem NonVol.setWord_wf (i : Nat) (w : OtpWord) (nv : NonVol) (h : nv.wf) : (nv.setWord i w).wf := by
  obtain ⟨h1, h2, h3⟩ := h
  unfold NonVol.setWord
  split
  · exact ⟨h1.filter _, fun p hp => h2 p (List.mem_of_mem_filter hp), h3⟩
  · next hw =>
    refine ⟨otpInsert_rising _ _ _ h1, fun p hp => ?_, h3⟩
    rcases otpInsert_mem _ _ _ _ hp with rfl | hp
    · exact hw
    · exact h2 p hp

/-! ## Journal slots -/

theorem slotInsert_mem (l : List (Nat × JSlot)) (i : Nat) (w : JSlot) (p : Nat × JSlot) (h : p ∈ slotInsert l i w) :
    p = (i, w) ∨ p ∈ l := by
  induction l with
  | nil => simpa [slotInsert] using h
  | cons d t ih =>
    obtain ⟨k, v⟩ := d
    unfold slotInsert at h
    split at h
    · simpa using h
    · split at h
      · rcases List.mem_cons.mp h with h | h
        · exact .inl h
        · exact .inr (List.mem_cons_of_mem _ h)
      · rcases List.mem_cons.mp h with h | h
        · exact .inr (by simp [h])
        · rcases ih h with h | h
          · exact .inl h
          · exact .inr (List.mem_cons_of_mem _ h)

theorem slotInsert_rising (l : List (Nat × JSlot)) (i : Nat) (w : JSlot) (h : rising l) : rising (slotInsert l i w) := by
  induction l with
  | nil => simp [slotInsert, rising]
  | cons d t ih =>
    obtain ⟨k, v⟩ := d
    have ht := List.pairwise_cons.mp h
    unfold slotInsert
    split
    · next hk =>
      refine List.pairwise_cons.mpr ⟨fun c hc => ?_, h⟩
      rcases List.mem_cons.mp hc with rfl | hc
      · exact hk
      · exact Nat.lt_trans hk (ht.1 c hc)
    · split
      · next hk => subst hk; exact List.pairwise_cons.mpr ⟨ht.1, ht.2⟩
      · next hk1 hk2 =>
        refine List.pairwise_cons.mpr ⟨fun c hc => ?_, ih ht.2⟩
        rcases slotInsert_mem t i w c hc with rfl | hc
        · show k < i; omega
        · exact ht.1 c hc

theorem NonVol.setCopy_wf (j : Nat) (b : Bool) (bytes : List Byte) (nv : NonVol) (h : nv.wf) : (nv.setCopy j b bytes).wf :=
  ⟨h.1, h.2.1, slotInsert_rising _ _ _ h.2.2⟩

theorem NonVol.word_setCopy (j : Nat) (b : Bool) (bytes : List Byte) (nv : NonVol) (i : Nat) :
    (nv.setCopy j b bytes).word i = nv.word i := rfl

/-! ## Cells -/

theorem OtpWord.below.rfl' (w : OtpWord) : w.below w := ⟨fun _ h => h, fun _ h => h, fun _ h => h⟩
theorem OtpWord.below.trans' {a b c : OtpWord} (h : a.below b) (k : b.below c) : a.below c :=
  ⟨fun i x => k.1 i (h.1 i x), fun i x => k.2.1 i (h.2.1 i x), fun i x => k.2.2 i (h.2.2 i x)⟩

theorem getLsbD_two_pow (n i b : Nat) (hi : i < n) : (BitVec.ofNat n (2 ^ b)).getLsbD i = decide (b = i) := by
  rw [BitVec.getLsbD_ofNat, Nat.testBit_two_pow]
  simp [hi]

/-- Setting a bit that is not taken away keeps every bit that reads 1. -/
theorem setBit_keeps {n : Nat} (w : BitVec n) (b : Nat) (v : Bool) (hv : w.getLsbD b = true → v = true) (i : Nat)
    (h : w.getLsbD i = true) : (setBit w b v).getLsbD i = true := by
  have hi : i < n := BitVec.lt_of_getLsbD h
  unfold setBit
  cases v with
  | true => simp [h]
  | false =>
    have hne : b ≠ i := by intro e; subst e; simpa using hv h
    show (w &&& ~~~ (BitVec.ofNat n (2 ^ b))).getLsbD i = true
    rw [BitVec.getLsbD_and, BitVec.getLsbD_not, getLsbD_two_pow n i b hi]
    simp [h, hi, hne]

theorem OtpWord.setCell_below (w : OtpWord) (c b : Nat) (v h : Bool) (hv : (w.cell c).1.getLsbD b = true → v = true) :
    w.below (w.setCell c b v h) := by
  unfold OtpWord.setCell
  split
  · exact ⟨fun i x => setBit_keeps _ _ _ hv i x, fun _ x => x, fun _ x => x⟩
  · exact ⟨fun _ x => x, fun i x => setBit_keeps _ _ _ hv i x, fun _ x => x⟩
  · next h0 h1 =>
    refine ⟨fun _ x => x, fun _ x => x, fun i x => setBit_keeps _ _ _ ?_ i x⟩
    have : w.cell c = (w.c2, w.h2) := by
      match c, h0, h1 with
      | 0, h0, _ => exact absurd rfl h0
      | 1, _, h1 => exact absurd rfl h1
      | _ + 2, _, _ => rfl
    rw [this] at hv
    exact hv

theorem OtpWord.leaveOpen_below (w : OtpWord) (c b free : Nat) : w.below (w.leaveOpen c b free) :=
  OtpWord.setCell_below _ _ _ _ _ fun h => by simp [h]

theorem foldl_below {α : Type} (l : List α) (f : OtpWord → α → OtpWord) (h : ∀ (w : OtpWord) (a : α), w.below (f w a)) :
    ∀ w : OtpWord, w.below (l.foldl f w) := by
  induction l with
  | nil => intro w; exact OtpWord.below.rfl' w
  | cons a t ih => intro w; exact (h w a).trans' (ih (f w a))

/-! ## What the operations that change the store keep -/

/-- From `s` to `t` the queue stays, the SRAM and the store keep their forms, and no programmed cell is lost. -/
structure Held (s t : State) : Prop where
  pending : t.pending = s.pending
  wf      : Memory.wf s.sram → Memory.wf t.sram
  store   : s.nv.wf → t.nv.wf
  cells   : ∀ i, (s.nv.word i).below (t.nv.word i)

theorem Tame.held {s t : State} (h : Tame s t) : Held s t :=
  ⟨h.pending, h.wf, fun x => h.nv ▸ x, fun _ => h.nv ▸ OtpWord.below.rfl' _⟩
theorem Held.rfl' (s : State) : Held s s := (Tame.rfl' s).held
theorem Held.trans' {a b c : State} (h : Held a b) (k : Held b c) : Held a c :=
  ⟨k.pending.trans h.pending, fun x => k.wf (h.wf x), fun x => k.store (h.store x), fun i => (h.cells i).trans' (k.cells i)⟩
theorem Held.ite {s a b : State} {p : Prop} [Decidable p] (ha : Held s a) (hb : Held s b) : Held s (if p then a else b) := by
  split
  · exact ha
  · exact hb
theorem Held.on' (f : Mach → Mach) (s : State) : Held s (s.on f) := (Tame.on' f s).held
theorem Held.ctl' (f : Mach → Mach) (s : State) : Held s (s.ctl f) := (Tame.ctl' f s).held

/-- A word whose cells include those it had is stored. -/
theorem Held.setWord' (i : Nat) (w : OtpWord) (m : Mach) (s : State) (h : (s.nv.word i).below w) :
    Held s { s with nv := s.nv.setWord i w, m := m } :=
  ⟨rfl, id, NonVol.setWord_wf i w s.nv, fun j => by
    show (s.nv.word j).below ((s.nv.setWord i w).word j)
    rw [NonVol.word_setWord]
    split
    · next hj => subst hj; exact h
    · exact OtpWord.below.rfl' _⟩

/-- A journal copy is stored. -/
theorem Held.setCopy' (j : Nat) (b : Bool) (bytes : List Byte) (m : Mach) (s : State) :
    Held s { s with nv := s.nv.setCopy j b bytes, m := m } :=
  ⟨rfl, id, NonVol.setCopy_wf j b bytes s.nv, fun _ => OtpWord.below.rfl' _⟩

theorem OtpWord.below_ite {v a b : OtpWord} {p : Prop} [Decidable p] (ha : p → v.below a) (hb : ¬p → v.below b) :
    v.below (if p then a else b) := by
  split
  · next h => exact ha h
  · next h => exact hb h

theorem State.cutPulse_held (s : State) : Held s s.cutPulse := by
  unfold State.cutPulse
  split
  · split
    · exact Held.setWord' _ _ _ s (foldl_below _ _ (fun w _ =>
        OtpWord.below_ite (fun _ => OtpWord.below.rfl' w) fun _ => OtpWord.leaveOpen_below _ _ _ _) _)
    · exact Held.rfl' s
  · exact Held.rfl' s

theorem State.otpLoseSupply_held (s : State) : Held s s.otpLoseSupply :=
  ((State.cutPulse_held s).trans' (State.verifyStep_tame _).held).trans' (Held.on' _ _)

theorem State.programBit_held (set : BitVec 3) (o : LongOp) (s : State) : Held s (s.programBit set o) := by
  unfold State.programBit
  dsimp only
  refine Held.ite (Held.on' _ s) ?_
  have hw : ∀ l : List Nat, ∀ b : Nat, (s.nv.word (o.place o.prog).1).below (l.foldl
      (fun w c => if set.getLsbD c then OtpWord.setCell c b true false w else w.leaveOpen c b s.m.freeVal)
      (s.nv.word (o.place o.prog).1)) := fun l b => foldl_below l _ (fun w _ =>
        OtpWord.below_ite (fun _ => OtpWord.setCell_below _ _ _ _ _ fun _ => rfl)
          fun _ => OtpWord.leaveOpen_below _ _ _ _) _
  have h1 := fun l b m => Held.setWord' (o.place o.prog).1 _ m s (hw l b)
  split <;> exact ((h1 _ _ _).trans' (Held.on' _ _)).trans' (Held.ite (Held.on' _ _) (Held.on' _ _))

theorem State.startCopy_held (w : JWrite) (s : State) : Held s (s.startCopy w) := by
  unfold State.startCopy
  split
  · exact Held.on' _ s
  · exact Held.setCopy' _ _ _ _ s

theorem State.startRecord_held (w : JWrite) (ovw : Bool) (s : State) : Held s (s.startRecord w ovw) := by
  unfold State.startRecord
  dsimp only
  exact (Held.ite (Held.on' _ s) (Held.rfl' s)).trans' (State.startCopy_held _ _)

theorem State.startItem_held (it : FrItem) (s : State) : Held s (s.startItem it) := by
  unfold State.startItem
  split
  · exact Held.rfl' s
  · exact (Held.on' _ s).trans' (State.startRecord_held _ _ _)

theorem State.startMove_held (s : State) : Held s s.startMove := by
  unfold State.startMove
  split
  · split
    · exact State.startRecord_held _ _ s
    · exact Held.rfl' s
  · exact Held.rfl' s

theorem State.retireSlot_held (w : JWrite) (s : State) : Held s (s.retireSlot w) := by
  unfold State.retireSlot
  dsimp only
  split
  · exact Held.on' _ s
  · split
    · exact (Held.on' _ s).trans' (State.startRecord_held _ _ _)
    · exact Held.on' _ s

theorem State.finishCopy_held (s : State) : Held s s.finishCopy := by
  unfold State.finishCopy
  split
  · split
    · exact Held.rfl' s
    · exact Held.setCopy' _ _ _ s.m s
  · exact Held.rfl' s

/-- A word that has drifted is stored: the forms stay, and every other word. -/
theorem NonVol.setWord_other (i j : Nat) (w : OtpWord) (nv : NonVol) (h : j ≠ i) : (nv.setWord i w).word j = nv.word j := by
  rw [NonVol.word_setWord, if_neg (Ne.symm h)]

theorem State.startReset_held (kind : Nat) (s : State) : Held s (s.startReset kind) := by
  unfold State.startReset
  dsimp only
  exact ((State.cutPulse_held s).trans' (State.finishCopy_held _)).trans' (Tame.withM _ _).held

theorem State.softReset_held (s : State) : Held s s.softReset := (State.startReset_held 3 s).trans' (Held.on' _ _)

end Sys2Proof.Machine
end

