-- ==== Sys2Proof/Laws/StoreCommands.lean ====
section
/-! SUPPORT. The eleven commands that pulse OTP cells or write journal copies complete and keep the forms of the SRAM and
of the store, the queue and every programmed cell; the refresh keeps the forms, the queue and every word but the one it
rereads. -/

namespace Sys2Proof.Machine

theorem execOtpBitProgram_held (set : BitVec 3) (s : State) : ∃ t, execOtpBitProgram set s = .next t ∧ Held s t := by
  refine ⟨_, rfl, ?_⟩
  split
  · exact Held.ite (Held.on' _ s) (Held.ite (State.programBit_held _ _ s) (Held.rfl' s))
  · exact Held.rfl' s

theorem execOtpRefresh_keeps (flip0 flip1 flip2 : BitVec 72) (s : State) :
    ∃ t, execOtpRefresh flip0 flip1 flip2 s = .next t ∧ t.pending = s.pending ∧ t.sram = s.sram ∧
      (s.nv.wf → t.nv.wf) ∧ ∀ j, j ≠ s.m.otp.refresh % 128 → t.nv.word j = s.nv.word j :=
  ⟨_, rfl, rfl, rfl, NonVol.setWord_wf _ _ s.nv, fun _ h => NonVol.setWord_other _ _ _ s.nv h⟩

theorem execOtpWindowViolation_held (c : WinCond) (s : State) :
    ∃ t, execOtpWindowViolation c s = .next t ∧ Held s t := by
  cases c with
  | vdd => exact ⟨_, rfl, (Held.on' _ s).trans' (State.otpLoseSupply_held _)⟩
  | supply => exact ⟨_, rfl, ((Held.on' _ s).trans' (State.cutPulse_held _)).trans' (Held.on' _ _)⟩
  | temperature =>
    exact ⟨_, rfl, (Held.on' _ s).trans' (Held.ite (Held.rfl' _) ((State.cutPulse_held _).trans' (Held.on' _ _)))⟩
  | refclk => exact ⟨_, rfl, (Held.on' _ s).trans' (Held.ite (Held.rfl' _) (State.otpLoseSupply_held _))⟩

theorem execVppPresence_held (mv : Nat) (s : State) : ∃ t, execVppPresence mv s = .next t ∧ Held s t :=
  ⟨_, rfl, (Held.on' _ s).trans' (Held.ite (Held.rfl' _) ((State.cutPulse_held _).trans' (Held.on' _ _)))⟩

theorem execVddLoss_held (also : BitVec 8) (granted : Bool) (s : State) :
    ∃ t, execVddLoss also granted s = .next t ∧ Held s t :=
  ⟨_, rfl, Held.ite (((State.otpLoseSupply_held s).trans' (State.mstLoseVdd_tame _).held).trans' (Held.ctl' _ _))
    (Held.rfl' s)⟩

theorem execRefclkLoss_held (s : State) : ∃ t, execRefclkLoss s = .next t ∧ Held s t :=
  ⟨_, rfl, Held.ite ((State.otpLoseSupply_held s).trans' (Held.ctl' _ _)) (Held.rfl' s)⟩

theorem execCancel_held (tag : Tag) (s : State) : ∃ t, execCancel tag s = .next t ∧ Held s t := by
  refine ⟨_, rfl, ?_⟩
  unfold State.withCmd
  split
  · dsimp only
    split
    · exact ((Held.ite (State.cutPulse_held s) (Held.rfl' s)).trans'
        (Held.ite (State.verifyStep_tame _).held (Held.rfl' _))).trans' (Held.on' _ _)
    · exact Held.on' _ s
  · exact Held.rfl' s

theorem execCorePor_held (s : State) : ∃ t, execCorePor s = .next t ∧ Held s t :=
  ⟨_, rfl, (State.cutPulse_held s).trans' (Tame.cleared _ _).held⟩

theorem execRstnReset_held (s : State) : ∃ t, execRstnReset s = .next t ∧ Held s t :=
  ⟨_, rfl, Held.ite (State.startReset_held 2 s) (Held.rfl' s)⟩

theorem execReset_held (f : ShortFrame) (s : State) : ∃ t, execReset f s = .next t ∧ Held s t :=
  ⟨_, rfl, Held.ite (Held.on' _ s)
    (Held.ite ((Held.on' _ s).trans' (State.softReset_held _)) ((Held.on' _ s).trans' (Held.on' _ _)))⟩

theorem execJnlRecordWrite_held (s : State) : ∃ t, execJnlRecordWrite s = .next t ∧ Held s t := by
  refine ⟨_, rfl, Held.ite (Held.rfl' s) ?_⟩
  split
  · exact Held.ite (State.startCopy_held _ s) (Held.rfl' s)
  · split
    · exact State.startItem_held _ s
    · exact State.startMove_held s

theorem execJnlCopyDone_held (verified : Bool) (s : State) : ∃ t, execJnlCopyDone verified s = .next t ∧ Held s t := by
  refine ⟨_, rfl, ?_⟩
  split
  · refine Held.ite (Held.rfl' s) (Held.ite ?_ (Held.ite (State.retireSlot_held _ s) (State.startCopy_held _ s)))
    exact (Held.setCopy' _ _ _ s.m s).trans'
      (Held.ite (State.endRecord_tame _ _).held (State.startCopy_held _ _))
  · exact Held.rfl' s

end Sys2Proof.Machine
end

