-- ==== Sys2Proof/Laws/TameCommands.lean ====
section
/-! SUPPORT. Every command but the twelve that change OTP cells or write journal copies completes and is tame: the queue
and the non-volatile store stay, the SRAM keeps its form. -/

namespace Sys2Proof.Machine

theorem execPorRelease_tame (s : State) : ∃ t, execPorRelease s = .next t ∧ Tame s t :=
  ⟨_, rfl, Tame.ite (Tame.withM s _) (Tame.rfl' s)⟩

theorem execStartupComplete_tame (diode : List (Option Int)) (ntc : Option Int) (s : State) (w : Instr.WellFormed (.startupComplete diode ntc) = true) :
    ∃ t, execStartupComplete diode ntc s = .next t ∧ Tame s t := by
  unfold execStartupComplete guardWf
  rw [if_pos w]
  exact ⟨_, rfl, Tame.ctl' _ s⟩

theorem execVddReturn_tame (s : State) : ∃ t, execVddReturn s = .next t ∧ Tame s t :=
  ⟨_, rfl, Tame.on' _ s⟩

theorem execVbbUndervoltage_tame (also : List (BitVec 16)) (s : State) : ∃ t, execVbbUndervoltage also s = .next t ∧ Tame s t :=
  ⟨_, rfl, Tame.ctl' _ s⟩

theorem execUndervoltageRestart_tame (s : State) : ∃ t, execUndervoltageRestart s = .next t ∧ Tame s t :=
  ⟨_, rfl, Tame.ctl' _ s⟩

theorem execVbbLow_tame (below : Bool) (s : State) : ∃ t, execVbbLow below s = .next t ∧ Tame s t :=
  ⟨_, rfl, Tame.on' _ s⟩

theorem execVbbOvervoltage_tame (above : Bool) (s : State) : ∃ t, execVbbOvervoltage above s = .next t ∧ Tame s t :=
  ⟨_, rfl, Tame.on' _ s⟩

theorem execVcpReady_tame (s : State) : ∃ t, execVcpReady s = .next t ∧ Tame s t :=
  ⟨_, rfl, Tame.ctl' _ s⟩

theorem execRefclkPresent_tame (external : Bool) (s : State) : ∃ t, execRefclkPresent external s = .next t ∧ Tame s t :=
  ⟨_, rfl, Tame.on' _ s⟩

theorem execTbRestart_tame (s : State) : ∃ t, execTbRestart s = .next t ∧ Tame s t :=
  ⟨_, rfl, Tame.ctl' _ s⟩

theorem execLimpResume_tame (s : State) : ∃ t, execLimpResume s = .next t ∧ Tame s t :=
  ⟨_, rfl, Tame.ctl' _ s⟩

theorem execLfoscLoss_tame (s : State) : ∃ t, execLfoscLoss s = .next t ∧ Tame s t :=
  ⟨_, rfl, Tame.ctl' _ s⟩

theorem execLfoscReturn_tame (s : State) : ∃ t, execLfoscReturn s = .next t ∧ Tame s t :=
  ⟨_, rfl, Tame.ctl' _ s⟩

theorem execGateDriveFault_tame (f : GateFault) (also : BitVec 16) (s : State) :
    ∃ t, execGateDriveFault f also s = .next t ∧ Tame s t :=
  ⟨_, rfl, Tame.ctl' _ s⟩

theorem execEdgeEnd_tame (ch : Ch) (s : State) : ∃ t, execEdgeEnd ch s = .next t ∧ Tame s t :=
  ⟨_, rfl, Tame.ite (Tame.ctl' _ s) (Tame.rfl' s)⟩

theorem execClampStart_tame (ch : Ch) (s : State) : ∃ t, execClampStart ch s = .next t ∧ Tame s t :=
  ⟨_, rfl, Tame.ite (Tame.ctl' _ s) (Tame.rfl' s)⟩

theorem execClampEnd_tame (ch : Ch) (s : State) : ∃ t, execClampEnd ch s = .next t ∧ Tame s t :=
  ⟨_, rfl, Tame.ite (Tame.ctl' _ s) (Tame.rfl' s)⟩

theorem execReverseCurrent_tame (ch : Ch) (above filtered : Bool) (also : BitVec 16) (s : State) :
    ∃ t, execReverseCurrent ch above filtered also s = .next t ∧ Tame s t :=
  ⟨_, rfl, Tame.ite (Tame.ctl' _ s) (Tame.rfl' s)⟩

theorem execBackstopTrip_tame (ch : Ch) (also : BitVec 16) (s : State) :
    ∃ t, execBackstopTrip ch also s = .next t ∧ Tame s t :=
  ⟨_, rfl, Tame.ite (Tame.ctl' _ s) (Tame.rfl' s)⟩

theorem execFastTrip_tame (ch : Ch) (also : BitVec 16) (s : State) :
    ∃ t, execFastTrip ch also s = .next t ∧ Tame s t :=
  ⟨_, rfl, Tame.ite (Tame.ctl' _ s) (Tame.rfl' s)⟩

theorem execClRegStart_tame (ch : Ch) (s : State) : ∃ t, execClRegStart ch s = .next t ∧ Tame s t :=
  ⟨_, rfl, Tame.ite (Tame.ctl' _ s) (Tame.rfl' s)⟩

theorem execClRegEnd_tame (ch : Ch) (s : State) : ∃ t, execClRegEnd ch s = .next t ∧ Tame s t :=
  ⟨_, rfl, Tame.ite (Tame.ctl' _ s) (Tame.rfl' s)⟩

theorem execClTimeout_tame (ch : Ch) (also : BitVec 16) (s : State) :
    ∃ t, execClTimeout ch also s = .next t ∧ Tame s t :=
  ⟨_, rfl, Tame.ite (Tame.ctl' _ s) (Tame.rfl' s)⟩

theorem execProtEstimateUpdate_tame (dtNs : Nat) (est msq vds : List Nat) (s : State) (w : Instr.WellFormed (.protEstimateUpdate dtNs est msq vds) = true) :
    ∃ t, execProtEstimateUpdate dtNs est msq vds s = .next t ∧ Tame s t := by
  unfold execProtEstimateUpdate guardWf
  rw [if_pos w]
  exact ⟨_, rfl, Tame.ctl' _ s⟩

theorem execOpenLoadOn_tame (ch : Ch) (below : Bool) (s : State) : ∃ t, execOpenLoadOn ch below s = .next t ∧ Tame s t :=
  ⟨_, rfl, Tame.ite (Tame.ctl' _ s) (Tame.rfl' s)⟩

theorem execSvbbCheckWindow_tame (ch : Ch) (p : WindowPhase) (s : State) : ∃ t, execSvbbCheckWindow ch p s = .next t ∧ Tame s t :=
  ⟨_, rfl, Tame.ite (Tame.ctl' _ s) (Tame.rfl' s)⟩

theorem execOpenLoadOff_tame (ch : Ch) (above : Bool) (s : State) : ∃ t, execOpenLoadOff ch above s = .next t ∧ Tame s t :=
  ⟨_, rfl, Tame.ite (Tame.ctl' _ s) (Tame.rfl' s)⟩

theorem execSvbbPwmOff_tame (ch : Ch) (also : BitVec 16) (s : State) :
    ∃ t, execSvbbPwmOff ch also s = .next t ∧ Tame s t :=
  ⟨_, rfl, Tame.ite (Tame.ctl' _ s) (Tame.rfl' s)⟩

theorem execTripInputAssert_tame (j : Fin 4) (high filtered : Bool) (s : State) :
    ∃ t, execTripInputAssert j high filtered s = .next t ∧ Tame s t :=
  ⟨_, rfl, Tame.ctl' _ s⟩

theorem execCycleLimitAssert_tame (ch : Ch) (above : Bool) (s : State) : ∃ t, execCycleLimitAssert ch above s = .next t ∧ Tame s t :=
  ⟨_, rfl, Tame.ite (Tame.ctl' _ s) (Tame.rfl' s)⟩

theorem execBlankingEnd_tame (o : OutIx) (s : State) : ∃ t, execBlankingEnd o s = .next t ∧ Tame s t :=
  ⟨_, rfl, Tame.ctl' _ s⟩

theorem execFaultClear_tame (ch : Ch) (s : State) : ∃ t, execFaultClear ch s = .next t ∧ Tame s t :=
  ⟨_, rfl, Tame.ite (Tame.ctl' _ s) (Tame.rfl' s)⟩

theorem execHistoryClear_tame (ch : Ch) (s : State) : ∃ t, execHistoryClear ch s = .next t ∧ Tame s t :=
  ⟨_, rfl, Tame.ite (Tame.ctl' _ s) (Tame.rfl' s)⟩

theorem execFaultHistoryClear_tame (ch : Ch) (s : State) : ∃ t, execFaultHistoryClear ch s = .next t ∧ Tame s t :=
  ⟨_, rfl, Tame.ite (Tame.ctl' _ s) (Tame.rfl' s)⟩

theorem execProtClrCnt_tame (ch : Ch) (s : State) : ∃ t, execProtClrCnt ch s = .next t ∧ Tame s t :=
  ⟨_, rfl, Tame.ite (Tame.ctl' _ s) (Tame.rfl' s)⟩

theorem execClrClamp_tame (ch : Ch) (s : State) : ∃ t, execClrClamp ch s = .next t ∧ Tame s t :=
  ⟨_, rfl, Tame.ite (Tame.ctl' _ s) (Tame.rfl' s)⟩

theorem execInrushPhaseEnd_tame (ch : Ch) (s : State) : ∃ t, execInrushPhaseEnd ch s = .next t ∧ Tame s t :=
  ⟨_, rfl, Tame.ite (Tame.ctl' _ s) (Tame.rfl' s)⟩

theorem execInrushCurrentEnd_tame (ch : Ch) (s : State) : ∃ t, execInrushCurrentEnd ch s = .next t ∧ Tame s t :=
  ⟨_, rfl, Tame.ite (Tame.ctl' _ s) (Tame.rfl' s)⟩

theorem execInrushVoltageEnd_tame (ch : Ch) (gap : Nat) (s : State) : ∃ t, execInrushVoltageEnd ch gap s = .next t ∧ Tame s t :=
  ⟨_, rfl, Tame.ite (Tame.ctl' _ s) (Tame.rfl' s)⟩

theorem execChopPeriod_tame (ch : Ch) (opens : Bool) (s : State) : ∃ t, execChopPeriod ch opens s = .next t ∧ Tame s t :=
  ⟨_, rfl, Tame.ite (Tame.ctl' _ s) (Tame.rfl' s)⟩

theorem execHeaterQueueRelease_tame (s : State) : ∃ t, execHeaterQueueRelease s = .next t ∧ Tame s t :=
  ⟨_, rfl, Tame.ctl' _ s⟩

theorem execRetryDue_tame (ch : Ch) (s : State) : ∃ t, execRetryDue ch s = .next t ∧ Tame s t :=
  ⟨_, rfl, Tame.ite (Tame.ctl' _ s) (Tame.rfl' s)⟩

theorem execBucketRefill_tame (ch : Ch) (s : State) : ∃ t, execBucketRefill ch s = .next t ∧ Tame s t :=
  ⟨_, rfl, Tame.ite (Tame.ctl' _ s) (Tame.rfl' s)⟩

theorem execGoodRun_tame (ch : Ch) (s : State) : ∃ t, execGoodRun ch s = .next t ∧ Tame s t :=
  ⟨_, rfl, Tame.ite (Tame.ctl' _ s) (Tame.rfl' s)⟩

theorem execRetryCountClear_tame (ch : Ch) (s : State) : ∃ t, execRetryCountClear ch s = .next t ∧ Tame s t :=
  ⟨_, rfl, Tame.ite (Tame.ctl' _ s) (Tame.rfl' s)⟩

theorem execBucketFill_tame (ch : Ch) (s : State) : ∃ t, execBucketFill ch s = .next t ∧ Tame s t :=
  ⟨_, rfl, Tame.ite (Tame.ctl' _ s) (Tame.rfl' s)⟩

theorem execRetryCountClearFill_tame (ch : Ch) (s : State) : ∃ t, execRetryCountClearFill ch s = .next t ∧ Tame s t :=
  ⟨_, rfl, Tame.ite (Tame.ctl' _ s) (Tame.rfl' s)⟩

theorem execConverterSample_tame (x : Sample) (s : State) (w : Instr.WellFormed (.converterSample x) = true) :
    ∃ t, execConverterSample x s = .next t ∧ Tame s t := by
  unfold execConverterSample guardWf
  rw [if_pos w]
  exact ⟨_, rfl, sampleAll_tame _ s⟩

theorem execPowerFeedDelivery_tame (prods : List (List Int)) (s : State) (w : Instr.WellFormed (.powerFeedDelivery prods) = true) :
    ∃ t, execPowerFeedDelivery prods s = .next t ∧ Tame s t := by
  unfold execPowerFeedDelivery guardWf
  rw [if_pos w]
  exact ⟨_, rfl, Tame.on' _ s⟩

theorem execClrPeak_tame (ch : Ch) (s : State) : ∃ t, execClrPeak ch s = .next t ∧ Tame s t :=
  ⟨_, rfl, Tame.on' _ s⟩

theorem execClrE_tame (ch : Ch) (x : Option Sample) (s : State) (w : Instr.WellFormed (.clrE ch x) = true) :
    ∃ t, execClrE ch x s = .next t ∧ Tame s t := by
  unfold execClrE guardWf
  rw [if_pos w]
  refine ⟨_, rfl, ?_⟩
  cases x with
  | none => exact Tame.on' _ s
  | some x => exact ((Tame.on' _ s).trans' (sampleAll_tame x _)).trans' (Tame.on' _ _)

theorem execClrSig_tame (ch : Ch) (s : State) : ∃ t, execClrSig ch s = .next t ∧ Tame s t :=
  ⟨_, rfl, Tame.on' _ s⟩

theorem execSigCaptureComplete_tame (ch : Ch) (s : State) : ∃ t, execSigCaptureComplete ch s = .next t ∧ Tame s t := by
  unfold execSigCaptureComplete
  split
  · split
    · exact ⟨_, rfl, Tame.rfl' s⟩
    · exact ⟨_, rfl, ((State.sigCompare_tame _ _ s).trans' (Tame.on' _ _)).trans' (State.learn_tame _ _ _)⟩
  · exact ⟨_, rfl, Tame.rfl' s⟩

theorem execTbZero_tame (k : Tb) (s : State) : ∃ t, execTbZero k s = .next t ∧ Tame s t :=
  ⟨_, rfl, Tame.ctl' _ s⟩

theorem execTbHalfPeriod_tame (k : Tb) (s : State) : ∃ t, execTbHalfPeriod k s = .next t ∧ Tame s t :=
  ⟨_, rfl, Tame.ctl' _ s⟩

theorem execTbPeriodEvent_tame (k : Tb) (s : State) : ∃ t, execTbPeriodEvent k s = .next t ∧ Tame s t :=
  ⟨_, rfl, Tame.ctl' _ s⟩

theorem execCompareEdge_tame (o : OutIx) (s : State) : ∃ t, execCompareEdge o s = .next t ∧ Tame s t :=
  ⟨_, rfl, Tame.ctl' _ s⟩

theorem execTbStop_tame (k : Tb) (s : State) : ∃ t, execTbStop k s = .next t ∧ Tame s t :=
  ⟨_, rfl, Tame.ctl' _ s⟩

theorem execUlockTimeout_tame (k : Tb) (s : State) : ∃ t, execUlockTimeout k s = .next t ∧ Tame s t :=
  ⟨_, rfl, Tame.ctl' _ s⟩

theorem execDlMeasure_tame (elem16 : BitVec 16) (s : State) : ∃ t, execDlMeasure elem16 s = .next t ∧ Tame s t :=
  ⟨_, rfl, Tame.ctl' _ s⟩

theorem execTachEdge_tame (i : Fin 4) (rising : Bool) (s : State) : ∃ t, execTachEdge i rising s = .next t ∧ Tame s t :=
  ⟨_, rfl, Tame.ctl' _ s⟩

theorem execTachArmed_tame (i : Fin 4) (s : State) : ∃ t, execTachArmed i s = .next t ∧ Tame s t :=
  ⟨_, rfl, Tame.ctl' _ s⟩

theorem execTachLoss_tame (i : Fin 4) (s : State) : ∃ t, execTachLoss i s = .next t ∧ Tame s t :=
  ⟨_, rfl, Tame.ctl' _ s⟩

theorem execAswpClear_tame (pair : Fin 16) (s : State) : ∃ t, execAswpClear pair s = .next t ∧ Tame s t :=
  ⟨_, rfl, Tame.ctl' _ s⟩

theorem execIlvRebalance_tame (s : State) : ∃ t, execIlvRebalance s = .next t ∧ Tame s t :=
  ⟨_, rfl, Tame.ctl' _ s⟩

theorem execThallusUpdate_tame (dtNs : Nat) (diode : List (Option Int)) (ntc : Option Int) (s : State) (w : Instr.WellFormed (.thallusUpdate dtNs diode ntc) = true) :
    ∃ t, execThallusUpdate dtNs diode ntc s = .next t ∧ Tame s t := by
  unfold execThallusUpdate guardWf
  rw [if_pos w]
  exact ⟨_, rfl, Tame.ctl' _ s⟩

theorem execOrderlyClassStart_tame (s : State) : ∃ t, execOrderlyClassStart s = .next t ∧ Tame s t :=
  ⟨_, rfl, Tame.ctl' _ s⟩

theorem execStepRelease_tame (b : Bank) (s : State) : ∃ t, execStepRelease b s = .next t ∧ Tame s t :=
  ⟨_, rfl, Tame.ctl' _ s⟩

theorem execDeviceStepUp_tame (s : State) : ∃ t, execDeviceStepUp s = .next t ∧ Tame s t :=
  ⟨_, rfl, Tame.ctl' _ s⟩

theorem execDeviceStepDown_tame (s : State) : ∃ t, execDeviceStepDown s = .next t ∧ Tame s t :=
  ⟨_, rfl, Tame.ctl' _ s⟩

theorem execOwnLimitRelease_tame (ch : Ch) (s : State) : ∃ t, execOwnLimitRelease ch s = .next t ∧ Tame s t :=
  ⟨_, rfl, Tame.ctl' _ s⟩

theorem execModelDiverge_tame (x : SensorIx) (s : State) : ∃ t, execModelDiverge x s = .next t ∧ Tame s t :=
  ⟨_, rfl, Tame.ctl' _ s⟩

theorem execDivergeEnd_tame (x : SensorIx) (s : State) : ∃ t, execDivergeEnd x s = .next t ∧ Tame s t :=
  ⟨_, rfl, Tame.ctl' _ s⟩

theorem execSensorOk_tame (x : SensorIx) (s : State) : ∃ t, execSensorOk x s = .next t ∧ Tame s t :=
  ⟨_, rfl, Tame.ctl' _ s⟩

theorem execAnalogThermalTrip_tame (b : Bank) (s : State) : ∃ t, execAnalogThermalTrip b s = .next t ∧ Tame s t :=
  ⟨_, rfl, Tame.ctl' _ s⟩

theorem execAnalogThermalRelease_tame (b : Bank) (s : State) : ∃ t, execAnalogThermalRelease b s = .next t ∧ Tame s t :=
  ⟨_, rfl, Tame.ctl' _ s⟩

theorem execThermalStopExit_tame (s : State) : ∃ t, execThermalStopExit s = .next t ∧ Tame s t :=
  ⟨_, rfl, Tame.ctl' _ s⟩

theorem execResync_tame (b : Bank) (s : State) : ∃ t, execResync b s = .next t ∧ Tame s t :=
  ⟨_, rfl, Tame.ctl' _ s⟩

theorem execResyncBp_tame (s : State) : ∃ t, execResyncBp s = .next t ∧ Tame s t :=
  ⟨_, rfl, Tame.ctl' _ s⟩

theorem execClrLog_tame (s : State) : ∃ t, execClrLog s = .next t ∧ Tame s t :=
  ⟨_, rfl, Tame.on' _ s⟩

theorem execThClear_tame (ch : Ch) (s : State) : ∃ t, execThClear ch s = .next t ∧ Tame s t :=
  ⟨_, rfl, Tame.ite (Tame.ctl' _ s) (Tame.rfl' s)⟩

theorem execLhAssert_tame (i : Fin 2) (held : Bool) (also : BitVec 8) (granted : Bool) (s : State) :
    ∃ t, execLhAssert i held also granted s = .next t ∧ Tame s t :=
  ⟨_, rfl, Tame.ctl' _ s⟩

theorem execWatchdogExpiry_tame (granted : Bool) (s : State) : ∃ t, execWatchdogExpiry granted s = .next t ∧ Tame s t :=
  ⟨_, rfl, Tame.ctl' _ s⟩

theorem execWatchdogKick_tame (key : Word) (s : State) : ∃ t, execWatchdogKick key s = .next t ∧ Tame s t :=
  ⟨_, rfl, Tame.ctl' _ s⟩

theorem execLimpPeriod_tame (ch : Ch) (cycle : Nat) (s : State) : ∃ t, execLimpPeriod ch cycle s = .next t ∧ Tame s t :=
  ⟨_, rfl, Tame.ite (Tame.ctl' _ s) (Tame.rfl' s)⟩

theorem execLimpClrHist_tame (s : State) : ∃ t, execLimpClrHist s = .next t ∧ Tame s t :=
  ⟨_, rfl, Tame.on' _ s⟩

theorem execFreeze_tame (s : State) : ∃ t, execFreeze s = .next t ∧ Tame s t :=
  ⟨_, rfl, Tame.ctl' _ s⟩

theorem execRelease_tame (s : State) : ∃ t, execRelease s = .next t ∧ Tame s t :=
  ⟨_, rfl, Tame.ctl' _ s⟩

theorem execFreezeTimeout_tame (s : State) : ∃ t, execFreezeTimeout s = .next t ∧ Tame s t :=
  ⟨_, rfl, Tame.ctl' _ s⟩

theorem execCommitRequest_tame (tag : Word) (s : State) : ∃ t, execCommitRequest tag s = .next t ∧ Tame s t :=
  ⟨_, rfl, Tame.ctl' _ s⟩

theorem execCommitApply_tame (s : State) : ∃ t, execCommitApply s = .next t ∧ Tame s t :=
  ⟨_, rfl, Tame.ctl' _ s⟩

theorem execAbort_tame (s : State) : ∃ t, execAbort s = .next t ∧ Tame s t :=
  ⟨_, rfl, Tame.ctl' _ s⟩

theorem execDiscard_tame (s : State) : ∃ t, execDiscard s = .next t ∧ Tame s t :=
  ⟨_, rfl, Tame.on' _ s⟩

theorem execTakeControlArm_tame (s : State) : ∃ t, execTakeControlArm s = .next t ∧ Tame s t :=
  ⟨_, rfl, Tame.ctl' _ s⟩

theorem execTakeControlDisarm_tame (s : State) : ∃ t, execTakeControlDisarm s = .next t ∧ Tame s t :=
  ⟨_, rfl, Tame.ctl' _ s⟩

theorem execTset_tame (s : State) : ∃ t, execTset s = .next t ∧ Tame s t :=
  ⟨_, rfl, Tame.on' _ s⟩

theorem execClrLost_tame (s : State) : ∃ t, execClrLost s = .next t ∧ Tame s t :=
  ⟨_, rfl, Tame.on' _ s⟩

theorem execClkClrCnt_tame (s : State) : ∃ t, execClkClrCnt s = .next t ∧ Tame s t :=
  ⟨_, rfl, Tame.on' _ s⟩

theorem execPwrClr_tame (s : State) : ∃ t, execPwrClr s = .next t ∧ Tame s t :=
  ⟨_, rfl, Tame.on' _ s⟩

theorem execHspClrCnt_tame (s : State) : ∃ t, execHspClrCnt s = .next t ∧ Tame s t :=
  ⟨_, rfl, Tame.on' _ s⟩

theorem execRegisterWrite_tame (addr : BitVec 16) (data : Word) (s : State) :
    ∃ t, execRegisterWrite addr data s = .next t ∧ Tame s t :=
  ⟨_, rfl, State.writeFrameWords_tame _ _ s⟩

theorem execRwMultiwordWrite_tame (addr : BitVec 16) (data : Word) (s : State) :
    ∃ t, execRwMultiwordWrite addr data s = .next t ∧ Tame s t := by
  refine ⟨_, rfl, ?_⟩
  split
  · exact Tame.on' _ s
  · exact Tame.rfl' s

theorem execPgEvtClear_tame (page : Byte) (bits same : Word) (s : State) :
    ∃ t, execPgEvtClear page bits same s = .next t ∧ Tame s t :=
  ⟨_, rfl, Tame.ite (Tame.on' _ s) (Tame.rfl' s)⟩

theorem execPgEvtenWrite_tame (page : Byte) (bits : Word) (s : State) : ∃ t, execPgEvtenWrite page bits s = .next t ∧ Tame s t :=
  ⟨_, rfl, Tame.ite (Tame.rfl' s) (Tame.ite (Tame.on' _ s) (Tame.on' _ s))⟩

theorem execRead_tame (f : ReadFrame) (s : State) (w : Instr.WellFormed (.read f) = true) :
    ∃ t, execRead f s = .next t ∧ Tame s t := by
  unfold execRead guardWf
  rw [if_pos w]
  exact ⟨_, rfl, State.readFrame_tame _ _ s⟩

theorem execReadFast_tame (f : ReadFrame) (s : State) (w : Instr.WellFormed (.readFast f) = true) :
    ∃ t, execReadFast f s = .next t ∧ Tame s t := by
  unfold execReadFast guardWf
  rw [if_pos w]
  exact ⟨_, rfl, State.readFrame_tame _ _ s⟩

theorem execReadDual_tame (f : ReadFrame) (s : State) (w : Instr.WellFormed (.readDual f) = true) :
    ∃ t, execReadDual f s = .next t ∧ Tame s t := by
  unfold execReadDual guardWf
  rw [if_pos w]
  exact ⟨_, rfl, State.readFrame_tame _ _ s⟩

theorem execReadDualIo_tame (f : ReadFrame) (s : State) (w : Instr.WellFormed (.readDualIo f) = true) :
    ∃ t, execReadDualIo f s = .next t ∧ Tame s t := by
  unfold execReadDualIo guardWf
  rw [if_pos w]
  exact ⟨_, rfl, State.readFrame_tame _ _ s⟩

theorem execReadQuad_tame (f : ReadFrame) (s : State) (w : Instr.WellFormed (.readQuad f) = true) :
    ∃ t, execReadQuad f s = .next t ∧ Tame s t := by
  unfold execReadQuad guardWf
  rw [if_pos w]
  exact ⟨_, rfl, State.readFrame_tame _ _ s⟩

theorem execReadQuadIo_tame (f : ReadFrame) (s : State) (w : Instr.WellFormed (.readQuadIo f) = true) :
    ∃ t, execReadQuadIo f s = .next t ∧ Tame s t := by
  unfold execReadQuadIo guardWf
  rw [if_pos w]
  exact ⟨_, rfl, State.readFrame_tame _ _ s⟩

theorem execWrite_tame (f : WriteFrame) (s : State) : ∃ t, execWrite f s = .next t ∧ Tame s t :=
  ⟨_, rfl, State.writeFrame_tame _ _ s⟩

theorem execWriteDual_tame (f : WriteFrame) (s : State) : ∃ t, execWriteDual f s = .next t ∧ Tame s t :=
  ⟨_, rfl, State.writeFrame_tame _ _ s⟩

theorem execWriteQuad_tame (f : WriteFrame) (s : State) : ∃ t, execWriteQuad f s = .next t ∧ Tame s t :=
  ⟨_, rfl, State.writeFrame_tame _ _ s⟩

theorem execStatus_tame (words : Nat) (stage : ChainStage) (s : State) :
    ∃ t, execStatus words stage s = .next t ∧ Tame s t :=
  ⟨_, rfl, State.plainRead_tame _ _ _ s⟩

theorem execId_tame (words : Nat) (stage : ChainStage) (s : State) :
    ∃ t, execId words stage s = .next t ∧ Tame s t :=
  ⟨_, rfl, State.plainRead_tame _ _ _ s⟩

theorem execDoorbell_tame (f : ShortFrame) (w : Word) (s : State) : ∃ t, execDoorbell f w s = .next t ∧ Tame s t := by
  refine ⟨_, rfl, State.addressed_tame _ _ _ (fun s => ?_) s⟩
  exact Tame.ite (Tame.on' _ s) (Tame.ite (Tame.on' _ s) (Tame.on' _ s))

theorem execResetEn_tame (f : ShortFrame) (s : State) : ∃ t, execResetEn f s = .next t ∧ Tame s t :=
  ⟨_, rfl, Tame.ite (Tame.on' _ s) (Tame.on' _ s)⟩

theorem execNopReadback_tame (x : ChainStage) (s : State) : ∃ t, execNopReadback x s = .next t ∧ Tame s t :=
  ⟨_, rfl, State.stage_tame _ _ _ _ (fun s => Tame.rfl' s) s⟩

theorem execChainWrite_tame (x : ChainStage) (s : State) : ∃ t, execChainWrite x s = .next t ∧ Tame s t :=
  ⟨_, rfl, State.stage_tame _ _ _ _ (fun s => State.writeFrameWords_tame _ _ s) s⟩

theorem execChainRead_tame (x : ChainStage) (s : State) : ∃ t, execChainRead x s = .next t ∧ Tame s t :=
  ⟨_, rfl, State.stage_tame _ _ _ _ (fun s => (Tame.on' _ s).trans' (State.readAt_tame _ _ _)) s⟩

theorem execChainEnumerate_tame (x : ChainStage) (s : State) : ∃ t, execChainEnumerate x s = .next t ∧ Tame s t := by
  refine ⟨_, rfl, ?_⟩
  refine State.stage_tame _ _ _ _ (fun s => ?_) s
  dsimp only
  split <;> exact ⟨rfl, rfl, id⟩

theorem execRingDbWrite_tame (w : Word) (s : State) : ∃ t, execRingDbWrite w s = .next t ∧ Tame s t :=
  ⟨_, rfl, Tame.on' _ s⟩

theorem execRingEnable_tame (w : Word) (s : State) : ∃ t, execRingEnable w s = .next t ∧ Tame s t :=
  ⟨_, rfl, Tame.on' _ s⟩

theorem execRingClearDone_tame (r : Fin 8) (s : State) : ∃ t, execRingClearDone r s = .next t ∧ Tame s t :=
  ⟨_, rfl, Tame.ite ((Tame.forList' _ _ (fun _ s => Tame.sramSet' _ _ s) s).trans' (Tame.on' _ _)) (Tame.rfl' s)⟩

theorem execRingClrLost_tame (s : State) : ∃ t, execRingClrLost s = .next t ∧ Tame s t :=
  ⟨_, rfl, Tame.on' _ s⟩

theorem execDescriptorFetch_tame (r : Fin 6) (s : State) : ∃ t, execDescriptorFetch r s = .next t ∧ Tame s t :=
  ⟨_, rfl, Tame.ite (State.fetch_tame _ s) (Tame.ite (State.peekSq5_tame s) (Tame.rfl' s))⟩

theorem execRingWrite_tame (tag : Tag) (s : State) : ∃ t, execRingWrite tag s = .next t ∧ Tame s t :=
  ⟨_, rfl, State.withCmd_tame _ _ _ (fun i s => State.ringWrite_tame i s) s⟩

theorem execRingCommit_tame (tag : Tag) (s : State) : ∃ t, execRingCommit tag s = .next t ∧ Tame s t :=
  ⟨_, rfl, State.withCmd_tame _ _ _ (fun _ s => Tame.ctl' _ s) s⟩

theorem execSuspend_tame (tag : Tag) (s : State) : ∃ t, execSuspend tag s = .next t ∧ Tame s t := by
  refine ⟨_, rfl, State.withCmd_tame _ _ _ (fun i s => ?_) s⟩
  split
  · exact Tame.ite (Tame.rfl' s) ((State.verifyStep_tame s).trans' (Tame.on' _ _))
  · exact Tame.on' _ s

theorem execResume_tame (tag : Tag) (s : State) : ∃ t, execResume tag s = .next t ∧ Tame s t := by
  refine ⟨_, rfl, ?_⟩
  refine State.withCmd_tame _ _ _ (fun i s => ?_) s
  split
  · exact (Tame.on' _ s).trans' (State.checkImage_tame _ _)
  · exact Tame.on' _ s

theorem execOpStatus_tame (tag : Tag) (s : State) : ∃ t, execOpStatus tag s = .next t ∧ Tame s t :=
  ⟨_, rfl, State.withCmd_tame _ _ _ (fun _ s => Tame.on' _ s) s⟩

theorem execOtpProgram_tame (tag : Tag) (s : State) : ∃ t, execOtpProgram tag s = .next t ∧ Tame s t :=
  ⟨_, rfl, Tame.on' _ s⟩

theorem execOtpVerify_tame (tag : Tag) (s : State) : ∃ t, execOtpVerify tag s = .next t ∧ Tame s t :=
  ⟨_, rfl, Tame.on' _ s⟩

theorem execJnlCompact_tame (tag : Tag) (s : State) : ∃ t, execJnlCompact tag s = .next t ∧ Tame s t :=
  ⟨_, rfl, Tame.on' _ s⟩

theorem execDlRecal_tame (tag : Tag) (s : State) : ∃ t, execDlRecal tag s = .next t ∧ Tame s t :=
  ⟨_, rfl, State.withCmd_tame _ _ _ (fun _ s => Tame.on' _ s) s⟩

theorem execThmSweep_tame (tag : Tag) (s : State) : ∃ t, execThmSweep tag s = .next t ∧ Tame s t :=
  ⟨_, rfl, State.withCmd_tame _ _ _ (fun _ s => Tame.on' _ s) s⟩

theorem execSigLearn_tame (tag : Tag) (s : State) : ∃ t, execSigLearn tag s = .next t ∧ Tame s t :=
  ⟨_, rfl, State.withCmd_tame _ _ _ (fun _ s => Tame.on' _ s) s⟩

theorem execMeasSnap_tame (tag : Tag) (s : State) : ∃ t, execMeasSnap tag s = .next t ∧ Tame s t :=
  ⟨_, rfl, State.withCmd_tame _ _ _ (fun i s => State.measSnap_tame i s) s⟩

theorem execSlJoin_tame (tag : Tag) (s : State) : ∃ t, execSlJoin tag s = .next t ∧ Tame s t :=
  ⟨_, rfl, State.withCmd_tame _ _ _ (fun _ s => Tame.on' _ s) s⟩

theorem execSlSend_tame (tag : Tag) (s : State) : ∃ t, execSlSend tag s = .next t ∧ Tame s t :=
  ⟨_, rfl, State.withCmd_tame _ _ _ (fun _ s => Tame.on' _ s) s⟩

theorem execMstXfer_tame (tag : Tag) (s : State) : ∃ t, execMstXfer tag s = .next t ∧ Tame s t :=
  ⟨_, rfl, State.withCmd_tame _ _ _ (fun _ s => Tame.on' _ s) s⟩

theorem execChainEnum_tame (tag : Tag) (s : State) : ∃ t, execChainEnum tag s = .next t ∧ Tame s t :=
  ⟨_, rfl, State.withCmd_tame _ _ _ (fun _ s => Tame.on' _ s) s⟩

theorem execLongOpStart_tame (k : Fin 8) (s : State) : ∃ t, execLongOpStart k s = .next t ∧ Tame s t := by
  refine ⟨_, rfl, ?_⟩
  refine Tame.ite ?_ (Tame.rfl' s)
  split
  · exact State.startOp_tame _ s
  · exact Tame.rfl' s

theorem execLongOpEnd_tame (k : Fin 8) (e : OpEnd) (s : State) (w : Instr.WellFormed (.longOpEnd k e) = true) :
    ∃ t, execLongOpEnd k e s = .next t ∧ Tame s t := by
  unfold execLongOpEnd guardWf
  rw [if_pos w]
  refine ⟨_, rfl, ?_⟩
  split
  · exact State.endRunning_tame _ _ s
  · exact Tame.rfl' s

theorem execCqPost_tame (s : State) : ∃ t, execCqPost s = .next t ∧ Tame s t := by
  refine ⟨_, rfl, ?_⟩
  refine Tame.ite ?_ (Tame.rfl' s)
  split
  · exact (Tame.on' _ s).trans' (State.postCompl_tame _ _)
  · exact Tame.rfl' s

theorem execEqPost_tame (s : State) : ∃ t, execEqPost s = .next t ∧ Tame s t := by
  refine ⟨_, rfl, ?_⟩
  refine Tame.ite (Tame.on' _ s) (Tame.ite (Tame.ite ((State.postEvent_tame _ _ _ _ _ _ _ s).trans' (Tame.on' _ _)) ?_) (Tame.rfl' s))
  split
  · exact (State.postItem_tame _ s).trans' (Tame.on' _ _)
  · split
    · exact (Tame.on' _ s).trans' (State.postCollected_tame _ _)
    · exact Tame.rfl' s

theorem execMstTransactionStart_tame (s : State) : ∃ t, execMstTransactionStart s = .next t ∧ Tame s t := by
  refine ⟨_, rfl, ?_⟩
  dsimp only
  split
  · refine Tame.ite ?_ (Tame.rfl' s)
    exact (State.sramReads_tame _ _ s).trans' (Tame.on' _ _)
  · exact Tame.rfl' s

theorem execMstTransactionEnd_tame (status : Byte) (words : List Word) (crcOk : Bool) (s : State) :
    ∃ t, execMstTransactionEnd status words crcOk s = .next t ∧ Tame s t := by
  refine ⟨_, rfl, ?_⟩
  split
  · exact Tame.rfl' s
  · exact Tame.ite (Tame.on' _ s) (Tame.ite (Tame.ite (Tame.rfl' s) (Tame.on' _ s)) (State.mstDone_tame _ _ _ _ s))

theorem execMstChainReadback_tame (status : Byte) (_addr data : Word) (crcOk : Bool) (s : State) :
    ∃ t, execMstChainReadback status _addr data crcOk s = .next t ∧ Tame s t := by
  refine ⟨_, rfl, ?_⟩
  split
  · exact Tame.rfl' s
  · exact Tame.ite (State.mstDone_tame _ _ _ _ s) (Tame.rfl' s)

theorem execMasterCollision_tame (cmdDone : Bool) (status : Byte) (clocked : Bool) (s : State) :
    ∃ t, execMasterCollision cmdDone status clocked s = .next t ∧ Tame s t := by
  refine ⟨_, rfl, ?_⟩
  split
  · exact Tame.rfl' s
  · exact Tame.ite (Tame.on' _ s) ((State.mstAbort_tame _ _ _ _ s).trans' (Tame.on' _ _))

theorem execWatchdogGrantEnd_tame (s : State) : ∃ t, execWatchdogGrantEnd s = .next t ∧ Tame s t :=
  ⟨_, rfl, Tame.on' _ s⟩

theorem execMstGrant_tame (s : State) : ∃ t, execMstGrant s = .next t ∧ Tame s t :=
  ⟨_, rfl, Tame.on' _ s⟩

theorem execMstRevoke_tame (s : State) : ∃ t, execMstRevoke s = .next t ∧ Tame s t :=
  ⟨_, rfl, Tame.on' _ s⟩

theorem execMstClearHalt_tame (s : State) : ∃ t, execMstClearHalt s = .next t ∧ Tame s t :=
  ⟨_, rfl, Tame.on' _ s⟩

theorem execZcEdge_tame (s : State) : ∃ t, execZcEdge s = .next t ∧ Tame s t :=
  ⟨_, rfl, Tame.on' _ s⟩

theorem execZcAcquireTimeout_tame (s : State) : ∃ t, execZcAcquireTimeout s = .next t ∧ Tame s t :=
  ⟨_, rfl, Tame.on' _ s⟩

theorem execZcHoldover_tame (s : State) : ∃ t, execZcHoldover s = .next t ∧ Tame s t :=
  ⟨_, rfl, Tame.on' _ s⟩

theorem execZcUnlock_tame (s : State) : ∃ t, execZcUnlock s = .next t ∧ Tame s t :=
  ⟨_, rfl, Tame.ctl' _ s⟩

theorem execZcClrCnt_tame (s : State) : ∃ t, execZcClrCnt s = .next t ∧ Tame s t :=
  ⟨_, rfl, Tame.on' _ s⟩

theorem execFreezePoint_tame (s : State) : ∃ t, execFreezePoint s = .next t ∧ Tame s t :=
  ⟨_, rfl, Tame.ctl' _ s⟩

theorem execBeaconTransmit_tame (s : State) : ∃ t, execBeaconTransmit s = .next t ∧ Tame s t :=
  ⟨_, rfl, Tame.ctl' _ s⟩

theorem execPinnaTransmit_tame (s : State) : ∃ t, execPinnaTransmit s = .next t ∧ Tame s t := by
  refine ⟨_, rfl, ?_⟩
  split
  · split
    · next q _ =>
      have h := State.sramReads_tame 9 (256 * fld (q.infl.word 2) 0 6 + fld (q.infl.word 2) 8 8) s
      generalize s.sramReads (256 * fld (q.infl.word 2) 0 6 + fld (q.infl.word 2) 8 8) 9 = x at h ⊢
      refine Tame.trans' h ?_
      exact Tame.on' _ _
    · exact Tame.on' _ s
  · exact Tame.rfl' s

theorem execBeaconReceive_tame (f : BeaconRx) (s : State) (w : Instr.WellFormed (.beaconReceive f) = true) :
    ∃ t, execBeaconReceive f s = .next t ∧ Tame s t := by
  unfold execBeaconReceive guardWf
  rw [if_pos w]
  exact ⟨_, rfl, Tame.ctl' _ s⟩

theorem execPinnaReceive_tame (j : Fin 31) (bytes : Option (List Byte)) (erased : Nat) (s : State) (w : Instr.WellFormed (.pinnaReceive j bytes erased) = true) :
    ∃ t, execPinnaReceive j bytes erased s = .next t ∧ Tame s t := by
  unfold execPinnaReceive guardWf
  rw [if_pos w]
  exact ⟨_, rfl, Tame.ite ((Tame.on' _ s).trans' (State.takePinna_tame _ _ _)) (Tame.rfl' s)⟩

theorem execBeaconLost_tame (s : State) : ∃ t, execBeaconLost s = .next t ∧ Tame s t :=
  ⟨_, rfl, Tame.ctl' _ s⟩

theorem execStandbyTakeover_tame (s : State) : ∃ t, execStandbyTakeover s = .next t ∧ Tame s t :=
  ⟨_, rfl, Tame.ctl' _ s⟩

theorem execJoinListenEnd_tame (s : State) : ∃ t, execJoinListenEnd s = .next t ∧ Tame s t :=
  ⟨_, rfl, Tame.ctl' _ s⟩

theorem execJoinTimeout_tame (s : State) : ∃ t, execJoinTimeout s = .next t ∧ Tame s t :=
  ⟨_, rfl, Tame.ctl' _ s⟩

theorem execPublish_tame (s : State) : ∃ t, execPublish s = .next t ∧ Tame s t :=
  ⟨_, rfl, Tame.on' _ s⟩

theorem execLeave_tame (s : State) : ∃ t, execLeave s = .next t ∧ Tame s t :=
  ⟨_, rfl, Tame.ctl' _ s⟩

theorem execHandover_tame (s : State) : ∃ t, execHandover s = .next t ∧ Tame s t :=
  ⟨_, rfl, Tame.on' _ s⟩

theorem execSiteClrCnt_tame (s : State) : ∃ t, execSiteClrCnt s = .next t ∧ Tame s t :=
  ⟨_, rfl, Tame.on' _ s⟩

theorem execShedEvaluation_tame (restoring : Bool) (s : State) : ∃ t, execShedEvaluation restoring s = .next t ∧ Tame s t :=
  ⟨_, rfl, Tame.ctl' _ s⟩

theorem execBudgetFeedStale_tame (s : State) : ∃ t, execBudgetFeedStale s = .next t ∧ Tame s t :=
  ⟨_, rfl, Tame.ctl' _ s⟩

theorem execClrDrift_tame (s : State) : ∃ t, execClrDrift s = .next t ∧ Tame s t :=
  ⟨_, rfl, Tame.on' _ s⟩

theorem execJnlScan_tame (s : State) : ∃ t, execJnlScan s = .next t ∧ Tame s t := by
  refine ⟨_, rfl, ?_⟩
  split
  · exact Tame.rfl' s
  · exact Tame.on' _ s

theorem execEnergySnapshot_tame (s : State) : ∃ t, execEnergySnapshot s = .next t ∧ Tame s t :=
  ⟨_, rfl, Tame.on' _ s⟩

theorem execSnap_tame (s : State) : ∃ t, execSnap s = .next t ∧ Tame s t :=
  ⟨_, rfl, Tame.on' _ s⟩

theorem execJnlRelease_tame (s : State) : ∃ t, execJnlRelease s = .next t ∧ Tame s t :=
  ⟨_, rfl, Tame.on' _ s⟩

theorem execJnlClrCnt_tame (s : State) : ∃ t, execJnlClrCnt s = .next t ∧ Tame s t :=
  ⟨_, rfl, Tame.on' _ s⟩

theorem execUnlock_tame (s : State) : ∃ t, execUnlock s = .next t ∧ Tame s t :=
  ⟨_, rfl, Tame.on' _ s⟩

theorem execUnlockCompare_tame (s : State) : ∃ t, execUnlockCompare s = .next t ∧ Tame s t :=
  ⟨_, rfl, Tame.on' _ s⟩

theorem execLock_tame (s : State) : ∃ t, execLock s = .next t ∧ Tame s t :=
  ⟨_, rfl, Tame.on' _ s⟩

theorem execAttest_tame (s : State) : ∃ t, execAttest s = .next t ∧ Tame s t :=
  ⟨_, rfl, Tame.on' _ s⟩

theorem execAttestDone_tame (s : State) : ∃ t, execAttestDone s = .next t ∧ Tame s t :=
  ⟨_, rfl, Tame.on' _ s⟩

theorem execBackoffEnd_tame (s : State) : ∃ t, execBackoffEnd s = .next t ∧ Tame s t :=
  ⟨_, rfl, Tame.on' _ s⟩

theorem execRstnRelease_tame (s : State) : ∃ t, execRstnRelease s = .next t ∧ Tame s t :=
  ⟨_, rfl, Tame.ite (Tame.on' _ s) (Tame.rfl' s)⟩

theorem execSenseSequencerDone_tame (io3 : Bool) (s : State) : ∃ t, execSenseSequencerDone io3 s = .next t ∧ Tame s t :=
  ⟨_, rfl, Tame.ite (Tame.trans' (Tame.cleared s s.m) (Tame.ctl' _ _)) (Tame.rfl' s)⟩

theorem execLhRelease_tame (i : Fin 2) (s : State) : ∃ t, execLhRelease i s = .next t ∧ Tame s t :=
  ⟨_, rfl, Tame.ctl' _ s⟩

theorem execVbbUndervoltageRising_tame (s : State) : ∃ t, execVbbUndervoltageRising s = .next t ∧ Tame s t :=
  ⟨_, rfl, Tame.on' _ s⟩

theorem execTachSlow_tame (i : Fin 4) (s : State) : ∃ t, execTachSlow i s = .next t ∧ Tame s t :=
  ⟨_, rfl, Tame.ctl' _ s⟩

theorem execProgrammingWindowMet_tame (s : State) : ∃ t, execProgrammingWindowMet s = .next t ∧ Tame s t :=
  ⟨_, rfl, Tame.on' _ s⟩

end Sys2Proof.Machine
end

