-- ==== Sys2Proof/Tests/Slice0.lean ====
section
/-! SUPPORT. Tests: the refusal of ill-formed operands, small steps whose results stand in the manual, and for each
statement of Obligations.lean with hypotheses a theorem that shows states and operands that meet them, clause by clause. -/

set_option Elab.async false

open Sys2Proof Sys2Proof.Machine Claim

namespace Sys2Proof.Tests

/-- A KRP2448X in limp-home: latches driven, clocks and supplies present. -/
def up : Mach :=
  { Mach.por .krp2448x true with
    now := 9600000, time := 9600000
    dev := { Dev.reset .krp2448x with phase := .running, latched := true, seenState := 2 }
    clk := { Clk.reset with refOk := true, cpOk := true, refSafe := false, epwmSafe := false }
    pwr := { Pwr.reset true with vcpOk := true, vbb := 4800 }
    thm := { Thallus.reset with init := true } }

/-- The same, governed by the host. -/
def gov : Mach := { up with dev := { up.dev with governed := true, seenState := 3 } }

/-- A state around a machine, with nothing queued. -/
def mk (m : Mach) : State := { State.reset with m := m }

/-- A machine with active words. -/
def act (l : WMap) (m : Mach) : Mach := { m with active := l }

/-- Channel `n` in state `st`, its gate on or off. -/
def chIn (n : Nat) (st : ChSt) (gate : Bool) (m : Mach) : Mach :=
  m.modCh n fun c => { c with st := st, stage := { c.stage with gateOn := gate, vgsOk := gate } }

/-- The outcome is a next state with this property. -/
def nexts (o : Host.Outcome State Fault Refusal) (p : State → Bool) : Bool :=
  match o with
  | .next t => p t
  | _ => false

/-- The outcome is the refusal of ill-formed operands. -/
def refuses (o : Host.Outcome State Fault Refusal) : Bool :=
  match o with
  | .refused .illFormed => true
  | _ => false

/-! ## Ill-formed operands -/

theorem test_illFormed_refused :
    refuses (exec (.startupComplete [] none) State.reset) = true ∧
    refuses (exec (.protEstimateUpdate 0 [] [] []) State.reset) = true ∧
    refuses (exec (.converterSample ⟨[], [], [], 0⟩) State.reset) = true ∧
    refuses (exec (.powerFeedDelivery []) State.reset) = true ∧
    refuses (exec (.thallusUpdate 0 [] none) State.reset) = true ∧
    refuses (exec (.beaconReceive ⟨[], 0, 0, 0⟩) State.reset) = true ∧
    refuses (exec (.pinnaReceive 1 (some []) 0) State.reset) = true := by decide +kernel

/-! ## Witnesses: queue, time, resets, supplies -/

theorem witness_StepRunsFrontCommand : ({ mk up with pending := [.clrLog] } : State).pending = .clrLog :: [] := rfl

theorem witness_IdleStepCountsTime :
    ((mk up).pending = [] ∧ (mk up).m.dev.phase ≠ .powerOff ∧ (mk up).m.clk.refOk = true) ∧
    (State.reset.pending = [] ∧ State.reset.m.dev.phase ≠ .powerOff ∧ State.reset.m.clk.refOk = false ∧
      State.reset.m.clk.lfOk = true) := by decide +kernel

theorem witness_EveryWellFormedCommandCompletes :
    Instr.WellFormed (.powerFeedDelivery (List.replicate 24 (List.replicate 93 0))) = true ∧
      Instr.WellFormed (.powerFeedDelivery (List.replicate 23 (List.replicate 93 0))) = false := by decide +kernel

/-- The premises of SramFormKeptByEveryStep, StoreFormKeptByEveryStep and OtpCellsStayProgrammed: an idle step is a step, and
a refresh at the front is one that finds drift in the word the refresh stands at. -/
theorem witness_FormsKept :
    Memory.wf State.reset.sram ∧ State.reset.nv.wf ∧ nexts (step (mk up)) (fun t => t.m.now == up.now + 1) = true ∧
    (let s : State := { mk up with pending := [.otpRefresh 1 0 0] }
     s.pending = .otpRefresh 1 0 0 :: [] ∧ nexts (step s) (fun t => t.m.otp.refresh == 1) = true) := by
  decide +kernel

theorem witness_OnlyPulsesAndCopiesChangeTheStore :
    storeCommand .clrLog = false ∧ nexts (exec .clrLog (mk up)) (fun t => t.nv == (mk up).nv) = true := by decide +kernel

theorem witness_DeviceStateShowsTheMode :
    (mk up).m.dev.phase = .running ∧ (mk { up with dev := { up.dev with phase := .powerOff } }).m.devState = 0 ∧
      nexts (exec .porRelease (mk { up with dev := { up.dev with phase := .powerOff } })) (fun _ => true) = true := by decide +kernel

theorem witness_IdReturnsTheIdentity : (mk up).m.portOn = true ∧ (mk up).m.port.chain = false ∧ 3 < 4 := by decide +kernel

/-- A stage of chain mode. -/
def stage0 : ChainStage := ⟨0x2008, 1, 0, 48, false, false⟩

/-- A read of one word. -/
def readOne (a : Word) : ReadFrame := ⟨a, 1, false, false, [], none, none, stage0⟩

theorem witness_AbsentPagesAndTheSramWindow :
    ((mk up).m.portOn = true ∧ (mk up).m.port.chain = false ∧ (mk up).eccBad = []) ∧
    pagePresent Part.krp2448x (pageOf 0x1300) = false ∧ pagePresent Part.krp2448 (pageOf 0x0F00) = false ∧
    (0x80 ≤ (0x80 : Byte).toNat ∧ (0x80 : Byte).toNat ≤ 0xBF) ∧ (0x80 ≤ (0xBF : Byte).toNat ∧ (0xBF : Byte).toNat ≤ 0xBF) ∧
    (let f := readOne 0x1300
     f.cut = false ∧ f.late = none ∧ f.cmd = none ∧ f.part = false ∧ f.words ≠ 0 ∧
      pagePresent Part.krp2448x (pageOf f.addr.toNat) = false) := by
  decide +kernel

theorem witness_PowerOnResetLosesTheVolatileState :
    (mk { up with dev := { up.dev with phase := .powerOff } }).m.dev.phase = .powerOff := by decide +kernel

theorem witness_RstnResetsAndKeeps :
    ((mk up).m.pwr.vddOk = true ∧ (mk up).m.dev.phase ≠ .powerOff ∧ (mk up).m.dev.latched = true ∧ 23 < up.nch ∧
      up.throttleHold 23 = false ∧ up.stopHeld 23 = false ∧ (up.ch 23).flt.code ∉ [0x7, 0x8, 0xE]) ∧
      (mk { up with dev := { up.dev with phase := .inReset } }).m.dev.phase = .inReset := by decide +kernel

theorem witness_StartupEndsInLimpHome :
    State.reset.m.dev.phase = .sensing ∧
    (Instr.WellFormed (.startupComplete (List.replicate 6 (some 400)) (some 400)) = true ∧
      (mk { up with dev := { up.dev with phase := .sensed } }).m.dev.phase = .sensed ∧
      up.dev.governed = false ∧ up.dev.frz = false) := by decide +kernel

theorem witness_VddLossLeavesTheCoreInLimpHome :
    ((mk gov).m.pwr.vddOk = true ∧ (mk gov).m.dev.phase = .running ∧ (mk up).m.dev.governed = false) ∧
      ((mk { up with pwr := { up.pwr with vddOk := false } }).m.pwr.vddOk = false ∧ up.dev.phase ≠ .powerOff) := by
  decide +kernel

/-- REFCLK lost, channels in SAFE. -/
def noRef : Mach := { up with clk := { up.clk with refOk := false, refSafe := true } }

/-- LFOSC lost, channels in SAFE. -/
def noLf : Mach := { chIn 0 .safe false up with clk := { up.clk with lfOk := false, lfSafe := true } }

theorem witness_ClocksFailSafe :
    (gov.clk.refOk = true ∧ gov.dev.latched = true ∧ ((gov.modTb 0 fun t => { t with running := true }).tb 0).running = true) ∧
    (noRef.clk.refOk = false ∧ noRef.dev.phase ≠ .powerOff) ∧
    (up.clk.refOk = true ∧ up.dev.governed = false ∧ up.dev.phase = .running ∧ up.clk.lfSafe = false ∧
      (0 ∈ (chIn 0 .safe false up).leaders ∧ (chIn 0 .safe false up).st 0 = .safe ∧ up.pwr.vbbUv = false) ∧
      noLf.clk.refOk = true ∧ noLf.dev.governed = false ∧ noLf.clk.lfSafe = true ∧ noLf.st 1 ≠ .safe) ∧
    (up.clk.lfOk = true ∧ up.dev.phase ≠ .powerOff ∧ up.dev.latched = true) ∧
    (noLf.clk.lfOk = false ∧ noLf.dev.phase = .running ∧ noLf.clk.refSafe = false ∧ noLf.pwr.vbbUv = false ∧
      noLf.st 0 = .safe) := by decide +kernel

/-- VBB low: channel 0 waits for its return, channel 1 holds its safe state. -/
def lowVbb : Mach :=
  { ((chIn 0 .retryWait false up).modCh 0 fun c => { c with rty := { c.rty with cause := 0xA } }).modCh 1
      (fun c => { c with st := .safe, limp := { c.limp with uvHeld := true } }) with
    pwr := { up.pwr with vbbUv := true } }

theorem witness_SupplyThresholds :
    (up.pwr.vbbUv = false ∧ up.dev.phase ≠ .powerOff ∧ ((chIn 23 .on true up).st 23).running = true ∧
      (∀ k, k ∈ up.members 23 → uvFirst [] k) ∧ (nth (List.replicate 24 (1 : BitVec 16)) 23 0).getLsbD 0 = true ∧
      (up.st 23).running = false) ∧
    (let m := { lowVbb with pwr := { up.pwr with vbbUv := false } }
     m.pwr.vbbUv = false ∧ 0 ∈ m.leaders ∧ m.st 0 = .retryWait ∧ (m.ch 0).rty.cause = 0xA ∧
      1 ∈ m.leaders ∧ m.st 1 = .safe ∧ (m.ch 1).limp.uvHeld = true ∧ m.st 2 ≠ .retryWait ∧ m.st 2 ≠ .safe) ∧
    up.pwr.vbbOv = false ∧
    (up.pwr.vbbUv = false ∧ up.dev.phase ≠ .powerOff ∧ 5 ∈ up.leaders ∧ (chIn 5 .on false up).wantsOn 5 = true ∧
      (up.bank 1).analog = false) := by
  unfold uvFirst
  decide +kernel

/-! ## Witnesses: the power stage, protection and diagnosis -/

/-- Channel 23 conducts under a fast-trip threshold. -/
def on23 : Mach := act [(0x3711, 0x0020)] (chIn 23 .on true gov)

/-- Channel 23 under a retry policy of three retries, `k` of them taken. -/
def retry23 (k : Nat) (m : Mach) : Mach :=
  act [(0x3711, 0x0020), (0x3730, 0x0001), (0x3732, 0x0003)] (m.modCh 23 fun c => { c with rty := { c.rty with count := k } })

/-- Channel 23 in STARTUP, where faults are recorded late. -/
def late23 : Mach := { chIn 23 .safe false up with dev := { up.dev with phase := .sensed } }

theorem witness_TripsTurnTheGroupOff :
    (23 < on23.nch ∧ (on23.ch 23).stage.conducting = true ∧ (on23.ch 23).prot.tripped = false ∧
      (on23.itripEff 23).isSome = true ∧ (mk on23).m.recordsLate 23 = false) ∧
      (let m := act [(0x2011, 0)] up
       0 < m.nch ∧ m.itripEff 0 = none ∧ (m.ch 0).stage.conducting = false) ∧
      late23.recordsLate 23 = true ∧
      (let m := act [(0x3730, 0)] on23
       (m.st 23).running = true ∧ m.policy 23 = 0 ∧ (found 23 1 0 0 (mk m)).1 ≠ 0xA) ∧
      ((retry23 0 on23).st 23).running = true ∧ (retry23 0 on23).policy 23 ≠ 0 ∧ ¬ (retry23 0 on23).retriesOut 23 ∧
      ¬ exhausts 23 1 (mk (retry23 0 on23)) ∧ exhausts 23 1 (mk (retry23 3 on23)) ∧
      exhausts 23 0xB (mk (retry23 3 (chIn 23 .retryWait false up))) ∧
      ((chIn 23 .retryWait false up).st 23).running = false := by
  unfold exhausts Mach.retriesOut
  and_intros <;> decide +kernel

/-- Off-state diagnosis of channel 2 in a check window, one window above before. -/
def diag2 : Mach :=
  act [(0x2214, 0x0305)] (up.modCh 2 fun c => { c with prot := { c.prot with check := true, winRun := 1 } })

theorem witness_DiagnosesAreRecorded :
    (let m := act [(0x2214, 0x0005)] (chIn 2 .on true gov)
     2 < m.nch ∧ fld (m.lw 2 0x14) 0 5 ≠ 0 ∧ (m.st 2).steady = true ∧ (m.ch 2).prot.olOn = false) ∧
    (2 < diag2.nch ∧ diag2.offDiag 2 = true ∧ bit (diag2.lw 2 0x14) 9 = true ∧ (diag2.ch 2).prot.check = true ∧
      (diag2.ch 2).prot.winRun = 1 ∧ (diag2.ch 2).prot.svbb = false) ∧
    (let m := diag2.modCh 2 fun c => { c with prot := { c.prot with check := false, winLow := true } }
     m.offDiag 2 = true ∧ bit (m.lw 2 0x14) 8 = true ∧ (m.ch 2).prot.check = false ∧ (m.ch 2).prot.winLow = true ∧
      (m.ch 2).prot.olOff = false ∧ (m.ch 2).flt.code = 0) ∧
    (let m := (diag2.modCh 2 fun c => { c with prot := { c.prot with svbb := true } })
     (m.ch 2).prot.svbb = true ∧ (m.ch 2).flt.code = 0 ∧
      ((m.modCh 2 fun c => { c with flt := { c.flt with code := 5 } }).ch 2).flt.code ≠ 0) ∧
    ((diag2.modCh 2 fun c => { c with prot := { c.prot with winRun := 0 } }).ch 2).prot.winRun = 0 := by decide +kernel

/-- A machine whose latched customer words W40 to W55 hold `l` and else 0. -/
def custom (l : List (Nat × Nat)) (m : Mach) : Mach :=
  { m with otp := { m.otp with
    src := 0, words := (List.range 128).map fun i => BitVec.ofNat 64 (((l.find? (·.1 == i)).map (·.2)).getD 0) } }

/-- Channels 0 and 1 are one group. -/
def pairUp : Mach := custom [(52, 1)] up

theorem witness_FaultClearCommands :
    (let m := chIn 0 .latched false up
     0 < m.nch ∧ m.leader 0 = 0 ∧ m.st 0 = .latched ∧ m.startsClean 0) ∧
    (0 < up.nch ∧ up.st 0 ≠ .retryWait ∧ up.st 0 ≠ .latched) ∧ pairUp.leader 1 ≠ 1 := by
  unfold Mach.startsClean Mach.startState Mach.cutAtStart
  decide +kernel

theorem witness_FaultsTurnChannelsOff :
    (let m := on23.modCh 23 fun c => { c with prot := { c.prot with clReg := true } }
     23 < m.nch ∧ (m.ch 23).stage.conducting = true ∧ (m.ch 23).prot.tripped = false ∧ (m.ch 23).prot.clReg = true) ∧
    (let m := act [(0x2014, 0x0200)] (chIn 0 .pwm false gov)
     0 < m.nch ∧ (m.st 0).follows = true ∧ bit (m.lw 0 0x14) 9 = true ∧ (m.ch 0).stage.conducting = false) ∧
    (let m := act [(0x200B, 0x0040)] (chIn 0 .on true gov)
     (m.st 0).running = true ∧ bit (m.lw 0 0x0B) 6 = true) ∧
    ((on23.ch 23).stage.gateOn = true ∧ (up.ch 0).stage.gateOn = false) ∧
    (23 < on23.nch ∧ (on23.ch 23).stage.gateOn = true ∧ up.clk.cpOk = true) := by decide +kernel

theorem witness_StageEvents :
    (let m := on23.modCh 23 fun c => { c with stage := { c.stage with edge := some ⟨true, 15, false, false, 0⟩ } }
     23 < m.nch ∧ (m.ch 23).stage.edge = some ⟨true, 15, false, false, 0⟩ ∧ m.thm.edgesDue = false ∧
      m.thm.jnlHold = false) ∧
    ((up.ch 0).stage.gateOn = false) ∧
    ((up.modCh 0 fun c => { c with stage := { c.stage with clamp := true } }).ch 0).stage.clamp = true ∧
    (23 < on23.nch ∧ (on23.ch 23).stage.conducting = true ∧ (on23.ch 23).prot.clReg = false ∧ on23.st 23 ≠ .inrush) ∧
    bit (up.lw 0 0x0B) 6 = false := by decide +kernel
/-! ## Witnesses: inrush, retry, measurement -/

/-- Channel 0 in an inrush sequence of `profile` and `phase`. -/
def inr0 (profile : Nat) (phase : InrPhase) : Mach :=
  (chIn 0 .inrush true gov).modCh 0 fun c =>
    { c with inr := { c.inr with profile := profile, phase := phase, endw := 5, duty := 0x8040, t1 := 10, chopJ := 1 } }

theorem witness_InrushSequences :
    (∀ p ∈ [1, 2], (inr0 p .a).leader 0 = 0 ∧ (inr0 p .a).st 0 = .inrush ∧ ((inr0 p .a).ch 0).inr.phase = .a) ∧
    ((inr0 1 .b).st 0 = .inrush ∧ ((inr0 1 .b).ch 0).inr.phase = .b) ∧
    ((inr0 3 .a).st 0 = .inrush ∧ ((inr0 3 .a).ch 0).inr.phase = .a ∧ ((inr0 3 .a).ch 0).inr.profile ≠ 1) ∧
    (fld ((inr0 2 .b).ch 0).inr.endw 0 8 ≠ 0 ∧ groupEstimate (inr0 2 .b) 0 < fld ((inr0 2 .b).ch 0).inr.endw 0 8 ∧
      (let m := (inr0 5 .a).modCh 0 fun c => { c with prot := { c.prot with est := 5 } }
       fld (m.ch 0).inr.endw 0 8 = 5 ∧ 5 ≤ groupEstimate m 0) ∧
      10 ≤ 10 * max 1 (fld ((inr0 3 .a).ch 0).inr.endw 8 8)) ∧
    ((inr0 1 .a).ch 0).inr.dutyCode 2 = some 0x40 ∧ (0x40 : Nat) ≠ 256 ∧
    (let m := (inr0 4 .queued).modCh 0 fun c => { c with inr := { c.inr with cfg := 0x40 } }
     m.heaterInA = false ∧ m.oldestQueued = some 0) := by decide +kernel

/-- Channel 0 waits for its retry. -/
def wait0 : Mach := (chIn 0 .retryWait false gov).modCh 0 fun c => { c with rty := { c.rty with cause := 1, count := 1 } }

theorem witness_Retries :
    (0 < wait0.nch ∧ wait0.leader 0 = 0 ∧ wait0.st 0 = .retryWait ∧ (wait0.ch 0).rty.cause ≠ 0xA ∧
      wait0.gateOpen 0 = true ∧ wait0.held? 0 = false ∧ wait0.pwr.vbbUv = false) ∧
    (let m := wait0.modCh 0 fun c => { c with limp := { c.limp with siteHold := true } }
     m.st 0 = .retryWait ∧ m.held? 0 = true) ∧
    (let m := (wait0.modSensor 6 fun x => { x with fail := true }).modCh 0 fun c => { c with rty := { c.rty with gated := true } }
     m.st 0 = .retryWait ∧ m.gateOpen 0 = false) ∧
    (let m := (chIn 0 .on true gov).modCh 0 fun c => { c with rty := { c.rty with goodRun := true, cause := 1 } }
     m.leader 0 = 0 ∧ (m.st 0).steady = true ∧ (m.ch 0).rty.goodRun = true) ∧
    (let m := act [(0x2030, 4)] (gov.modCh 0 fun c => { c with rty := { c.rty with tokens := 3, refill := true } })
     m.policy 0 = 4 ∧ (m.ch 0).rty.refill = true ∧ m.bktRate 0 ≠ 0 ∧ (m.ch 0).rty.tokens < m.bktCap 0) ∧
    pairUp.leader 1 ≠ 1 := by decide +kernel

/-- One sample: the limits of the current range, and no output voltages. -/
def sample : Sample := ⟨[32000, -32000] ++ List.replicate 22 0, List.replicate 24 100, [], 4800⟩

theorem witness_ConverterSamplesAreRecorded :
    (Instr.converterSample sample).WellFormed = true ∧ up.clk.refOk = true ∧ noRef.clk.refOk = false ∧ 23 < up.nch := by
  decide +kernel

theorem witness_PowerFeedTakesOneEntryPerChannel :
    (Instr.powerFeedDelivery (List.replicate 24 (List.replicate 94 1000))).WellFormed = true ∧ up.clk.refOk = true ∧
      noRef.clk.refOk = false ∧ edgesKnown (up.ch 0) := by
  unfold edgesKnown
  decide +kernel

theorem witness_SignatureCapturesAreJudged :
    let c : Capture := ⟨0, 256, 0, 0, 0, [1, 2], false⟩
    (gov.ch 0).sig.cap = none ∧
    let m := gov.modCh 23 fun k => { k with sig := { k.sig with cap := some c } }
    23 < m.nch ∧ (m.ch 23).sig.cap = some c ∧ 256 ≤ c.k ∧ bit (m.lw 23 0x43) 4 = false ∧
      bit ((act [(0x3743, 0x10)] m).lw 23 0x43) 4 = true := by decide +kernel

theorem witness_ProtectionEstimatesUpdate :
    (∀ dt ∈ [30400, 33600],
      (Instr.protEstimateUpdate dt (List.replicate 24 1023) (List.replicate 24 0) (List.replicate 24 0)).WellFormed = true) ∧
    up.clk.lfOk = true ∧ noLf.clk.lfOk = false ∧
    (let m := act [(0x3712, 100)] (on23.modCh 23 fun c => { c with prot := { c.prot with i2tX := 20000 } })
     m.detects 23 = true ∧ m.recordsLate 23 = false ∧ 0x1000 ≤ m.i2tLevel 23 ∧ fld (m.lw 23 0x12) 0 9 ≠ 0) ∧
    (let m := on23.modCh 23 fun c => { c with prot := { c.prot with clReg := true, epEnergy := 3001 } }
     m.detects 23 = true ∧ (m.ch 23).prot.clReg = true ∧ 3000 < (m.ch 23).prot.epEnergy) := by decide +kernel

/-! ## Witnesses: PWM, trips, tach -/

/-- Timebase 0 counts, with what `f` changes. -/
def tb0 (f : Timebase → Timebase) : Mach := gov.modTb 0 fun t => f { t with running := true }

theorem witness_TimebasesRun :
    (let m := gov.modTb 0 fun t => { t with startReq := true }
     m.clk.refOk = true ∧ (m.tb 0).halt = none ∧ (m.tb 0).startReq = true ∧ 31 ∈ m.unitsOn 0) ∧
    (let m := tb0 id
     (m.tb 0).halt = none ∧ (m.tb 0).startReq = false ∧ (m.tb 0).running = true ∧ (m.tb 0).stopping = false) ∧
    (let m := (tb0 id).modOut 0 fun u => { u with pend := some (.never, .never), pendNow := true }
     0 ∈ m.unitsOn 0 ∧ (m.out 0).held = false ∧ (m.out 0).pendNow = true ∧ (m.out 0).pend = some (.never, .never)) ∧
    (let m := tb0 fun t => { t with stopping := true }
     (m.tb 0).halt = none ∧ (m.tb 0).startReq = false ∧ (m.tb 0).running = true ∧ (m.tb 0).stopping = true ∧
      (m.tb 0).stopNext = false) ∧
    (let m := act [(0x0610, 1)] ((tb0 fun t => { t with halt := some 7 }).modTb 7 fun t => { t with halt := some 0 })
     let m := { m with dl := { m.dl with valid := true } }
     m.clk.refOk = true ∧ m.dl.valid = true ∧ m.tbRun 0 = true ∧ (m.tb 0).halt.isSome = true ∧ m.tbRun 7 = false ∧
      (m.tb 7).halt.isSome = true) := by decide +kernel

theorem witness_CompareUnitsWithinAPeriod :
    (let m := act [(0x2050, 0x0010)] ((tb0 id).modOut 0 fun u =>
        { u with pend := some (.never, .never), pendNow := true })
     m.clk.refOk = true ∧ (m.tb 0).counting = true ∧ 0 ∈ m.unitsOn 0 ∧ (m.out 0).held = false ∧ (m.tbSel 0).2 = 1 ∧
      (m.out 0).pendNow = true ∧ (m.out 0).pend = some (.never, .never) ∧ (m.tbSel 1).2 ≠ 1) ∧
    (let m := act [(0x0613, 0x0200)] (tb0 id)
     bit (m.cfg (tbBase 0 + 3)) 9 = true ∧ (m.tb 0).pcnt.toNat % (fld (m.cfg (tbBase 0 + 3)) 0 8 + 1) = 0) ∧
    (let m := act [(0x2053, 1)] (chIn 0 .pwm true (tb0 fun t => { t with zeroAt := 9600000 }))
     let m := m.modOut 0 fun u => { u with drive := true }
     (m.tb (m.tbSel 0).1).counting = true ∧ 0 ∈ m.units ∧ m.followsPwm 0 = true ∧ (m.out 0).cut = false ∧
      m.inverts 0 = false ∧ (m.pair 0).eff = false ∧ m.unitLevel 0 ≠ (m.out 0).drive ∧ m.pwr.vcpOk = true ∧
      (m.bank 0).analog = false) := by decide +kernel

theorem witness_TimebaseServices :
    (up.clk.refOk = true ∧ up.dl.busy = false ∧ up.dl.valid = false) ∧
    (let m := act [(0x0615, 0xFFFF)] (tb0 fun t => { t with ulk := true, ulkZeros := 0xFFFE })
     (m.tb 0).ulk = true ∧ (m.tb 0).counting = true ∧ (m.cfg (tbBase 0 + 5)).toNat ≠ 0 ∧
      (m.cfg (tbBase 0 + 5)).toNat ≤ (m.tb 0).ulkZeros + 1) ∧
    (let m := up.modPair 15 fun p => { p with aswp := true }
     2 * 15 ∈ m.allOuts ∧ (m.pair 15).aswp = true) ∧
    (up.clk.refOk = true ∧ up.dev.frz = false ∧ (up.tb (up.tbSel 0).1).counting = false) := by decide +kernel

/-- TRIP input 3 enabled and mapped to channel 0, which follows its unit. -/
def trip3 : Mach := act [(0x080B, 0x0100), (0x0810, 0x0008)] (chIn 0 .pwm true gov)

theorem witness_CutSourcesHoldOutputsOff :
    (trip3.pwr.vddOk = true ∧ trip3.clk.refOk = true ∧ bit (trip3.cfg (adr 0x08 (0x08 + 3))) 8 = true ∧
      trip3.trips[3].asserted = false ∧ 0 ∈ trip3.units ∧ (trip3.out 0).blank = false ∧ trip3.cuttable 0 = true ∧
      ({ trip3 with trips := trip3.trips.set 3 ⟨true, true, true⟩ } : Mach).tripOn 0 = true) ∧
    (let m := act [(0x0823, 0xFF00)] (chIn 23 .pwm true gov)
     23 < m.nch ∧ fld (m.cfg (adr 0x08 (0x18 + 23 / 2))) (8 * (23 % 2)) 8 ≠ 0 ∧ (m.out (m.leader 23)).blank = false ∧
      m.cuttable 23 = true) ∧
    (let m := (chIn 0 .pwm true gov).modCh 0 fun c => { c with prot := { c.prot with clim := true } }
     0 ∈ m.allOuts ∧ m.climOn 0 = true ∧ m.cuttable 0 = true ∧ 31 ∈ m.allOuts ∧ m.tripOn 31 = false ∧
      m.climOn 31 = false) := by decide +kernel

/-- TACH input 3 enabled on the even output of pair 0, which is on. -/
def tach3 (swap : Bool) (t : Tach) : Mach :=
  act [(0x0928, if swap then 0x0101 else 0x0001), (0x2008, 1)]
    { chIn 0 .on true gov with tachs := gov.tachs.set 3 t }

theorem witness_TachInputs :
    (let m := tach3 false { Tach.reset with last := some 9000000 }
     m.dev.part.isX = true ∧ m.clk.refOk = true ∧ m.pwr.vddOk = true ∧ bit (m.tachWord 3 0) 0 = true ∧
      fld (m.tachWord 3 0) 1 2 = 0 ∧ (m.tach 3).last = some 9000000) ∧
    (tach3 false .reset).tachReady 3 = true ∧
    (let m := tach3 false { Tach.reset with armed := true }
     m.tachReady 3 = true ∧ (m.tach 3).armed = true ∧ (m.tach 3).loss = false ∧ m.tachActs 3 = false) ∧
    (let m := tach3 true { Tach.reset with armed := true }
     m.tachReady 3 = true ∧ (m.tach 3).armed = true ∧ (m.tach 3).loss = false ∧ m.tachActs 3 = true ∧
      (m.pair (m.tachPair 3)).aswp = false) := by decide +kernel

/-! ## Witnesses: the thermal model -/

/-- Bank 5 stands at its step `k`. -/
def step5 (k : Nat) : Mach := gov.modBank 5 fun b => { b with ownStep := k }

/-- Every node at `t` degrees. -/
def heated (t : Rat) : Mach := { act [(0x2070, 1)] gov with thm := { gov.thm with temps := .replicate 31 t } }

theorem witness_ThrottleStepsMove :
    (5 < (step5 1).dev.part.banks ∧ ((step5 1).bank 5).ownStep ≠ 0 ∧ (step5 1).releaseCond 5 = true) ∧
    (let m := { gov with thm := { gov.thm with devStep := 2, sums := [20000] } }
     m.thm.devStep < 3 ∧ m.pMax < m.pMean) ∧
    (let m := { gov with thm := { gov.thm with devStep := 3, sums := [0] } }
     m.thm.devStep ≠ 0 ∧ m.pMean ≤ 9 / 10 * m.pMax) ∧
    (let m := gov.modCh 0 fun c => { c with thm := { c.thm with ownHold := true } }
     (m.ch 0).thm.ownHold = true ∧ m.nodeTemp 0 ≤ ((m.tjOff 0 : Nat) : Rat) - (m.hyst : Nat)) ∧
    (let m := (chIn 0 .shed false gov).modCh 0 fun c => { c with limp := { c.limp with thrSeen := true } }
     0 ∈ m.leaders ∧ m.st 0 = .shed ∧ (m.ch 0).limp.thrSeen = true ∧ m.held? 0 = false ∧ m.pwr.vbbUv = false) ∧
    (let m := (chIn 0 .on true gov).modBank 0 fun b => { b with ownStep := 3 }
     let m := act [(0x2070, 1)] m
     0 ∈ m.leaders ∧ (m.st 0).running = true ∧ (m.ch 0).limp.thrSeen = false ∧ m.throttleHold 0 = true) := by decide +kernel

theorem witness_ThallusUpdatesActOnTheModel :
    (∀ dt ∈ [118750, 125000, 131250],
      (Instr.thallusUpdate dt (List.replicate 6 (some 400)) (some 400)).WellFormed = true) ∧
    gov.dev.phase = .running ∧ gov.thm.init = true ∧ gov.clk.refOk = true ∧ (noRef.clk.refOk = false ∧ noRef.clk.lfOk = true) ∧
    ((heated 170).reached170 = true ∧ ((heated 170).tjOff 0 : Rat) ≤ (heated 170).nodeTemp 0 ∧ (heated 170).cls 0 ≠ 0) := by
  decide +kernel

/-- Sensor `x` with a reading in 1/16 °C, over a model at 0 °C. -/
def reads (x : Nat) (r : Int) (f : Sensor → Sensor) : Mach :=
  gov.modSensor x fun q => f { q with reading := r, got := true }

theorem witness_SensorsAndThermalCommands :
    (let m := reads 6 241 id
     m.hasSensor 6 = true ∧ (m.sensor 6).got = true ∧ (m.sensor 6).diverge = false ∧ 15 < m.disagree 6) ∧
    (let m := reads 0 128 fun q => { q with diverge := true }
     m.hasSensor 0 = true ∧ (m.sensor 0).diverge = true ∧ m.disagree 0 ≤ 8) ∧
    (let m := reads 5 128 fun q => { q with fail := true }
     m.hasSensor 5 = true ∧ (m.sensor 5).fail = true ∧ (m.sensor 5).inRange 5 = true ∧ m.disagree 5 ≤ 8) ∧
    (let m := reads 5 400 id
     5 < m.dev.part.banks ∧ (m.sensor 5).got = true ∧ (m.sensor 5).fail = false) ∧
    ((reads 6 400 id).sensor 6).got = true ∧ ((reads 6 400 id).sensor 6).fail = false := by decide +kernel

theorem witness_ThermalStop :
    (let m := chIn 0 .on true gov
     5 < m.dev.part.banks ∧ (m.sensor 5).bad = false ∧ (m.bank 5).analog = false ∧ m.dev.phase ≠ .powerOff ∧
      m.thm.stop = false ∧ 0 ∈ m.leaders ∧ (m.st 0).running = true) ∧
    ((gov.modBank 5 fun b => { b with analog := true }).bank 5).analog = true ∧
    (∀ c ∈ [3, 0], let m := { chIn 0 .on true (act [(0x2070, BitVec.ofNat 16 c)] gov) with
        thm := { gov.thm with orderly := true, nextCls := c } }
     m.thm.orderly = true ∧ m.thm.nextCls ≤ 3 ∧ m.thm.log.cls.length = 4 ∧ 0 ∈ m.leaders ∧
      m.cls 0 = m.thm.nextCls ∧ (m.st 0).running = true) ∧
    (let m := { chIn 0 .shed false gov with thm := { gov.thm with stop := true } }
     m.thm.stop = true ∧ m.exitCond = true ∧ 0 ∈ m.leaders ∧ m.st 0 = .shed ∧ m.pwr.vbbUv = false) := by decide +kernel

/-! ## Witnesses: limp-home, watchdog, freeze -/

/-- Channel 0 follows its limp generator. -/
def limp0 : Mach := custom [(40, 0x0000004A)] (chIn 0 .pwm true up)

theorem witness_LimpPeriodsSwitch :
    0 < limp0.nch ∧ limp0.leader 0 = 0 ∧ limp0.limpGoverns 0 = true ∧ (limp0.st 0).follows = true ∧
      limp0.clk.lfOk = true ∧ limp0.tripOn 0 = false ∧ limp0.climOn 0 = false ∧
      limp0.limpOnTime 0 ≠ 0 ∧ limp0.limpOnTime 0 ≠ limp0.limpPeriod 0 ∧ gov.limpGoverns 0 = false := by decide +kernel

/-- An owner key digest is programmed and not unlocked. -/
def locked : Mach := { gov with otp := { gov.otp with kdValid := true } }

theorem witness_FreezeAndRelease :
    (gov.keyLocked 0x12 = false ∧ gov.dev.phase = .running ∧ gov.dev.frz = false) ∧
    (let m := { gov with dev := { gov.dev with frz := true } }
     m.keyLocked 0x12 = false ∧ m.dev.frz = true ∧ fld ((act [(0x1209, 1)] m).cfg 0x1209) 0 8 ≠ 0) ∧
    locked.keyLocked 0x12 = true := by decide +kernel

theorem witness_LimpHomeTriggers :
    (∀ i : Fin 2, gov.pwr.vddOk = true ∧ gov.dev.phase = .running ∧ gov.lhEnabled i = true ∧
      gov.limp.lhAssert[i] = false) ∧
    (∀ i : Fin 2, (custom [] gov).lhEnabled i = false) ∧
    (let m := { gov with limp := { gov.limp with wdgRun := true, wdgAt := gov.lf } }
     m.limp.wdgRun = true ∧ m.dev.phase = .running ∧
      bit ((act [(0x1109, 0x1000)] m).cfg 0x1109) 12 = true ∧ m.dev.part.isX = true ∧
      m.kickValid 0x5AC3 = true ∧ m.kickValid 0xA53C = false ∧ bit ((act [(0x0B08, 0)] m).cfg 0x0B08) 1 = false ∧
      bit ((act [(0x0B08, 2)] m).cfg 0x0B08) 1 = true ∧ (act [(0x0B08, 2)] m).kickValid 0 = false) := by decide +kernel
/-! ## Witnesses: commits, writes, clears -/

/-- A governed machine whose commit mask names page 0x20 + `n`, with one word of that page staged. -/
def staged (n : Nat) : Mach :=
  { act [(0x0508 + (32 + n) / 16, BitVec.ofNat 16 (2 ^ ((32 + n) % 16)))] gov with
    staged := [(adr (chPage n) 0x08, 1)] }

theorem witness_CommitRequestsAreChecked :
    (∀ n ∈ [0, 23], (staged n).dev.phase = .running ∧ pagesGood (staged n) ∧ requestAllowed (staged n) ∧
      (seqAdvanced (staged n)).checkResult
        ((seqAdvanced (staged n)).overlay ((staged n).stagedOf (maskPages (staged n).maskReg)))
        ((staged n).stagedOf (maskPages (staged n).maskReg)) (maskPages (staged n).maskReg) = none) ∧
    maskPages gov.maskReg = [] ∧
    (let m := act [(0x0508, 1)] gov
     (maskPages m.maskReg).find? (fun p => !(maskPage p && headerPage m.dev.part p)) = some 0) ∧
    (let m := { staged 0 with cmt := { gov.cmt with takeArmed := true }
                              limp := { gov.limp with lhAssert := gov.limp.lhAssert.set 1 true } }
     pagesGood m ∧ m.cmt.pend = none ∧ m.devState ≠ 4 ∧ m.devState ≠ 5 ∧ m.clk.refOk = true ∧ m.cmt.takeArmed = true ∧
      m.takeBlock = true) ∧
    (let m := { staged 0 with thm := { gov.thm with stop := true } }
     pagesGood m ∧ m.cmt.pend = none ∧ m.devState = 4) ∧
    (let m := { staged 0 with cmt := { gov.cmt with pend := some ⟨0, 0, 0, 0, 1, [], [], 0, false, none⟩ } }
     pagesGood m ∧ m.cmt.pend.isSome = true) := by
  unfold pagesGood requestAllowed
  decide +kernel

theorem witness_CommitRequestsAreChecked_points :
    (let m := act ((0x050C, 1) :: (staged 0).active) (staged 0)
     stateAllows m ∧ atReload (m.cfg 0x050C) = true ∧ (m.tb (refTbOf (m.cfg 0x050C))).counting = false) ∧
    (let m := { act ((0x0508, 0) :: (staged 0).active) (staged 0) with time := 5 }
     let at_ (n : Nat) : Mach := act [(0x0509, 0), (0x050A, 1), (0x050C, 3), (0x050D, BitVec.ofNat 16 n),
       (0x050E, BitVec.ofNat 16 (n / 65536)), (0x050F, BitVec.ofNat 16 (n / 4294967296))] m
     stateAllows (at_ 5) ∧ applyOf ((at_ 5).cfg 0x050C) = 3 ∧ ((at_ 5).tickReg - (at_ 5).time).toNat = 0 ∧
      2 ^ 47 ≤ ((at_ 4).tickReg - (at_ 4).time).toNat ∧
      (2 ^ 31 < ((at_ 2147483654).tickReg - (at_ 2147483654).time).toNat ∧
        ((at_ 2147483654).tickReg - (at_ 2147483654).time).toNat < 2 ^ 47)) := by
  unfold stateAllows pagesGood
  and_intros <;> decide +kernel

/-- A captured commit of page 0x20, held or not, at the point `ctl`. -/
def captured (ctl : Word) (held : Bool) : Pending :=
  ⟨0x100000000, ctl, 9600001, 7, 1, [(0x2008, 1)], [], 0, held, none⟩

theorem witness_CommitsApplyWhole :
    (let m := { chIn 0 .off false gov with cmt := { gov.cmt with pend := some (captured 0 false) } }
     m.cmt.pend = some (captured 0 false) ∧ (captured 0 false).held = false ∧ m.applyDue (captured 0 false) = true ∧
      0 < m.nch ∧ (maskPages (captured 0 false).mask).contains (chPage 0) = true ∧
      ((m.modCh 0 fun c => { c with flt := { c.flt with code := 0xF } }).ch 0).flt.code = 0xF) ∧
    (captured 0 true).held = true ∧
    (gov.applyDue (captured 3 false) = false ∧ ({ gov with time := 9600001 } : Mach).applyDue (captured 3 false) = true ∧
      ({ gov with time := 9600003 } : Mach).applyDue (captured 3 false) = true ∧
      ({ gov with time := 9600004 } : Mach).applyDue (captured 3 false) = false) ∧
    gov.applyDue (captured 1 false) = false := by decide +kernel

theorem witness_CommitCommands :
    ({ gov with cmt := { gov.cmt with pend := some (captured 0 false) } } : Mach).cmt.pend = some (captured 0 false) ∧
    gov.cmt.pend = none ∧ (up.dev.phase = .running ∧ up.dev.governed = false) ∧ gov.dev.governed = true := by
  decide +kernel

theorem witness_ClearsAreExact :
    up.cmt.pend = none ∧ applyOf (captured 3 false).ctl = 3 ∧ up.dev.part.isX = true ∧
      ({ up with dev := Dev.reset .krp2448 } : Mach).dev.part.isX = false := by decide +kernel

/-- The row of a word address in the register map. -/
def row (a : BitVec 16) : Reg := (regAt (pageOf a.toNat) (offOf a.toNat)).getD ⟨.ro, 0, 0⟩

/-- A configuration sealed against RL writes. -/
def sealed : Mach := { gov with otp := { gov.otp with rlSeal := true } }

theorem witness_DirectWrites_access :
    (writable (mk gov) 0x2008 (row 0x2008) ∧ (row 0x2008).acc = .rs) ∧
    (writable (mk gov) 0x3708 (row 0x3708) ∧ (row 0x3708).acc = .rs) ∧
    (writable (mk gov) 0x2000 (row 0x2000) ∧ (row 0x2000).acc = .ro) ∧
    (writable (mk gov) 0x0C0D (row 0x0C0D) ∧ (row 0x0C0D).acc = .rw) ∧
    (writable (mk gov) 0x0C0C (row 0x0C0C) ∧ (row 0x0C0C).acc = .rl ∧ gov.otp.rlSeal = false) ∧
    (writable (mk sealed) 0x0C0C (row 0x0C0C) ∧ (row 0x0C0C).acc = .rl ∧ sealed.otp.rlSeal = true) := by
  unfold writable
  and_intros <;> decide +kernel

theorem witness_DirectWrites_claimed :
    ({ gov with rings := { gov.rings with en := 1 } } : Mach).ringClaims 0 = true ∧ gov.dev.part.isX = true ∧ bit (0xFFFE : Word) 0 = false := by decide +kernel

theorem witness_DirectWrites_plainRw :
    plainRw 0x0C0D ∧ ¬ plainRw 0x0408 ∧ ¬ plainRw 0x0410 ∧ ¬ plainRw 0x0417 ∧ ¬ plainRw 0x1204 ∧ ¬ plainRw 0x0013 := by
  unfold plainRw
  and_intros <;> decide +kernel

theorem witness_DirectWrites_elsewhere :
    (gov.pastEnd 0x13 0 = true ∧ gov.pastEnd 0x20 0x80 = true) ∧
    (locked.keyLocked 0x12 = true ∧ (0x3F : Byte).toNat ≤ 0x3F ∧ (0x3F : Byte) ≠ 3) ∧
    (0x80 ≤ (0x80 : Byte).toNat ∧ (0xBF : Byte).toNat ≤ 0xBF) ∧
    (headerPage Part.krp2448x (0x37 : Byte).toNat = true ∧ gov.keyLocked 0x37 = false ∧ 23 < gov.nch) := by decide +kernel

theorem witness_DirectWrites_multiword :
    heldGroup 0x0013 = some (0x0013, 0x0015) ∧ (0x0013 : Nat) < 0x0015 ∧
      heldGroup 0x0014 = some (0x0013, 0x0015) ∧ (0x0014 : Nat) < 0x0015 ∧ heldGroup 0x0015 = some (0x0013, 0x0015) ∧
      heldGroup 0x050F = some (0x050D, 0x050F) ∧ heldGroup 0x0012 = none ∧ heldGroup 0x0016 = none := by decide +kernel

/-! ## Witnesses: frames and chain -/

/-- The port in chain mode, enumerated as stage 15 of 16. -/
def chained : Mach := { gov with port := { gov.port with chain := true, enum := true, pos := 15, len := 16 } }

/-- A transaction of the own master is active. -/
def mstBusy : Mach := { gov with mst := { gov.mst with active := some ⟨5, 0, [0x0570]⟩ } }

theorem witness_FramesMoveWords_reads :
    (portSilent State.reset ∧ portSilent (mk { gov with pwr := { gov.pwr with vddOk := false } }) ∧ portSilent (mk mstBusy)) ∧
    ({ gov with port := { gov.port with ignore := true } } : Mach).port.ignore = true ∧
    (gov.portOn = true ∧ ({ readOne 0x2000 with cut := true } : ReadFrame).cut = true ∧
      (Instr.read { readOne 0x2000 with cmd := some 0x77 }).WellFormed = true) ∧
    (chained.portOn = true ∧ chained.port.chain = true) ∧ gov.port.chain = false ∧
    ((Instr.read (readOne 0x20FF)).WellFormed = true ∧ (readOne 0x20FF).cmd = none ∧ (readOne 0x20FF).cut = false) ∧
    ((readOne 0x2000).words = 1 ∧ (readOne 0x2000).part = false ∧ (readOne 0x2000).late = none ∧ gov.pastEnd (pageOf 0x2000) (offOf 0x2000) = false ∧ (0x2000 : Word) ≠ 0x110A ∧
      sramPage (pageOf 0x2000) = false ∧ snapGroup (pageOf 0x2000) (offOf 0x2000) = none) := by
  unfold portSilent
  and_intros <;> decide +kernel

theorem witness_FramesMoveWords_writes :
    (gov.portOn = true ∧ chained.port.chain = true ∧ gov.port.chain = false ∧ (64 : Nat) < 65) ∧
    (gov.crcOn = true → (writeCrc 0x02 0x2008 [1] + 1 : Byte) ≠ writeCrc 0x02 0x2008 [1]) ∧
    ((List.replicate 64 (0 : Word)) ≠ [] ∧ (List.replicate 64 (0 : Word)).length ≤ 64 ∧ [(1 : Word)].length ≤ 64) := by
  and_intros <;> decide +kernel

theorem witness_ShortFramesAct :
    (gov.portOn = true ∧ gov.port.chain = false ∧ (act [(0x0308, 0x80)] gov).crcOn = true ∧ gov.port.rstArmed = false ∧ chained.port.chain = true) ∧
    (let f : ShortFrame := ⟨8, 0x55, stage0⟩
     shortFramed (mk (act [(0x0308, 0x80)] gov)) f ∧ f.bits ≠ 24 ∧ f.crc ≠ crc8 [0x66] ∧ f.crc ≠ crc8 [0x99] ∧ f.crc ≠ crc8 (0x0D :: wordSent 0)) ∧
    shortFramed (mk chained) ⟨0, 0, { stage0 with bits := 768 }⟩ ∧
    (let m := { gov with port := { gov.port with rstArmed := true } }
     m.portOn = true ∧ m.port.rstArmed = true ∧ m.dev.latched = true) ∧
    (portSilent State.reset ∧ ({ gov with port := { gov.port with ignore := true } } : Mach).port.ignore = true) := by
  unfold shortFramed stageFramed portSilent
  and_intros <;> decide +kernel

theorem witness_ChainStagesAct :
    (chained.portOn = true ∧ chained.port.chain = true ∧ 0 < chained.port.len) ∧
    (writable (mk chained) 0x2008 (row 0x2008) ∧ (row 0x2008).acc = .rs) ∧
    (gov.pastEnd (pageOf 0x2080) (offOf 0x2080) = true ∧ gov.pastEnd (pageOf 0x2000) (offOf 0x2000) = false ∧
      pageOf 0x2000 ≠ 3) ∧
    (1 ≤ fld (0x0100 : Word) 8 8 ∧ fld (0x0100 : Word) 0 8 < fld (0x0100 : Word) 8 8) ∧
    (fld (0x100F : Word) 8 8 ≤ 16 ∧ fld (0x100F : Word) 0 8 < fld (0x100F : Word) 8 8) ∧
    (fld (0x0000 : Word) 8 8 = 0 ∧ 16 < fld (0x1100 : Word) 8 8 ∧ fld (0x0101 : Word) 8 8 ≤ fld (0x0101 : Word) 0 8) ∧
    (let x : ChainStage := ⟨0, 0, 0x55, 768, false, false⟩
     stageFramed (mk chained) x ∧ ¬ stageFramed (mk chained) stage0 ∧ x.crc ≠ crc8 (0x00 :: wordSent x.addr ++ wordSent x.data) ∧
      x.crc ≠ crc8 (0x01 :: wordSent x.addr ++ wordSent x.data)) := by
  unfold writable stageFramed
  and_intros <;> decide +kernel

/-! ## Witnesses: rings and commands -/

/-- Rings SQ0, CQ and EQ enabled, SQ0 with head `h` and tail `t`, CQ and EQ with two entries each. -/
def ringsUp (h t : Nat) : Mach :=
  act [(0x0410, 0x0000), (0x0416, 0x0020), (0x0417, 0x0040)] { gov with rings := { gov.rings with
    en := 0xC1, head := gov.rings.head.set 0 h, tail := ((gov.rings.tail.set 0 t).set 6 2).set 7 2 } }

/-- SQ0 holds five descriptors. -/
def rings5 : Mach := ringsUp 0 5

theorem witness_RingsMoveTheirIndices_doorbells :
    (rings5.ringOn (fld 0x0500 0 3) = true ∧ fld (0x0500 : Word) 0 3 < 6 ∧ (5 + 256 - rings5.ringHead 0) % 256 ≤ rings5.ringSize 0 ∧
      (5 + 256 - rings5.ringTail 0) % 256 ≤ (5 + 256 - rings5.ringHead 0) % 256) ∧
    (rings5.ringOn (fld 0x0800 0 3) = true ∧ fld (0x0800 : Word) 0 3 < 6 ∧ (8 + 256 - rings5.ringHead 0) % 256 ≤ rings5.ringSize 0 ∧
      (8 + 256 - rings5.ringTail 0) % 256 ≤ (8 + 256 - rings5.ringHead 0) % 256) ∧
    (rings5.ringOn (fld 0x0006 0 3) = true ∧ 6 ≤ fld (0x0006 : Word) 0 3 ∧ fld (0x0006 : Word) 8 8 = 0 ∧
      (rings5.ringTail 6 + 256 - 0) % 256 ≤ rings5.ringCount 6) ∧
    (rings5.ringOn (fld 0x0206 0 3) = true ∧ 6 ≤ fld (0x0206 : Word) 0 3 ∧ fld (0x0206 : Word) 8 8 = 2 ∧
      (rings5.ringTail 6 + 256 - 2) % 256 ≤ rings5.ringCount 6) ∧
    (rings5.ringOn (fld 0x0107 0 3) = true ∧ 6 ≤ fld (0x0107 : Word) 0 3 ∧ fld (0x0107 : Word) 8 8 = 1 ∧
      (rings5.ringTail 7 + 256 - 1) % 256 ≤ rings5.ringCount 7) ∧
    rings5.ringOn (fld 0x0001 0 3) = false ∧
    (fld (0x0900 : Word) 0 3 < 6 ∧ rings5.ringSize 0 < (fld (0x0900 : Word) 8 8 + 256 - rings5.ringHead 0) % 256) ∧
    (6 ≤ fld (0x0306 : Word) 0 3 ∧ rings5.ringCount 6 < (rings5.ringTail 6 + 256 - fld (0x0306 : Word) 8 8) % 256) := by and_intros <;> decide +kernel

theorem witness_RingsMoveTheirIndices_enabling :
    asksOnly 0x01 0 true (mk gov) ∧ ringPlaced gov 0 ∧
    asksOnly 0xC3 1 true (mk (ringsUp 0 0)) ∧
    ¬ ringPlaced (act [(0x0410, 0), (0x0411, 0)] (ringsUp 0 0)) 1 ∧
    asksOnly 0xC0 0 false (mk (ringsUp 0 0)) ∧
    ({ gov with rings := { gov.rings with clr := 0x40 } } : Mach).rings.clr.getLsbD 6 = true ∧
    gov.rings.clr.getLsbD 7 = false := by
  unfold asksOnly ringPlaced
  and_intros <;> decide +kernel

/-- A completion that waits. -/
def compl0 : Compl := ⟨1, 3, 0, 5, 0, 0, 0, 0, 0, false, true⟩

/-- A fault-record item that waits for EQ. -/
def item0 (kind : Nat) : FrItem := ⟨kind, 0, 1, 0, 5, 0, 0, 0, 0, [], true, true⟩

theorem witness_RingsMoveTheirIndices_entries :
    (let m := { ringsUp 0 0 with rings := { (ringsUp 0 0).rings with compl := [compl0] } }
     m.ringOn 6 = true ∧ m.ringFull 6 = false ∧ m.rings.compl.head? = some compl0) ∧
    gov.ringOn 6 = false ∧ gov.ringOn 7 = false ∧
    (let m := { ringsUp 0 0 with rings := { (ringsUp 0 0).rings with ovfDue := true } }
     m.ringOn 7 = true ∧ m.ringFull 7 = false ∧ m.rings.ovfDue = true) ∧
    (let m := { ringsUp 0 0 with frq := [item0 0] }
     m.ringOn 7 = true ∧ m.ringFull 7 = false ∧ m.rings.ovfDue = false ∧ m.frq.find? (·.eqDue) = some (item0 0) ∧
      (item0 0).kind = 0) ∧
    (let e : EqEv := ⟨5, 3, 0, 0, 0, 0, 0⟩
     let m := { ringsUp 0 0 with rings := { (ringsUp 0 0).rings with evq := [e] } }
     m.ringOn 7 = true ∧ m.ringFull 7 = false ∧ m.rings.ovfDue = false ∧ m.frq.find? (·.eqDue) = none ∧
      m.rings.evq.head? = some e ∧ e.type ≠ 0) ∧
    (let m := { ringsUp 0 0 with rings := { (ringsUp 0 0).rings with tail := (ringsUp 0 0).rings.tail.set 7 8 } }
     m.ringOn 7 = true ∧ m.ringFull 7 = true) := by decide +kernel

/-- A descriptor in flight with opcode `op` and tag 1 (57 on a data-plane ring), then `ws`. -/
def flying (ring op : Nat) (ws : List Word) : Mach :=
  { gov with rings := { gov.rings with
      infl := [⟨ring, 0, BitVec.ofNat 16 (op + 256 * (if ring % 2 = 0 ∧ ring ≠ 0 then 57 else 1)) :: 0 :: ws⟩] } }

/-- The command in flight there. -/
def flier (ring op : Nat) (ws : List Word) : Infl :=
  ⟨ring, 0, BitVec.ofNat 16 (op + 256 * (if ring % 2 = 0 ∧ ring ≠ 0 then 57 else 1)) :: 0 :: ws⟩

theorem witness_RingCommandsRun :
    ((mk (ringsUp 0 1)).fetchTurn 0 = true ∧ (mk (ringsUp 0 1)).eccBad = [] ∧
      (ringsUp 0 1).dev.phase = .running ∧ (ringsUp 0 1).ringOn 0 = true ∧ (ringsUp 0 1).ringOn 6 = true ∧
      (ringsUp 0 1).ringCount 0 ≠ 0 ∧
      (ringsUp 0 1).inflCount false < (ringsUp 0 1).ringSize 6 - (ringsUp 0 1).ringCount 6 ∧ (ringsUp 0 1).cmt.pend = none) ∧
    ({ mk (ringsUp 0 1) with eccBad := [(7, true)] } : State).fetchTurn 0 = true ∧ (mk (ringsUp 1 1)).fetchTurn 0 = false ∧
    (mk gov).m.executing 1 0x01 = none ∧
    ((flying 0 0x01 [0x2008, 4]).executing 1 0x01 = some (flier 0 0x01 [0x2008, 4]) ∧
      fld ((flier 0 0x01 [0x2008, 4]).word 3) 0 3 = 4) ∧
    fld ((flier 0 0x01 [0x2008, 5]).word 3) 0 3 = 5 ∧
    ((flying 1 0x03 []).executing 1 0x03 = some (flier 1 0x03 []) ∧ (flying 1 0x03 []).dev.phase = .running ∧
      (flying 1 0x03 []).cmt.pend = none) ∧
    (let i := flier 2 0x51 [0x0003, 0x0080, 0xFD01]
     (flying 2 0x51 [0x0003, 0x0080, 0xFD01]).executing 57 0x51 = some i ∧ (∀ n, n ∈ i.snapChs → n < 24) ∧
      fld (i.word 4) 8 8 + i.snapChs.length ≤ 256) ∧
    (let i := flier 2 0x51 [0x0003, 0x0080, 0xFE01]
     256 < fld (i.word 4) 8 8 + i.snapChs.length) := by and_intros <;> decide +kernel

/-! ## Witnesses: long operations -/

/-- An operation under tag 5. -/
def op (kind : Nat) (st : OpSt) (ws : List Word) : LongOp :=
  ⟨kind, 5, st, 0, true, 0, 0x0500 :: 0 :: ws, 3, 0, false, []⟩

/-- A command in flight and that operation. -/
def ctl (opcode kind : Nat) (st : OpSt) : Mach := { flying 0 opcode [5] with ops := [op kind st []] }

/-- The operation a control command names. -/
def named (m : Mach) (i : Infl) : Option LongOp := m.ops.find? fun o => o.tag.toNat == fld (i.word 2) 0 6 && !o.auto

theorem witness_LongOperations_control :
    ((ctl 0x08 3 .running).executing 1 0x08 = some (flier 0 0x08 [5]) ∧
      named (ctl 0x08 3 .running) (flier 0 0x08 [5]) = some (op 3 .running []) ∧ suspendable 3 = false) ∧
    (named (ctl 0x08 1 .suspended) (flier 0 0x08 [5]) = some (op 1 .suspended []) ∧ suspendable 1 = true) ∧
    (named (ctl 0x08 2 .running) (flier 0 0x08 [5]) = some (op 2 .running []) ∧ suspendable 2 = true) ∧
    ((ctl 0x09 2 .running).executing 1 0x09 = some (flier 0 0x09 [5]) ∧ (op 2 .running []).st ≠ .suspended) ∧
    ((ctl 0x09 2 .suspended).forcedNow 2 = false ∧
      ({ ctl 0x09 7 .suspended with pwr := { gov.pwr with vddOk := false } } : Mach).forcedNow 7 = true) ∧
    ((ctl 0x0A 2 .running).executing 1 0x0A = some (flier 0 0x0A [5]) ∧
      named (ctl 0x0A 0 .running) (flier 0 0x0A [5]) = some (op 0 .running [])) ∧
    ((ctl 0x0B 6 .queued).executing 1 0x0B = some (flier 0 0x0B [5]) ∧
      named (ctl 0x0B 6 .queued) (flier 0 0x0B [5]) = some (op 6 .queued []) ∧
      named (flying 0 0x0B [5]) (flier 0 0x0B [5]) = none) := by and_intros <;> decide +kernel

theorem witness_LongOperations_submissions :
    ((flying 3 0x43 []).executing 1 0x43 = some (flier 3 0x43 [])) ∧
    ((flying 3 0x44 [60]).executing 1 0x44 = some (flier 3 0x44 [60]) ∧ ((flier 3 0x44 [60]).word 2).toNat = 60 ∧
      ((flier 3 0x44 [600]).word 2).toNat = 600) ∧
    ((flying 2 0x50 [23]).executing 57 0x50 = some (flier 2 0x50 [23]) ∧ fld ((flier 2 0x50 [23]).word 2) 0 5 < 24 ∧
      ¬ fld ((flier 2 0x50 [24]).word 2) 0 5 < 24) ∧
    ((flying 4 0x60 [600]).executing 57 0x60 = some (flier 4 0x60 [600])) ∧
    (let m := act [(0x1117, 1), (0x1109, 1)] (flying 5 0x71 [7])
     m.executing 1 0x71 = some (flier 5 0x71 [7]) ∧ bit (m.cfg 0x1117) 0 = true ∧ fld (m.cfg 0x1109) 0 4 ≠ 0) ∧
    ((flying 3 0x41 [0]).executing 1 0x41 = some (flier 3 0x41 [0]) ∧
      (flying 3 0x42 []).executing 1 0x42 = some (flier 3 0x42 []) ∧ gov.dev.part.isX = true) ∧
    (let i := flier 3 0x40 [4, 0xF000]
     (flying 3 0x40 [4, 0xF000]).executing 1 0x40 = some i ∧ i.imageTooLong i.withSeal = true) ∧
    (let i := flier 3 0x40 [4, 0]
     i.imageTooLong i.withSeal = false ∧ locked.protected? = true ∧ i.region ≠ 0 ∧ i.region ≠ 1 ∧
      (flying 3 0x40 [4, 0]).protected? = false) := by and_intros <;> decide +kernel

/-- One operation, every sensor at 25 °C. -/
def warm (o : LongOp) : Mach :=
  { gov with ops := [o], thm := { gov.thm with sensors := vmap gov.thm.sensors fun _ q => { q with reading := 400, got := true } } }

theorem witness_LongOperations_starts :
    State.reset.m.dev.phase ≠ .running ∧ gov.opQueued 3 = none ∧ (warm (op 2 .running [])).resourceFree 2 = false ∧
    (∀ k ∈ [2, 3, 4, 5, 6, 7], (warm (op k .queued [])).resourceFree k = true ∧
      (warm (op k .queued [])).opQueued k = some (op k .queued [])) ∧
    gov.clk.refOk = true ∧ noRef.clk.refOk = false ∧ gov.siteRole = 0 ∧
    (let m := act [(0x0F08, 2)] gov
     m.siteRole ≠ 0 ∧ m.keyErr = true ∧ ({ m with otp := { m.otp with skValid := true } } : Mach).keyErr = false) ∧
    (bit ((act [(0x2043, 8)] gov).lw (op 5 .queued [0]).learnCh 0x43) 3 = true ∧ (op 5 .queued [0]).ran = true) ∧
    ((warm (op 1 .queued [])).resourceFree 1 = true ∧ (warm (op 1 .queued [])).winVdd = true) ∧
    (gov.winAll = false ∧ (warm (op 0 .queued [0])).winAll = true ∧ (op 0 .queued [0]).aux = [] ∧
      ((mk (warm (op 0 .queued [0]))).programCheck (imageWords (op 0 .queued [0]) (mk gov)) false
        (op 0 .queued [0]).infl).isSome = true) := by
  and_intros <;> decide +kernel

/-- The fit of a sweep is a free value (log entry 76): over a record whose power spans 3 W one of the two ends holds. -/
theorem witness_LongOperations_sweep (l : List (Rat × Rat)) (_ : 3 ≤ sweepSpan l) :
    (3 ≤ sweepSpan l ∧ (Config.sweepFit l).2.2 ≤ 1) ∨ (sweepSpan l < 3 ∨ 1 < (Config.sweepFit l).2.2) :=
  (le_or_gt (Config.sweepFit l).2.2 1).imp (fun h => ⟨‹_›, h⟩) .inr

theorem witness_LongOperations_ends :
    gov.opRunning 3 = none ∧
    (∀ k ∈ [1, 2, 3, 4, 6, 7], (warm (op k .running [0])).opRunning k = some (op k .running [0])) ∧
    (mk (warm (op 2 .running []))).nextMove = none ∧ gov.jnl.busy = none ∧
    (let o := { op 0 .running [0] with prog := (op 0 .running [0]).endPos }
     (warm o).opRunning 0 = some o ∧ o.endPos ≤ o.prog) ∧
    bit ((op 1 .running [0]).word 2) 8 = false ∧ gov.mst.active = none ∧
    (1 ≤ (1 : Word).toNat ∧ (16 : Word).toNat ≤ 16) := by and_intros <;> decide +kernel

/-! ## Witnesses: the port master -/

/-- MST_XFER in flight on SQ5: target 0, opcode `op`, `n` words at page 0. -/
def xfer (op : Nat) (n : Nat) : Infl :=
  ⟨5, 0, [0x0170, 0, BitVec.ofNat 16 (256 * op), 0, BitVec.ofNat 16 n, 0, 0, 0]⟩

/-- The master with that command, active or not, its target word `tgt`. -/
def master (tgt : Word) (i : Infl) (active second : Bool) : Mach :=
  act [(0x1110, tgt), (0x1109, 1)] { gov with
    rings := { gov.rings with infl := [i] }
    mst := { gov.mst with grant := true, active := if active then some i else none, second := second } }

theorem witness_MasterTransactions_starts :
    gov.dev.part.isX = true ∧ gov.mst.active = none ∧ (master 2 (xfer 5 1) true false).mst.active.isSome = true ∧
    ((master 2 (xfer 5 0) false false).executing 1 0x70 = some (xfer 5 0) ∧
      (master 2 (xfer 5 0) false false).mstBad (xfer 5 0) = true) ∧
    ((master 2 (xfer 5 64) false false).executing 1 0x70 = some (xfer 5 64) ∧
      (master 2 (xfer 5 64) false false).mstBad (xfer 5 64) = false) ∧
    (master 2 (xfer 5 1) false false).mstNext = some (xfer 5 1) ∧
    masterFree (mk (master 2 (xfer 5 1) false false)) (xfer 5 1) ∧
    ¬ masterFree (mk (master 2 (xfer 5 1) true false)) (xfer 5 1) ∧ gov.mstNext = none := by
  unfold masterFree
  and_intros <;> decide +kernel

/-- An enumeration runs, and its frame is active. -/
def enumerating : Mach :=
  { gov with ops := [op 7 .running [0]], mst := { gov.mst with active := some ⟨5, 0, [0x0571]⟩ } }

theorem witness_MasterTransactions_ends :
    ((xfer 5 1).opcode = 0x70 ∧ bit ((master 2 (xfer 5 1) true false).mstTgt (xfer 5 1)) 0 = false ∧
      (xfer 2 1).mstReads = false ∧ (xfer 5 1).mstReads = true ∧
      bit ((master 2 (xfer 5 1) true false).mstTgt (xfer 5 1)) 1 = true) ∧
    (bit ((master 3 (xfer 0 1) true false).mstTgt (xfer 0 1)) 0 = true ∧
      (master 3 (xfer 0 1) true false).mst.second = false ∧ (master 3 (xfer 0 1) true true).mst.second = true) ∧
    (enumerating.mst.active = some ⟨5, 0, [0x0571]⟩ ∧ (⟨5, 0, [0x0571]⟩ : Infl).opcode = 0x71 ∧
      enumerating.opRunning 7 = some (op 7 .running [0])) := by and_intros <;> decide +kernel

/-! ## Witnesses: the tracker and the site link -/

/-- The tracker runs in state `st`, its latest crossing `d` ticks ago, period 20 ms. -/
def zcIn (st : ZcSt) (d run : Nat) : Mach :=
  act [(0x1008, 1), (0x1009, 0)] { gov with zc := { gov.zc with
    st := st, lastAt := some (9600000 - d), per16 := 16 * 960000, predAt := 9600000 - d, run := run } }

theorem witness_TrackerFollowsTheMains :
    State.reset.m.zcOn = false ∧ ((zcIn .unlocked 0 0).zcOn = true ∧ (zcIn .unlocked 0 0).zc.st = .unlocked) ∧
    ((zcIn .acquire 960000 0).zc.lastAt.isSome = true ∧ goodPeriod (zcIn .acquire 969600 8) 8630400 ∧
      (zcIn .acquire 969600 8).zc.run < 9) ∧
    ¬ goodPeriod (zcIn .acquire 969601 8) 8630399 ∧
    (goodPeriod (zcIn .acquire 960000 9) 8640000 ∧ 9 ≤ (zcIn .acquire 960000 9).zc.run) ∧
    (let m := zcIn .holdover 969600 0
     m.tracking = true ∧ (m.zc.nearest m.crossing).2.natAbs ≤ 9600 ∧ (m.zc.nearest m.crossing).1 ≠ 0) ∧
    (let m := zcIn .locked 9600 0
     m.tracking = true ∧ (m.zc.nearest m.crossing).2.natAbs ≤ 9600 ∧ (m.zc.nearest m.crossing).1 = 0) ∧
    (let m := zcIn .locked 969601 0
     m.zc.st = .locked ∧ 9600 < (m.zc.nearest m.crossing).2.natAbs ∧ m.zc.outl < 4) ∧
    (4 ≤ ({ gov.zc with outl := 4 } : Zc).outl ∧ gov.site.acting = false ∧ gov.siteRole ≠ 2 ∧ gov.dev.part.isX = true) ∧
    (let m := act [(0x0F08, 0x0202)] { zcIn .holdover 0 0 with
        otp := { gov.otp with skValid := true }, site := { gov.site with joined := true } }
     m.zc.st = .holdover ∧ m.site.acting = false ∧ m.siteRole = 2 ∧ m.site.joined = true ∧ m.siteAuto = true ∧
      m.keyErr = false) := by
  unfold goodPeriod
  and_intros <;> decide +kernel

/-- A listener of site 0x1234 with a valid key of zeros. -/
def listener : Mach :=
  act [(0x0F08, 1 + 4 * 1), (0x0F09, 0x1234)] { gov with otp := { gov.otp with skValid := true } }

/-- The bytes of a beacon before its tag: header, site, counter 1, and zeros. -/
def beaconBody : List Byte := [0x11, 0x12, 0x34, 0, 0, 0, 0, 1] ++ List.replicate 104 0

/-- The beacon with its tag and CRC. -/
def beacon : BeaconRx :=
  let t := beaconBody ++ (cmac 0 beaconBody).take 4
  ⟨t ++ beBytes 2 (crc16 t).toNat ++ List.replicate 18 0, 0, false, 0⟩

set_option maxRecDepth 8000 in
theorem witness_SiteLinkFrames_beacons :
    (Instr.beaconReceive beacon).WellFormed = true ∧ gov.listens = false ∧ listener.listens = true ∧
    beaconWhole beacon listener ∧
    (listener.keyErr = false ∧ beaconNum beacon 14 1 = listener.otp.skVer ∧
      (cmac listener.otp.sk (beacon.bytes.take 112)).take 4 = slice beacon.bytes 112 4) ∧
    (listener.site.fcValid = false ∧
      (let m := { listener with site := { listener.site with fcValid := true, fc := 1 } }
       m.site.fcValid = true ∧ beaconNum beacon 4 4 ≤ m.site.fc)) ∧
    (listener.siteIdent ≠ 0 ∧ listener.siteIdent ≤ 30 ∧ listener.siteRole ≠ 2) ∧
    (let m := { act [(0x0F08, 2), (0x0F09, 0x1234)] listener with
        ops := [op 6 .running [1]], site := { listener.site with join := some ⟨0, 0, false, true⟩ } }
     m.listens = true ∧ m.siteRole = 2 ∧ beaconWhole beacon m ∧ m.opRunning 6 = some (op 6 .running [1]) ∧
      m.site.join = some ⟨0, 0, false, true⟩ ∧ (op 6 .running [1]).auto = false) ∧
    ((act [(0x0F08, 2)] gov).listens = true ∧ (act [(0x0F08, 2)] gov).siteRole = 2 ∧ gov.opRunning 6 = none) := by
  unfold beaconWhole
  and_intros <;> decide +kernel

set_option maxRecDepth 8000 in
theorem witness_SiteLinkFrames_rejected :
    (let f : BeaconRx := ⟨List.replicate 136 1, 0, false, 0⟩
     (Instr.beaconReceive f).WellFormed = true ∧ crc16 (f.bytes.take 116) ≠ BitVec.ofNat 16 (beaconNum f 116 2)) ∧
    (BitVec.ofNat 16 (beaconNum beacon 1 2) ≠ (act [(0x0F08, 5), (0x0F09, 0x1235)] listener).cfg 0x0F09) ∧
    (let m := { listener with otp := { listener.otp with skVer := 1 } }
     beaconWhole beacon m ∧ ¬ beaconTagged beacon m) := by
  unfold beaconWhole beaconTagged
  and_intros <;> decide +kernel

/-- A standby of rank 0 that missed 3 beacons. -/
def standby : Mach :=
  act [(0x0F08, 3 + 4 * 1), (0x0F09, 0x1234)] { zcIn .locked 0 0 with
    otp := { gov.otp with skValid := true }
    site := { gov.site with joined := true, lost := 3, ncKnown := true } }

/-- A coordinator that has joined. -/
def coordinator : Mach :=
  act [(0x0F08, 2), (0x0F09, 0x1234)] { zcIn .locked 0 0 with
    otp := { gov.otp with skValid := true }, site := { gov.site with joined := true, fcNext := 5 } }

theorem witness_SiteLinkFrames_coordinating :
    (standby.siteTx = true ∧ standby.siteRole = 3 ∧ standby.site.joined = true ∧ standby.site.acting = false ∧
      3 + standby.siteRank ≤ standby.site.lost ∧ standby.tracking = true ∧ standby.site.ncKnown = true) ∧
    gov.siteRole ≠ 3 ∧
    (coordinator.siteOn = true ∧ coordinator.coordinating = true ∧ coordinator.site.pubPend = false) ∧
    gov.coordinating = false ∧
    (coordinator.siteTx = true ∧ coordinator.tracking = true ∧ ¬ handoverSeen coordinator ∧
      coordinator.site.fcNext < 4294967296) ∧
    (let m := { coordinator with site := { coordinator.site with joined := false, conflict := true, hoSeen := 3, frond := 9 } }
     m.siteTx = true ∧ m.tracking = true ∧ handoverSeen m ∧
      max (max m.site.fcNext m.site.fcBlock) (m.site.frond + 1) < 4294967296) ∧
    (let m := { standby with site := { standby.site with acting := true, hoLeft := 1 } }
     m.siteTx = true ∧ m.tracking = true ∧ m.coordinating = true ∧ ¬ handoverSeen m ∧ m.site.hoLeft = 1) ∧
    gov.siteTx = false := by
  unfold handoverSeen
  and_intros <;> decide +kernel

/-- A member in a frond. -/
def member : Mach :=
  act [(0x0F08, 1 + 4 * 1), (0x0F09, 0x1234)] { zcIn .locked 0 0 with
    otp := { gov.otp with skValid := true }, site := { gov.site with joined := true } }

/-- A pinna of identity 1 in frond 4. -/
def pinna : List Byte :=
  let b : List Byte := 1 :: List.replicate 18 0
  let t := b ++ (cmac 0 (beBytes 4 4 ++ b)).take 4
  t ++ [crc8 t]

theorem witness_SiteLinkFrames_pinnae :
    (member.pinnaDue = true ∧ member.site.send = none ∧ gov.pinnaDue = false) ∧
    ((Instr.pinnaReceive 1 (some pinna) 2).WellFormed = true ∧ (1 : Fin 31) ≠ 0 ∧ 1 ≤ coordinator.npin ∧
      bit (coordinator.cfg 0x0F25) 8 = false ∧ crc8 ((List.replicate 24 (1 : Byte)).take 23) ≠ 1) ∧
    (let m := { coordinator with site := { coordinator.site with fcNext := 6 } }
     ¬ pinnaTagged pinna m) ∧
    (let m := { coordinator with site := { coordinator.site with pinFc := [(1, 4)] } }
     pinnaTagged pinna m ∧ m.site.pinLast 1 = some 4 ∧ m.site.fcNext - 1 ≤ 4) ∧
    (crc8 (pinna.take 23) = nth pinna 23 0 ∧ byteAt pinna 0 % 32 = 1 ∧ coordinator.keyErr = false ∧
      (cmac coordinator.otp.sk (beBytes 4 (coordinator.site.fcNext - 1) ++ pinna.take 19)).take 4 = slice pinna 19 4 ∧
      coordinator.site.pinLast 1 = none) ∧ gov.siteOn = true ∧
    (let m := { member with site := { member.site with send := some ⟨flier 4 0x61 [0, 1], 0, false⟩ } }
     m.pinnaDue = true ∧ m.site.send.isSome = true) := by
  unfold pinnaTagged
  and_intros <;> decide +kernel

theorem witness_SiteLinkFrames_membership :
    (let m := { coordinator with ops := [op 6 .running [1]]
                                 site := { coordinator.site with join := some ⟨0, 0, false, true⟩ } }
     m.siteOn = true ∧ m.siteRole = 2 ∧ m.tracking = true ∧ m.opRunning 6 = some (op 6 .running [1]) ∧
      m.site.join = some ⟨0, 0, false, true⟩ ∧ (op 6 .running [1]).auto = false) ∧
    gov.opRunning 6 = none ∧ coordinator.coordinating = true ∧ gov.coordinating = false ∧
    (let m := { standby with site := { standby.site with acting := true } }
     m.site.acting = true ∧ m.site.hoLeft = 0) ∧
    ((flying 4 0x61 [0xF700, 20]).executing 57 0x61 = some (flier 4 0x61 [0xF700, 20]) ∧
      fld ((flier 4 0x61 [0xF700, 20]).word 2) 8 8 + 9 = 256 ∧ fld ((flier 4 0x61 [0xF700, 20]).word 3) 0 5 = 20 ∧
      256 < fld ((flier 4 0x61 [0xF800, 20]).word 2) 8 8 + 9 ∧ fld ((flier 4 0x61 [0, 0]).word 3) 0 5 = 0 ∧
      20 < fld ((flier 4 0x61 [0, 21]).word 3) 0 5) ∧
    (member.siteRole ≠ 2 ∧ member.site.acting = false ∧ member.site.joined = true ∧ member.site.send = none ∧
      gov.site.joined = false) := by and_intros <;> decide +kernel

/-- Shedding enabled under a budget of 100 W, channel 0 on with 200 W. -/
def shedding : Mach :=
  act [(0x0F0F, 1), (0x2074, 20), (0x2008, 1)] { chIn 0 .on true gov with site := { gov.site with feed := 10 } }

theorem witness_ShedEvaluationsHoldTheSet :
    (shedding.dev.part.isX = true ∧ shedding.dev.phase = .running ∧ shedding.shedEn = true ∧ shedding.shedBudget ≠ 0xFFF ∧
      0 ∈ shedding.leaders ∧ (shedding.ch 0).limp.siteHold = false ∧ (shedding.shedSet false).contains 0 = true ∧
      (shedding.st 0).running = true ∧ shedding.eligible 0 = true) ∧
    ((act [(0x0F0F, 0)] gov).shedEn = false ∧ (listener.siteRole ≠ 0)) ∧
    (let m := (chIn 0 .shed false gov).modCh 0 fun c => { c with limp := { c.limp with siteHold := true } }
     0 ∈ m.leaders ∧ (m.ch 0).limp.siteHold = true ∧ (m.shedSet true).contains 0 = false ∧ m.st 0 = .shed) := by and_intros <;> decide +kernel

/-! ## Witnesses: OTP, journal, security -/

/-- A programming operation of USER region word 0 at position `k`, its image `v`. -/
def prog (region : Word) (k : Nat) (v : Int) : LongOp := { op 0 .running [region] with prog := k, aux := [v] }

theorem witness_OtpPulsesAndWindow :
    gov.opRunning 0 = none ∧
    (let o := prog 4 0 0
     (warm o).opRunning 0 = some o ∧ o.prog < o.endPos ∧ (warm o).winAll = true ∧ o.imageBit o.prog = false) ∧
    (let o := prog 4 63 (-9223372036854775808)
     (warm o).opRunning 0 = some o ∧ o.prog < o.endPos ∧ o.imageBit o.prog = true ∧ (o.place o.prog).2.2 = false ∧
      ((mk (warm o)).nv.word (o.place o.prog).1).isSet 0 (o.place o.prog).2.1 = false) ∧
    (let o := prog 2 0 1
     o.imageBit o.prog = true ∧ (o.place o.prog).2.2 = true) ∧
    (let o := { prog 4 0 0 with prog := (prog 4 0 0).endPos }
     (warm o).opRunning 0 = some o ∧ o.endPos ≤ o.prog) ∧
    (gov.opRunning 1 = none ∧ (prog 4 0 0).auto = false ∧ noRef.clk.refOk = false ∧ gov.winTemp = false ∧
      conditionLost .refclk noRef ∧ conditionLost .temperature gov ∧ ¬ conditionLost .refclk gov ∧
      (let m := { gov with ops := [prog 4 0 0] }
       m.winAll = false ∧ m.opRunning 0 = some (prog 4 0 0)) ∧
      (let m := { gov with ops := [op 1 .running [4]] }
       m.opRunning 1 = some (op 1 .running [4]) ∧ m.opRunning 0 = none)) ∧
    (let m := { warm (prog 4 0 0) with pwr := { gov.pwr with vppMv := 6799 } }
     m.winSupply = false ∧ ({ m with pwr := { gov.pwr with vppMv := 6800 } } : Mach).winSupply = true) ∧
    (gov.dev.latched = true ∧ gov.otp.written.getLsbD (gov.otp.refresh % 128) = false ∧
      reread 0 0 0 (mk (custom [(0, 1)] gov)) ≠ nth (custom [(0, 1)] gov).otp.words (gov.otp.refresh % 128) 0 ∧
      State.reset.m.dev.latched = false) := by
  unfold conditionLost
  and_intros <;> decide +kernel

/-- The journal is ready. -/
def ready : Mach := { gov with jnl := { gov.jnl with ready := true } }

theorem witness_JournalRecords :
    (ready.jnl.ready = true ∧ gov.jnl.ready = false ∧ gov.dev.phase = .running ∧ gov.dev.part.isX = true) ∧
    (let m := { ready with frq := [item0 0] }
     m.thm.jnlHold = false ∧ m.jnl.busy = none ∧ m.frq.find? (·.jnlDue) = some (item0 0) ∧
      (mk m).pickSlot = some (1, false) ∧ m.jnl.seq < 4294967296) ∧
    (let w : JWrite := ⟨[], 63, false, false, 0, false, none, false⟩
     ({ ready with jnl := { ready.jnl with busy := some w } } : Mach).jnl.busy = some w ∧ w.wait = false ∧
      w.copyB = false ∧ w.tried = false ∧ w.slot < 64 ∧ ready.thm.jnlHold = false) ∧
    (gov.frq.length ≤ 26 ∧ fld ((act [(0x0D08, 1)] gov).cfg 0x0D08) 0 8 ≠ 0 ∧ fld (gov.cfg 0x0D08) 0 8 = 0 ∨
      fld (gov.cfg 0x0D08) 0 8 ≠ 0) ∧
    (locked.protected? = true ∧ ready.protected? = false) := by
  unfold State.pickSlot
  and_intros <;> decide +kernel

/-- An owner key digest of the key of zeros. -/
def keyed : Mach :=
  { locked with otp := { locked.otp with kd := BitVec.ofNat 256 (beNat (sha256 (List.replicate 32 0))) }
                jnl := { locked.jnl with ready := true }, sec := { locked.sec with compare := true } }

theorem witness_UnlockAndAttest :
    (gov.otp.kdConf = false ∧ gov.otp.kdValid = false ∧ locked.otp.kdValid = true ∧ locked.sec.backoff = false ∧
      ({ gov with otp := { gov.otp with kdConf := true } } : Mach).otp.kdConf = true ∧ gov.sec.compare = false) ∧
    (keyed.sec.compare = true ∧ keyed.jnl.ready = true ∧ keyed.countersDue = false ∧ keyed.sec.backoff = false ∧
      beNat (sha256 keyed.keyBytes) = keyed.otp.kd.toNat) ∧
    beNat (sha256 (List.replicate 31 0 ++ [1])) ≠ keyed.otp.kd.toNat ∧
    (gov.sec.unlocked = false ∧ gov.sec.attBusy = false ∧ gov.region 1 ≠ 2 ∧
      ({ gov with otp := { gov.otp with region := [2, 2] } } : Mach).region 1 = 2) := by and_intros <;> decide +kernel

/-! ## Steps whose results stand in the manual -/

/-- 11_host_serial_port.md, R318: ID. -/
theorem test_id_words :
    nexts (exec (.id 4 stage0) (mk up)) (fun t => t.m.port.tx.eraseIdx 2 == [0x4C59, 0x24A8, 0x000F]) = true := by
  decide +kernel

/-- 11_host_serial_port.md, "enumerating three devices": the CRC bytes of the stages and of the idle response. -/
theorem test_chain_crcs :
    [crc8 [0x0F, 0, 0, 3, 0], crc8 [0x0F, 0, 0, 3, 1], crc8 [0x0F, 0, 0, 3, 2], crc8 [1, 0, 0, 0, 0], crc8 [0, 0, 0, 0, 0],
      crc8 [1, 0x03, 0x00, 0x24, 0xA8]] = [0x6F, 0x40, 0x31, 0x1F, 0xB2, 0xB7] := by decide +kernel

/-- The same example: position 0 stores its place and answers DATA and its part code. -/
theorem test_chain_enumerate :
    nexts (exec (.chainEnumerate ⟨0x0000, 0x0300, 0x6F, 48, false, false⟩)
        (mk { up with port := { up.port with chain := true } }))
      (fun t => (t.m.port.pos, t.m.port.len, t.m.port.respAddr, t.m.port.respData) == (0, 3, 0x0300, 0x24A8)) = true := by
  decide +kernel

set_option maxRecDepth 8000 in
/-- 16_power_clocks_startup.md, R454: the sense sequencer reads FT and ID as SEALED and drives the latches. -/
theorem test_startup_senses :
    nexts (exec (.senseSequencerDone true) State.reset) (fun t =>
      t.m.otp.region == [2, 2, 0, 0, 0, 0, 0] && t.m.dev.latched && t.m.otp.src == 2) = true := by decide +kernel

/-- R454, R37: STARTUP ends in LIMP with cause POR. -/
theorem test_startup_ends :
    nexts (exec (.startupComplete (List.replicate 6 (some 400)) (some 400))
        (mk { up with dev := { up.dev with phase := .sensed } }))
      (fun t => t.m.devState == 2 && t.m.limp.cause == 1) = true := by decide +kernel

/-- The words of a channel that switches at half duty: mode, timebase, RISE 0 and FALL 1200. -/
def switching (page : Nat) (mode tb : Word) : WMap :=
  [(adr page 0x08, mode), (adr page 0x50, tb), (adr page 0x51, 0), (adr page 0x52, 0), (adr page 0x53, 4),
    (adr page 0x54, 0xB000)]

/-- The four fans on TB0 and the coil on TB1 of 02_registers_and_commits.md, "one frame, one commit", with CH5's PWM
configuration staged. -/
def fans : Mach :=
  act ([(0x050A, 0x0020)] ++ switching 0x20 2 0 ++ switching 0x21 2 0 ++ switching 0x22 2 0 ++ switching 0x23 2 0 ++
      switching 0x28 3 1)
    { gov with staged := switching 0x25 2 0 }

theorem witness_CommitRequestsAreChecked_refused :
    pagesGood fans ∧ requestAllowed fans ∧ ((resultRefusal fans).map (·.reason)) = some 0x0C := by
  unfold pagesGood requestAllowed
  and_intros <;> decide +kernel

/-- The same example: SWITCH_BUDGET on page 0x25, PULSE_RATE 12 000, CH5 the channel named, fault code 0xF on it. -/
theorem test_switch_budget_refused :
    nexts (exec (.commitRequest 0x0107) (mk fans)) (fun t =>
      t.m.cmt.lrReason == 0x250C && t.m.cmt.pulseRate == 12000 && t.m.cmt.lrChmask == 0x20 &&
        (t.m.ch 5).flt.code == 0xF && t.m.cmt.pend.isNone) = true := by decide +kernel

/-- The same example with the period of TB0 staged as 3000 ticks: captured, at the rate of the cap. -/
theorem test_period_change_captured :
    nexts (exec (.commitRequest 0x0107) (mk { act ((0x0508, 0x0040) :: fans.active) fans with
        staged := (0x0611, 3000) :: switching 0x25 2 0 }))
      (fun t => t.m.cmt.pend.isSome && t.m.cmt.pulseRate == 10000) = true := by decide +kernel

/-- 04_protection.md, R107: a crossing of 150 A records code 0x1 BACKSTOP and turns the gate off. -/
theorem test_backstop :
    nexts (exec (.backstopTrip 23 0) (mk on23)) (fun t =>
      (t.m.ch 23).flt.code == 1 && (t.m.ch 23).flt.detail == 1 && !(t.m.ch 23).stage.gateOn) = true := by decide +kernel

/-- 02_registers_and_commits.md, R60: CMT.SEQ steps from 0xFFFF to 0x0001. -/
theorem test_seq_wraps :
    nexts (exec (.commitRequest 0) (mk { gov with cmt := { gov.cmt with seq := 0xFFFF } }))
      (fun t => t.m.cmt.seq == 1) = true := by decide +kernel

/-- 07_pwm_timebase.md, R195, "37.5 % at 20 kHz": FALL_HI 0x0003 and FALL_LO 0x8B33 are coarse 907 and fine 51. -/
theorem test_compare_words : cmpOf 0x0003 0x8B33 = ⟨907, 51⟩ := by decide +kernel

/-- R450 and log entry 1: reset queues nothing, and a step then lets an LFOSC cycle pass. -/
theorem test_idle_step : nexts (step State.reset) (fun t => t.m.now == 48 && t.pending == []) = true := by decide +kernel

end Sys2Proof.Tests
end

-- Proofs of the statements of 00_scope.md: direct writes, clears, absent pages and the SRAM window.
section

/-! SUPPORT. Word addresses, events, and what a write of one word does: its access type, then the command it starts. -/

namespace Sys2Proof.Machine
open Claim

/-! ## Word addresses -/

theorem pageOf_append (page off : Byte) : pageOf (page ++ off).toNat = page.toNat := by
  rw [BitVec.toNat_append, ← Nat.shiftLeft_add_eq_or_of_lt off.isLt, Nat.shiftLeft_eq]
  have := off.isLt
  unfold pageOf
  omega

theorem offOf_append (page off : Byte) : offOf (page ++ off).toNat = off.toNat := by
  rw [BitVec.toNat_append, ← Nat.shiftLeft_add_eq_or_of_lt off.isLt, Nat.shiftLeft_eq]
  have := off.isLt
  unfold offOf
  omega

@[simp] theorem adr_pageOf_offOf (a : Nat) : adr (pageOf a) (offOf a) = a := by
  unfold adr pageOf offOf
  omega

theorem offOf_lt (a : Nat) : offOf a < 256 := Nat.mod_lt _ (by decide)

/-! ## Events -/

/-- The bits of an event of a page that the part has are latched (R49). -/
theorem Mach.event_latches {p i : Nat} {w : Word} {m : Mach} (hp : headerPage m.dev.part p = true)
    (hi : w.getLsbD i = true) : ((m.event p w).evtWord p).getLsbD i = true := by
  apply Mach.evtWord_event_page p w m hp
  show ((m.setEvtWord p (m.evtWord p ||| w)).evtWord p).getLsbD i = true
  rw [Mach.evtWord_setEvtWord, if_pos rfl, BitVec.getLsbD_or, hi, Bool.or_true]

theorem Mach.wdisc_latches {p : Nat} {m : Mach} (hp : headerPage m.dev.part p = true) :
    ((m.wdisc p).evtWord p).getLsbD 15 = true := Mach.event_latches hp (by decide)

@[simp] theorem Mach.quiet_wdisc (p : Nat) (m : Mach) : (m.wdisc p).quiet = m.quiet := Mach.quiet_event p _ m

theorem evtKept_wdisc (p : Nat) (m : Mach) : evtKept m (m.wdisc p) := evtKept_event p _ m

/-- A command that puts a machine in place of the old one, which is `m` but for events. -/
theorem becomes_withM (s : State) {m m' : Mach} (hq : m'.quiet = m.quiet) (hk : evtKept s.m m') :
    becomes s { s with m := m' } m := ⟨hq, hk, rfl, rfl, rfl, rfl⟩

/-! ## The words that start a command (R50) -/

/-- The words of the device pages that start a command. -/
def deviceCommandWords : List Nat :=
  [0x000F, 0x010F, 0x0214, 0x0312, 0x0409, 0x040E, 0x0510, 0x0511, 0x0512, 0x0762, 0x0765, 0x0768, 0x076B, 0x0A18, 0x0B0A,
    0x0B18, 0x0C13, 0x0D0A, 0x0E09, 0x0F10, 0x1013, 0x1108, 0x110B, 0x1208]

/-- The offsets of a channel page at which a word starts a command. -/
def channelCommandWords : List Nat := [0x0F, 0x20, 0x37, 0x4B, 0x5C, 0x67, 0x7F]

theorem regOf_deviceCommandWords : ∀ a ∈ deviceCommandWords, (regOf a).map Reg.acc = some .wo := by decide

theorem regAt_channelCommandWords :
    ∀ n < 24, ∀ off ∈ channelCommandWords, regAt (0x20 + n) off = some ⟨.wo, 0, 0xFFFF⟩ := by decide

theorem State.woDevice_other {a : Nat} (w : Word) (s : State) (h : a ∉ deviceCommandWords) : s.woDevice a w = s := by
  unfold State.woDevice
  split
  case h_14 => rfl
  all_goals exact absurd (by decide) h

theorem State.woDevice2_other {a : Nat} (w : Word) (s : State) (h : a ∉ deviceCommandWords) : s.woDevice2 a w = s := by
  unfold State.woDevice2
  split
  case h_12 => rfl
  all_goals exact absurd (by decide) h

theorem State.woChannel_other {n off : Nat} (w : Word) (s : State) (h : off ∉ channelCommandWords) :
    s.woChannel n off w = s := by
  unfold State.woChannel
  split
  case h_8 => rfl
  all_goals exact absurd (by decide) h

/-- A word of another access type starts no command. -/
theorem State.woCommand_of_not_wo {page off : Nat} (w : Word) (s : State) (ho : off < 256)
    (h : ∀ r, regAt page off = some r → r.acc ≠ .wo) : s.woCommand page off w = s := by
  have hd : adr page off ∉ deviceCommandWords := fun hm => by
    have hr := regOf_deviceCommandWords _ hm
    have hp : pageOf (adr page off) = page := by unfold pageOf adr; omega
    have hf : offOf (adr page off) = off := by unfold offOf adr; omega
    rw [regOf, hp, hf] at hr
    obtain ⟨r, hr, ha⟩ := Option.map_eq_some_iff.mp hr
    exact h r hr ha
  unfold State.woCommand
  split
  · rfl
  · split
    · next hc =>
      obtain ⟨h20, h37⟩ : 0x20 ≤ page ∧ page ≤ 0x37 := by simpa using hc
      refine State.woChannel_other w s fun hm => ?_
      have hr := regAt_channelCommandWords (page - 0x20) (by omega) off hm
      rw [Nat.add_sub_cancel' h20] at hr
      exact h _ hr rfl
    · split
      · exact State.woDevice_other w s hd
      · exact State.woDevice2_other w s hd

theorem State.woCommand_device {page off : Nat} (w : Word) (s : State) (he : s.m.pastEnd page off = false)
    (hk : s.m.keyLocked page = false) (hp : page < 0x20) :
    s.woCommand page off w = if page < 0x0A then s.woDevice (adr page off) w else s.woDevice2 (adr page off) w := by
  unfold State.woCommand
  rw [he, hk]
  simp [Nat.not_le.mpr hp]

theorem State.woCommand_channel {n off : Nat} (w : Word) (s : State) (he : s.m.pastEnd (chPage n) off = false)
    (hn : n < 24) : s.woCommand (chPage n) off w = s.woChannel n off w := by
  have hk : s.m.keyLocked (chPage n) = false := by simp [Mach.keyLocked, chPage]; omega
  have hp : (decide (0x20 ≤ chPage n) && decide (chPage n ≤ 0x37)) = true := by
    rw [Bool.and_eq_true, decide_eq_true_iff, decide_eq_true_iff]
    unfold chPage
    omega
  unfold State.woCommand
  rw [he, hk, if_neg (by decide), if_pos hp, chPage, Nat.add_sub_cancel_left]

/-! ## One word written (R50, R52) -/

/-- A write of one word is the write and then the command the word starts, if any. -/
theorem exec_registerWrite (a : BitVec 16) (w : Word) (s : State) :
    exec (.registerWrite a w) s =
      .next ((s.writeAt (pageOf a.toNat) (offOf a.toNat) w).1.woCommand (pageOf a.toNat) (offOf a.toNat) w) := rfl

theorem State.writeAt_pastEnd {page off : Nat} (w : Word) {s : State} (h : s.m.pastEnd page off = true) :
    s.writeAt page off w = (s, ⟨true, false⟩) := by
  unfold State.writeAt
  rw [if_pos h]

theorem State.woCommand_pastEnd {page off : Nat} (w : Word) {s : State} (h : s.m.pastEnd page off = true) :
    s.woCommand page off w = s := by
  unfold State.woCommand
  rw [h, Bool.true_or, if_pos rfl]

/-- A word past the page's end, or of an absent page, takes nothing (R3). -/
theorem exec_registerWrite_pastEnd (a : BitVec 16) (w : Word) (s : State)
    (h : s.m.pastEnd (pageOf a.toNat) (offOf a.toNat) = true) : exec (.registerWrite a w) s = .next s := by
  rw [exec_registerWrite, State.writeAt_pastEnd w h, State.woCommand_pastEnd w h]

theorem Mach.pastEnd_of_absent {m : Mach} {page : Nat} (off : Nat) (h : pagePresent m.dev.part page = false) :
    m.pastEnd page off = true := by
  rw [Mach.pastEnd, h]; rfl

theorem Mach.headerPage_of_pastEnd {m : Mach} {page off : Nat} (he : m.pastEnd page off = false)
    (hs : sramPage page = false) : headerPage m.dev.part page = true := by
  rw [Mach.pastEnd, pagePresent, hs] at he
  simp_all

theorem State.writeAt_header {page off : Nat} (w : Word) {s : State} (he : s.m.pastEnd page off = false)
    (hs : sramPage page = false) :
    (s.writeAt page off w).1 = { s with m := (s.m.writeReg page off w).1 } := by
  unfold State.writeAt
  rw [he, hs]
  rfl

/-- A word that starts no command: the write by its access type alone. -/
theorem exec_registerWrite_plain {a : BitVec 16} {w : Word} {s : State} {r : Reg} (h : writable s a r)
    (hr : r.acc ≠ .wo) :
    exec (.registerWrite a w) s = .next { s with m := (s.m.writeReg (pageOf a.toNat) (offOf a.toNat) w).1 } := by
  obtain ⟨he, hs, -, hreg⟩ := h
  rw [exec_registerWrite, State.writeAt_header w he hs, State.woCommand_of_not_wo w _ (offOf_lt _)]
  intro r' hr'
  rw [hreg] at hr'
  cases hr'
  exact hr

/-- A write to a RO word is discarded and reported. -/
theorem exec_registerWrite_ro {a : BitVec 16} (w : Word) {s : State} {r : Reg} (h : writable s a r) (hr : r.acc = .ro) :
    exec (.registerWrite a w) s = .next { s with m := s.m.wdisc (pageOf a.toNat) } := by
  rw [exec_registerWrite_plain h (by simp [hr])]
  obtain ⟨-, -, hk, hreg⟩ := h
  simp [Mach.writeReg, hk, hreg, hr]

theorem exec_registerWrite_rs {a : BitVec 16} (w : Word) {s : State} {r : Reg} (h : writable s a r) (hr : r.acc = .rs) :
    exec (.registerWrite a w) s =
      .next { s with m := { s.m with staged := s.m.staged.set a.toNat (w &&& r.mask) } } := by
  rw [exec_registerWrite_plain h (by simp [hr])]
  obtain ⟨-, -, hk, hreg⟩ := h
  simp [Mach.writeReg, hk, hreg, hr]

theorem exec_registerWrite_rw {a : BitVec 16} (w : Word) {s : State} {r : Reg} (h : writable s a r) (hr : r.acc = .rw) :
    exec (.registerWrite a w) s = .next { s with m := (s.m.writeRw a.toNat r w).1 } := by
  rw [exec_registerWrite_plain h (by simp [hr])]
  obtain ⟨-, -, hk, hreg⟩ := h
  simp [Mach.writeReg, hk, hreg, hr]

theorem exec_registerWrite_rl {a : BitVec 16} (w : Word) {s : State} {r : Reg} (h : writable s a r) (hr : r.acc = .rl) :
    exec (.registerWrite a w) s = .next { s with
      m := if s.m.otp.rlSeal = true then s.m.wdisc (pageOf a.toNat) else s.m.setCfg a.toNat (w &&& r.mask) } := by
  rw [exec_registerWrite_plain h (by simp [hr])]
  obtain ⟨-, -, hk, hreg⟩ := h
  cases hs : s.m.otp.rlSeal <;> simp [Mach.writeReg, hk, hreg, hr, hs]

/-- A word that starts a command, and is no key word: its command alone. -/
theorem exec_registerWrite_wo {a : BitVec 16} (w : Word) {s : State} {r : Reg} (h : writable s a r) (hr : r.acc = .wo)
    (hkey : keyWordAddr a.toNat = false) :
    exec (.registerWrite a w) s = .next (s.woCommand (pageOf a.toNat) (offOf a.toNat) w) := by
  obtain ⟨he, hs, hk, hreg⟩ := h
  rw [exec_registerWrite, State.writeAt_header w he hs]
  simp [Mach.writeReg, hk, hreg, hr, hkey]

end Sys2Proof.Machine

/-! SUPPORT and PROOF of O46: direct writes by access type, of multi-word values and page events, of command words. -/

namespace Sys2Proof.Machine
open Claim

/-! ## RW words (R50, R332, R364) -/

theorem Mach.writeRw_plain {a : BitVec 16} (r : Reg) (w : Word) (m : Mach) (h : plainRw a) :
    m.writeRw a.toNat r w = (m.setCfg a.toNat (w &&& r.mask), false) := by
  obtain ⟨hen, hzc, hring, hevt, hheld⟩ := h
  have hen : ¬ a.toNat = 0x0408 := fun h => hen (BitVec.eq_of_toNat_eq h)
  have hzc : ¬ a.toNat = 0x1008 := fun h => hzc (BitVec.eq_of_toNat_eq h)
  have hring : (decide (0x0410 ≤ a.toNat) && decide (a.toNat ≤ 0x0417)) = false := by
    rw [Bool.eq_false_iff, ne_eq, Bool.and_eq_true, decide_eq_true_iff, decide_eq_true_iff]
    exact hring
  simp [Mach.writeRw, hen, hzc, hring, hevt, hheld]

/-- RING.CFGr of a claimed ring discards its write (R332). -/
theorem Mach.writeRw_ringCfg (r : Fin 8) (g : Reg) (w : Word) (m : Mach) (h : m.ringClaims r = true) :
    m.writeRw (0x0410 + r) g w = (m.wdisc 0x04, true) := by
  have hr := r.isLt
  unfold Mach.writeRw
  rw [if_neg (by omega), if_pos]
  rw [Nat.add_sub_cancel_left, h]
  simp
  omega

theorem regAt_ringCfg : ∀ r : Fin 8, (regAt 0x04 (0x10 + r)).map Reg.acc = some .rw := by decide

theorem toNat_ringCfg (r : Fin 8) : (BitVec.ofNat 16 (0x0410 + r)).toNat = 0x0410 + r := by
  rw [BitVec.toNat_ofNat, Nat.mod_eq_of_lt (by omega)]

theorem writable_ringCfg (r : Fin 8) (s : State) :
    ∃ g : Reg, writable s (BitVec.ofNat 16 (0x0410 + r)) g ∧ g.acc = .rw := by
  obtain ⟨g, hg, ha⟩ := Option.map_eq_some_iff.mp (regAt_ringCfg r)
  have hr := r.isLt
  have hp : pageOf (0x0410 + r) = 0x04 := by unfold pageOf; omega
  have ho : offOf (0x0410 + r) = 0x10 + r := by unfold offOf; omega
  refine ⟨g, ?_, ha⟩
  unfold writable
  rw [toNat_ringCfg, hp, ho]
  refine ⟨?_, rfl, rfl, hg⟩
  have : decide (0x10 + r.val ≤ lastOff 0x04) = true := by simp [lastOff]; omega
  rw [Mach.pastEnd, this]
  rfl

/-! ## The end of a site membership with the tracker (R376, R496) -/

/-- What the end of a membership leaves: the configuration, the staging, the channels and the tracker. -/
structure LinkOnly (m m' : Mach) : Prop where
  active : m'.active = m.active
  staged : m'.staged = m.staged
  chans  : m'.chans = m.chans
  zc     : m'.zc = m.zc

theorem LinkOnly.rfl' (m : Mach) : LinkOnly m m := ⟨rfl, rfl, rfl, rfl⟩
theorem LinkOnly.trans' {a b c : Mach} (h : LinkOnly a b) (k : LinkOnly b c) : LinkOnly a c :=
  ⟨k.active.trans h.active, k.staged.trans h.staged, k.chans.trans h.chans, k.zc.trans h.zc⟩
theorem LinkOnly.ite {m a b : Mach} {p : Prop} [Decidable p] (ha : LinkOnly m a) (hb : LinkOnly m b) :
    LinkOnly m (if p then a else b) := by
  split
  · exact ha
  · exact hb

theorem LinkOnly.modSite (f : Site → Site) (m : Mach) : LinkOnly m (m.modSite f) := ⟨rfl, rfl, rfl, rfl⟩
theorem LinkOnly.event (p : Nat) (w : Word) (m : Mach) : LinkOnly m (m.event p w) := by
  constructor <;> simp
theorem LinkOnly.complete (i : Infl) (st : Nat) (r0 r1 : Word) (m : Mach) : LinkOnly m (m.complete i st r0 r1) :=
  ⟨rfl, rfl, rfl, rfl⟩

theorem LinkOnly.setJoined (j : Bool) (m : Mach) : LinkOnly m (m.setJoined j) :=
  .ite (.rfl' m) ((LinkOnly.modSite _ m).trans' (.event _ _ _))
theorem LinkOnly.setActing (a : Bool) (m : Mach) : LinkOnly m (m.setActing a) :=
  .ite (.rfl' m) ((LinkOnly.modSite _ m).trans' (.event _ _ _))

theorem LinkOnly.siteRefresh (m : Mach) : LinkOnly m m.siteRefresh := by
  have hev : ∀ (p : Prop) [Decidable p] (w : Word) (m : Mach), LinkOnly m (if p then m else m.event 0x0F w) :=
    fun _ _ w m => .ite (.rfl' m) (.event _ w m)
  have hr : LinkOnly m m.siteReport :=
    (((LinkOnly.modSite _ m).trans' (hev _ _ _)).trans' (hev _ _ _)).trans' (hev _ _ _)
  exact hr.trans' (.ite (.modSite _ _) (.rfl' _))

theorem LinkOnly.siteLeave (m : Mach) : LinkOnly m m.siteLeave := by
  have h := (LinkOnly.setJoined false m).trans' (.setActing false _)
  unfold Mach.siteLeave
  refine LinkOnly.trans' ?_ ((LinkOnly.modSite _ _).trans' (.siteRefresh _))
  split
  · exact h.trans' ((LinkOnly.modSite _ _).trans' (.complete _ _ _ _ _))
  · exact h

theorem LinkOnly.autoJoin (m : Mach) : LinkOnly m m.autoJoin := by
  unfold Mach.autoJoin
  refine .ite ?_ (.rfl' m)
  dsimp only
  exact .ite ⟨rfl, rfl, rfl, rfl⟩ (.ite ⟨rfl, rfl, rfl, rfl⟩ ⟨rfl, rfl, rfl, rfl⟩)

theorem LinkOnly.trackLost (m : Mach) : LinkOnly m m.trackLost :=
  .ite (.siteLeave m) (.ite ((LinkOnly.siteLeave m).trans' (.autoJoin _)) (.rfl' m))

/-- A tracker that goes to UNLOCKED keeps the configuration, the staging and the channels (R364). -/
theorem Mach.zcUnlocked_keeps (m : Mach) :
    m.zcUnlocked.active = m.active ∧ m.zcUnlocked.staged = m.staged ∧ m.zcUnlocked.chans = m.chans ∧
      m.zcUnlocked.zc.st = .unlocked := by
  unfold Mach.zcUnlocked
  split
  · next h => exact ⟨rfl, rfl, rfl, by simpa using h⟩
  · obtain ⟨ha, hs, hc, hz⟩ := LinkOnly.trackLost
      (m.modZc fun z => { z with st := .unlocked, outl := 0, run := 0, lastAt := none })
    exact ⟨ha, hs, hc, by rw [hz]; rfl⟩

theorem Mach.cfg_of_active {m m' : Mach} (h : m'.active = m.active) (a : Nat) : m'.cfg a = m.cfg a := by
  unfold Mach.cfg; rw [h]

/-! ## Direct writes by access type -/

theorem becomes_wdisc (s : State) (p : Nat) : becomes s { s with m := s.m.wdisc p } s.m :=
  becomes_withM s (Mach.quiet_wdisc p s.m) (evtKept_wdisc p s.m)

/-- A word that takes effect changes the active words alone. -/
theorem becomes_setCfg (s : State) (a : Nat) (v : Word) :
    becomes s { s with m := s.m.setCfg a v } { s.m with active := (s.m.setCfg a v).active } :=
  becomes_withM s rfl (evtKept_of_evt rfl)

theorem writable_headerPage {s : State} {a : BitVec 16} {r : Reg} (h : writable s a r) :
    headerPage s.m.dev.part (pageOf a.toNat) = true := by
  obtain ⟨he, hs, -, -⟩ := h
  exact Mach.headerPage_of_pastEnd he hs

theorem write_ro {a : BitVec 16} (w : Word) {s : State} {r : Reg} (h : writable s a r) (hr : r.acc = .ro) :
    ∃ t, exec (.registerWrite a w) s = .next t ∧ t.latched (pageOf a.toNat) 15 ∧ becomes s t s.m :=
  ⟨_, exec_registerWrite_ro w h hr, Mach.wdisc_latches (writable_headerPage h), becomes_wdisc s _⟩

theorem write_rw {a : BitVec 16} (w : Word) {s : State} {r : Reg} (h : writable s a r) (hr : r.acc = .rw)
    (hp : plainRw a) :
    ∃ t, exec (.registerWrite a w) s = .next t ∧ becomes s t { s.m with active := t.m.active } ∧
      ∀ b, t.m.cfg b = if b = a.toNat then w &&& r.mask else s.m.cfg b := by
  refine ⟨_, exec_registerWrite_rw w h hr, ?_⟩
  rw [Mach.writeRw_plain r w s.m hp]
  exact ⟨becomes_setCfg s _ _, fun b => Mach.cfg_setCfg _ b _ s.m⟩

theorem write_rl {a : BitVec 16} (w : Word) {s : State} {r : Reg} (h : writable s a r) (hr : r.acc = .rl)
    (hseal : s.m.otp.rlSeal = false) :
    ∃ t, exec (.registerWrite a w) s = .next t ∧ becomes s t { s.m with active := t.m.active } ∧
      ∀ b, t.m.cfg b = if b = a.toNat then w &&& r.mask else s.m.cfg b := by
  refine ⟨_, exec_registerWrite_rl w h hr, ?_⟩
  rw [hseal]
  exact ⟨becomes_setCfg s _ _, fun b => Mach.cfg_setCfg _ b _ s.m⟩

theorem write_rl_sealed {a : BitVec 16} (w : Word) {s : State} {r : Reg} (h : writable s a r) (hr : r.acc = .rl)
    (hseal : s.m.otp.rlSeal = true) :
    ∃ t, exec (.registerWrite a w) s = .next t ∧ t.latched (pageOf a.toNat) 15 ∧ becomes s t s.m := by
  refine ⟨_, exec_registerWrite_rl w h hr, ?_⟩
  rw [hseal]
  exact ⟨Mach.wdisc_latches (writable_headerPage h), becomes_wdisc s _⟩

/-- RING.CFGr of a claimed ring (R332). -/
theorem write_claimedRing (r : Fin 8) (w : Word) (s : State) (h : s.m.ringClaims r = true) :
    ∃ t, exec (.registerWrite (BitVec.ofNat 16 (0x0410 + r)) w) s = .next t ∧ t.latched 0x04 15 ∧ becomes s t s.m := by
  obtain ⟨g, hg, ha⟩ := writable_ringCfg r s
  refine ⟨_, exec_registerWrite_rw w hg ha, ?_⟩
  rw [toNat_ringCfg, Mach.writeRw_ringCfg r g w s.m h]
  exact ⟨Mach.wdisc_latches rfl, becomes_wdisc s _⟩

/-- ZC.CFG is a word of the KRP2448X (R392). -/
theorem writable_zcCfg {s : State} (hx : s.m.dev.part.isX = true) : writable s 0x1008 ⟨.rw, 0x1401, 0xFF01⟩ := by
  refine ⟨?_, rfl, rfl, rfl⟩
  show (!((s.m.dev.part.isX || false) && true)) = false
  rw [hx]
  rfl

theorem Mach.writeRw_zcCfg (r : Reg) (w : Word) (m : Mach) (h : bit w 0 = false) :
    m.writeRw 0x1008 r w = ((m.setCfg 0x1008 (w &&& r.mask)).zcUnlocked, false) := by
  show (if (true && !bit w 0) = true then _ else _, false) = _
  rw [h]
  rfl

/-- ZC.CFG with EN = 0 (R364). -/
theorem write_zcDisable (w : Word) (s : State) (hx : s.m.dev.part.isX = true) (hw : bit w 0 = false) :
    ∃ t, exec (.registerWrite 0x1008 w) s = .next t ∧ t.m.zc.st = .unlocked ∧ t.m.staged = s.m.staged ∧
      (∀ b, t.m.cfg b = if b = 0x1008 then w &&& (regAt 0x10 8).elim 0 Reg.mask else s.m.cfg b) ∧
      (∀ n, t.m.ch n = s.m.ch n) ∧ t.sram = s.sram ∧ sameStore s t := by
  have hrw := Mach.writeRw_zcCfg ⟨.rw, 0x1401, 0xFF01⟩ w s.m hw
  have hexec : exec (.registerWrite 0x1008 w) s =
      .next { s with m := (s.m.setCfg 0x1008 (w &&& 0xFF01)).zcUnlocked } := by
    rw [exec_registerWrite_rw w (writable_zcCfg hx) rfl, show (0x1008 : BitVec 16).toNat = 0x1008 from rfl, hrw]
  obtain ⟨ha, hs, hc, hz⟩ := Mach.zcUnlocked_keeps (s.m.setCfg 0x1008 (w &&& 0xFF01))
  exact ⟨_, hexec, hz, hs, fun b => (Mach.cfg_of_active ha b).trans (Mach.cfg_setCfg _ b _ s.m),
    Mach.ch_of_chans hc, rfl, rfl, rfl⟩

/-- A key-locked DBG page discards a write to any word but PG_EVT, and counts it as denied (R52, R431). -/
theorem write_keyLocked (off : Byte) (w : Word) (s : State) (hk : s.m.keyLocked 0x12 = true) (ho : off.toNat ≤ 0x3F)
    (h3 : off ≠ 3) :
    ∃ t, exec (.registerWrite ((0x12 : Byte) ++ off) w) s = .next t ∧ t.latched 0x12 15 ∧
      becomes s t { s.m with sec := { s.m.sec with denyCnt := inc16 s.m.sec.denyCnt } } := by
  have hp : pageOf ((0x12 : Byte) ++ off).toNat = 0x12 := pageOf_append 0x12 off
  have he : s.m.pastEnd 0x12 off.toNat = false := by
    show (!(true && decide (off.toNat ≤ 0x3F))) = false
    rw [decide_eq_true ho]
    rfl
  have h3 : (off.toNat != 3) = true := bne_iff_ne.mpr fun h => h3 (BitVec.eq_of_toNat_eq h)
  have hw : (s.m.writeReg 0x12 off.toNat w).1 = s.m.deny.wdisc 0x12 := by
    unfold Mach.writeReg
    rw [hk, h3]
    rfl
  have hk' : (s.m.deny.wdisc 0x12).keyLocked 0x12 = true := by
    rw [← hk]
    simp [Mach.keyLocked, Mach.protected?, Mach.wdisc, Mach.deny]
  refine ⟨{ s with m := s.m.deny.wdisc 0x12 }, ?_, Mach.wdisc_latches rfl,
    becomes_withM s (Mach.quiet_wdisc _ _) ((evtKept_of_evt rfl).trans' (evtKept_wdisc _ s.m.deny))⟩
  rw [exec_registerWrite, hp, offOf_append, State.writeAt_header w he rfl, hw]
  unfold State.woCommand
  rw [hk', Bool.or_true, if_pos rfl]

/-! ## The SRAM window (R45) -/

theorem sramPage_of_range {page : Nat} (hlo : 0x80 ≤ page) (hhi : page ≤ 0xBF) : sramPage page = true := by
  rw [sramPage, decide_eq_true hlo, decide_eq_true hhi]
  rfl

/-- A window page has all 256 words, on every part. -/
theorem Mach.pastEnd_sram {page off : Nat} (m : Mach) (hs : sramPage page = true) (ho : off < 256) :
    m.pastEnd page off = false := by
  have hrange : 0x80 ≤ page ∧ page ≤ 0xBF := by simpa [sramPage] using hs
  have hlast : lastOff page = 0xFF := by
    unfold lastOff
    split
    case h_20 => exact if_pos hs
    all_goals omega
  rw [Mach.pastEnd, pagePresent, hs, Bool.or_true, hlast, decide_eq_true (by omega)]
  rfl

theorem deviceCommandWords_below_sram : ∀ a ∈ deviceCommandWords, a < 0x8000 := by decide

theorem State.woCommand_sram {page off : Nat} (w : Word) (s : State) (hlo : 0x80 ≤ page) :
    s.woCommand page off w = s := by
  unfold State.woCommand
  split
  · rfl
  · have hn : (decide (0x20 ≤ page) && decide (page ≤ 0x37)) = false := by
      rw [decide_eq_false (show ¬ page ≤ 0x37 by omega), Bool.and_false]
    rw [hn, if_neg Bool.false_ne_true, if_neg (by omega)]
    refine State.woDevice2_other w s fun hm => ?_
    have := deviceCommandWords_below_sram _ hm
    unfold adr at this
    omega

/-- A write to a window page stores the word. -/
theorem exec_registerWrite_sram (page off : Byte) (w : Word) (s : State) (hlo : 0x80 ≤ page.toNat)
    (hhi : page.toNat ≤ 0xBF) :
    exec (.registerWrite (page ++ off) w) s = .next (s.sramSet (sramIndex (page.toNat - 0x80) off.toNat) w) := by
  have hs := sramPage_of_range hlo hhi
  rw [exec_registerWrite, pageOf_append, offOf_append, State.woCommand_sram w _ hlo]
  unfold State.writeAt
  rw [Mach.pastEnd_sram s.m hs off.isLt, hs]
  rfl

theorem write_sram (page off : Byte) (w : Word) (s : State) (hlo : 0x80 ≤ page.toNat) (hhi : page.toNat ≤ 0xBF) :
    ∃ t, exec (.registerWrite (page ++ off) w) s = .next t ∧ t.m = s.m ∧ sameStore s t ∧
      (∀ i, t.sramWord i = if i = 256 * (page.toNat - 0x80) + off.toNat then w else s.sramWord i) := by
  refine ⟨_, exec_registerWrite_sram page off w s hlo hhi, rfl, ⟨rfl, rfl⟩, fun i => ?_⟩
  split
  · next h => rw [h]; exact State.sramWord_sramSet _ w s
  · next h => exact State.sramWord_sramSet_ne _ i w s h

theorem writesByAccess_holds : writesByAccess :=
  ⟨fun _ w _ _ _ h => ⟨exec_registerWrite_rs w h, write_ro w h, write_rw w h, write_rl w h, write_rl_sealed w h⟩,
    write_claimedRing, write_zcDisable, exec_registerWrite_pastEnd, write_keyLocked, write_sram⟩

/-! ## RW values of several words (R57) -/

theorem heldGroup_eq_some {a : Nat} {g : Nat × Nat} (h : heldGroup a = some g) :
    g.2 = g.1 + 2 ∧ g.1 ≤ a ∧ a ≤ g.2 := by
  unfold heldGroup at h
  split at h
  · next hc => cases h; simpa using hc
  · split at h
    · next hc => cases h; simpa using hc
    · cases h

theorem exec_rwMultiwordWrite {a : BitVec 16} (w : Word) (s : State) {g : Nat × Nat} (h : heldGroup a.toNat = some g) :
    exec (.rwMultiwordWrite a w) s = .next (s.on (Mach.writeHeld g a.toNat w)) := by
  show execRwMultiwordWrite a w s = _
  simp only [execRwMultiwordWrite, h]

theorem exec_rwMultiwordWrite_none {a : BitVec 16} (w : Word) (s : State) (h : heldGroup a.toNat = none) :
    exec (.rwMultiwordWrite a w) s = .next s := by
  show execRwMultiwordWrite a w s = _
  simp only [execRwMultiwordWrite, h]

/-- A lower word waits. -/
theorem Mach.writeHeld_lower {g : Nat × Nat} {a : Nat} (w : Word) (m : Mach) (h : a < g.2) :
    m.writeHeld g a w = { m with held := m.held.set a w } := if_pos h

/-- The active words after the highest word. -/
theorem Mach.cfg_writeHeld_highest {g : Nat × Nat} (w : Word) (m : Mach) (hg : g.2 = g.1 + 2) (b : Nat) :
    (m.writeHeld g g.2 w).cfg b =
      if b = g.2 then w else if g.1 ≤ b ∧ b < g.2 then (m.held.get? b).getD (m.cfg b) else m.cfg b := by
  unfold Mach.writeHeld
  rw [if_neg (Nat.lt_irrefl _)]
  show (Mach.setCfg g.2 w _).cfg b = _
  rw [Mach.cfg_setCfg, Mach.cfg_setCfg, Mach.cfg_setCfg]
  split
  · rfl
  · split
    · next hb => subst hb; rw [if_pos (by omega)]
    · split
      · next hb => subst hb; rw [if_pos (by omega)]
      · rw [if_neg (by omega)]

theorem Mach.held_writeHeld_highest (g : Nat × Nat) (w : Word) (m : Mach) :
    (m.writeHeld g g.2 w).held.get? g.1 = none ∧ (m.writeHeld g g.2 w).held.get? (g.1 + 1) = none := by
  unfold Mach.writeHeld
  rw [if_neg (Nat.lt_irrefl _)]
  simp [WMap.get?_del]

theorem Mach.quiet_writeHeld_highest (g : Nat × Nat) (w : Word) (m : Mach) :
    (m.writeHeld g g.2 w).quiet =
      { m with active := (m.writeHeld g g.2 w).active, held := (m.writeHeld g g.2 w).held }.quiet := by
  unfold Mach.writeHeld
  rw [if_neg (Nat.lt_irrefl _)]
  rfl

theorem Mach.evt_writeHeld_highest (g : Nat × Nat) (w : Word) (m : Mach) : (m.writeHeld g g.2 w).evt = m.evt := by
  unfold Mach.writeHeld
  rw [if_neg (Nat.lt_irrefl _)]
  rfl

/-! ## Page events (R49) -/

theorem Mach.evtWord_of_evt {m m' : Mach} (h : m'.evt = m.evt) (p : Nat) : m'.evtWord p = m.evtWord p := by
  unfold Mach.evtWord; rw [h]

theorem Mach.evtWord_latchEvt (p q : Nat) (w : Word) (m : Mach) :
    (m.latchEvt p w).evtWord q = if q = p then m.evtWord p ||| w else m.evtWord q :=
  Mach.evtWord_setEvtWord p q _ m

/-- An entry lost reports on page 0x04 alone (R341). -/
theorem Mach.evtWord_eqLose (b : Bool) (m : Mach) {q : Nat} (hq : q ≠ 0x04) : (m.eqLose b).evtWord q = m.evtWord q := by
  cases b with
  | false => rfl
  | true =>
    cases hb : m.rings.eqOvf with
    | true => exact Mach.evtWord_of_evt (by simp [Mach.eqLose, hb]) q
    | false =>
      refine (Mach.evtWord_of_evt (m := m.latchEvt 0x04 0x0008) ?_ q).trans ?_
      · simp only [Mach.eqLose, hb]; rfl
      · rw [Mach.evtWord_latchEvt, if_neg hq]

theorem Mach.evtWord_collect (e : EqEv) (m : Mach) {q : Nat} (hq : q ≠ 0x04) : (m.collect e).evtWord q = m.evtWord q := by
  unfold Mach.collect
  split
  · exact Mach.evtWord_eqLose _ m hq
  · split
    · exact Mach.evtWord_eqLose _ m hq
    · rfl

/-- What an event of a page latches on the pages other than 0x04. -/
theorem Mach.evtWord_event {p : Nat} (w : Word) {m : Mach} (hp : headerPage m.dev.part p = true) {q : Nat}
    (hq : q ≠ 0x04) : (m.event p w).evtWord q = if q = p then m.evtWord p ||| w else m.evtWord q := by
  unfold Mach.event Mach.routePage
  rw [if_pos hp, ← Mach.evtWord_latchEvt p q w m]
  dsimp only
  split
  · exact Mach.evtWord_collect _ _ hq
  · rfl

/-- PG_EVT after a clear (R49). -/
theorem Mach.evtWord_cmdEvtClear {p : Nat} (bits same : Word) {m : Mach} (hp : headerPage m.dev.part p = true)
    (h4 : p ≠ 0x04) :
    (m.cmdEvtClear p bits same).evtWord p = m.evtWord p &&& ~~~ bits ||| same &&& (0x8000 ||| evtBits p) := by
  unfold Mach.cmdEvtClear
  dsimp only
  split
  · next h0 => rw [Mach.evtWord_setEvtWord, if_pos rfl, h0]; exact BitVec.or_zero.symm
  · rw [Mach.evtWord_event _ (by exact hp) h4, if_pos rfl, Mach.evtWord_setEvtWord, if_pos rfl]

/-- The events of other pages stay. -/
theorem Mach.evtKept_cmdEvtClear_ne {p q i : Nat} (bits same : Word) {m : Mach} (hq : q ≠ p)
    (h : (m.evtWord q).getLsbD i = true) : ((m.cmdEvtClear p bits same).evtWord q).getLsbD i = true := by
  have h' : ((m.setEvtWord p (m.evtWord p &&& ~~~ bits)).evtWord q).getLsbD i = true := by
    rw [Mach.evtWord_setEvtWord, if_neg hq]; exact h
  unfold Mach.cmdEvtClear
  dsimp only
  split
  · exact h'
  · exact evtKept_event _ _ _ q i h'

theorem Mach.quiet_cmdEvtClear (p : Nat) (bits same : Word) (m : Mach) : (m.cmdEvtClear p bits same).quiet = m.quiet := by
  unfold Mach.cmdEvtClear
  dsimp only
  split
  · rfl
  · rw [Mach.quiet_event, Mach.quiet_setEvtWord]

/-- PG_EVTEN written: the word takes effect, and an event may be collected (R49). -/
theorem Mach.cmdEvten_cases (p : Nat) (bits : Word) (m : Mach) :
    m.cmdEvten p bits = m.setCfg (adr p 0x04) (bits &&& (0x8000 ||| evtBits p)) ∨
      ∃ e, m.cmdEvten p bits = (m.setCfg (adr p 0x04) (bits &&& (0x8000 ||| evtBits p))).collect e := by
  unfold Mach.cmdEvten
  dsimp only
  split
  · exact .inr ⟨_, rfl⟩
  · exact .inl rfl

theorem Mach.cfg_cmdEvten (p : Nat) (bits : Word) (m : Mach) (b : Nat) :
    (m.cmdEvten p bits).cfg b = if b = adr p 4 then bits &&& (0x8000 ||| evtBits p) else m.cfg b := by
  rw [← Mach.cfg_setCfg]
  obtain h | ⟨e, h⟩ := m.cmdEvten_cases p bits
  · rw [h]
  · rw [h]; exact Mach.cfg_of_active (Mach.collect_active e _) b

theorem becomes_cmdEvten (s : State) (p : Nat) (bits : Word) :
    becomes s (s.on (Mach.cmdEvten p bits)) { s.m with active := (s.m.cmdEvten p bits).active } := by
  obtain h | ⟨e, h⟩ := s.m.cmdEvten_cases p bits
  · rw [State.on, h]
    exact becomes_setCfg s _ _
  · rw [State.on, h, Mach.collect_active]
    have hk : evtKept s.m ((s.m.setCfg (adr p 0x04) (bits &&& (0x8000 ||| evtBits p))).collect e) :=
      (evtKept_of_evt (a := s.m) (b := s.m.setCfg _ _) rfl).trans' (evtKept_collect e _)
    exact becomes_withM s (Mach.quiet_collect e _) hk

theorem exec_pgEvtClear {page : Byte} (bits same : Word) {s : State} (h : headerPage s.m.dev.part page.toNat = true) :
    exec (.pgEvtClear page bits same) s = .next (s.on (Mach.cmdEvtClear page.toNat bits same)) :=
  congrArg Host.Outcome.next (if_pos h)

theorem exec_pgEvtenWrite {page : Byte} (bits : Word) {s : State} (h : headerPage s.m.dev.part page.toNat = true)
    (hk : s.m.keyLocked page.toNat = false) :
    exec (.pgEvtenWrite page bits) s = .next (s.on (Mach.cmdEvten page.toNat bits)) := by
  show execPgEvtenWrite page bits s = _
  simp [execPgEvtenWrite, h, hk]

/-! ## Direct writes of multi-word values and of events -/

theorem write_held (a : BitVec 16) (w : Word) (s : State) (g : Nat × Nat) (h : heldGroup a.toNat = some g)
    (hlt : a.toNat < g.2) :
    ∃ t, exec (.rwMultiwordWrite a w) s = .next t ∧
      (∀ b, t.m.held.get? b = if b = a.toNat then some w else s.m.held.get? b) ∧
      becomes s t { s.m with held := t.m.held } := by
  refine ⟨_, exec_rwMultiwordWrite w s h, ?_⟩
  rw [State.on, Mach.writeHeld_lower w s.m hlt]
  exact ⟨fun b => WMap.get?_set _ _ b w, becomes_withM s rfl (evtKept_of_evt rfl)⟩

theorem write_highest (a : BitVec 16) (w : Word) (s : State) (g : Nat × Nat) (h : heldGroup a.toNat = some g)
    (heq : a.toNat = g.2) :
    ∃ t, exec (.rwMultiwordWrite a w) s = .next t ∧
      (∀ b, t.m.cfg b = if b = a.toNat then w
        else if g.1 ≤ b ∧ b < g.2 then (s.m.held.get? b).getD (s.m.cfg b) else s.m.cfg b) ∧
      (t.m.held.get? g.1 = none ∧ t.m.held.get? (g.1 + 1) = none) ∧
      becomes s t { s.m with active := t.m.active, held := t.m.held } := by
  obtain ⟨hg, -, -⟩ := heldGroup_eq_some h
  refine ⟨_, exec_rwMultiwordWrite w s h, ?_⟩
  rw [heq]
  exact ⟨Mach.cfg_writeHeld_highest w s.m hg, Mach.held_writeHeld_highest g w s.m,
    becomes_withM s (Mach.quiet_writeHeld_highest g w s.m) (evtKept_of_evt (Mach.evt_writeHeld_highest g w s.m))⟩

theorem write_pgEvt (page : Byte) (bits same : Word) (s : State) (h : headerPage s.m.dev.part page.toNat = true)
    (h4 : page ≠ 4) :
    ∃ t, exec (.pgEvtClear page bits same) s = .next t ∧
      (∀ i, t.latched page.toNat i ↔
        (s.latched page.toNat i ∧ bits.getLsbD i = false ∨ (same &&& (0x8000 ||| evtBits page.toNat)).getLsbD i = true)) ∧
      (∀ p i, p ≠ page.toNat → s.latched p i → t.latched p i) ∧
      t.m.quiet = s.m.quiet ∧ t.sram = s.sram ∧ sameStore s t := by
  have h4 : page.toNat ≠ 0x04 := fun h => h4 (BitVec.eq_of_toNat_eq h)
  refine ⟨_, exec_pgEvtClear bits same h, fun i => ?_, fun p i hp => Mach.evtKept_cmdEvtClear_ne bits same hp,
    Mach.quiet_cmdEvtClear _ _ _ _, rfl, rfl, rfl⟩
  show ((s.m.cmdEvtClear page.toNat bits same).evtWord page.toNat).getLsbD i = true ↔ _
  rw [Mach.evtWord_cmdEvtClear bits same h h4, BitVec.getLsbD_or, BitVec.getLsbD_and, BitVec.getLsbD_not, Bool.or_eq_true,
    Bool.and_eq_true, Bool.and_eq_true, Bool.not_eq_true', State.latched]
  have hi : (s.m.evtWord page.toNat).getLsbD i = true → decide (i < 16) = true := fun hb =>
    decide_eq_true (BitVec.lt_of_getLsbD hb)
  tauto

theorem write_pgEvten (page : Byte) (bits : Word) (s : State) (h : headerPage s.m.dev.part page.toNat = true)
    (hk : s.m.keyLocked page.toNat = false) :
    ∃ t, exec (.pgEvtenWrite page bits) s = .next t ∧
      (∀ b, t.m.cfg b = if b = adr page.toNat 4 then bits &&& (0x8000 ||| evtBits page.toNat) else s.m.cfg b) ∧
      becomes s t { s.m with active := t.m.active } :=
  ⟨_, exec_pgEvtenWrite bits h hk, Mach.cfg_cmdEvten _ bits s.m, becomes_cmdEvten s _ bits⟩

theorem multiwordWrites_holds : multiwordWrites :=
  ⟨fun a w s g h => ⟨write_held a w s g h, write_highest a w s g h⟩, fun _ => exec_rwMultiwordWrite_none, write_pgEvt,
    write_pgEvten⟩

/-! ## Command words (R50) -/

/-- A write to a word of a device page that starts a command is that command. -/
theorem exec_registerWrite_device {a : BitVec 16} (w : Word) {s : State} {r : Reg} (h : writable s a r) (hr : r.acc = .wo)
    (hkey : keyWordAddr a.toNat = false) (hp : pageOf a.toNat < 0x20) :
    exec (.registerWrite a w) s =
      .next (if pageOf a.toNat < 0x0A then s.woDevice a.toNat w else s.woDevice2 a.toNat w) := by
  rw [exec_registerWrite_wo w h hr hkey]
  obtain ⟨he, -, hk, -⟩ := h
  rw [State.woCommand_device w s he hk hp, adr_pageOf_offOf]

theorem toNat_channelWord {n off : Nat} (hn : n < 24) (ho : off < 256) :
    (BitVec.ofNat 16 (adr (chPage n) off)).toNat = adr (chPage n) off := by
  rw [BitVec.toNat_ofNat, Nat.mod_eq_of_lt]
  unfold adr chPage
  omega

theorem channelCommandWords_lt : ∀ off ∈ channelCommandWords, off ≤ 0x7F := by decide

theorem headerPage_chPage {p : Part} {n : Nat} (h : n < p.channels) (hn : n < 24) : headerPage p (chPage n) = true := by
  have hp : (decide (0x20 ≤ chPage n) && decide (chPage n ≤ 0x37)) = true := by
    rw [Bool.and_eq_true, decide_eq_true_iff, decide_eq_true_iff]
    unfold chPage
    omega
  rw [headerPage, if_pos hp, chPage, Nat.add_sub_cancel_left, decide_eq_true h]

theorem Mach.pastEnd_chPage {m : Mach} {n off : Nat} (h : n < m.nch) (hn : n < 24) (ho : off ≤ 0x7F) :
    m.pastEnd (chPage n) off = false := by
  have hlast : lastOff (chPage n) = 0x7F := by
    unfold lastOff chPage
    split
    case h_20 => exact if_neg (by rw [Bool.and_eq_true, decide_eq_true_iff, decide_eq_true_iff]; omega)
    all_goals omega
  rw [Mach.pastEnd, pagePresent, headerPage_chPage h hn, hlast, decide_eq_true ho]
  rfl

/-- A write to a word of a channel page that starts a command is that command. -/
theorem exec_registerWrite_channel (ch : Ch) {off : Nat} (w : Word) (s : State) (h : ch.val < s.m.nch)
    (ho : off ∈ channelCommandWords) :
    exec (.registerWrite (BitVec.ofNat 16 (adr (chPage ch) off)) w) s = .next (s.woChannel ch off w) := by
  have hlt := channelCommandWords_lt off ho
  have hn := toNat_channelWord ch.isLt (show off < 256 by omega)
  have hp : pageOf (adr (chPage ch) off) = chPage ch := by unfold pageOf adr; omega
  have hf : offOf (adr (chPage ch) off) = off := by unfold offOf adr; omega
  have he := Mach.pastEnd_chPage (m := s.m) h ch.isLt hlt
  have hc := ch.isLt
  have hw : writable s (BitVec.ofNat 16 (adr (chPage ch) off)) ⟨.wo, 0, 0xFFFF⟩ := by
    unfold writable
    rw [hn, hp, hf]
    refine ⟨he, ?_, ?_, regAt_channelCommandWords ch ch.isLt off ho⟩
    · rw [sramPage, decide_eq_false (by unfold chPage; omega), Bool.false_and]
    · rw [Mach.keyLocked, beq_false_of_ne (by unfold chPage; omega), Bool.false_and]
  have hkey : keyWordAddr (adr (chPage ch) off) = false := by
    rw [keyWordAddr, decide_eq_false (p := _ ≤ 0x0E1F) (by unfold adr chPage; omega), Bool.and_false]
  rw [exec_registerWrite_wo w hw rfl (by rw [hn]; exact hkey), hn, hp, hf, State.woCommand_channel w s he ch.isLt]

/-- A command on a single channel or leader, by its row and by its word. -/
theorem ctlLead_eq_leadCmd {n : Nat} (f : Mach → Mach) {s : State} (h : n < s.m.nch) :
    ctlLead n f s = .next (s.leadCmd n f) := by
  unfold ctlLead State.leadCmd
  simp [h]

theorem forList_congr {α σ : Type} (l : List α) (f g : α → σ → σ) (h : ∀ a ∈ l, ∀ s, f a s = g a s) (s : σ) :
    forList l f s = forList l g s := by
  induction l generalizing s with
  | nil => rfl
  | cons a t ih =>
    rw [forList_cons, forList_cons, h a List.mem_cons_self, ih fun b hb => h b (List.mem_cons_of_mem a hb)]

/-- RING.EN has eight bits (R333). -/
theorem Mach.cmdRingEn_low (w : Word) (m : Mach) : m.cmdRingEn (w &&& 0xFF) = m.cmdRingEn w := by
  refine forList_congr _ _ _ (fun r hr m => ?_) m
  have hr : r < 8 := List.mem_range.mp hr
  have hbit : bit (w &&& 0xFF) r = bit w r := by
    have hm : (0xFF : Word).getLsbD r = true := by
      have : ∀ k < 8, (0xFF : Word).getLsbD k = true := by decide
      exact this r hr
    rw [bit, BitVec.getLsbD_and, hm, Bool.and_true, bit]
  rw [hbit]

theorem ctlCh_of_lt {n : Nat} (f : Mach → Mach) {s : State} (h : n < s.m.nch) : ctlCh n f s = .next (s.ctl f) := by
  unfold ctlCh
  rw [if_pos h]

theorem State.on_of_lt {n : Nat} (f : Mach → Mach) {s : State} (h : n < s.m.nch) :
    s.on (fun m => if n < m.nch then f m else m) = s.on f :=
  congrArg (fun m => { s with m := m }) (if_pos h)

theorem exec_clrE {ch : Ch} {s : State} (h : ch.val < s.m.nch) :
    exec (.clrE ch none) s = .next (s.on (Mach.cmdClrE ch)) :=
  congrArg Host.Outcome.next (State.on_of_lt (Mach.cmdClrE ch) h)

theorem commandWords_holds : commandWords := by
  intro w ch s h
  have hd : ∀ (a : BitVec 16) (v : Word), writable s a ⟨.wo, 0, 0xFFFF⟩ → keyWordAddr a.toNat = false →
      pageOf a.toNat < 0x20 → exec (.registerWrite a v) s =
        .next (if pageOf a.toNat < 0x0A then s.woDevice a.toNat v else s.woDevice2 a.toNat v) :=
    fun a v hw => exec_registerWrite_device v hw rfl
  refine ⟨hd 0x0510 w ⟨rfl, rfl, rfl, rfl⟩ rfl (by decide), hd 0x0511 1 ⟨rfl, rfl, rfl, rfl⟩ rfl (by decide),
    hd 0x0511 2 ⟨rfl, rfl, rfl, rfl⟩ rfl (by decide), hd 0x0512 _ ⟨rfl, rfl, rfl, rfl⟩ rfl (by decide), fun hw => ?disarm,
    hd 0x0409 w ⟨rfl, rfl, rfl, rfl⟩ rfl (by decide), hd 0x040E _ ⟨rfl, rfl, rfl, rfl⟩ rfl (by decide), ?ringEn,
    hd 0x000F _ ⟨rfl, rfl, rfl, rfl⟩ rfl (by decide), hd 0x0B0A w ⟨rfl, rfl, rfl, rfl⟩ rfl (by decide),
    ?retry, ?fault, ?energy, ?clamp⟩
  case disarm =>
    rw [hd 0x0512 w ⟨rfl, rfl, rfl, rfl⟩ rfl (by decide)]
    exact congrArg Host.Outcome.next (if_neg hw)
  case ringEn =>
    rw [exec_registerWrite_rw (r := ⟨.rw, 0, 0x00FF⟩) w ⟨rfl, rfl, rfl, rfl⟩ rfl]
    exact congrArg (fun m => Host.Outcome.next { s with m := m }) (Mach.cmdRingEn_low w s.m).symm
  case retry =>
    rw [exec_registerWrite_channel ch 0x5201 s h (by decide)]
    exact (ctlLead_eq_leadCmd (Mach.cmdCountClear ch) h).symm
  case fault =>
    rw [exec_registerWrite_channel ch 0xFC01 s h (by decide)]
    exact (ctlLead_eq_leadCmd (Mach.cmdFaultClear ch) h).symm
  case energy =>
    rw [exec_registerWrite_channel ch 0x4D02 s h (by decide), exec_clrE h]
    rfl
  case clamp =>
    rw [exec_registerWrite_channel ch 1 s h (by decide)]
    exact (ctlCh_of_lt _ h).symm

end Sys2Proof.Machine

section
open Sys2Proof.Machine

/-- Settles O46: a write by access type, the multi-word values with the page events, and the command words. -/
theorem directWrites : Obligations.DirectWrites :=
  ⟨writesByAccess_holds, multiwordWrites_holds, commandWords_holds⟩

end

/-! SUPPORT and PROOF of O45: DEV.TIME, and the clears of counters and readings. -/

namespace Sys2Proof.Machine

/-! ## Converter samples leave the device words -/

@[simp] theorem Mach.modMeas_dev (n : Nat) (f : Meas → Meas) (m : Mach) : (m.modMeas n f).dev = m.dev :=
  Mach.modCh_dev n _ m

@[simp] theorem Mach.modSig_dev (n : Nat) (f : Sig → Sig) (m : Mach) : (m.modSig n f).dev = m.dev := Mach.modCh_dev n _ m

theorem Mach.sampleVbb_dev (v : Nat) (m : Mach) : (m.sampleVbb v).dev = m.dev := by
  unfold Mach.sampleVbb
  dsimp only
  split
  · rfl
  · rw [Mach.event_dev]

theorem Mach.sampleCh_dev (n : Nat) (i vds : Int) (m : Mach) : (m.sampleCh n i vds).dev = m.dev := by
  unfold Mach.sampleCh
  exact Mach.modMeas_dev n _ m

theorem Mach.sampleVout_dev (n : Nat) (v : Int) (m : Mach) : (m.sampleVout n v).dev = m.dev := by
  unfold Mach.sampleVout
  exact Mach.modMeas_dev n _ m

theorem State.sigSample_dev (n : Nat) (i : Int) (s : State) : (s.sigSample n i).m.dev = s.m.dev := by
  unfold State.sigSample
  dsimp only
  split
  · split
    · rfl
    · split <;> simp
  · split
    · simp
    · rfl

/-- A grid sample changes no word of the device page (R170). -/
theorem sampleAll_dev (x : Sample) (s : State) : (sampleAll x s).m.dev = s.m.dev := by
  have hch : ∀ m : Mach, (forList m.allCh (fun n m => m.sampleCh n (nth x.i n 0) (nth x.vds n 0)) m).dev = m.dev :=
    fun m => forList_keeps Mach.dev _ _ (fun n _ m => Mach.sampleCh_dev n _ _ m) m
  have hvout : ∀ m : Mach, (forList m.allCh (fun n m => m.sampleVout n (nth x.vout n 0)) m).dev = m.dev :=
    fun m => forList_keeps Mach.dev _ _ (fun n _ m => Mach.sampleVout_dev n _ m) m
  unfold sampleAll
  split
  · rfl
  · dsimp only
    rw [forList_keeps (fun s : State => s.m.dev) _ _ (fun n _ s => State.sigSample_dev n _ s)]
    show Mach.dev (if x.vout.isEmpty = true then _ else _) = _
    split
    · rw [hch, Mach.sampleVbb_dev]
    · rw [hvout, hch, Mach.sampleVbb_dev]

/-! ## DEV.TIME takes DEV.TSET (R451, R459) -/

/-- A tick commit waits. -/
def Mach.tickWaits (m : Mach) : Bool := (m.cmt.pend.map fun p => applyOf p.ctl == 3).getD false

theorem Mach.tickWaits_eq_false {m : Mach} (h : ∀ p, m.cmt.pend = some p → applyOf p.ctl ≠ 3) : m.tickWaits = false := by
  unfold Mach.tickWaits
  cases hp : m.cmt.pend with
  | none => rfl
  | some p => exact beq_false_of_ne (h p hp)

theorem Mach.tickWaits_eq_true {m : Mach} {p : Pending} (hp : m.cmt.pend = some p) (h : applyOf p.ctl = 3) :
    m.tickWaits = true := by
  unfold Mach.tickWaits
  rw [hp]
  exact beq_iff_eq.mpr h

theorem exec_tset (s : State) :
    exec .tset s = .next { s with m :=
      if s.m.tickWaits = true then s.m.event 0x00 0x0010
      else ({ s.m with time := s.m.cfg 0x0015 ++ s.m.cfg 0x0014 ++ s.m.cfg 0x0013 } : Mach).event 0x00 0x0008 } := rfl

theorem tset_sets (s : State) (h : ∀ p, s.m.cmt.pend = some p → applyOf p.ctl ≠ 3) :
    ∃ t, exec .tset s = .next t ∧ t.latched 0x00 3 ∧
      becomes s t { s.m with time := s.m.cfg 0x0015 ++ s.m.cfg 0x0014 ++ s.m.cfg 0x0013 } := by
  refine ⟨_, exec_tset s, ?_⟩
  rw [Mach.tickWaits_eq_false h, if_neg Bool.false_ne_true]
  have hk : evtKept s.m { s.m with time := s.m.cfg 0x0015 ++ s.m.cfg 0x0014 ++ s.m.cfg 0x0013 } := evtKept_of_evt rfl
  exact ⟨Mach.event_latches rfl (by decide),
    becomes_withM s (Mach.quiet_event _ _ _) (hk.trans' (evtKept_event _ _ _))⟩

theorem tset_refused (s : State) (p : Pending) (hp : s.m.cmt.pend = some p) (h : applyOf p.ctl = 3) :
    ∃ t, exec .tset s = .next t ∧ t.latched 0x00 4 ∧ becomes s t s.m := by
  refine ⟨_, exec_tset s, ?_⟩
  rw [Mach.tickWaits_eq_true hp h, if_pos rfl]
  exact ⟨Mach.event_latches rfl (by decide), becomes_withM s (Mach.quiet_event _ _ _) (evtKept_event _ _ _)⟩

/-! ## The clears of the KRP2448X and of a channel -/

theorem exec_zcClrCnt (s : State) : exec .zcClrCnt s = .next (s.on (Mach.ifX Mach.cmdZcClr)) := rfl
theorem exec_siteClrCnt (s : State) : exec .siteClrCnt s = .next (s.on (Mach.ifX Mach.cmdSiteClr)) := rfl

theorem State.on_ifX {s : State} (f : Mach → Mach) (h : s.m.dev.part.isX = true) : s.on (Mach.ifX f) = s.on f :=
  congrArg (fun m => { s with m := m }) (if_pos h)

theorem State.on_ifX_not {s : State} (f : Mach → Mach) (h : s.m.dev.part.isX = false) : s.on (Mach.ifX f) = s :=
  congrArg (fun m => { s with m := m }) (if_neg (by rw [h]; exact Bool.false_ne_true))

/-- A clear in the step of a sample: the sample of the cleared channel, and its increment into the residue (R175). -/
theorem exec_clrE_sample {ch : Ch} {x : Sample} {s : State} (h : ch.val < s.m.nch)
    (hw : (Instr.clrE ch (some x)).WellFormed = true) :
    exec (.clrE ch (some x)) s =
      .next ((sampleAll x (s.on (Mach.cmdClrE ch))).on (Mach.modMeas ch Meas.intoResidue)) := by
  have hn : ch.val < (sampleAll x (s.on (Mach.cmdClrE ch))).m.nch := by
    rw [Mach.nch, sampleAll_dev, State.on_m, Mach.cmdClrE, Mach.modMeas_dev]
    exact h
  show guardWf _ _ = _
  rw [guardWf, if_pos hw, State.on_of_lt (Mach.cmdClrE ch) h]
  exact congrArg Host.Outcome.next (State.on_of_lt _ hn)

theorem exec_converterSample {x : Sample} (s : State) (h : x.wellFormed = true) :
    exec (.converterSample x) s = .next (sampleAll x s) := if_pos h

end Sys2Proof.Machine

section
open Sys2Proof.Machine

/-- Settles O45: each command's equation, and for a clear in the step of a sample that the sample leaves the part. -/
theorem clearsAreExact : Obligations.ClearsAreExact := by
  refine ⟨tset_sets, tset_refused, fun s => ⟨rfl, rfl, rfl, rfl, rfl, rfl, rfl⟩, fun s hx => ?onX, fun s hx => ?notX,
    fun ch s h => ?channel, fun ch x s h hw => ?sample⟩
  case onX => rw [exec_zcClrCnt, exec_siteClrCnt, State.on_ifX _ hx, State.on_ifX _ hx]; exact ⟨rfl, rfl⟩
  case notX => rw [exec_zcClrCnt, exec_siteClrCnt, State.on_ifX_not _ hx, State.on_ifX_not _ hx]; exact ⟨rfl, rfl⟩
  case channel =>
    exact ⟨congrArg Host.Outcome.next (State.on_of_lt (Mach.cmdClrPeak ch) h), exec_clrE h,
      congrArg Host.Outcome.next (State.on_of_lt (Mach.cmdClrSig ch) h)⟩
  case sample => exact ⟨_, exec_converterSample _ hw, exec_clrE_sample h hw⟩

end

/-! SUPPORT and PROOF of O12: reads and writes of absent pages and of the SRAM window, by frames and directly. -/

namespace Sys2Proof.Machine

/-! ## The end of a frame (R306, R329, R330) -/

theorem Mach.endFrame_tx (cmd : Nat) (addr : Word) (r : FrameRes) (m : Mach) :
    (m.endFrame cmd addr r).port.tx = m.port.tx := by
  unfold Mach.endFrame
  dsimp only
  split
  · rfl
  · rw [Mach.event_port]

theorem Mach.endFrame_pastEnd (cmd : Nat) (addr : Word) (r : FrameRes) (m : Mach) :
    (m.endFrame cmd addr r).port.pastEnd = r.past := by
  unfold Mach.endFrame
  dsimp only
  split
  · rfl
  · rw [Mach.event_port]

/-- The end of a frame changes the port and CSN, and reports events. -/
theorem Mach.endFrame_quiet (cmd : Nat) (addr : Word) (r : FrameRes) (m : Mach) :
    (m.endFrame cmd addr r).quiet =
      { m with port := (m.endFrame cmd addr r).port, mst := { m.mst with csn := true } }.quiet := by
  unfold Mach.endFrame
  dsimp only
  split
  · rfl
  · rw [Mach.quiet_event, Mach.event_port]

theorem evtKept_endFrame (cmd : Nat) (addr : Word) (r : FrameRes) (m : Mach) : evtKept m (m.endFrame cmd addr r) := by
  unfold Mach.endFrame
  dsimp only
  split
  · exact evtKept_of_evt rfl
  · intro p i h
    exact evtKept_event _ _ _ p i h

/-- PAST_END stands among the events of a frame that went past a page's end, whatever else it reports. -/
theorem flagsNat_past : ∀ crc frame late disc : Bool,
    flagsNat [crc, frame, true, disc, late] ≠ 0 ∧ (wd (flagsNat [crc, frame, true, disc, late])).getLsbD 2 = true := by
  decide

theorem Mach.endFrame_latches_past (cmd : Nat) (addr : Word) {r : FrameRes} (m : Mach) (h : r.past = true) :
    ((m.endFrame cmd addr r).evtWord 0x03).getLsbD 2 = true := by
  obtain ⟨hev, hbit⟩ := flagsNat_past r.crc r.frame r.late r.disc
  unfold Mach.endFrame
  dsimp only
  rw [h, if_neg hev]
  exact Mach.event_latches rfl hbit

/-! ## Reading (R3, R45) -/

theorem two_mul_sramIndex (p k : Nat) : 2 * sramIndex p k = 512 * p + 2 * k := by
  unfold sramIndex
  omega

theorem State.readAt_pastEnd {page off : Nat} {s : State} (h : s.m.pastEnd page off = true) : s.readAt page off = (0, s) := by
  unfold State.readAt
  rw [if_pos h]

/-- Every word of an absent page reads 0x0000 (R3). -/
theorem State.readBurst_absent {page : Nat} {s : State} (h : pagePresent s.m.dev.part page = false) (n : Nat) :
    ∀ off, State.readBurst page off n s = (List.replicate n 0, s) := by
  induction n with
  | zero => intro off; rfl
  | succ n ih =>
    intro off
    unfold State.readBurst
    rw [State.readAt_pastEnd (Mach.pastEnd_of_absent off h)]
    dsimp only
    rw [ih (off + 1)]
    rfl

/-- A window word whose cells hold no error reads as its two bytes (R45, R46). -/
theorem State.readAt_sram {page off : Nat} {s : State} (hs : sramPage page = true) (ho : off < 256) (he : s.eccBad = []) :
    s.readAt page off = (s.sramWord (sramIndex (page - 0x80) off), s) := by
  unfold State.readAt State.sramRead
  rw [Mach.pastEnd_sram s.m hs ho, hs, he]
  rfl

/-! ## Frames in addressed mode -/

theorem State.addressed_on {cmd : Nat} (x : ChainStage) (f : State → State) {s : State} (hon : s.m.portOn = true)
    (hc : s.m.port.chain = false) : s.addressed cmd x f = f (s.on Mach.beginFrame) := by
  unfold State.addressed
  rw [hon, hc]
  rfl

/-- READ of whole words without an underrun (R308). -/
theorem exec_read {f : ReadFrame} {s : State} (hon : s.m.portOn = true) (hc : s.m.port.chain = false)
    (hcut : f.cut = false) (hcmd : f.cmd = none) :
    exec (.read f) s = .next ((s.on Mach.beginFrame).readWords 0x03 f) := by
  have hwf : (Instr.read f).WellFormed = true := by
    show f.cmd.all unlisted = true
    rw [hcmd]
    rfl
  show guardWf (.read f) (.next (s.readFrame 0x03 f)) = _
  rw [guardWf, if_pos hwf, State.readFrame, State.addressed_on f.stage _ hon hc]
  simp [hcut, hcmd]

/-- The words a read frame without an underrun sends. -/
theorem State.readWords_tx {cmd : Nat} {f : ReadFrame} {s : State} (hl : f.late = none) (hp : f.part = false) :
    (s.readWords cmd f).m.port.tx = (s.readBurst (pageOf f.addr.toNat) (offOf f.addr.toNat) f.words).1 := by
  unfold State.readWords
  dsimp only
  rw [State.on_m, Mach.endFrame_tx]
  simp [Mach.sendRead, Mach.send, hl, hp, sentWords]

/-- A read frame on an absent page reports PAST_END (R3). -/
theorem State.readWords_absent {cmd : Nat} {f : ReadFrame} {s : State}
    (h : pagePresent s.m.dev.part (pageOf f.addr.toNat) = false) (hw : f.words ≠ 0) :
    (s.readWords cmd f).m.port.pastEnd = true ∧ (s.readWords cmd f).latched 0x03 2 := by
  have hpast : (f.words != 0 && s.m.pastEnd (pageOf f.addr.toNat) (offOf f.addr.toNat + f.words - 1)) = true := by
    rw [Mach.pastEnd_of_absent _ h, Bool.and_true]
    exact bne_iff_ne.mpr hw
  unfold State.readWords State.latched
  dsimp only
  rw [State.on_m, Mach.endFrame_pastEnd]
  exact ⟨hpast, Mach.endFrame_latches_past _ _ _ hpast⟩

theorem read_absent (f : ReadFrame) (s : State) (hon : s.m.portOn = true) (hc : s.m.port.chain = false) (hcut : f.cut = false)
    (hl : f.late = none) (hcmd : f.cmd = none) (hp : f.part = false)
    (h : pagePresent s.m.dev.part (pageOf f.addr.toNat) = false) :
    ∃ t, exec (.read f) s = .next t ∧ t.m.port.tx = List.replicate f.words 0 ∧
      (f.words ≠ 0 → t.m.port.pastEnd = true ∧ t.latched 0x03 2) := by
  refine ⟨_, exec_read hon hc hcut hcmd, ?_, State.readWords_absent h⟩
  rw [State.readWords_tx hl hp, State.readBurst_absent (s := s.on Mach.beginFrame) h]

/-- A read of one word of the window. -/
theorem read_sram (page k : Byte) (x : ChainStage) (s : State) (hlo : 0x80 ≤ page.toNat) (hhi : page.toNat ≤ 0xBF)
    (he : s.eccBad = []) (hon : s.m.portOn = true) (hc : s.m.port.chain = false) :
    ∃ t, exec (.read ⟨page ++ k, 1, false, false, [], none, none, x⟩) s = .next t ∧
      t.m.port.tx = [Memory.read s.sram (512 * (page.toNat - 0x80) + 2 * k.toNat + 1) ++
        Memory.read s.sram (512 * (page.toNat - 0x80) + 2 * k.toNat)] := by
  refine ⟨_, exec_read hon hc rfl rfl, ?_⟩
  rw [State.readWords_tx rfl rfl, pageOf_append, offOf_append]
  unfold State.readBurst
  rw [State.readAt_sram (sramPage_of_range hlo hhi) k.isLt (by exact he)]
  show [s.sramWord _] = _
  rw [State.sramWord, two_mul_sramIndex]

/-! ## Writes to absent pages and to the window -/

/-- WRITE of one word whose framing and CRC are good (R313). -/
theorem exec_write_word {a w : Word} {x : ChainStage} {s : State} (hon : s.m.portOn = true) (hc : s.m.port.chain = false) :
    exec (.write ⟨a, false, 16 + (if s.m.crcOn then 8 else 0), [w], crc8 (0x02 :: wordSent a ++ wordSent w), x⟩) s =
      .next (let (t, k) := (s.on Mach.beginFrame).writeFrameWords a [w]
        t.on (Mach.endFrame 0x02 a ⟨false, false, k.pastEnd, false, k.wdisc⟩)) := by
  show Host.Outcome.next (State.writeFrame 0x02 _ s) = _
  rw [State.writeFrame, State.addressed_on _ _ hon hc]
  have hcrc : s.m.beginFrame.crcOn = s.m.crcOn := rfl
  simp [hcrc, writeFramed]

theorem State.writeFrameWords_absent {a : Word} (w : Word) {s : State}
    (h : pagePresent s.m.dev.part (pageOf a.toNat) = false) : s.writeFrameWords a [w] = (s, ⟨true, false⟩) := by
  have he := Mach.pastEnd_of_absent (m := s.m) (offOf a.toNat) h
  simp [State.writeFrameWords, State.writeWords, State.runCommands, State.writeAt_pastEnd w he, State.woCommand_pastEnd w he]

theorem write_absent (a w : Word) (s : State) (h : pagePresent s.m.dev.part (pageOf a.toNat) = false) (x : ChainStage)
    (hon : s.m.portOn = true) (hc : s.m.port.chain = false) :
    ∃ t, exec (.write ⟨a, false, 16 + (if s.m.crcOn then 8 else 0), [w],
        crc8 (0x02 :: wordSent a ++ wordSent w), x⟩) s = .next t ∧ t.m.port.pastEnd = true ∧ t.latched 0x03 2 ∧
      becomes s t { s.m with port := t.m.port, mst := { s.m.mst with csn := true, wdgGrant := false } } := by
  refine ⟨_, exec_write_word hon hc, ?_⟩
  rw [State.writeFrameWords_absent (s := s.on Mach.beginFrame) w h]
  have hk : evtKept s.m s.m.beginFrame := evtKept_of_evt rfl
  exact ⟨Mach.endFrame_pastEnd _ _ _ _, Mach.endFrame_latches_past _ _ _ rfl,
    becomes_withM s (Mach.endFrame_quiet _ _ _ s.m.beginFrame) (hk.trans' (evtKept_endFrame _ _ _ _))⟩

/-- The two bytes of a window word after it is written (R45). -/
theorem write_sram_bytes (page k : Byte) (w : Word) (s : State) (hlo : 0x80 ≤ page.toNat) (hhi : page.toNat ≤ 0xBF) :
    ∃ t, exec (.registerWrite (page ++ k) w) s = .next t ∧
      (∀ a, Memory.read t.sram a = if a = 512 * (page.toNat - 0x80) + 2 * k.toNat then w.extractLsb' 0 8
        else if a = 512 * (page.toNat - 0x80) + 2 * k.toNat + 1 then w.extractLsb' 8 8 else Memory.read s.sram a) := by
  refine ⟨_, exec_registerWrite_sram page k w s hlo hhi, fun a => ?_⟩
  rw [State.read_sramSet, two_mul_sramIndex]
  by_cases h : a = 512 * (page.toNat - 0x80) + 2 * k.toNat
  · rw [if_neg (by omega), if_pos h, if_pos h]
  · simp only [if_neg h]

end Sys2Proof.Machine

section
open Sys2Proof.Machine

/-- Settles O12: an absent page is past its end at every offset, and a window word is its two bytes. -/
theorem absentPagesAndTheSramWindow : Obligations.AbsentPagesAndTheSramWindow :=
  ⟨read_absent,
    fun a w s h => ⟨exec_registerWrite_pastEnd a w s (Mach.pastEnd_of_absent _ h), write_absent a w s h⟩,
    read_sram, write_sram_bytes⟩

end

end

-- Proofs of the statements of 01_architecture.md: turn-off faults and trips, clocks, STARTUP, limp-home, captures.
section

/-! SUPPORT. What switching channels can change: one frame relation, what it lets later proofs read, and the rule of each
operation on a gate, a state or a fault record. -/

namespace Sys2Proof.Machine
open Claim

/-! ## The frame of a switching -/

/-- `m'` follows `m` by switching: the view `v` stays, no latched event and no capture is lost, and only the states of the
channels `js` move. -/
structure Moved (v : Mach → Mach) (js : List Nat) (m m' : Mach) : Prop where
  view : v m' = v m
  evt  : evtKept m m'
  caps : ∀ n, (m'.ch n).sig.cap = (m.ch n).sig.cap
  st   : ∀ n, n ∉ js → (m'.ch n).st = (m.ch n).st

/-- The view of `restarts`: a machine beside the switching of `ks`, without their counts of cuts. -/
def Mach.besideUncut (ks : List Nat) (m : Mach) : Mach := (m.beside ks).uncut ks

/-- Switching of the channels `ks` that counts no cut. -/
abbrev Switched (ks : List Nat) : List Nat → Mach → Mach → Prop := Moved (Mach.beside ks)
/-- Switching of the channels `ks` in which cuts may be counted. -/
abbrev Restarted (ks : List Nat) : List Nat → Mach → Mach → Prop := Moved (Mach.besideUncut ks)

theorem Moved.rfl' (v : Mach → Mach) (js : List Nat) (m : Mach) : Moved v js m m :=
  ⟨rfl, evtKept.rfl' m, fun _ => rfl, fun _ _ => rfl⟩

theorem Moved.trans' {v : Mach → Mach} {js : List Nat} {a b c : Mach} (h : Moved v js a b) (k : Moved v js b c) :
    Moved v js a c :=
  ⟨k.view.trans h.view, h.evt.trans' k.evt, fun n => (k.caps n).trans (h.caps n),
    fun n hn => (k.st n hn).trans (h.st n hn)⟩

theorem Moved.mono {v : Mach → Mach} {js js' : List Nat} {m m' : Mach} (hs : js ⊆ js') (h : Moved v js m m') :
    Moved v js' m m' := ⟨h.view, h.evt, h.caps, fun n hn => h.st n fun hj => hn (hs hj)⟩

/-- A switching that moves no state moves those of any channels at most. -/
theorem Moved.any {v : Mach → Mach} {m m' : Mach} (js : List Nat) (h : Moved v [] m m') : Moved v js m m' :=
  h.mono (List.nil_subset js)

theorem Moved.ite {v : Mach → Mach} {js : List Nat} {m a b : Mach} {p : Prop} [Decidable p] (ha : Moved v js m a)
    (hb : Moved v js m b) : Moved v js m (if p then a else b) := by
  split
  · exact ha
  · exact hb

theorem Moved.forList {α : Type} {v : Mach → Mach} {js : List Nat} (l : List α) (f : α → Mach → Mach)
    (h : ∀ a ∈ l, ∀ m, Moved v js m (f a m)) (m : Mach) : Moved v js m (forList l f m) :=
  forList_rel (Moved v js) l f (Moved.rfl' v js) (fun _ _ _ => Moved.trans') h m

theorem Moved.restarted {ks js : List Nat} {m m' : Mach} (h : Switched ks js m m') : Restarted ks js m m' :=
  ⟨congrArg (Mach.uncut ks) h.view, h.evt, h.caps, h.st⟩

/-- What switching can change beside the calm machine. -/
theorem Mach.beside_of_calm {m m' : Mach} (ks : List Nat) (h : m.calm = m'.calm) : m.beside ks = m'.beside ks := by
  let F (x : Mach) : Mach :=
    { x with chans := vmap x.chans fun k c => if ks.contains k.val then c.still else c
             outs := vmap x.outs fun o u => if ks.contains o.val then u.still else u
             frq := [], jnl := { x.jnl with supp := [] }, dev := { x.dev with frLost := 0 } }
  exact (congrArg F h : F m.calm = F m'.calm)

/-! ## The rule of a change of one channel or output -/

theorem vmap_congr {α : Type} {n : Nat} {v w : Vector α n} {f : Fin n → α → α}
    (h : ∀ i : Fin n, f i v[i] = f i w[i]) : vmap v f = vmap w f :=
  congrArg Vector.ofFn (funext h)

theorem Mach.beside_modCh {ks : List Nat} {n : Nat} {f : Chan → Chan} (m : Mach) (hn : n ∈ ks)
    (hf : ∀ c, (f c).still = c.still) : (m.modCh n f).beside ks = m.beside ks := by
  unfold Mach.modCh
  split
  · next h =>
    have hv : (vmap (vmap (vmod m.chans ⟨n, h⟩ f) fun _ c => { c with sig := Sig.reset })
          fun k c => if ks.contains k.val then c.still else c) =
        vmap (vmap m.chans fun _ c => { c with sig := Sig.reset }) fun k c => if ks.contains k.val then c.still else c := by
      refine vmap_congr fun i => ?_
      simp only [vmap, Fin.getElem_fin, Vector.getElem_ofFn, vmod_get]
      by_cases hi : i.val = n
      · have hk : ks.contains i.val = true := List.contains_iff_mem.mpr (hi ▸ hn)
        rw [if_pos hi, if_pos hk, if_pos hk]
        exact hf _
      · rw [if_neg hi]
    exact congrArg (fun v => { m.beside ks with chans := v }) hv
  · rfl

theorem Mach.beside_modOut {ks : List Nat} {o : Nat} {f : OutUnit → OutUnit} (m : Mach) (ho : o ∈ ks)
    (hf : ∀ u, (f u).still = u.still) : (m.modOut o f).beside ks = m.beside ks := by
  unfold Mach.modOut
  split
  · next h =>
    have hv : (vmap (vmod m.outs ⟨o, h⟩ f) fun o u => if ks.contains o.val then u.still else u) =
        vmap m.outs fun o u => if ks.contains o.val then u.still else u := by
      refine vmap_congr fun i => ?_
      simp only [Fin.getElem_fin, vmod_get]
      by_cases hi : i.val = o
      · have hk : ks.contains i.val = true := List.contains_iff_mem.mpr (hi ▸ ho)
        rw [if_pos hi, if_pos hk, if_pos hk]
        exact hf _
      · rw [if_neg hi]
    exact congrArg (fun v => { m.beside ks with outs := v }) hv
  · rfl

/-- A change of a channel of `ks` that the frame hides, and that keeps its capture and its state. -/
theorem Switched.modCh {ks : List Nat} {n : Nat} {f : Chan → Chan} (m : Mach) (hn : n ∈ ks)
    (hf : ∀ c, (f c).still = c.still := by intro _; rfl) (hc : ∀ c, (f c).sig.cap = c.sig.cap := by intro _; rfl)
    (hs : ∀ c, (f c).st = c.st := by intro _; rfl) : Switched ks [] m (m.modCh n f) where
  view := Mach.beside_modCh m hn hf
  evt := evtKept_of_evt (Mach.modCh_evt _ _ _)
  caps k := Mach.ch_modCh_view (fun c => c.sig.cap) n k f m hc
  st k _ := Mach.ch_modCh_view (fun c => c.st) n k f m hs

/-- The same for a change that moves the channel's state. -/
theorem Switched.modCh_st {ks : List Nat} {n : Nat} {f : Chan → Chan} (m : Mach) (hn : n ∈ ks)
    (hf : ∀ c, (f c).still = c.still) (hc : ∀ c, (f c).sig.cap = c.sig.cap) : Switched ks [n] m (m.modCh n f) where
  view := Mach.beside_modCh m hn hf
  evt := evtKept_of_evt (Mach.modCh_evt _ _ _)
  caps k := Mach.ch_modCh_view (fun c => c.sig.cap) n k f m hc
  st k hk := by rw [Mach.ch_modCh_ne _ _ _ _ (List.ne_of_not_mem_cons hk)]

/-- A change of an output of `ks` that the frame hides. -/
theorem Switched.modOut {ks : List Nat} {o : Nat} {f : OutUnit → OutUnit} (m : Mach) (ho : o ∈ ks)
    (hf : ∀ u, (f u).still = u.still := by intro _; rfl) : Switched ks [] m (m.modOut o f) where
  view := Mach.beside_modOut m ho hf
  evt := evtKept_of_evt (Mach.modOut_evt _ _ _)
  caps k := by rw [Mach.ch_of_chans (Mach.modOut_chans o f m)]
  st k _ := by rw [Mach.ch_of_chans (Mach.modOut_chans o f m)]

/-- An effect on what the frame hides of the machine itself. -/
theorem Switched.of_chans {ks : List Nat} {m m' : Mach} (hv : m'.beside ks = m.beside ks) (he : evtKept m m')
    (hc : m'.chans = m.chans) : Switched ks [] m m' :=
  ⟨hv, he, fun n => by rw [Mach.ch_of_chans hc], fun n _ => by rw [Mach.ch_of_chans hc]⟩

theorem Switched.event (ks : List Nat) (p : Nat) (w : Word) (m : Mach) : Switched ks [] m (m.event p w) :=
  .of_chans (Mach.beside_of_calm ks (Mach.calm_event p w m)) (evtKept_event p w m) (Mach.event_chans p w m)

/-! ## What decides modes, holds and words -/

/-- What of a channel decides the holds on it and the cuts of its output. -/
def Chan.rules (c : Chan) : Bool × Bool × Bool × Bool := (c.thm.ownHold, c.thm.stopHold, c.limp.siteHold, c.prot.clim)

/-- Two machines in which the same words, modes, groups, holds and cut sources are in force. -/
structure SameRules (m m' : Mach) : Prop where
  active   : m'.active = m.active
  otp      : m'.otp = m.otp
  part     : m'.dev.part = m.dev.part
  governed : m'.dev.governed = m.dev.governed
  phase    : m'.dev.phase = m.dev.phase
  thm      : m'.thm = m.thm
  trips    : m'.trips = m.trips
  vbbUv    : m'.pwr.vbbUv = m.pwr.vbbUv
  rules    : ∀ n, (m'.ch n).rules = (m.ch n).rules

theorem SameRules.rfl' (m : Mach) : SameRules m m := ⟨rfl, rfl, rfl, rfl, rfl, rfl, rfl, rfl, fun _ => rfl⟩
theorem SameRules.trans' {a b c : Mach} (h : SameRules a b) (k : SameRules b c) : SameRules a c :=
  ⟨k.active.trans h.active, k.otp.trans h.otp, k.part.trans h.part, k.governed.trans h.governed, k.phase.trans h.phase,
    k.thm.trans h.thm, k.trips.trans h.trips, k.vbbUv.trans h.vbbUv, fun n => (k.rules n).trans (h.rules n)⟩

section
variable {m m' : Mach} (h : SameRules m m')
include h

theorem SameRules.cfg (a : Nat) : m'.cfg a = m.cfg a := Mach.cfg_of_active h.active a
theorem SameRules.nch : m'.nch = m.nch := by unfold Mach.nch; rw [h.part]
theorem SameRules.allCh : m'.allCh = m.allCh := by unfold Mach.allCh; rw [h.nch]
theorem SameRules.custBits (i lo n d : Nat) : m'.custBits i lo n d = m.custBits i lo n d := by
  unfold Mach.custBits Mach.cust Mach.otpWord; rw [h.otp]
theorem SameRules.par (n : Nat) : m'.par n = m.par n := by
  unfold Mach.par Mach.groupNibble; rw [h.nch, h.custBits]
theorem SameRules.leader (n : Nat) : m'.leader n = m.leader n := by unfold Mach.leader; rw [h.par]
theorem SameRules.members (n : Nat) : m'.members n = m.members n := by unfold Mach.members; rw [h.par]
theorem SameRules.leaders : m'.leaders = m.leaders := by
  unfold Mach.leaders; rw [h.allCh, show m'.leader = m.leader from funext h.leader]
theorem SameRules.lw (n off : Nat) : m'.lw n off = m.lw n off := by unfold Mach.lw; rw [h.leader, h.cfg]
theorem SameRules.entryFld (n lo k : Nat) : m'.entryFld n lo k = m.entryFld n lo k := by
  unfold Mach.entryFld Mach.entry; rw [h.custBits]
theorem SameRules.limpCode (n : Nat) : m'.limpCode n = m.limpCode n := by
  unfold Mach.limpCode; rw [h.leader, h.entryFld]
theorem SameRules.mode (n : Nat) : m'.mode n = m.mode n := by
  unfold Mach.mode; rw [h.governed, h.lw, h.limpCode]
theorem SameRules.ownHold (n : Nat) : (m'.ch n).thm.ownHold = (m.ch n).thm.ownHold := congrArg Prod.fst (h.rules n)
theorem SameRules.stopHold (n : Nat) : (m'.ch n).thm.stopHold = (m.ch n).thm.stopHold :=
  congrArg (fun x => x.2.1) (h.rules n)
theorem SameRules.siteHold (n : Nat) : (m'.ch n).limp.siteHold = (m.ch n).limp.siteHold :=
  congrArg (fun x => x.2.2.1) (h.rules n)
theorem SameRules.clim (n : Nat) : (m'.ch n).prot.clim = (m.ch n).prot.clim :=
  congrArg (fun x => x.2.2.2) (h.rules n)
theorem SameRules.limpGoverns (n : Nat) : m'.limpGoverns n = m.limpGoverns n := by
  unfold Mach.limpGoverns; rw [h.governed, h.phase, h.leader, h.stopHold]
theorem SameRules.cls (n : Nat) : m'.cls n = m.cls n := by
  unfold Mach.cls Mach.otpClass; rw [h.limpGoverns, h.leader, h.entryFld, h.lw]
theorem SameRules.effStep (b : Nat) : m'.effStep b = m.effStep b := by
  unfold Mach.effStep Mach.sensor Mach.bank; rw [h.thm]
theorem SameRules.throttleHold (n : Nat) : m'.throttleHold n = m.throttleHold n := by
  unfold Mach.throttleHold
  rw [h.cls, h.effStep, h.members, show (fun k => (m'.ch k).thm.ownHold) = _ from funext h.ownHold]
theorem SameRules.stopHeld (n : Nat) : m'.stopHeld n = m.stopHeld n := by
  unfold Mach.stopHeld; rw [h.thm, h.leader, h.stopHold]
theorem SameRules.held? (n : Nat) : m'.held? n = m.held? n := by
  unfold Mach.held? Mach.siteHeld; rw [h.throttleHold, h.stopHeld, h.leader, h.siteHold]
theorem SameRules.startProfile (n md : Nat) : m'.startProfile n md = m.startProfile n md := by
  unfold Mach.startProfile; rw [h.lw]
theorem SameRules.tripOn (n : Nat) : m'.tripOn n = m.tripOn n := by
  unfold Mach.tripOn; rw [h.members, h.trips, show m'.cfg = m.cfg from funext h.cfg]
theorem SameRules.climOn (n : Nat) : m'.climOn n = m.climOn n := by
  unfold Mach.climOn; rw [h.members, show (fun k => (m'.ch k).prot.clim) = _ from funext h.clim]
theorem SameRules.startState (n : Nat) : m'.startState n = m.startState n := by
  unfold Mach.startState; rw [h.mode, h.held?, h.startProfile]
theorem SameRules.cutAtStart (n : Nat) : m'.cutAtStart n = m.cutAtStart n := by
  unfold Mach.cutAtStart; rw [h.startState, h.tripOn, h.climOn, h.lw]
theorem SameRules.startsTo (n : Nat) (st : ChSt) : m'.startsTo n st = m.startsTo n st := by
  unfold Mach.startsTo; rw [h.cutAtStart, h.vbbUv, h.startState]
theorem SameRules.policy (n : Nat) : m'.policy n = m.policy n := by unfold Mach.policy; rw [h.lw]
theorem SameRules.retryN (n : Nat) : m'.retryN n = m.retryN n := by unfold Mach.retryN; rw [h.lw]

end

/-! ## Reading a machine that is known but for a switching -/

/-- What of a channel every switching keeps and later proofs read. -/
def Chan.kept (c : Chan) : Thm × Bool × Bool × Bool := (c.thm, c.limp.siteHold, c.limp.thrSeen, c.prot.clim)

theorem Mach.kept_besideUncut (ks : List Nat) (m : Mach) (n : Nat) : ((m.besideUncut ks).ch n).kept = (m.ch n).kept := by
  by_cases hn : n < 24
  · by_cases hk : n ∈ ks <;>
      simp [Mach.besideUncut, Mach.uncut, Mach.beside, Mach.calm, Mach.quiet, Mach.ch, vmap, hn, hk, Chan.kept, Chan.still]
  · simp [Mach.ch, hn]

section
variable {ks js : List Nat} {m m' : Mach}

/-- A view that the frame shows is as before. -/
theorem Restarted.field {β : Type} (g : Mach → β) (h : Restarted ks js m m') : g (m'.besideUncut ks) = g (m.besideUncut ks) :=
  congrArg g h.view

theorem Restarted.kept (h : Restarted ks js m m') (n : Nat) : (m'.ch n).kept = (m.ch n).kept := by
  rw [← Mach.kept_besideUncut ks m', h.view, Mach.kept_besideUncut]

theorem Restarted.rules (h : Restarted ks js m m') : SameRules m m' where
  active := Restarted.field Mach.active h
  otp := Restarted.field Mach.otp h
  part := Restarted.field (fun x => x.dev.part) h
  governed := Restarted.field (fun x => x.dev.governed) h
  phase := Restarted.field (fun x => x.dev.phase) h
  thm := Restarted.field Mach.thm h
  trips := Restarted.field Mach.trips h
  vbbUv := Restarted.field (fun x => x.pwr.vbbUv) h
  rules n := congrArg (fun x : Thm × Bool × Bool × Bool => (x.1.ownHold, x.1.stopHold, x.2.1, x.2.2.2)) (Restarted.kept h n)

theorem Switched.rules (h : Switched ks js m m') : SameRules m m' := Restarted.rules h.restarted

end

/-! ## Groups (R93, R94) -/

theorem Mach.members_of {m m' : Mach} (ho : m'.otp = m.otp) (hp : m'.dev.part = m.dev.part) (n : Nat) :
    m'.members n = m.members n := by
  unfold Mach.members Mach.par Mach.groupNibble Mach.nch Mach.custBits Mach.cust Mach.otpWord
  rw [ho, hp]

theorem Mach.leader_of {m m' : Mach} (ho : m'.otp = m.otp) (hp : m'.dev.part = m.dev.part) (n : Nat) :
    m'.leader n = m.leader n := by
  unfold Mach.leader Mach.par Mach.groupNibble Mach.nch Mach.custBits Mach.cust Mach.otpWord
  rw [ho, hp]

@[simp] theorem Mach.members_modCh (k n : Nat) (f : Chan → Chan) (m : Mach) : (m.modCh k f).members n = m.members n :=
  Mach.members_of (by simp) (by simp) n
@[simp] theorem Mach.leader_modCh (k n : Nat) (f : Chan → Chan) (m : Mach) : (m.modCh k f).leader n = m.leader n :=
  Mach.leader_of (by simp) (by simp) n

theorem Mach.nch_cases (m : Mach) : m.nch = 8 ∨ m.nch = 16 ∨ m.nch = 24 := by
  unfold Mach.nch
  cases m.dev.part <;> simp [Part.channels]

theorem Mach.nch_le (m : Mach) : m.nch ≤ 24 := by
  have := m.nch_cases
  omega

theorem Mach.par_cases (m : Mach) (n : Nat) : m.par n = 0 ∨ m.par n = 1 ∨ m.par n = 2 := by
  unfold Mach.par
  dsimp only
  split
  · exact .inl rfl
  · split
    · exact .inr (.inr rfl)
    · split
      · exact .inr (.inl rfl)
      · exact .inl rfl

/-- Channels of one pair, or of one bank whose grouping makes it a quad, are grouped alike. -/
theorem Mach.par_eq {m : Mach} {n k : Nat} (hb : k / 4 = n / 4) (hp : m.par n = 2 ∨ k / 2 = n / 2) : m.par k = m.par n := by
  have h8 := m.nch_cases
  have hlt : k ≥ m.nch ↔ n ≥ m.nch := by omega
  unfold Mach.par at hp ⊢
  dsimp only at hp ⊢
  rw [hb]
  by_cases hn : n ≥ m.nch
  · rw [if_pos hn, if_pos (hlt.mpr hn)]
  · rw [if_neg hn] at hp
    rw [if_neg hn, if_neg fun h => hn (hlt.mp h)]
    split
    · rfl
    · next hq =>
      rw [if_neg hq] at hp
      have hk : k / 2 = n / 2 := by
        rcases hp with hp | hp
        · split at hp <;> cases hp
        · exact hp
      rw [show k % 4 / 2 = n % 4 / 2 by omega]

theorem Mach.mem_members {m : Mach} {n k : Nat} : k ∈ m.members n ↔
    (m.par n = 2 ∧ k / 4 = n / 4) ∨ (m.par n = 1 ∧ k / 2 = n / 2) ∨ (m.par n = 0 ∧ k = n) := by
  unfold Mach.members
  rcases m.par_cases n with h | h | h <;> rw [h]
  · simp
  · simp [List.range_succ]
    omega
  · simp [List.range_succ]
    omega

theorem Mach.leader_eq (m : Mach) (n : Nat) :
    m.leader n = if m.par n = 2 then n - n % 4 else if m.par n = 1 then n - n % 2 else n := by
  unfold Mach.leader
  rcases m.par_cases n with h | h | h <;> rw [h] <;> rfl

theorem Mach.leader_mem (m : Mach) (n : Nat) : m.leader n ∈ m.members n := by
  rw [Mach.mem_members, Mach.leader_eq]
  rcases m.par_cases n with h | h | h <;> simp [h] <;> omega

theorem Mach.self_mem (m : Mach) (n : Nat) : n ∈ m.members n := by
  rw [Mach.mem_members]
  rcases m.par_cases n with h | h | h <;> simp [h]

/-- The members of a group have the same grouping. -/
theorem Mach.par_of_mem {m : Mach} {n k : Nat} (h : k ∈ m.members n) : m.par k = m.par n := by
  rcases Mach.mem_members.mp h with ⟨hp, hk⟩ | ⟨hp, hk⟩ | ⟨-, hk⟩
  · exact Mach.par_eq hk (.inl hp)
  · exact Mach.par_eq (by omega) (.inr hk)
  · rw [hk]

theorem Mach.leader_of_mem {m : Mach} {n k : Nat} (h : k ∈ m.members n) : m.leader k = m.leader n := by
  rw [Mach.leader_eq, Mach.leader_eq, Mach.par_of_mem h]
  rcases Mach.mem_members.mp h with ⟨hp, hk⟩ | ⟨hp, hk⟩ | ⟨hp, hk⟩ <;> simp [hp] <;> omega

theorem Mach.members_of_mem {m : Mach} {n k : Nat} (h : k ∈ m.members n) : m.members k = m.members n := by
  unfold Mach.members
  rw [Mach.par_of_mem h]
  rcases Mach.mem_members.mp h with ⟨hp, hk⟩ | ⟨hp, hk⟩ | ⟨hp, hk⟩ <;> simp only [hp]
  · rw [show k - k % 4 = n - n % 4 by omega]
  · rw [show k - k % 2 = n - n % 2 by omega]
  · rw [hk]

@[simp] theorem Mach.leader_leader (m : Mach) (n : Nat) : m.leader (m.leader n) = m.leader n :=
  Mach.leader_of_mem (m.leader_mem n)
@[simp] theorem Mach.members_leader (m : Mach) (n : Nat) : m.members (m.leader n) = m.members n :=
  Mach.members_of_mem (m.leader_mem n)

theorem Mach.mem_lt {m : Mach} {n k : Nat} (h : k ∈ m.members n) (hn : n < m.nch) : k < m.nch := by
  have h8 := m.nch_cases
  rcases Mach.mem_members.mp h with ⟨-, hk⟩ | ⟨-, hk⟩ | ⟨-, hk⟩ <;> omega

theorem Mach.leader_lt {m : Mach} {n : Nat} (hn : n < m.nch) : m.leader n < m.nch := Mach.mem_lt (m.leader_mem n) hn

theorem Mach.mem_leaders {m : Mach} {l : Nat} : l ∈ m.leaders ↔ l < m.nch ∧ m.leader l = l := by
  simp [Mach.leaders, Mach.allCh]

theorem Mach.leader_mem_leaders {m : Mach} {n : Nat} (hn : n < m.nch) : m.leader n ∈ m.leaders :=
  Mach.mem_leaders.mpr ⟨Mach.leader_lt hn, m.leader_leader n⟩

theorem mem_everyChannel {n : Nat} : n ∈ everyChannel ↔ n < 24 := List.mem_range

theorem Mach.members_everyChannel {m : Mach} {n : Nat} (hn : n < 24) : ∀ k ∈ m.members n, k ∈ everyChannel := by
  intro k hk
  rw [mem_everyChannel]
  rcases Mach.mem_members.mp hk with ⟨-, hk⟩ | ⟨-, hk⟩ | ⟨-, hk⟩ <;> omega

/-! ## The frame of each operation -/

section
variable {ks : List Nat}

theorem Switched.gateOn1 {k : Nat} (m : Mach) (hk : k ∈ ks) : Switched ks [] m (m.gateOn1 k) := by
  unfold Mach.gateOn1
  exact .ite (.rfl' _ _ m)
    ((Switched.modCh m hk).trans' (Switched.modOut _ hk))

theorem Switched.gateOff1 (kind : TurnOff) {k : Nat} (m : Mach) (hk : k ∈ ks) : Switched ks [] m (m.gateOff1 kind k) := by
  unfold Mach.gateOff1
  dsimp only
  refine .ite ?_ (.ite ?_ (.rfl' _ _ m))
  · exact (Switched.modCh m hk).trans'
      (Switched.modOut _ hk)
  · exact Switched.modCh m hk

theorem Switched.gateOn {n : Nat} (m : Mach) (hk : ∀ k ∈ m.members n, k ∈ ks) : Switched ks [] m (m.gateOn n) :=
  Moved.forList _ _ (fun k h m => Switched.gateOn1 m (hk k h)) m

theorem Switched.gateOff (kind : TurnOff) {n : Nat} (m : Mach) (hk : ∀ k ∈ m.members n, k ∈ ks) :
    Switched ks [] m (m.gateOff kind n) :=
  Moved.forList _ _ (fun k h m => Switched.gateOff1 kind m (hk k h)) m

theorem Switched.setSt {n : Nat} (st : ChSt) (m : Mach) (hk : ∀ k ∈ m.members n, k ∈ ks) :
    Switched ks [m.leader n] m (m.setSt n st) := by
  unfold Mach.setSt
  dsimp only
  have hl : m.leader n ∈ ks := hk _ (m.leader_mem n)
  have h1 : Switched ks [m.leader n] m (m.modCh (m.leader n) fun c =>
      { c with st := st,
               prot := if st.follows then c.prot else { c.prot with escCnt := 0 },
               rty := { c.rty with
                 goodRun := if st.steady then (c.rty.goodRun || !(m.ch (m.leader n)).st.steady) else false },
               limp := if st.follows then c.limp
                       else { c.limp with run := false, lvl := false, cut := false, hadCut := false } }) := by
    refine Switched.modCh_st m hl (fun c => ?_) fun _ => rfl
    cases st.follows <;> rfl
  refine .ite h1 (h1.trans' (Moved.forList _ _ (fun k h m => ?_) _))
  rw [Mach.members_modCh, Mach.members_leader] at h
  exact (Switched.modOut m (hk k h)).any _

theorem Switched.endInrush {n : Nat} (cause : Nat) (m : Mach) (hk : ∀ k ∈ m.members n, k ∈ ks) :
    Switched ks [] m (m.endInrush n cause) :=
  .ite (Switched.modCh m (hk _ (m.leader_mem n))) (.rfl' _ _ m)

/-! ### Codes and the fault record -/

theorem Switched.writeCode {k : Nat} (code detail : Nat) (m : Mach) (hk : k ∈ ks) :
    Switched ks [] m (m.writeCode k code detail) :=
  (Switched.modCh m hk).trans' (Switched.event _ _ _ _)

theorem Switched.addHist {k : Nat} (bits : BitVec 16) (m : Mach) (hk : k ∈ ks) : Switched ks [] m (m.addHist k bits) :=
  Switched.modCh m hk

theorem Switched.clearCode {k : Nat} (m : Mach) (hk : k ∈ ks) : Switched ks [] m (m.clearCode k) :=
  Switched.modCh m hk

theorem Switched.clearIf {k : Nat} (codes : List Nat) (m : Mach) (hk : k ∈ ks) : Switched ks [] m (m.clearIf k codes) :=
  .ite (Switched.clearCode m hk) (.rfl' _ _ m)

theorem Switched.frPush (it : FrItem) (m : Mach) : Switched ks [] m (m.frPush it) := by
  unfold Mach.frPush
  refine .ite (.rfl' _ _ m) (.ite ?_ (Switched.of_chans rfl (evtKept_of_evt rfl) rfl))
  exact (Switched.of_chans rfl (evtKept_of_evt rfl) rfl :
    Switched ks [] m { m with dev := { m.dev with frLost := inc16 m.dev.frLost } }).trans' (Switched.event _ _ _ _)

theorem Switched.setSupp (n k : Nat) (m : Mach) : Switched ks [] m (m.setSupp n k) :=
  Switched.of_chans rfl (evtKept_of_evt rfl) rfl

theorem Switched.passFault (n code detail : Nat) (first : Bool) (m : Mach) :
    Switched ks [] m (m.passFault n code detail first) := by
  unfold Mach.passFault
  dsimp only
  exact Moved.trans' (Moved.ite (Moved.ite (Switched.setSupp _ _ m) (Switched.setSupp _ _ m)) (.rfl' _ _ m)) (Switched.frPush _ _)

theorem Switched.recordFault {k : Nat} (code detail : Nat) (first : Bool) (m : Mach) (hk : k ∈ ks) :
    Switched ks [] m (m.recordFault k code detail first) := by
  unfold Mach.recordFault
  dsimp only
  have hp : Switched ks [] m (m.passFault k code detail first) := Switched.passFault k code detail first m
  exact .ite (hp.trans' (Switched.modCh _ hk)) hp

/-! ### Turn-off faults -/

theorem Switched.latch {l : Nat} (m : Mach) (hk : ∀ k ∈ m.members l, k ∈ ks) (hl : l ∈ ks) :
    Switched ks [m.leader l] m (m.latch l) :=
  (Switched.setSt _ m hk).trans' ((Switched.modCh _ hl).any _)

/-- What the retry policy does to the state: LATCHED or RETRY_WAIT, with the retry words of the leader. -/
theorem Switched.retryAct {l : Nat} (code detail : Nat) (m : Mach) (hk : ∀ k ∈ m.members l, k ∈ ks) (hl : l ∈ ks) :
    Switched ks [m.leader l] m (m.retryAct l code detail).1 := by
  unfold Mach.retryAct
  dsimp only
  split
  · exact Switched.latch m hk hl
  · split
    · exact Switched.latch m hk hl
    · exact (Switched.setSt _ m hk).trans' ((Switched.modCh _ hl).any _)

end

/-! ## The parts of a turn-off fault (R125 to R131) -/

/-- The group discharges, and the channel trips. -/
def Mach.discharge (k : Nat) (m : Mach) : Mach :=
  (m.gateOff .discharge k).modCh k fun c => { c with prot := { c.prot with tripped := true } }

/-- A record that reset or STARTUP holds back (R133). -/
def Mach.holdBack (k code detail : Nat) (bits : BitVec 16) (m : Mach) : Mach :=
  let m' := m.modCh k fun c =>
    { c with flt := { c.flt with late := c.flt.late ++ [⟨code, detail, bits, c.prot.est⟩] } }
  if code = 0xA then m' else m'.modCh (m.leader k) fun c => { c with limp := { c.limp with safeFlt := true } }

/-- The code on the channel, and on its leader (R96). -/
def Mach.noteFault (k code detail : Nat) (bits : BitVec 16) (st : ChSt) (m : Mach) : Mach :=
  let m' := (m.addHist k bits).writeCode k code detail
  if m.leader k == k then m'
  else (m'.addHist (m.leader k) (bits &&& turnOffBits st)).writeCode (m.leader k) code detail

/-- What a fault of a leader `l` in state `st` does to its state; the answer says whether the retries are exhausted. -/
def Mach.faultAct (l code detail : Nat) (st : ChSt) (conducts : Bool) (m : Mach) : Mach × Bool :=
  if st.running then
    if code = 0xA then
      ((m.setSt l .retryWait).modCh l fun c =>
        { c with rty := { c.rty with elapsed := false, waitAt := m.lf, waitMs := 0, cause := 0xA, causeDet := 0 } }, false)
    else m.retryAct l code detail
  else if st == .retryWait && code != 0xA && m.policy l == 0 then (m.latch l, false)
  else if st == .retryWait && code != 0xA && m.exhausted l && !conducts then (m.latch l, true)
  else if st == .safe && code != 0xA then
    (m.modCh l fun c => { c with limp := { c.limp with safeFlt := true } }, false)
  else (m, false)

/-- The event passes the fault record, followed by 0xD where the retries are exhausted. -/
def Mach.reportFault (k l code detail : Nat) (first exhausted : Bool) (m : Mach) : Mach :=
  let m := m.recordFault k code detail first
  if exhausted then ((m.writeCode l 0xD 0).event (chPage l) 0x0040).recordFault l 0xD 0 false else m

/-- The fault of a channel whose record is not held back, after its discharge. -/
def Mach.faultRecorded (k code detail : Nat) (bits : BitVec 16) (st : ChSt) (conducts first : Bool) (m : Mach) : Mach :=
  let l := m.leader k
  let r := ((m.noteFault k code detail bits st).endInrush l 4).faultAct l code detail st conducts
  r.1.reportFault k l code detail first r.2

/-- Discharging moves no state. -/
theorem Switched.discharge {ks : List Nat} {k : Nat} (m : Mach) (hk : ∀ j ∈ m.members k, j ∈ ks) :
    Switched ks [] m (m.discharge k) :=
  (Switched.gateOff .discharge m hk).trans' (Switched.modCh _ (hk _ (m.self_mem k)))

theorem Mach.turnOffFault_eq (k code detail : Nat) (also : BitVec 16) (m : Mach) :
    m.turnOffFault k code detail also =
      let x := m.firstFound k code detail also
      if (m.discharge k).recordsLate k then (m.discharge k).holdBack k x.1 x.2 (foundBits code also)
      else (m.discharge k).faultRecorded k x.1 x.2 (foundBits code also) (m.st k) (m.ch k).stage.conducting
        ((m.ch k).flt.code == 0) := by
  have hl : (m.discharge k).leader k = m.leader k :=
    (Switched.rules (Switched.discharge m (ks := m.members k) fun _ h => h)).leader k
  unfold Mach.holdBack Mach.faultRecorded Mach.noteFault
  rw [hl]
  rfl

/-! ### Their frames -/

section
variable {ks : List Nat}

theorem Switched.holdBack {k : Nat} (code detail : Nat) (bits : BitVec 16) (m : Mach) (hk : ∀ j ∈ m.members k, j ∈ ks) :
    Switched ks [] m (m.holdBack k code detail bits) := by
  have h : Switched ks [] m (m.modCh k fun c =>
      { c with flt := { c.flt with late := c.flt.late ++ [⟨code, detail, bits, c.prot.est⟩] } }) :=
    Switched.modCh m (hk _ (m.self_mem k))
  exact .ite h (h.trans' (Switched.modCh _ (hk _ (m.leader_mem k))))

theorem Switched.noteFault {k : Nat} (code detail : Nat) (bits : BitVec 16) (st : ChSt) (m : Mach)
    (hk : ∀ j ∈ m.members k, j ∈ ks) : Switched ks [] m (m.noteFault k code detail bits st) := by
  have h : Switched ks [] m ((m.addHist k bits).writeCode k code detail) :=
    (Switched.addHist _ m (hk _ (m.self_mem k))).trans' (Switched.writeCode _ _ _ (hk _ (m.self_mem k)))
  have hl := hk _ (m.leader_mem k)
  exact .ite h (h.trans' ((Switched.addHist _ _ hl).trans' (Switched.writeCode _ _ _ hl)))

theorem Switched.faultAct {l : Nat} (code detail : Nat) (st : ChSt) (conducts : Bool) (m : Mach)
    (hk : ∀ j ∈ m.members l, j ∈ ks) (hl : l ∈ ks) :
    Switched ks [m.leader l] m (m.faultAct l code detail st conducts).1 := by
  unfold Mach.faultAct
  split
  · split
    · exact (Switched.setSt _ m hk).trans' ((Switched.modCh _ hl).any _)
    · exact Switched.retryAct _ _ m hk hl
  · split
    · exact Switched.latch m hk hl
    · split
      · exact Switched.latch m hk hl
      · split
        · exact (Switched.modCh m hl).any _
        · exact .rfl' _ _ m

theorem Switched.reportFault {k l : Nat} (code detail : Nat) (first exhausted : Bool) (m : Mach) (hk : k ∈ ks) (hl : l ∈ ks) :
    Switched ks [] m (m.reportFault k l code detail first exhausted) := by
  have h : Switched ks [] m (m.recordFault k code detail first) := Switched.recordFault _ _ _ m hk
  exact .ite (h.trans' (((Switched.writeCode _ _ _ hl).trans' (Switched.event _ _ _ _)).trans'
    (Switched.recordFault _ _ _ _ hl))) h

theorem Switched.faultRecorded {k : Nat} (code detail : Nat) (bits : BitVec 16) (st : ChSt) (conducts first : Bool) (m : Mach)
    (hk : ∀ j ∈ m.members k, j ∈ ks) :
    Switched ks [m.leader k] m (m.faultRecorded k code detail bits st conducts first) := by
  have hl : m.leader k ∈ ks := hk _ (m.leader_mem k)
  have hs := hk _ (m.self_mem k)
  have h1 := Switched.noteFault (ks := ks) code detail bits st m hk
  have h2 : Switched ks [] _ _ := h1.trans' (Switched.endInrush (n := m.leader k) 4 _ fun j hj => by
    rw [(Switched.rules h1).members, Mach.members_leader] at hj; exact hk j hj)
  have h3 := Switched.faultAct (ks := ks) (l := m.leader k) code detail st conducts
    ((m.noteFault k code detail bits st).endInrush (m.leader k) 4) (fun j hj => by
      rw [(Switched.rules h2).members, Mach.members_leader] at hj; exact hk j hj) hl
  rw [(Switched.rules h2).leader, Mach.leader_leader] at h3
  exact ((h2.any _).trans' h3).trans' ((Switched.reportFault _ _ _ _ _ hs hl).any _)

/-- A turn-off fault switches its group, and moves the state of its leader alone. -/
theorem Switched.turnOffFault {k : Nat} (code detail : Nat) (also : BitVec 16) (m : Mach) (hk : ∀ j ∈ m.members k, j ∈ ks) :
    Switched ks [m.leader k] m (m.turnOffFault k code detail also) := by
  have h1 := Switched.discharge (ks := ks) m hk
  have hk' : ∀ j ∈ (m.discharge k).members k, j ∈ ks := by rw [(Switched.rules h1).members]; exact hk
  have h2 := Switched.faultRecorded (ks := ks) (k := k) (m.firstFound k code detail also).1
    (m.firstFound k code detail also).2 (foundBits code also) (m.st k) (m.ch k).stage.conducting
    ((m.ch k).flt.code == 0) (m.discharge k) hk'
  rw [(Switched.rules h1).leader] at h2
  rw [Mach.turnOffFault_eq]
  exact .ite ((h1.trans' (Switched.holdBack _ _ _ _ hk')).any _) ((h1.any _).trans' h2)

end

/-! ## What a step keeps of every channel -/

/-- A view of the channels that a step keeps. -/
def Keeps {β : Type} (g : Chan → β) (m m' : Mach) : Prop := ∀ n, g (m'.ch n) = g (m.ch n)

section
variable {β : Type} {g : Chan → β} {a b c : Mach}

theorem Keeps.rfl' (g : Chan → β) (m : Mach) : Keeps g m m := fun _ => rfl
theorem Keeps.trans' (h : Keeps g a b) (k : Keeps g b c) : Keeps g a c := fun n => (k n).trans (h n)
theorem Keeps.ite {p : Prop} [Decidable p] (hb : Keeps g a b) (hc : Keeps g a c) : Keeps g a (if p then b else c) := by
  split
  · exact hb
  · exact hc
theorem Keeps.of_chans (h : b.chans = a.chans) : Keeps g a b := fun n => by rw [Mach.ch_of_chans h]
theorem Keeps.modCh (n : Nat) {f : Chan → Chan} (m : Mach) (h : ∀ c, g (f c) = g c := by intro _; rfl) :
    Keeps g m (m.modCh n f) := fun k => Mach.ch_modCh_view g n k f m h
theorem Keeps.modOut (o : Nat) (f : OutUnit → OutUnit) (m : Mach) : Keeps g m (m.modOut o f) :=
  .of_chans (Mach.modOut_chans o f m)
theorem Keeps.event (p : Nat) (w : Word) (m : Mach) : Keeps g m (m.event p w) := .of_chans (Mach.event_chans p w m)
theorem Keeps.forList {α : Type} (l : List α) (f : α → Mach → Mach) (h : ∀ x ∈ l, ∀ m, Keeps g m (f x m)) (m : Mach) :
    Keeps g m (forList l f m) :=
  forList_rel (Keeps g) l f (Keeps.rfl' g) (fun _ _ _ => Keeps.trans') h m
theorem Keeps.map {γ : Type} (f : β → γ) (h : Keeps g a b) : Keeps (fun c => f (g c)) a b := fun n => congrArg f (h n)

end

/-- The power stage, and whether and how often a fault tripped it. -/
def Chan.body (c : Chan) : Stage × Bool × Nat := (c.stage, c.prot.tripped, c.prot.tripCnt)
/-- The body and the fault record. -/
def Chan.record (c : Chan) : (Stage × Bool × Nat) × Flt := (c.body, c.flt)
/-- The body, the state and the retry words. -/
def Chan.course (c : Chan) : (Stage × Bool × Nat) × ChSt × Rty := (c.body, c.st, c.rty)

/-- A change of state keeps the stage and the fault record. -/
theorem Keeps.setSt (n : Nat) (st : ChSt) (m : Mach) : Keeps Chan.record m (m.setSt n st) := by
  unfold Mach.setSt
  dsimp only
  have h1 : Keeps Chan.record m (m.modCh (m.leader n) fun c =>
      { c with st := st,
               prot := if st.follows then c.prot else { c.prot with escCnt := 0 },
               rty := { c.rty with
                 goodRun := if st.steady then (c.rty.goodRun || !(m.ch (m.leader n)).st.steady) else false },
               limp := if st.follows then c.limp
                       else { c.limp with run := false, lvl := false, cut := false, hadCut := false } }) :=
    Keeps.modCh _ m fun c => by cases st.follows <;> rfl
  exact .ite h1 (h1.trans' (.forList _ _ (fun k _ m => .modOut k _ m) _))

theorem Keeps.endInrush (n cause : Nat) (m : Mach) : Keeps (fun c => (c.record, c.course)) m (m.endInrush n cause) :=
  .ite (.modCh _ m) (.rfl' _ m)

theorem Keeps.latch (l : Nat) (m : Mach) : Keeps Chan.record m (m.latch l) :=
  (Keeps.setSt l _ m).trans' (.modCh _ _)

theorem Keeps.retryAct (l code detail : Nat) (m : Mach) : Keeps Chan.record m (m.retryAct l code detail).1 := by
  unfold Mach.retryAct
  dsimp only
  split
  · exact .latch l m
  · split
    · exact .latch l m
    · exact (Keeps.setSt l _ m).trans' (.modCh _ _)

theorem Keeps.faultAct (l code detail : Nat) (st : ChSt) (conducts : Bool) (m : Mach) :
    Keeps Chan.record m (m.faultAct l code detail st conducts).1 := by
  unfold Mach.faultAct
  split
  · split
    · exact (Keeps.setSt l _ m).trans' (.modCh _ _)
    · exact .retryAct l code detail m
  · split
    · exact .latch l m
    · split
      · exact .latch l m
      · split
        · exact .modCh _ m
        · exact .rfl' _ m

theorem Keeps.writeCode (k code detail : Nat) (m : Mach) : Keeps Chan.course m (m.writeCode k code detail) :=
  (Keeps.modCh k m).trans' (.event _ _ _)

theorem Keeps.noteFault (k code detail : Nat) (bits : BitVec 16) (st : ChSt) (m : Mach) :
    Keeps Chan.course m (m.noteFault k code detail bits st) := by
  have h : Keeps Chan.course m ((m.addHist k bits).writeCode k code detail) :=
    (Keeps.modCh k m).trans' (.writeCode _ _ _ _)
  exact .ite h (h.trans' ((Keeps.modCh _ _).trans' (.writeCode _ _ _ _)))

theorem Mach.frPush_chans (it : FrItem) (m : Mach) : (m.frPush it).chans = m.chans := by
  unfold Mach.frPush
  split
  · rfl
  · split
    · rw [Mach.event_chans]
    · rfl

theorem Mach.passFault_chans (n code detail : Nat) (first : Bool) (m : Mach) :
    (m.passFault n code detail first).chans = m.chans := by
  unfold Mach.passFault
  dsimp only
  rw [Mach.frPush_chans]
  split
  · split <;> rfl
  · rfl

/-- The fault record without the request of FLTN. -/
def Flt.noted (f : Flt) : Flt := { f with fltnReq := false }

theorem Keeps.recordFault (k code detail : Nat) (first : Bool) (m : Mach) :
    Keeps (fun c => (c.course, c.flt.noted)) m (m.recordFault k code detail first) := by
  unfold Mach.recordFault
  dsimp only
  have h : Keeps (fun c => (c.course, c.flt.noted)) m (m.passFault k code detail first) :=
    .of_chans (Mach.passFault_chans _ _ _ _ _)
  exact .ite (h.trans' (.modCh _ _)) h

theorem Keeps.reportFault (k l code detail : Nat) (first exhausted : Bool) (m : Mach) :
    Keeps Chan.course m (m.reportFault k l code detail first exhausted) := by
  have h : Keeps Chan.course m (m.recordFault k code detail first) := (Keeps.recordFault k code detail first m).map Prod.fst
  exact .ite (h.trans' (((Keeps.writeCode _ _ _ _).trans' (.event _ _ _)).trans'
    ((Keeps.recordFault _ _ _ _ _).map Prod.fst))) h

theorem Keeps.holdBack (k code detail : Nat) (bits : BitVec 16) (m : Mach) :
    Keeps Chan.course m (m.holdBack k code detail bits) := by
  have h : Keeps Chan.course m (m.modCh k fun c =>
      { c with flt := { c.flt with late := c.flt.late ++ [⟨code, detail, bits, c.prot.est⟩] } }) := .modCh k m
  exact .ite h (h.trans' (.modCh _ _))

theorem Keeps.faultRecorded (k code detail : Nat) (bits : BitVec 16) (st : ChSt) (conducts first : Bool) (m : Mach) :
    Keeps Chan.body m (m.faultRecorded k code detail bits st conducts first) :=
  ((((Keeps.noteFault k code detail bits st m).map Prod.fst).trans' ((Keeps.endInrush _ 4 _).map fun x => x.1.1)).trans'
    ((Keeps.faultAct _ _ _ _ _ _).map Prod.fst)).trans' ((Keeps.reportFault _ _ _ _ _ _ _).map Prod.fst)

/-! ## Gates that discharge -/

/-- After a fault turned it off, a channel is as its discharge left it. -/
theorem Keeps.turnOffFault (k code detail : Nat) (also : BitVec 16) (m : Mach) :
    Keeps Chan.body (m.discharge k) (m.turnOffFault k code detail also) := by
  rw [Mach.turnOffFault_eq]
  exact .ite ((Keeps.holdBack _ _ _ _ _).map Prod.fst) (.faultRecorded _ _ _ _ _ _ _ _)

/-- The discharge edge of R83. -/
def dischargeEdge (now : Nat) : Edge := ⟨false, 15, false, true, now⟩

/-- The stage of a channel whose gate is discharged at tick `now`. -/
def Stage.discharged (now : Nat) (g : Stage) : Stage :=
  if g.gateOn then { g with gateOn := false, vgsOk := false, edge := some (dischargeEdge now), clampSeen := false }
  else if (g.edge.map fun x => !x.discharge).getD false then { g with edge := some (dischargeEdge now) } else g

theorem Stage.discharged_gateOn (now : Nat) (g : Stage) : (g.discharged now).gateOn = false := by
  unfold Stage.discharged
  split
  · rfl
  · next h => split <;> simpa using h

theorem Stage.discharged_edge {now : Nat} {g : Stage} (h : g.gateOn = true) :
    (g.discharged now).edge = some (dischargeEdge now) := by
  unfold Stage.discharged
  rw [if_pos h]

theorem Mach.gateOff1_now (kind : TurnOff) (k : Nat) (m : Mach) : (m.gateOff1 kind k).now = m.now := by
  unfold Mach.gateOff1
  dsimp only
  split
  · simp
  · split <;> simp

theorem Mach.stage_gateOff1 {k : Nat} (m : Mach) (hk : k < 24) (n : Nat) :
    ((m.gateOff1 .discharge k).ch n).stage = if n = k then (m.ch n).stage.discharged m.now else (m.ch n).stage := by
  unfold Mach.gateOff1
  dsimp only
  by_cases hn : n = k
  · subst hn
    rw [if_pos rfl]
    unfold Stage.discharged
    split
    · next hg => rw [Mach.ch_of_chans (Mach.modOut_chans _ _ _), Mach.ch_modCh_self _ _ _ hk]; rfl
    · have hd : (TurnOff.discharge == TurnOff.discharge) = true := rfl
      rw [hd, Bool.true_and]
      split
      · rw [Mach.ch_modCh_self _ _ _ hk]; rfl
      · rfl
  · rw [if_neg hn]
    split
    · rw [Mach.ch_of_chans (Mach.modOut_chans _ _ _), Mach.ch_modCh_ne _ _ _ _ hn]
    · split
      · rw [Mach.ch_modCh_ne _ _ _ _ hn]
      · rfl

/-- Discharging again leaves a discharged gate as it is. -/
theorem Stage.discharged_idem (now : Nat) (g : Stage) : (g.discharged now).discharged now = g.discharged now := by
  obtain ⟨on, vgs, e, clamp, seen, rev, cnt⟩ := g
  cases on with
  | true => simp [Stage.discharged, dischargeEdge]
  | false =>
    cases h : (e.map fun x => !x.discharge).getD false <;> simp [Stage.discharged, dischargeEdge, h]

theorem Mach.stage_gateOffList (l : List Nat) (hl : ∀ k ∈ l, k < 24) (n : Nat) : ∀ m : Mach,
    ((forList l (Mach.gateOff1 .discharge) m).ch n).stage =
      if n ∈ l then (m.ch n).stage.discharged m.now else (m.ch n).stage := by
  induction l with
  | nil => intro m; rfl
  | cons k t ih =>
    intro m
    rw [forList_cons, ih fun j hj => hl j (List.mem_cons_of_mem _ hj), Mach.gateOff1_now,
      Mach.stage_gateOff1 m (hl k List.mem_cons_self)]
    by_cases hn : n = k <;> by_cases ht : n ∈ t <;> simp [hn, ht, Stage.discharged_idem]

/-! ## The state and the retry words a fault leaves (R90, R123, R129, R130, R152, R153) -/

theorem Mach.members_lt {m : Mach} {n : Nat} (hn : n < 24) : ∀ k ∈ m.members n, k < 24 := fun k hk =>
  mem_everyChannel.mp (Mach.members_everyChannel hn k hk)

/-- A change of state moves the leader's to the new one. -/
theorem Mach.st_setSt {n : Nat} (st : ChSt) (m : Mach) (hn : n < 24) : ((m.setSt n st).ch (m.leader n)).st = st := by
  have hl : m.leader n < 24 := Mach.members_lt hn _ (m.leader_mem n)
  unfold Mach.setSt
  dsimp only
  split
  · rw [Mach.ch_modCh_self _ _ _ hl]
  · rw [Mach.ch_of_chans (forList_keeps Mach.chans _ _ (fun k _ m => Mach.modOut_chans k _ m) _),
      Mach.ch_modCh_self _ _ _ hl]

/-- Retry words without the good-run timer. -/
def Rty.waits (r : Rty) : Rty := { r with goodRun := false }

theorem Keeps.setSt_rty (n : Nat) (st : ChSt) (m : Mach) : Keeps (fun c => c.rty.waits) m (m.setSt n st) := by
  unfold Mach.setSt
  dsimp only
  exact .ite (.modCh _ m) ((Keeps.modCh _ m).trans' (.forList _ _ (fun k _ m => .modOut k _ m) _))

theorem Mach.exhausted_iff (m : Mach) (l : Nat) : m.exhausted l = true ↔ m.retriesOut l := by
  unfold Mach.exhausted Mach.retriesOut
  dsimp only
  split
  · exact beq_iff_eq
  · rw [Bool.and_eq_true, bne_iff_ne, beq_iff_eq]

section
variable {l : Nat} (code detail : Nat) {m : Mach}

theorem Mach.latch_st (hl : l < 24) (hs : m.leader l = l) : ((m.latch l).ch l).st = .latched := by
  unfold Mach.latch
  rw [Mach.ch_modCh_self _ _ _ hl]
  have h := Mach.st_setSt .latched m hl
  rw [hs] at h
  exact h

theorem Mach.retryAct_latch (hp : m.policy l = 0) : m.retryAct l code detail = (m.latch l, false) := by
  unfold Mach.retryAct
  dsimp only
  rw [if_pos hp]

theorem Mach.retryAct_out (hp : m.policy l ≠ 0) (hr : m.retriesOut l) : m.retryAct l code detail = (m.latch l, true) := by
  unfold Mach.retryAct
  dsimp only
  rw [if_neg hp, if_pos ((m.exhausted_iff l).mpr hr)]

/-- With retries left the leader waits, COUNT is raised and the wait begins (R152, R153). -/
theorem Mach.retryAct_wait (hl : l < 24) (hs : m.leader l = l) (hp : m.policy l ≠ 0) (hr : ¬ m.retriesOut l) :
    (m.retryAct l code detail).2 = false ∧ ((m.retryAct l code detail).1.ch l).st = .retryWait ∧
      ((m.retryAct l code detail).1.ch l).rty.count = min 255 ((m.ch l).rty.count + 1) ∧
      ((m.retryAct l code detail).1.ch l).rty.cause = code ∧ ((m.retryAct l code detail).1.ch l).rty.waitAt = m.lf := by
  have hst := Mach.st_setSt .retryWait m hl
  rw [hs] at hst
  unfold Mach.retryAct
  dsimp only
  rw [if_neg hp, if_neg fun h => hr ((m.exhausted_iff l).mp h)]
  simp only [Mach.ch_modCh_self _ _ _ hl]
  exact ⟨trivial, hst, trivial, trivial, trivial⟩

end

/-- What a fault does to the state of its leader, and whether it finds the retries used up. -/
structure FaultOutcome (l code : Nat) (st : ChSt) (conducts : Bool) (m : Mach) (r : Mach × Bool) : Prop where
  out : r.2 = true ↔ code ≠ 0xA ∧ m.policy l ≠ 0 ∧ m.retriesOut l ∧
    (st.running = true ∨ st = .retryWait ∧ conducts = false)
  latched : r.2 = true → (r.1.ch l).st = .latched
  policy : st.running = true → code ≠ 0xA → m.policy l = 0 → (r.1.ch l).st = .latched
  wait : st.running = true → code ≠ 0xA → m.policy l ≠ 0 → ¬ m.retriesOut l → (r.1.ch l).st = .retryWait ∧
    (r.1.ch l).rty.count = min 255 ((m.ch l).rty.count + 1) ∧ (r.1.ch l).rty.cause = code ∧ (r.1.ch l).rty.waitAt = m.lf
  uv : st.running = true → code = 0xA → (r.1.ch l).st = .retryWait ∧ (r.1.ch l).rty.cause = 0xA ∧
    (r.1.ch l).rty.count = (m.ch l).rty.count
  rest : st.running = false → r.2 = false →
    (r.1.ch l).st = if st = .retryWait ∧ code ≠ 0xA ∧ m.policy l = 0 then .latched else (m.ch l).st

theorem Mach.faultAct_outcome {l : Nat} (code detail : Nat) {st : ChSt} (conducts : Bool) {m : Mach} (hl : l < 24)
    (hs : m.leader l = l) : FaultOutcome l code st conducts m (m.faultAct l code detail st conducts) := by
  have hlat := Mach.latch_st hl hs
  unfold Mach.faultAct
  cases hrun : st.running with
  | true =>
    rw [if_pos rfl]
    by_cases hA : code = 0xA
    · rw [if_pos hA]
      have hst := Mach.st_setSt .retryWait m hl
      rw [hs] at hst
      have hcnt : ((m.setSt l .retryWait).ch l).rty.count = (m.ch l).rty.count :=
        ((Keeps.setSt_rty l .retryWait m).map Rty.count) l
      constructor <;> simp [hrun, hA, Mach.ch_modCh_self _ _ _ hl, hst, hcnt]
    · rw [if_neg hA]
      by_cases hp : m.policy l = 0
      · rw [Mach.retryAct_latch code detail hp]
        constructor <;> simp [hrun, hA, hp, hlat]
      · by_cases hr : m.retriesOut l
        · rw [Mach.retryAct_out code detail hp hr]
          constructor <;> simp [hrun, hA, hp, hr, hlat]
        · obtain ⟨hx, hst, hcount, hcause, hwait⟩ := Mach.retryAct_wait code detail hl hs hp hr
          constructor <;> simp [hrun, hA, hp, hr, hx, hst, hcount, hcause, hwait]
  | false =>
    have hxo := m.exhausted_iff l
    rw [if_neg Bool.false_ne_true]
    by_cases hw : st = .retryWait
    · subst hw
      by_cases hA : code = 0xA
      · constructor <;> simp [hA, hrun]
      · by_cases hp : m.policy l = 0
        · constructor <;> simp [hrun, hA, hp, hlat]
        · by_cases hr : m.retriesOut l
          · have hx := hxo.mpr hr
            cases conducts <;> constructor <;> simp [hrun, hA, hp, hr, hx, hlat]
          · have hx : m.exhausted l = false := Bool.eq_false_iff.mpr fun h => hr (hxo.mp h)
            constructor <;> simp [hrun, hA, hp, hr, hx]
    · have hkeep : Keeps (fun c => c.st) m (m.modCh l fun c => { c with limp := { c.limp with safeFlt := true } }) :=
        .modCh l m
      have hwb : (st == ChSt.retryWait) = false := by simpa using hw
      simp only [hwb, Bool.false_and, Bool.false_eq_true, if_false]
      split <;> constructor <;> simp [hw, hrun, hkeep l]

/-! ## What decides the course of a fault -/

/-- What of a channel a turn-off fault is judged by, beside its stage. -/
def Chan.case (c : Chan) : ChSt × Flt × Rty × Inr × Nat × Nat := (c.st, c.flt, c.rty, c.inr, c.prot.est, c.prot.epStart)
/-- What of its stage. -/
def Chan.drive (c : Chan) : Bool × Option Edge := (c.stage.gateOn, c.stage.edge)

/-- Two machines in which a turn-off fault is judged alike. -/
structure SameCase (m m' : Mach) : Prop where
  rules : SameRules m m'
  now   : m'.now = m.now
  time  : m'.time = m.time
  clk   : m'.clk = m.clk
  chans : Keeps Chan.case m m'

section
variable {m m' : Mach} (h : SameCase m m')
include h

theorem SameCase.state (n : Nat) : (m'.ch n).st = (m.ch n).st := h.chans.map Prod.fst n
theorem SameCase.flt (n : Nat) : (m'.ch n).flt = (m.ch n).flt := h.chans.map (fun x => x.2.1) n
theorem SameCase.rty (n : Nat) : (m'.ch n).rty = (m.ch n).rty := h.chans.map (fun x => x.2.2.1) n
theorem SameCase.inr (n : Nat) : (m'.ch n).inr = (m.ch n).inr := h.chans.map (fun x => x.2.2.2.1) n
theorem SameCase.est (n : Nat) : (m'.ch n).prot.est = (m.ch n).prot.est := h.chans.map (fun x => x.2.2.2.2.1) n
theorem SameCase.epStart (n : Nat) : (m'.ch n).prot.epStart = (m.ch n).prot.epStart := h.chans.map (fun x => x.2.2.2.2.2) n
theorem SameCase.st (n : Nat) : m'.st n = m.st n := by unfold Mach.st; rw [h.rules.leader, h.state]
theorem SameCase.lf : m'.lf = m.lf := by unfold Mach.lf; rw [h.clk, h.now]
theorem SameCase.recordsLate (n : Nat) : m'.recordsLate n = m.recordsLate n := by
  unfold Mach.recordsLate; rw [h.st, h.rules.phase]
theorem SameCase.retriesOut (l : Nat) : m'.retriesOut l = m.retriesOut l := by
  unfold Mach.retriesOut; rw [h.rules.policy, h.rules.retryN, h.rty]
theorem SameCase.ilimEff (n : Nat) : m'.ilimEff n = m.ilimEff n := by
  unfold Mach.ilimEff Mach.ilimCeil Mach.clCeil
  simp only [h.rules.leader, h.rules.lw, h.state, h.inr, h.rules.entryFld]
theorem SameCase.firstFound (n code detail : Nat) (also : BitVec 16) :
    m'.firstFound n code detail also = m.firstFound n code detail also := by
  unfold Mach.firstFound Mach.alsoFound
  rw [h.ilimEff, h.now, h.epStart, h.st]

/-- A fault that takes effect after a step the fault is judged alike before takes effect on the machine before the step. -/
theorem SameCase.turnsOff (hd : Keeps Chan.drive m m') {n code detail : Nat} {also : BitVec 16} {s t : State} (hs : s.m = m)
    (ht : turnsOff n code detail also { s with m := m' } t) : turnsOff n code detail also s t := by
  subst hs
  have hon (k : Nat) : (m'.ch k).stage.gateOn = (s.m.ch k).stage.gateOn := hd.map Prod.fst k
  have hedge (k : Nat) : (m'.ch k).stage.edge = (s.m.ch k).stage.edge := hd.map Prod.snd k
  simp only [Claim.turnsOff, Claim.exhausts, Claim.found, h.rules.members, h.rules.leader, h.rules.policy, h.retriesOut,
    h.recordsLate, h.st, h.flt, h.rty, h.est, h.time, h.now, h.lf, h.firstFound, Stage.conducting, hon, hedge] at ht ⊢
  refine cast ?_ ht
  congr!

end

theorem Switched.time {ks js : List Nat} {m m' : Mach} (h : Switched ks js m m') : m'.time = m.time :=
  Restarted.field Mach.time h.restarted
theorem Switched.now {ks js : List Nat} {m m' : Mach} (h : Switched ks js m m') : m'.now = m.now :=
  Restarted.field Mach.now h.restarted
theorem Switched.clk {ks js : List Nat} {m m' : Mach} (h : Switched ks js m m') : m'.clk = m.clk :=
  Restarted.field Mach.clk h.restarted

/-- A switching that keeps the course of a fault on every channel keeps it on the machine. -/
theorem Switched.sameCase {ks js : List Nat} {m m' : Mach} (h : Switched ks js m m') (hc : Keeps Chan.case m m') :
    SameCase m m' := ⟨h.rules, h.now, h.time, h.clk, hc⟩

theorem Keeps.gateOff1 (kind : TurnOff) (k : Nat) (m : Mach) : Keeps Chan.case m (m.gateOff1 kind k) := by
  unfold Mach.gateOff1
  dsimp only
  exact .ite ((Keeps.modCh k m).trans' (.modOut _ _ _)) (.ite (.modCh k m) (.rfl' _ m))

theorem Keeps.discharge (k : Nat) (m : Mach) : Keeps Chan.case m (m.discharge k) :=
  (Keeps.forList _ _ (fun j _ m => .gateOff1 .discharge j m) m).trans' (.modCh k _)

theorem SameCase.discharge (k : Nat) (m : Mach) : SameCase m (m.discharge k) :=
  (Switched.discharge m fun _ h => h).sameCase (.discharge k m)

/-! ## What a fault writes (R125 to R131) -/

theorem Mach.stage_discharge {k : Nat} {m : Mach} (hk : k < 24) (n : Nat) : ((m.discharge k).ch n).stage =
    if n ∈ m.members k then (m.ch n).stage.discharged m.now else (m.ch n).stage := by
  have h : Keeps Chan.stage (m.gateOff .discharge k) (m.discharge k) := .modCh k _
  rw [h n]
  exact Mach.stage_gateOffList _ (Mach.members_lt hk) n m

theorem Mach.tripped_discharge {k : Nat} {m : Mach} (hk : k < 24) : ((m.discharge k).ch k).prot.tripped = true := by
  unfold Mach.discharge
  rw [Mach.ch_modCh_self _ _ _ hk]

theorem Keeps.tripCnt_discharge (k : Nat) (m : Mach) : Keeps (fun c => c.prot.tripCnt) m (m.discharge k) := by
  refine (Keeps.forList _ _ (fun j _ m => ?_) m).trans' (.modCh k _)
  unfold Mach.gateOff1
  dsimp only
  exact .ite ((Keeps.modCh j m).trans' (.modOut _ _ _)) (.ite (.modCh j m) (.rfl' _ m))

/-- A held back record is appended to those of its channel. -/
theorem Mach.flt_holdBack {k : Nat} (code detail : Nat) (bits : BitVec 16) {m : Mach} (hk : k < 24) :
    ((m.holdBack k code detail bits).ch k).flt =
      { (m.ch k).flt with late := (m.ch k).flt.late ++ [⟨code, detail, bits, (m.ch k).prot.est⟩] } := by
  unfold Mach.holdBack
  dsimp only
  have h : Keeps Chan.flt (m.modCh k fun c =>
      { c with flt := { c.flt with late := c.flt.late ++ [⟨code, detail, bits, c.prot.est⟩] } })
      ((m.modCh k fun c => { c with flt := { c.flt with late := c.flt.late ++ [⟨code, detail, bits, c.prot.est⟩] } }).modCh
        (m.leader k) fun c => { c with limp := { c.limp with safeFlt := true } }) := .modCh _ _
  split
  · rw [Mach.ch_modCh_self _ _ _ hk]
  · rw [show _ = _ from h k, Mach.ch_modCh_self _ _ _ hk]

/-- The record of a channel holds a code and a detail of this instant and at least the history `bits`. -/
structure Flt.Holds (f : Flt) (code detail : Nat) (time : Time) (bits : BitVec 16) : Prop where
  code   : f.code = code
  detail : f.detail = detail
  time   : f.time = time
  hist   : ∀ i, bits.getLsbD i = true → f.hist.getLsbD i = true

theorem Flt.Holds.noted {f g : Flt} {code detail : Nat} {time : Time} {bits : BitVec 16} (hf : f.Holds code detail time bits)
    (hg : g.noted = f.noted) : g.Holds code detail time bits where
  code := (congrArg Flt.code hg : g.noted.code = f.noted.code).trans hf.code
  detail := (congrArg Flt.detail hg : g.noted.detail = f.noted.detail).trans hf.detail
  time := (congrArg Flt.time hg : g.noted.time = f.noted.time).trans hf.time
  hist i hi := (congrArg Flt.hist hg : g.noted.hist = f.noted.hist) ▸ hf.hist i hi

/-- Writing a code holds it, and keeps the history. -/
theorem Mach.writeCode_holds {k : Nat} (code detail : Nat) {bits : BitVec 16} {m : Mach} (hk : k < 24)
    (hb : ∀ i, bits.getLsbD i = true → (m.ch k).flt.hist.getLsbD i = true) :
    ((m.writeCode k code detail).ch k).flt.Holds code detail m.time bits := by
  unfold Mach.writeCode
  rw [Mach.ch_of_chans (Mach.event_chans _ _ _), Mach.ch_modCh_self _ _ _ hk]
  exact ⟨rfl, rfl, rfl, fun i hi => by rw [BitVec.getLsbD_or, hb i hi, Bool.true_or]⟩

theorem Mach.writeCode_ne {k n : Nat} (code detail : Nat) (m : Mach) (hn : n ≠ k) :
    ((m.writeCode k code detail).ch n) = m.ch n := by
  unfold Mach.writeCode
  rw [Mach.ch_of_chans (Mach.event_chans _ _ _), Mach.ch_modCh_ne _ _ _ _ hn]

theorem Mach.hist_addHist {k : Nat} (bits : BitVec 16) (m : Mach) (hk : k < 24) (i : Nat) (hi : bits.getLsbD i = true) :
    ((m.addHist k bits).ch k).flt.hist.getLsbD i = true := by
  unfold Mach.addHist
  rw [Mach.ch_modCh_self _ _ _ hk, BitVec.getLsbD_or, hi, Bool.or_true]

theorem Mach.time_addHist (k : Nat) (bits : BitVec 16) (m : Mach) : (m.addHist k bits).time = m.time := Mach.modCh_time _ _ _

theorem Mach.noteFault_holds {k : Nat} (code detail : Nat) (bits : BitVec 16) (st : ChSt) {m : Mach} (hk : k < 24) :
    ((m.noteFault k code detail bits st).ch k).flt.Holds code detail m.time bits := by
  have h := Mach.writeCode_holds (bits := bits) code detail hk (Mach.hist_addHist bits m hk)
  rw [Mach.time_addHist] at h
  unfold Mach.noteFault
  dsimp only
  split
  · exact h
  · next hl =>
    have hne : k ≠ m.leader k := fun e => hl (beq_iff_eq.mpr e.symm)
    rw [Mach.writeCode_ne _ _ _ hne, Mach.addHist, Mach.ch_modCh_ne _ _ _ _ hne]
    exact h

/-- A fault of a channel the part has shows in PG_EVT.FAULT of its page. -/
theorem Mach.writeCode_latches {k : Nat} (code detail : Nat) {m : Mach} (hk : k < m.nch) :
    ((m.writeCode k code detail).evtWord (chPage k)).getLsbD 0 = true := by
  have h24 := m.nch_le
  unfold Mach.writeCode
  refine Mach.event_latches ?_ (by decide)
  simpa using headerPage_chPage (p := m.dev.part) hk (by omega)

/-! ## A recorded fault -/

/-- Steps before and after the course of a fault that change neither state nor retry words leave its outcome. -/
theorem FaultOutcome.between {l code : Nat} {st : ChSt} {conducts exh : Bool} {m m1 a b : Mach} (hr : SameRules m m1)
    (hlf : m1.lf = m.lf) (h1 : Keeps (fun c => (c.st, c.rty)) m m1) (h2 : Keeps (fun c => (c.st, c.rty)) a b)
    (h : FaultOutcome l code st conducts m1 (a, exh)) : FaultOutcome l code st conducts m (b, exh) := by
  have hs1 : (m1.ch l).st = (m.ch l).st := h1.map Prod.fst l
  have hr1 : (m1.ch l).rty = (m.ch l).rty := h1.map Prod.snd l
  have hout : m1.retriesOut l = m.retriesOut l := by
    unfold Mach.retriesOut
    rw [hr.policy, hr.retryN, hr1]
  have hs2 : (b.ch l).st = (a.ch l).st := h2.map Prod.fst l
  have hr2 : (b.ch l).rty = (a.ch l).rty := h2.map Prod.snd l
  obtain ⟨ho, hlat, hp, hw, hu, hrest⟩ := h
  simp only [hr.policy, hout, hlf, hs1, hr1] at ho hlat hp hw hu hrest
  constructor
  case out => exact ho
  all_goals simpa only [hs2, hr2]

section
variable {k : Nat} (code detail : Nat) (bits : BitVec 16) (st : ChSt) (conducts first : Bool) {m : Mach}

/-- The fault is written and the inrush sequence of its leader ended. -/
def Mach.written (k code detail : Nat) (bits : BitVec 16) (st : ChSt) (m : Mach) : Mach :=
  (m.noteFault k code detail bits st).endInrush (m.leader k) 4

theorem Switched.written {ks : List Nat} (hm : ∀ j ∈ m.members k, j ∈ ks) :
    Switched ks [] m (m.written k code detail bits st) := by
  have h1 := Switched.noteFault (ks := ks) code detail bits st m hm
  exact h1.trans' (Switched.endInrush (n := m.leader k) 4 _ fun j hj => by
    rw [(Switched.rules h1).members, Mach.members_leader] at hj; exact hm j hj)

theorem Keeps.written : Keeps (fun c => (c.st, c.rty)) m (m.written k code detail bits st) :=
  ((Keeps.noteFault k code detail bits st m).map Prod.snd).trans' ((Keeps.endInrush _ 4 _).map fun x => x.2.2)

theorem Mach.written_holds (hk : k < 24) : ((m.written k code detail bits st).ch k).flt.Holds code detail m.time bits := by
  have h : Keeps Chan.flt (m.noteFault k code detail bits st) (m.written k code detail bits st) :=
    (Keeps.endInrush _ 4 _).map fun x => x.1.2
  rw [h k]
  exact Mach.noteFault_holds code detail bits st hk

/-- The state a written fault leaves its leader in. -/
def Mach.acted (k code detail : Nat) (bits : BitVec 16) (st : ChSt) (conducts : Bool) (m : Mach) : Mach × Bool :=
  (m.written k code detail bits st).faultAct (m.leader k) code detail st conducts

theorem Mach.faultRecorded_eq : m.faultRecorded k code detail bits st conducts first =
    (m.acted k code detail bits st conducts).1.reportFault k (m.leader k) code detail first
      (m.acted k code detail bits st conducts).2 := rfl

theorem Switched.acted {ks : List Nat} (hm : ∀ j ∈ m.members k, j ∈ ks) :
    Switched ks [m.leader k] (m.written k code detail bits st) (m.acted k code detail bits st conducts).1 := by
  have h1 := Switched.rules (Switched.written (ks := ks) code detail bits st hm)
  have h2 := Switched.faultAct (ks := ks) (l := m.leader k) code detail st conducts (m.written k code detail bits st)
    (fun j hj => by rw [h1.members, Mach.members_leader] at hj; exact hm j hj) (hm _ (m.leader_mem k))
  rwa [h1.leader, Mach.leader_leader] at h2

theorem Mach.acted_holds (hk : k < 24) :
    (((m.acted k code detail bits st conducts).1).ch k).flt.Holds code detail m.time bits := by
  have h : Keeps Chan.flt (m.written k code detail bits st) (m.acted k code detail bits st conducts).1 :=
    (Keeps.faultAct _ _ _ _ _ _).map Prod.snd
  rw [h k]
  exact Mach.written_holds code detail bits st hk

/-- The course of a recorded fault, in terms of the machine before it. -/
theorem Mach.faultRecorded_outcome (hk : k < 24) : FaultOutcome (m.leader k) code st conducts m
    (m.faultRecorded k code detail bits st conducts first, (m.acted k code detail bits st conducts).2) := by
  have h1 := Switched.written (ks := everyChannel) (m := m) code detail bits st (Mach.members_everyChannel hk)
  have hlf : (m.written k code detail bits st).lf = m.lf := by unfold Mach.lf; rw [Switched.clk h1, Switched.now h1]
  have hs : (m.written k code detail bits st).leader (m.leader k) = m.leader k := by
    rw [(Switched.rules h1).leader, Mach.leader_leader]
  exact .between (Switched.rules h1) hlf (Keeps.written code detail bits st)
    ((Keeps.reportFault k (m.leader k) code detail first _ _).map Prod.snd)
    (Mach.faultAct_outcome code detail conducts (Mach.members_lt hk _ (m.leader_mem k)) hs)

/-- Reporting a fault whose retries are not used up leaves its record. -/
theorem Mach.reportFault_holds {l : Nat} {time : Time} {a : Mach} (h : (a.ch k).flt.Holds code detail time bits) :
    ((a.reportFault k l code detail first false).ch k).flt.Holds code detail time bits :=
  h.noted ((Keeps.recordFault k code detail first a).map Prod.snd k)

/-- With the retries used up the leader's code is 0xD, and any record keeps its time and history. -/
theorem Mach.reportFault_exhausted {l : Nat} {a : Mach} (hl : l < a.nch)
    (h : (a.ch k).flt.Holds code detail a.time bits) :
    ((a.reportFault k l code detail first true).ch l).flt.code = 0xD ∧
      ((a.reportFault k l code detail first true).evtWord (chPage l)).getLsbD 6 = true ∧
      ∃ c d, ((a.reportFault k l code detail first true).ch k).flt.Holds c d a.time bits := by
  have h24 := a.nch_le
  let b := a.recordFault k code detail first
  let c := (b.writeCode l 0xD 0).event (chPage l) 0x0040
  have hab : Switched [k] [] a b := Switched.recordFault code detail first a List.mem_cons_self
  have hcd : Switched [l] [] c (c.recordFault l 0xD 0 false) := Switched.recordFault 0xD 0 false c List.mem_cons_self
  have hb : (b.ch k).flt.Holds code detail a.time bits := h.noted ((Keeps.recordFault k code detail first a).map Prod.snd k)
  have hd (n : Nat) : ((c.recordFault l 0xD 0 false).ch n).flt.noted = ((b.writeCode l 0xD 0).ch n).flt.noted :=
    ((Keeps.recordFault l 0xD 0 false c).map Prod.snd n).trans
      ((Keeps.event _ _ _ : Keeps (fun c => c.flt.noted) (b.writeCode l 0xD 0) c) n)
  have hpage : headerPage (b.writeCode l 0xD 0).dev.part (chPage l) = true := by
    rw [(Switched.rules (Switched.writeCode 0xD 0 b List.mem_cons_self : Switched [l] [] b _)).part, (Switched.rules hab).part]
    exact headerPage_chPage hl (by omega)
  have hlhold := Mach.writeCode_holds (bits := 0) (m := b) 0xD 0 (show l < 24 by omega) (by simp)
  refine ⟨(hlhold.noted (hd l)).code, hcd.evt _ _ (Mach.event_latches hpage (by decide)), ?_⟩
  by_cases hkl : k = l
  · subst hkl
    have hk := Mach.writeCode_holds (m := b) 0xD 0 (show k < 24 by omega) hb.hist
    rw [Switched.time hab] at hk
    exact ⟨_, _, hk.noted (hd k)⟩
  · exact ⟨_, _, hb.noted ((hd k).trans (by rw [Mach.writeCode_ne _ _ _ hkl]))⟩

/-- What the record of a channel shows after its fault. -/
theorem Mach.faultRecorded_holds (hk : k < m.nch) :
    ((m.acted k code detail bits st conducts).2 = false →
      ((m.faultRecorded k code detail bits st conducts first).ch k).flt.Holds code detail m.time bits) ∧
    ((m.acted k code detail bits st conducts).2 = true →
      ((m.faultRecorded k code detail bits st conducts first).ch (m.leader k)).flt.code = 0xD ∧
        ((m.faultRecorded k code detail bits st conducts first).evtWord (chPage (m.leader k))).getLsbD 6 = true ∧
        ∃ c d, ((m.faultRecorded k code detail bits st conducts first).ch k).flt.Holds c d m.time bits) := by
  have h24 := m.nch_le
  have hm := Mach.members_everyChannel (m := m) (show k < 24 by omega)
  have hfull := (Switched.written code detail bits st hm).any [m.leader k] |>.trans'
    (Switched.acted code detail bits st conducts hm)
  have hh := Mach.acted_holds (m := m) code detail bits st conducts (show k < 24 by omega)
  have ht := Switched.time hfull
  have hl : m.leader k < (m.acted k code detail bits st conducts).1.nch :=
    lt_of_lt_of_eq (Mach.leader_lt hk) (Switched.rules hfull).nch.symm
  rw [Mach.faultRecorded_eq]
  generalize m.acted k code detail bits st conducts = r at hh ht hl
  constructor <;> intro hx <;> rw [hx]
  · exact Mach.reportFault_holds code detail bits first hh
  · rw [← ht] at hh ⊢
    exact Mach.reportFault_exhausted code detail bits first hl hh

/-- The fault is reported on the channel's page. -/
theorem Mach.faultRecorded_latches (hk : k < m.nch) :
    ((m.faultRecorded k code detail bits st conducts first).evtWord (chPage k)).getLsbD 0 = true := by
  have h24 := m.nch_le
  have hm := Mach.members_everyChannel (m := m) (show k < 24 by omega)
  have hnote : ((m.noteFault k code detail bits st).evtWord (chPage k)).getLsbD 0 = true := by
    have h := Mach.writeCode_latches (k := k) (m := m.addHist k bits) code detail (by simpa [Mach.addHist, Mach.nch] using hk)
    unfold Mach.noteFault
    dsimp only
    split
    · exact h
    · exact ((evtKept_of_evt (Mach.modCh_evt _ _ _)).trans' (Switched.writeCode (ks := everyChannel) code detail _
        (hm _ (m.leader_mem k))).evt) _ _ h
  have hl := hm _ (m.leader_mem k)
  have hend : Switched everyChannel [] (m.noteFault k code detail bits st) (m.written k code detail bits st) :=
    Switched.endInrush 4 _ fun j hj => by
      rw [(Switched.rules (Switched.noteFault (ks := everyChannel) code detail bits st m hm)).members,
        Mach.members_leader] at hj
      exact hm j hj
  exact ((hend.evt.trans' (Switched.acted code detail bits st conducts hm).evt).trans'
    (Switched.reportFault code detail first _ _ (hm _ (m.self_mem k)) hl).evt) _ _ hnote

end

/-! ## The rule of a turn-off fault -/

section
variable {k : Nat} (code detail : Nat) (also : BitVec 16)

/-- The gates of the group discharge and the channel trips. -/
theorem Mach.turnOffFault_gates {m : Mach} (hk : k < 24) : (∀ j, j ∈ m.members k →
    ((m.turnOffFault k code detail also).ch j).stage.gateOn = false ∧ ((m.ch j).stage.gateOn = true →
      ((m.turnOffFault k code detail also).ch j).stage.edge = some (dischargeEdge m.now))) ∧
    ((m.turnOffFault k code detail also).ch k).prot.tripped = true := by
  have hstage : Keeps Chan.stage (m.discharge k) (m.turnOffFault k code detail also) :=
    (Keeps.turnOffFault k code detail also m).map Prod.fst
  have htrip : Keeps (fun c => c.prot.tripped) (m.discharge k) (m.turnOffFault k code detail also) :=
    (Keeps.turnOffFault k code detail also m).map fun x => x.2.1
  refine ⟨fun j hj => ?_, (htrip k).trans (Mach.tripped_discharge hk)⟩
  rw [hstage j, Mach.stage_discharge hk, if_pos hj]
  exact ⟨Stage.discharged_gateOn _ _, Stage.discharged_edge⟩

theorem Mach.st_turnOffFault {m : Mach} :
    (m.turnOffFault k code detail also).st k = ((m.turnOffFault k code detail also).ch (m.leader k)).st := by
  unfold Mach.st
  rw [(Switched.rules (Switched.turnOffFault (ks := m.members k) code detail also m fun _ h => h)).leader]

/-- A fault that is not held back. -/
theorem Mach.turnOffFault_recorded {m : Mach} (hlate : m.recordsLate k = false) :
    let x := m.firstFound k code detail also
    m.turnOffFault k code detail also = (m.discharge k).faultRecorded k x.1 x.2 (foundBits code also) (m.st k)
      (m.ch k).stage.conducting ((m.ch k).flt.code == 0) := by
  dsimp only
  rw [Mach.turnOffFault_eq, (SameCase.discharge k m).recordsLate, hlate]
  exact if_neg Bool.false_ne_true

theorem Mach.turnOffFault_heldBack {m : Mach} (hlate : m.recordsLate k = true) :
    let x := m.firstFound k code detail also
    m.turnOffFault k code detail also = (m.discharge k).holdBack k x.1 x.2 (foundBits code also) := by
  dsimp only
  rw [Mach.turnOffFault_eq, (SameCase.discharge k m).recordsLate, hlate]
  exact if_pos rfl

/-- A discharge before a fault leaves its outcome. -/
theorem FaultOutcome.discharged {l : Nat} {st : ChSt} {conducts : Bool} {m : Mach} {r : Mach × Bool}
    (h : FaultOutcome l code st conducts (m.discharge k) r) : FaultOutcome l code st conducts m r :=
  .between (SameCase.discharge k m).rules (SameCase.discharge k m).lf ((Keeps.discharge k m).map fun x => (x.1, x.2.2.1))
    (.rfl' _ _) h

theorem Mach.recorded_turnsOff (s : State) (hk : k < s.m.nch) (hlate : s.m.recordsLate k = false) :
    turnsOff k code detail also s (s.on (Mach.turnOffFault k code detail also)) := by
  have hk' : k < 24 := lt_of_lt_of_le hk s.m.nch_le
  have hd := SameCase.discharge k s.m
  have hkd : k < (s.m.discharge k).nch := hd.rules.nch.symm ▸ hk
  obtain ⟨hgate, htrip⟩ := Mach.turnOffFault_gates (m := s.m) code detail also hk'
  have hst := Mach.st_turnOffFault (k := k) (m := s.m) code detail also
  have heq := Mach.turnOffFault_recorded code detail also hlate
  unfold turnsOff exhausts found State.latched
  simp only [State.on_m]
  generalize s.m.firstFound k code detail also = x at heq ⊢
  have hout := Mach.faultRecorded_outcome x.1 x.2 (foundBits code also) (s.m.st k) (s.m.ch k).stage.conducting
    ((s.m.ch k).flt.code == 0) (m := s.m.discharge k) hk'
  have hflt := Mach.faultRecorded_holds x.1 x.2 (foundBits code also) (s.m.st k) (s.m.ch k).stage.conducting
    ((s.m.ch k).flt.code == 0) (m := s.m.discharge k) hkd
  have hevt := Mach.faultRecorded_latches x.1 x.2 (foundBits code also) (s.m.st k) (s.m.ch k).stage.conducting
    ((s.m.ch k).flt.code == 0) (m := s.m.discharge k) hkd
  rw [← heq] at hout hflt hevt
  rw [hd.rules.leader] at hout hflt
  rw [hd.time] at hflt
  obtain ⟨ho, hlat, hp, hw, hu, hrest⟩ := hout.discharged
  generalize Mach.acted k x.1 x.2 _ _ _ _ = r at ho hlat hrest hflt
  obtain ⟨hfin, hexh⟩ := hflt
  have hnot : ¬ (x.1 ≠ 0xA ∧ s.m.policy (s.m.leader k) ≠ 0 ∧ s.m.retriesOut (s.m.leader k) ∧
      ((s.m.st k).running = true ∨ s.m.st k = .retryWait ∧ (s.m.ch k).stage.conducting = false)) → r.2 = false := fun h =>
    Bool.eq_false_iff.mpr fun hr => h (ho.mp hr)
  rw [hlate, hst]
  refine ⟨hgate, htrip, fun _ => ?_, fun h => absurd h Bool.false_ne_true, fun _ hx => ?_, fun hx => ?_, fun hr hx => ?_,
    fun hr hx => ?_, fun hr hx => ?_⟩
  · cases hr : r.2 with
    | false => exact ⟨(hfin hr).time, hevt, (hfin hr).hist⟩
    | true =>
      obtain ⟨-, -, c, d, h⟩ := hexh hr
      exact ⟨h.time, hevt, h.hist⟩
  · exact Prod.ext (hfin (hnot hx)).code (hfin (hnot hx)).detail
  · obtain ⟨hc, he, -⟩ := hexh (ho.mpr hx)
    exact ⟨hlat (ho.mpr hx), hc, he⟩
  · exact ⟨hp hr hx, hw hr hx⟩
  · exact hu hr hx
  · exact hrest hr (hnot hx)

/-- In SAFE, before STARTUP has ended, no course of a fault moves a state (R133). -/
theorem Mach.recordsLate_iff {m : Mach} : m.recordsLate k = true ↔ m.st k = .safe ∧ m.dev.phase ≠ .running := by
  simp [Mach.recordsLate]

theorem Mach.heldBack_turnsOff (s : State) (hk : k < s.m.nch) (hlate : s.m.recordsLate k = true) :
    turnsOff k code detail also s (s.on (Mach.turnOffFault k code detail also)) := by
  have hk' : k < 24 := lt_of_lt_of_le hk s.m.nch_le
  have hd := SameCase.discharge k s.m
  obtain ⟨hgate, htrip⟩ := Mach.turnOffFault_gates (m := s.m) code detail also hk'
  have hsafe := (Mach.recordsLate_iff.mp hlate).1
  have hrun : (s.m.st k).running = false := by rw [hsafe]; rfl
  have hst : (s.m.turnOffFault k code detail also).st k = .safe := by
    rw [Mach.st_turnOffFault, Mach.turnOffFault_heldBack code detail also hlate]
    have h : Keeps Chan.st _ _ := (hd.chans.map Prod.fst).trans'
      ((Keeps.holdBack k (s.m.firstFound k code detail also).1 (s.m.firstFound k code detail also).2 (foundBits code also)
        (s.m.discharge k)).map fun x => x.2.1)
    exact (h _).trans hsafe
  have hnox : ¬ exhausts k (found k code detail also s).1 s := by
    rintro ⟨-, -, -, hr | ⟨hw, -⟩⟩
    · rw [hrun] at hr; exact Bool.false_ne_true hr
    · rw [hsafe] at hw; cases hw
  refine ⟨hgate, htrip, fun h => ?_, fun _ => ?_, fun h => ?_, fun h => absurd h hnox, fun h => ?_, fun h => ?_,
    fun _ _ => ?_⟩
  · rw [hlate] at h; cases h
  · show ((s.m.turnOffFault k code detail also).ch k).flt = _
    rw [Mach.turnOffFault_heldBack code detail also hlate, Mach.flt_holdBack _ _ _ hk', hd.flt, hd.est]
    rfl
  · rw [hlate] at h; cases h
  · rw [hrun] at h; cases h
  · rw [hrun] at h; cases h
  · exact hst.trans (by rw [hsafe]; rfl)

/-- A turn-off fault of a channel the part has takes effect. -/
theorem Mach.turnOffFault_turnsOff (s : State) (hk : k < s.m.nch) :
    turnsOff k code detail also s (s.on (Mach.turnOffFault k code detail also)) := by
  cases h : s.m.recordsLate k with
  | false => exact Mach.recorded_turnsOff code detail also s hk h
  | true => exact Mach.heldBack_turnsOff code detail also s hk h

end

/-! ## Settling after a fault -/

theorem Keeps.of_calm {β : Type} {g : Chan → β} {m m' : Mach} (h : m'.calm = m.calm)
    (hg : ∀ c, g { c with sig := Sig.reset } = g c := by intro _; rfl) : Keeps g m m' := fun n => by
  rw [← hg (m'.ch n), ← hg (m.ch n)]
  exact congrArg g (calm_ch h n)

theorem calm_st {m m' : Mach} (h : m'.calm = m.calm) (n : Nat) : m'.st n = m.st n := by
  unfold Mach.st
  rw [Mach.leader_of (calm_otp h) (congrArg Dev.part (calm_dev h))]
  exact (Keeps.of_calm h : Keeps Chan.st m m') _

/-- A fault takes effect through settling. -/
theorem turnsOff_ctl {k code detail : Nat} {also : BitVec 16} {f : Mach → Mach} {s : State}
    (h : turnsOff k code detail also s (s.on f)) : turnsOff k code detail also s (s.ctl f) := by
  have hs := State.settle_rel (s.on f)
  have hstage : Keeps Chan.stage (s.on f).m (s.ctl f).m := .of_calm hs.calm
  have hflt : Keeps Chan.flt (s.on f).m (s.ctl f).m := .of_calm hs.calm
  have hrty : Keeps Chan.rty (s.on f).m (s.ctl f).m := .of_calm hs.calm
  have hprot : Keeps Chan.prot (s.on f).m (s.ctl f).m := .of_calm hs.calm
  have hst (n : Nat) : (s.ctl f).m.st n = (s.on f).m.st n := calm_st hs.calm n
  have hevt (p i : Nat) : (s.on f).latched p i → (s.ctl f).latched p i := hs.evt p i
  unfold turnsOff at h ⊢
  simp only [hstage _, hflt _, hrty _, hprot _, hst]
  obtain ⟨hg, ht, hr, hl, hc, hx, hrun, huv, hrest⟩ := h
  exact ⟨hg, ht, fun h => (hr h).imp_right (And.imp_left (hevt _ _)), hl, hc,
    fun h => (hx h).imp_right (And.imp_right (hevt _ _)), hrun, huv, hrest⟩

/-- Switching that follows a change `m` of the machine takes effect through settling. -/
theorem Switched.switches {ks js : List Nat} {f : Mach → Mach} {s : State} {m : Mach} (he : evtKept s.m m)
    (hc : ∀ n, (m.ch n).sig.cap = (s.m.ch n).sig.cap) (h : Switched ks js m (f s.m)) : switches ks s (s.ctl f) m := by
  have hs := State.settle_rel (s.on f)
  exact ⟨(Mach.beside_of_calm ks hs.calm).trans h.view, (he.trans' h.evt).trans' hs.evt,
    fun a ha => hs.sram a fun n c hn => ha n c (((h.caps n).trans (hc n)) ▸ hn), hs.keep⟩

/-- An effect that changes nothing settles to itself. -/
theorem ctl_unchanged {f : Mach → Mach} {s : State} (h : f s.m = s.m) : settlesTo s (s.ctl f) s.m := by
  have hs := State.ctl_settlesTo f s (h.symm ▸ evtKept.rfl' s.m) (h.symm ▸ capsWithin_of_eq fun _ => rfl)
  rwa [h] at hs

/-! ## The commands that find a turn-off fault -/

/-- What a change of a channel keeps where a fault it leads to is judged as before. -/
def Chan.judged (c : Chan) : (ChSt × Flt × Rty × Inr × Nat × Nat) × (Bool × Option Edge) × (Bool × Bool × Bool × Bool) ×
    Option Capture := (c.case, c.drive, c.rules, c.sig.cap)

/-- Two machines between which no event, no capture and nothing a fault is judged by is lost. -/
structure Judged (m m' : Mach) : Prop where
  case  : SameCase m m'
  drive : Keeps Chan.drive m m'
  caps  : ∀ n, (m'.ch n).sig.cap = (m.ch n).sig.cap
  evt   : evtKept m m'

theorem Judged.rfl' (m : Mach) : Judged m m :=
  ⟨⟨.rfl' m, rfl, rfl, rfl, .rfl' _ m⟩, .rfl' _ m, fun _ => rfl, evtKept.rfl' m⟩

theorem Judged.modCh (k : Nat) {g : Chan → Chan} (m : Mach) (hg : ∀ c, (g c).judged = c.judged := by intro _; rfl) :
    Judged m (m.modCh k g) := by
  have h : Keeps Chan.judged m (m.modCh k g) := .modCh k m hg
  exact ⟨⟨⟨by simp, by simp, by simp, by simp, by simp, by simp, by simp, by simp, fun n => congrArg (fun x => x.2.2.1) (h n)⟩,
    by simp, by simp, by simp, h.map Prod.fst⟩, h.map fun x => x.2.1,
    fun n => congrArg (fun x => x.2.2.2) (h n),
    evtKept_of_evt (Mach.modCh_evt _ _ _)⟩

theorem State.ctl_congr {f g : Mach → Mach} {s : State} (h : f s.m = g s.m) : s.ctl f = s.ctl g :=
  congrArg (fun m => State.settle { s with m := m }) h

/-- A command whose condition holds takes its effect. -/
theorem State.ctl_of_true {p : Mach → Bool} {f g : Mach → Mach} {s : State} (h : p s.m = true) :
    s.ctl (fun m => if p m then f m else g m) = s.ctl f := State.ctl_congr (if_pos h)

/-- A turn-off fault of a channel the part has, found after a change `h` it is judged alike after. -/
theorem fault_ctl {k : Nat} (code detail : Nat) (also : BitVec 16) {s : State} {h : Mach → Mach} (hk : k < s.m.nch)
    (hj : Judged s.m (h s.m)) :
    turnsOff k code detail also s (s.ctl fun m => (h m).turnOffFault k code detail also) ∧
      switches (s.m.members k) s (s.ctl fun m => (h m).turnOffFault k code detail also) (h s.m) := by
  have hm : ∀ j ∈ (h s.m).members k, j ∈ s.m.members k := by rw [hj.case.rules.members]; exact fun _ h => h
  have hsw := Switched.turnOffFault code detail also (h s.m) hm
  exact ⟨turnsOff_ctl (hj.case.turnsOff hj.drive rfl (Mach.turnOffFault_turnsOff code detail also { s with m := h s.m }
    (hj.case.rules.nch.symm ▸ hk))), Switched.switches hj.evt hj.caps hsw⟩

/-- A switching beside a change that it hides. -/
theorem switches_congr {ks : List Nat} {s t : State} {m m' : Mach} (h : switches ks s t m) (he : m.beside ks = m'.beside ks) :
    switches ks s t m' := ⟨h.1.trans he, h.2⟩

/-- A channel keeps its count of trips through a fault. -/
theorem tripCnt_fault_ctl {k : Nat} (code detail : Nat) (also : BitVec 16) {s : State} (h : Mach → Mach) (n : Nat) :
    ((s.ctl fun m => (h m).turnOffFault k code detail also).m.ch n).prot.tripCnt = ((h s.m).ch n).prot.tripCnt := by
  have hs : Keeps (fun c => c.prot.tripCnt) ((h s.m).turnOffFault k code detail also)
      (s.ctl fun m => (h m).turnOffFault k code detail also).m := .of_calm (State.ctl_calm _ s)
  exact (((Keeps.tripCnt_discharge k (h s.m)).trans' ((Keeps.turnOffFault k code detail also _).map fun x => x.2.2)).trans' hs) n

theorem Mach.detects_iff {m : Mach} {n : Nat} :
    m.detects n = true ↔ (m.ch n).stage.conducting = true ∧ (m.ch n).prot.tripped = false := by
  simp [Mach.detects]

/-- A trip of a channel that detects (R107): the change `p` of its protection words counts it. -/
theorem trip_ctl {k : Nat} (detail : Nat) (also : BitVec 16) {s : State} {p : Prot → Prot} (hk : k < s.m.nch)
    (hj : ∀ c : Chan, { c with prot := p c.prot }.judged = c.judged := by intro _; rfl)
    (hs : ∀ c : Chan, { c with prot := p c.prot }.still = c.still := by intro _; rfl)
    (hp : ∀ q, (p q).tripCnt = inc16 q.tripCnt := by intro _; rfl) :
    let t := s.ctl fun m => (m.modProt k p).turnOffFault k 0x1 detail also
    turnsOff k 1 detail also s t ∧ (t.m.ch k).prot.tripCnt = inc16 (s.m.ch k).prot.tripCnt ∧
      switches (s.m.members k) s t s.m := by
  have h24 := s.m.nch_le
  obtain ⟨ht, hsw⟩ := fault_ctl 0x1 detail also (h := Mach.modProt k p) hk (.modCh k s.m hj)
  refine ⟨ht, ?_, switches_congr hsw (Mach.beside_modCh s.m (s.m.self_mem k) hs)⟩
  rw [tripCnt_fault_ctl, Mach.modProt, Mach.ch_modCh_self _ _ _ (by omega)]
  exact hp _

end Sys2Proof.Machine

section
open Sys2Proof.Machine Claim Sys2Proof

/-- Settles O19: each trip of a detecting channel is a turn-off fault of its group, and of no other channel. -/
theorem tripsTurnTheGroupOff : Obligations.TripsTurnTheGroupOff := by
  unfold Obligations.TripsTurnTheGroupOff
  intro ch also s hch
  have hback : exec (.backstopTrip ch also) s = _ := ctlCh_of_lt _ hch
  have hfast : exec (.fastTrip ch also) s = _ := ctlCh_of_lt _ hch
  refine ⟨fun hc ht => ⟨_, hback, ?_⟩, fun hc ht hi => ⟨_, hfast, ?_⟩, fun h => ⟨_, hback, ctl_unchanged (if_neg ?_)⟩,
    fun h => ⟨_, hfast, ctl_unchanged (if_neg ?_)⟩⟩
  · rw [State.ctl_of_true (p := fun m => m.detects ch) (Mach.detects_iff.mpr ⟨hc, ht⟩)]
    exact trip_ctl 1 also hch
  · rw [State.ctl_of_true (p := fun m => m.detects ch && (m.itripEff ch).isSome)
      (Bool.and_eq_true_iff.mpr ⟨Mach.detects_iff.mpr ⟨hc, ht⟩, hi⟩)]
    exact trip_ctl 0 also hch
  · rw [Mach.detects_iff]
    rcases h with h | h <;> simp [h]
  · rw [Bool.and_eq_true, Mach.detects_iff]
    rcases h with h | h | h <;> simp [h]

end

namespace Sys2Proof.Machine
open Claim

/-! ## The other faults of one channel (R78, R86, R112, R122) -/

/-- A command that finds a fault on its channel, with no other effect. -/
theorem fault_ctl_plain {k : Nat} (code detail : Nat) (also : BitVec 16) {s : State} (hk : k < s.m.nch) :
    turnsOff k code detail also s (s.ctl (Mach.turnOffFault k code detail also)) ∧
      switches (s.m.members k) s (s.ctl (Mach.turnOffFault k code detail also)) s.m :=
  fault_ctl code detail also (h := id) hk (Judged.rfl' s.m)

theorem clTimeout_fault {ch : Ch} (also : BitVec 16) {s : State} (hch : ch.val < s.m.nch)
    (hd : s.m.detects ch = true) (hr : (s.m.ch ch).prot.clReg = true) :
    ∃ t, exec (.clTimeout ch also) s = .next t ∧ turnsOff ch 2 0 also s t ∧ switches (s.m.members ch) s t s.m := by
  refine ⟨_, ctlCh_of_lt _ hch, ?_⟩
  rw [State.ctl_of_true (p := fun m => m.detects ch && (m.ch ch).prot.clReg) (Bool.and_eq_true_iff.mpr ⟨hd, hr⟩)]
  exact fault_ctl_plain 2 0 also hch

theorem svbbPwmOff_fault {ch : Ch} (also : BitVec 16) {s : State} (hch : ch.val < s.m.nch)
    (hf : (s.m.st ch).follows = true) (hb : bit (s.m.lw ch 0x14) 9 = true) (hc : (s.m.ch ch).stage.conducting = false) :
    ∃ t, exec (.svbbPwmOff ch also) s = .next t ∧ turnsOff ch 6 1 also s t ∧ switches (s.m.members ch) s t s.m := by
  refine ⟨_, ctlCh_of_lt _ hch, ?_⟩
  rw [State.ctl_of_true (p := fun m => (m.st ch).follows && bit (m.lw ch 0x14) 9 && !(m.ch ch).stage.conducting)
    (by simp [hf, hb, hc])]
  exact fault_ctl_plain 6 1 also hch

theorem reverseCurrent_fault {ch : Ch} (also : BitVec 16) {s : State} (hch : ch.val < s.m.nch)
    (hr : (s.m.st ch).running = true) (hb : bit (s.m.lw ch 0x0B) 6 = true) :
    ∃ t, exec (.reverseCurrent ch true true also) s = .next t ∧ turnsOff ch 9 0 also s t ∧
      switches (s.m.members ch) s t (s.m.modCh ch fun c => { c with stage := { c.stage with rev := true } }) := by
  have hj : Judged s.m (s.m.modCh ch fun c => { c with stage := { c.stage with rev := true } }) := .modCh ch s.m
  refine ⟨_, (ctlCh_of_lt _ hch).trans (congrArg _ (State.ctl_congr ?_)), fault_ctl 9 0 also (h := Mach.modCh ch _) hch hj⟩
  refine (if_pos rfl).trans (if_pos ?_)
  rw [hj.case.st, hj.case.rules.lw, hr, hb]
  rfl

theorem vgsLow_fault {ch : Ch} (also : BitVec 16) {s : State} (hch : ch.val < s.m.nch)
    (hg : (s.m.ch ch).stage.gateOn = true) :
    ∃ t, exec (.gateDriveFault (.vgsLow ch) also) s = .next t ∧ turnsOff ch 0xB 0 also s t ∧
      switches (s.m.members ch) s t s.m := by
  have hj : Judged s.m (s.m.modCh ch fun c => { c with stage := { c.stage with vgsOk := false } }) := .modCh ch s.m
  obtain ⟨ht, hsw⟩ := fault_ctl 0xB 0 also (h := Mach.modCh ch fun c => { c with stage := { c.stage with vgsOk := false } }) hch hj
  refine ⟨_, congrArg Host.Outcome.next (State.ctl_congr ?_), ht,
    switches_congr hsw (Mach.beside_modCh s.m (s.m.self_mem _) fun _ => rfl)⟩
  exact (if_pos hg).trans (if_pos (hj.case.rules.nch.symm ▸ hch))

theorem vgsStuck_fault {ch : Ch} (also : BitVec 16) {s : State} (hch : ch.val < s.m.nch)
    (hg : (s.m.ch ch).stage.gateOn = false) :
    ∃ t, exec (.gateDriveFault (.vgsStuck ch) also) s = .next t ∧ turnsOff ch 0xB 0 also s t ∧
      switches (s.m.members ch) s t s.m := by
  refine ⟨_, congrArg Host.Outcome.next (State.ctl_congr ?_), fault_ctl_plain 0xB 0 also hch⟩
  exact (if_neg (Bool.eq_false_iff.mp hg)).trans (if_pos hch)

theorem channelFaults_hold : channelFaults :=
  ⟨fun _ also _ hch hc ht hr => clTimeout_fault also hch (Mach.detects_iff.mpr ⟨hc, ht⟩) hr,
    fun _ also _ hch hf hb hc => svbbPwmOff_fault also hch hf hb hc,
    fun _ also _ hch hr hb => reverseCurrent_fault also hch hr hb,
    fun _ also _ hch hg => vgsLow_fault also hch hg, fun _ also _ hch hg => vgsStuck_fault also hch hg⟩

/-! ## Faults of several channels in one round -/

/-- A fault leads to LATCHED or RETRY_WAIT, or leaves a state in which the channel does not run. -/
theorem turnsOff_st {k code detail : Nat} {also : BitVec 16} {s t : State} (h : turnsOff k code detail also s t) :
    t.m.st k = .latched ∨ t.m.st k = .retryWait ∨ ((s.m.st k).running = false ∧ t.m.st k = s.m.st k) := by
  obtain ⟨-, -, -, -, -, hx, hrun, huv, hrest⟩ := h
  by_cases hex : exhausts k (found k code detail also s).1 s
  · exact .inl (hx hex).1
  · cases hr : (s.m.st k).running with
    | false =>
      have hst := hrest hr hex
      split at hst
      · exact .inl hst
      · exact .inr (.inr ⟨rfl, hst⟩)
    | true =>
      by_cases hA : (found k code detail also s).1 = 0xA
      · exact .inr (.inl (huv hr hA).1)
      · by_cases hp : s.m.policy (s.m.leader k) = 0
        · exact .inl ((hrun hr hA).1 hp)
        · exact .inr (.inl ((hrun hr hA).2 hp fun ho => hex ⟨hA, hp, ho, .inl hr⟩).1)

/-- Every history bit stays. -/
def histKept (m m' : Mach) : Prop := ∀ n i, (m.ch n).flt.hist.getLsbD i = true → (m'.ch n).flt.hist.getLsbD i = true

theorem histKept.rfl' (m : Mach) : histKept m m := fun _ _ h => h
theorem histKept.trans' {a b c : Mach} (h : histKept a b) (k : histKept b c) : histKept a c := fun n i x => k n i (h n i x)
theorem histKept_of_keeps {m m' : Mach} (h : Keeps Chan.flt m m') : histKept m m' := fun n _ hi => by rw [h n]; exact hi
theorem histKept_of_noted {m m' : Mach} (h : Keeps (fun c => c.flt.noted) m m') : histKept m m' := fun n i hi => by
  have hh : (m'.ch n).flt.hist = (m.ch n).flt.hist := (h.map Flt.hist : Keeps (fun c => c.flt.noted.hist) m m') n
  rw [hh]
  exact hi

theorem histKept_modCh (k : Nat) (f : Chan → Chan) (m : Mach)
    (hf : ∀ c i, c.flt.hist.getLsbD i = true → (f c).flt.hist.getLsbD i = true) : histKept m (m.modCh k f) := by
  intro n i hi
  by_cases hn : n = k
  · subst hn
    by_cases h24 : n < 24
    · rw [Mach.ch_modCh_self _ _ _ h24]; exact hf _ i hi
    · unfold Mach.modCh; rw [dif_neg h24]; exact hi
  · rw [Mach.ch_modCh_ne _ _ _ _ hn]; exact hi

theorem histKept_addHist (k : Nat) (bits : BitVec 16) (m : Mach) : histKept m (m.addHist k bits) :=
  histKept_modCh _ _ _ fun c i hi => by rw [BitVec.getLsbD_or, hi, Bool.true_or]

theorem histKept_writeCode (k code detail : Nat) (m : Mach) : histKept m (m.writeCode k code detail) :=
  (histKept_modCh _ _ _ fun c i hi => by rw [BitVec.getLsbD_or, hi, Bool.true_or]).trans'
    (histKept_of_keeps (.event _ _ _))

theorem histKept_noteFault (k code detail : Nat) (bits : BitVec 16) (st : ChSt) (m : Mach) :
    histKept m (m.noteFault k code detail bits st) := by
  have h := (histKept_addHist k bits m).trans' (histKept_writeCode k code detail _)
  unfold Mach.noteFault
  dsimp only
  split
  · exact h
  · exact h.trans' ((histKept_addHist _ _ _).trans' (histKept_writeCode _ _ _ _))

theorem histKept_recordFault (k code detail : Nat) (first : Bool) (m : Mach) : histKept m (m.recordFault k code detail first) :=
  histKept_of_noted ((Keeps.recordFault k code detail first m).map Prod.snd)

theorem histKept_reportFault (k l code detail : Nat) (first exh : Bool) (m : Mach) :
    histKept m (m.reportFault k l code detail first exh) := by
  have h := histKept_recordFault k code detail first m
  unfold Mach.reportFault
  dsimp only
  split
  · exact h.trans' (((histKept_writeCode _ _ _ _).trans' (histKept_of_keeps (.event _ _ _))).trans'
      (histKept_recordFault _ _ _ _ _))
  · exact h

theorem histKept_turnOffFault (k code detail : Nat) (also : BitVec 16) (m : Mach) :
    histKept m (m.turnOffFault k code detail also) := by
  rw [Mach.turnOffFault_eq]
  dsimp only
  refine (histKept_of_keeps ((Keeps.discharge k m).map fun x => x.2.1)).trans' ?_
  generalize m.discharge k = d
  split
  · unfold Mach.holdBack
    dsimp only
    have h : histKept d (d.modCh k fun c => { c with flt := { c.flt with late := c.flt.late ++
        [⟨(m.firstFound k code detail also).1, (m.firstFound k code detail also).2, foundBits code also, c.prot.est⟩] } }) :=
      histKept_modCh _ _ _ fun _ _ hi => hi
    split
    · exact h
    · exact h.trans' (histKept_of_keeps (.modCh _ _))
  · exact ((histKept_noteFault _ _ _ _ _ _).trans' (histKept_of_keeps ((Keeps.endInrush _ 4 _).map fun x => x.1.2))).trans'
      ((histKept_of_keeps ((Keeps.faultAct _ _ _ _ _ _).map Prod.snd)).trans' (histKept_reportFault _ _ _ _ _ _ _))

/-- Faults turn gates off and stop channels at most: no channel starts or becomes SAFE, and no record is lost. -/
structure Faulted (m m' : Mach) : Prop where
  frame : Switched everyChannel everyChannel m m'
  off   : ∀ k, (m.ch k).stage.gateOn = false → (m'.ch k).stage.gateOn = false
  st    : ∀ k, m'.st k = m.st k ∨ m'.st k = .latched ∨ m'.st k = .retryWait
  hist  : histKept m m'

theorem Faulted.rfl' (m : Mach) : Faulted m m := ⟨.rfl' _ _ m, fun _ h => h, fun _ => .inl rfl, .rfl' m⟩

theorem Faulted.trans' {a b c : Mach} (h : Faulted a b) (k : Faulted b c) : Faulted a c where
  frame := h.frame.trans' k.frame
  off n hn := k.off n (h.off n hn)
  st n := by
    rcases k.st n with hk | hk
    · rw [hk]; exact h.st n
    · exact .inr hk
  hist := h.hist.trans' k.hist

theorem Faulted.turnOffFault {k : Nat} (code detail : Nat) (also : BitVec 16) (s : State) (hk : k < s.m.nch) :
    Faulted s.m (s.m.turnOffFault k code detail also) := by
  have hk24 : k < 24 := lt_of_lt_of_le hk s.m.nch_le
  have hm := Mach.members_everyChannel (m := s.m) hk24
  have hsw := Switched.turnOffFault (ks := everyChannel) code detail also s.m hm
  have ht := Mach.turnOffFault_turnsOff code detail also s hk
  refine ⟨hsw.mono fun j hj => ?_, fun n hn => ?_, fun n => ?_, histKept_turnOffFault k code detail also s.m⟩
  · rw [List.mem_singleton.mp hj]; exact hm _ (s.m.leader_mem k)
  · have hstage : Keeps Chan.stage (s.m.discharge k) (s.m.turnOffFault k code detail also) :=
      (Keeps.turnOffFault k code detail also s.m).map Prod.fst
    rw [hstage n, Mach.stage_discharge hk24]
    split
    · exact Stage.discharged_gateOn _ _
    · exact hn
  · by_cases hl : s.m.leader n = s.m.leader k
    · have hl' : (s.m.turnOffFault k code detail also).st n = (s.m.turnOffFault k code detail also).st k := by
        unfold Mach.st; rw [hsw.rules.leader, hsw.rules.leader, hl]
      have hs : s.m.st n = s.m.st k := by unfold Mach.st; rw [hl]
      rw [hl', hs]
      rcases turnsOff_st ht with h | h | ⟨-, h⟩
      · exact .inr (.inl h)
      · exact .inr (.inr h)
      · exact .inl h
    · refine .inl ?_
      unfold Mach.st
      rw [hsw.rules.leader]
      exact hsw.st _ fun h => hl (List.mem_singleton.mp h)

/-- Channel `k` is off, does not run, and holds code 0xB in its history unless its record is held back. -/
structure PumpedOff (k : Nat) (late : Bool) (m : Mach) : Prop where
  off  : (m.ch k).stage.gateOn = false
  stop : (m.st k).running = false
  hist : late = false → (m.ch k).flt.hist.getLsbD 0xB = true
  evt  : late = false → (m.evtWord (chPage k)).getLsbD 0 = true

theorem Faulted.pumpedOff {k : Nat} {late : Bool} {m m' : Mach} (h : Faulted m m') (hp : PumpedOff k late m) :
    PumpedOff k late m' where
  off := h.off k hp.off
  stop := by rcases h.st k with hs | hs | hs <;> rw [hs]; exacts [hp.stop, rfl, rfl]
  hist hl := h.hist k _ (hp.hist hl)
  evt hl := h.frame.evt _ _ (hp.evt hl)

/-- No fault lets a record be held back that was not before. -/
theorem Faulted.recordsLate {k : Nat} {m m' : Mach} (h : Faulted m m') (hl : m.recordsLate k = false) :
    m'.recordsLate k = false := by
  rw [Bool.eq_false_iff, ne_eq, Mach.recordsLate_iff, h.frame.rules.phase] at *
  rintro ⟨hs, hp⟩
  rcases h.st k with h | h | h <;> rw [hs] at h
  · exact hl ⟨h.symm, hp⟩
  all_goals cases h

theorem foundBits_self (also : BitVec 16) : (foundBits 0xB also).getLsbD 0xB = true := by
  unfold foundBits
  rw [BitVec.getLsbD_or, BitVec.getLsbD_and, BitVec.getLsbD_or]
  simp

theorem turnsOff_pumpedOff {k : Nat} {also : BitVec 16} {s t : State} (h : turnsOff k 0xB 0 also s t) :
    PumpedOff k (s.m.recordsLate k) t.m := by
  have hst := turnsOff_st h
  obtain ⟨hg, -, hr, -⟩ := h
  refine ⟨(hg k (s.m.self_mem k)).1, ?_, fun hl => (hr hl).2.2 _ (foundBits_self also), fun hl => (hr hl).2.1⟩
  rcases hst with h | h | ⟨hn, h⟩ <;> rw [h]
  exacts [rfl, rfl, hn]

/-- The faults of a round turn each of their channels off. -/
theorem pumpFaults (also : BitVec 16) (l : List Nat) : ∀ s : State, (∀ j ∈ l, j < s.m.nch) →
    Faulted s.m (forList l (fun k m => m.turnOffFault k 0xB 0 also) s.m) ∧
      ∀ k ∈ l, PumpedOff k (s.m.recordsLate k) (forList l (fun k m => m.turnOffFault k 0xB 0 also) s.m) := by
  induction l with
  | nil => exact fun s _ => ⟨.rfl' s.m, fun _ hk => absurd hk List.not_mem_nil⟩
  | cons j t ih =>
    intro s hl
    have hj := hl j List.mem_cons_self
    have h1 := Faulted.turnOffFault 0xB 0 also s hj
    obtain ⟨h2, hp⟩ := ih { s with m := s.m.turnOffFault j 0xB 0 also } fun i hi => by
      rw [show _ = s.m.nch from h1.frame.rules.nch]; exact hl i (List.mem_cons_of_mem _ hi)
    rw [forList_cons]
    refine ⟨h1.trans' h2, fun k hk => ?_⟩
    rcases List.mem_cons.mp hk with rfl | hk
    · exact h2.pumpedOff (turnsOff_pumpedOff (Mach.turnOffFault_turnsOff 0xB 0 also s hj))
    · obtain ⟨ho, hs, hh, he⟩ := hp k hk
      exact ⟨ho, hs, fun h => hh (h1.recordsLate h), fun h => he (h1.recordsLate h)⟩

theorem Mach.gateFaultAll_faults (also : BitVec 16) (s : State) : Faulted s.m (s.m.gateFaultAll also) ∧
    ∀ k, k < s.m.nch → s.m.detects k = true → PumpedOff k (s.m.recordsLate k) (s.m.gateFaultAll also) := by
  obtain ⟨hf, hp⟩ := pumpFaults also (s.m.allCh.filter s.m.detects) s fun j hj => by
    simpa [Mach.allCh] using (List.mem_filter.mp hj).1
  exact ⟨hf, fun k hk hd => hp k (List.mem_filter.mpr ⟨by simpa [Mach.allCh] using hk, hd⟩)⟩

theorem pumpedOff_ctl {k : Nat} {late : Bool} {f : Mach → Mach} {s : State} (h : PumpedOff k late (f s.m)) :
    PumpedOff k late (s.ctl f).m := by
  have hs := State.settle_rel (s.on f)
  have hstage : Keeps Chan.stage (f s.m) (s.ctl f).m := .of_calm hs.calm
  have hflt : Keeps Chan.flt (f s.m) (s.ctl f).m := .of_calm hs.calm
  obtain ⟨ho, hst, hh, he⟩ := h
  refine ⟨?_, (calm_st hs.calm k).symm ▸ hst, fun hl => ?_, fun hl => hs.evt _ _ (he hl)⟩
  · rw [hstage k]; exact ho
  · rw [hflt k]; exact hh hl

/-- The machine in which CPCLK is lost and VCP no longer holds (R34). -/
def Mach.cpLost (m : Mach) : Mach :=
  { m with clk := { m.clk with cpOk := false, cpLossCnt := inc16 m.clk.cpLossCnt }, pwr := { m.pwr with vcpOk := false } }

theorem vcpLow_holds (also : BitVec 16) (s : State) (h : ∃ k, k < s.m.nch ∧ (s.m.ch k).stage.gateOn = true) :
    ∃ t, exec (.gateDriveFault .vcpLow also) s = .next t ∧
      (∀ k, k < s.m.nch → s.m.detects k = true → PumpedOff k (s.m.recordsLate k) t.m) ∧ switches everyChannel s t s.m := by
  obtain ⟨k, hk, hg⟩ := h
  obtain ⟨hf, hp⟩ := Mach.gateFaultAll_faults also s
  have hany : (s.m.allCh.any fun k => (s.m.ch k).stage.gateOn) = true :=
    List.any_eq_true.mpr ⟨k, by simpa [Mach.allCh] using hk, hg⟩
  exact ⟨s.ctl (Mach.gateFaultAll also), congrArg Host.Outcome.next (State.ctl_congr (if_pos hany)),
    fun k hk hd => pumpedOff_ctl (hp k hk hd), Switched.switches (evtKept.rfl' _) (fun _ => rfl) hf.frame⟩

theorem cpclkLost_holds (also : BitVec 16) (s : State) (h : s.m.clk.cpOk = true) :
    ∃ t, exec (.gateDriveFault .cpclkLost also) s = .next t ∧ t.latched 0x01 3 ∧
      (∀ k, k < s.m.nch → s.m.detects k = true → PumpedOff k (s.m.recordsLate k) t.m) ∧
      switches everyChannel s t s.m.cpLost := by
  let m1 := s.m.cpLost.event 0x01 0x0008
  have hev : Switched everyChannel [] s.m.cpLost m1 := Switched.event everyChannel 0x01 0x0008 s.m.cpLost
  obtain ⟨hf, hp⟩ := Mach.gateFaultAll_faults also { s with m := m1 }
  have hch (k : Nat) : m1.ch k = s.m.ch k := Mach.ch_of_chans (Mach.event_chans _ _ _) k
  have hlate (k : Nat) : m1.recordsLate k = s.m.recordsLate k := by
    unfold Mach.recordsLate Mach.st
    rw [hev.rules.leader, hch, hev.rules.phase]
    rfl
  have hdet (k : Nat) : m1.detects k = s.m.detects k := by unfold Mach.detects; rw [hch]
  have hpage : headerPage s.m.cpLost.dev.part 0x01 = true := by cases s.m.cpLost.dev.part <;> rfl
  refine ⟨s.ctl fun m => (m.cpLost.event 0x01 0x0008).gateFaultAll also,
    congrArg Host.Outcome.next (State.ctl_congr (if_pos h)), ?_, fun k hk hd => ?_, ?_⟩
  · exact (State.settle_rel _).evt _ _ (hf.frame.evt _ _ (Mach.event_latches hpage (by decide)))
  · rw [← hlate]
    exact pumpedOff_ctl (hp k (hev.rules.nch.symm ▸ hk) ((hdet k).symm ▸ hd))
  · exact Switched.switches (evtKept_of_evt rfl) (fun _ => rfl) ((hev.any _).trans' hf.frame)

theorem chargePumpLoss_holds : chargePumpLoss := by
  have hoff {s t : State} (hp : ∀ k, k < s.m.nch → s.m.detects k = true → PumpedOff k (s.m.recordsLate k) t.m) (k : Nat)
      (hk : k < s.m.nch) (hc : (s.m.ch k).stage.conducting = true) (ht : (s.m.ch k).prot.tripped = false) :
      (t.m.ch k).stage.gateOn = false ∧ (t.m.st k).running = false ∧
        (s.m.recordsLate k = false → (t.m.ch k).flt.hist.getLsbD 0xB = true ∧ t.latched (chPage k) 0) := by
    obtain ⟨ho, hs, hh, he⟩ := hp k hk (Mach.detects_iff.mpr ⟨hc, ht⟩)
    exact ⟨ho, hs, fun hl => ⟨hh hl, he hl⟩⟩
  refine ⟨fun also s h => ?_, fun also s h => ?_⟩
  · obtain ⟨t, he, hp, hs⟩ := vcpLow_holds also s h
    exact ⟨t, he, hoff hp, hs⟩
  · obtain ⟨t, he, hl, hp, hs⟩ := cpclkLost_holds also s h
    exact ⟨t, he, hl, hoff hp, hs⟩

end Sys2Proof.Machine

section
open Sys2Proof.Machine

/-- Settles O22: each detection is a turn-off fault of its channel, and the loss of the charge pump one of every channel that
detects, in turn. -/
theorem faultsTurnChannelsOff : Obligations.FaultsTurnChannelsOff := ⟨channelFaults_hold, chargePumpLoss_holds⟩

end

namespace Sys2Proof.Machine
open Claim

/-! ## DEV.STATE (R37) -/

theorem regAt_devState : (regAt 0x00 0x08).map Reg.acc = some .ro := by decide

/-- The device states fit in the three low bits of DEV.STATE. -/
theorem Mach.devState_lt (m : Mach) : m.devState < 8 := by
  unfold Mach.devState
  split
  · decide
  · split
    · decide
    · split
      · decide
      · split <;> decide
  · decide

theorem Mach.devStateWord_mod (m : Mach) : (wd m.devStateWord).toNat % 8 = m.devState := by
  have h := m.devState_lt
  have hw : (wd m.devStateWord).toNat = m.devStateWord % 2 ^ 16 := BitVec.toNat_ofNat _ _
  rw [hw]
  unfold Mach.devStateWord flag
  split <;> split <;> split <;> split <;> omega

theorem State.value_devState (s : State) : s.value 0x00 0x08 = wd s.m.devStateWord := by
  have h := regAt_devState
  unfold State.value
  dsimp only
  rw [if_neg (by decide)]
  cases hr : regAt 0x00 0x08 with
  | none => rw [hr] at h; cases h
  | some r =>
    rw [hr] at h
    dsimp only
    rw [Option.some.inj h]
    rfl

theorem Mach.devState_running {m : Mach} (h : m.dev.phase = .running) :
    m.devState = (if m.thm.stop then 4 else if m.dev.frz then 5 else if m.dev.governed then 3 else 2) := by
  unfold Mach.devState
  rw [h]

/-- The port answers in the running device alone. -/
theorem Mach.portOn_of_devState {m : Mach} (h : m.devState = 0) : m.portOn = false := by
  have hp : m.dev.phase = .powerOff := by
    cases hp : m.dev.phase with
    | powerOff => rfl
    | running =>
      rw [Mach.devState_running hp] at h
      split at h
      · cases h
      · split at h
        · cases h
        · split at h <;> cases h
    | _ => unfold Mach.devState at h; rw [hp] at h; cases h
  unfold Mach.portOn
  rw [hp]
  rfl

/-- The state before the present one is the second byte of a BOOT record. -/
theorem Mach.bootPay_state (m : Mach) : nth m.bootPay 1 1 = BitVec.ofNat 8 m.dev.prevState := by
  rfl

theorem porRelease_bootPay {s u : State} (hp : s.m.dev.phase = .powerOff) (h : exec .porRelease s = .next u) :
    nth u.m.bootPay 1 1 = 0 := by
  have hu : exec .porRelease s = .next _ := congrArg Host.Outcome.next (if_pos (beq_iff_eq.mpr hp))
  obtain rfl := Host.Outcome.next.inj (hu.symm.trans h)
  rw [Mach.bootPay_state]
  rfl

end Sys2Proof.Machine

section
open Sys2Proof.Machine

/-- Settles O10, by the phases of the device. -/
theorem deviceStateShowsTheMode : Obligations.DeviceStateShowsTheMode := by
  refine ⟨fun s h => ⟨Mach.devState_running h, ?_⟩, fun s h => Mach.portOn_of_devState h, fun s => ?_⟩
  · rw [State.value_devState, Mach.devStateWord_mod]
  · exact ⟨_, rfl, rfl, fun u h => porRelease_bootPay rfl h⟩

end

namespace Sys2Proof.Machine
open Claim

/-! ## What judging a capture leaves (R24, R180 to R183) -/

/-- A machine without what judging a capture and learning from it change: signature words, fault codes, operations and
rings, and the reports. -/
def Mach.unjudged (m : Mach) : Mach :=
  { m.quiet with chans := vmap m.chans fun _ c => { c with sig := .reset, flt := .reset }
                 ops := [], opLast := [], rings := .reset }

/-- A step of the signature engine: beside what judging changes the machine stays, and no event is lost. -/
structure SigStep (m m' : Mach) : Prop where
  view : m'.unjudged = m.unjudged
  evt  : evtKept m m'

theorem SigStep.rfl' (m : Mach) : SigStep m m := ⟨rfl, evtKept.rfl' m⟩
theorem SigStep.trans' {a b c : Mach} (h : SigStep a b) (k : SigStep b c) : SigStep a c :=
  ⟨k.view.trans h.view, h.evt.trans' k.evt⟩

theorem SigStep.event (p : Nat) (w : Word) (m : Mach) : SigStep m (m.event p w) := by
  let G (x : Mach) : Mach :=
    { x with chans := vmap x.chans fun _ c => { c with sig := .reset, flt := .reset }, ops := [], opLast := [], rings := .reset }
  exact ⟨(congrArg G (Mach.quiet_event p w m) : G (m.event p w).quiet = G m.quiet), evtKept_event p w m⟩

theorem SigStep.modCh (n : Nat) {f : Chan → Chan} (m : Mach)
    (hf : ∀ c, { f c with sig := Sig.reset, flt := Flt.reset } = { c with sig := .reset, flt := .reset } := by intro _; rfl) :
    SigStep m (m.modCh n f) := by
  refine ⟨?_, evtKept_of_evt (Mach.modCh_evt _ _ _)⟩
  unfold Mach.modCh
  split
  · have hv : (vmap (vmod m.chans ⟨n, ‹_›⟩ f) fun _ c => { c with sig := Sig.reset, flt := Flt.reset }) =
        vmap m.chans fun _ c => { c with sig := .reset, flt := .reset } := by
      refine vmap_congr fun i => ?_
      simp only [Fin.getElem_fin, vmod_get]
      split
      · exact hf _
      · rfl
    exact congrArg (fun v => { m.unjudged with chans := v }) hv
  · rfl

theorem SigStep.ops {m m' : Mach} (h : m'.unjudged = m.unjudged) (he : m'.evt = m.evt) : SigStep m m' := ⟨h, evtKept_of_evt he⟩

section
variable {m m' : Mach} (h : SigStep m m')
include h

theorem SigStep.field {β : Type} (g : Mach → β) : g m'.unjudged = g m.unjudged := congrArg g h.view
theorem SigStep.keeps {β : Type} (g : Chan → β) (hg : ∀ c, g { c with sig := .reset, flt := .reset } = g c := by intro _; rfl) :
    Keeps g m m' := fun n => by
  have hch (x : Mach) : g (x.unjudged.ch n) = g (x.ch n) := by
    by_cases hn : n < 24
    · simp [Mach.unjudged, Mach.ch, hn, vmap, hg]
    · simp [Mach.ch, hn]
  rw [← hch m', h.view, hch]
theorem SigStep.headerPage {n : Nat} (hn : n < m.nch) : headerPage m'.dev.part (chPage n) = true := by
  have h24 := m.nch_le
  exact headerPage_chPage (by rw [show m'.dev.part = m.dev.part from SigStep.field h fun x => x.dev.part]; exact hn) (by omega)

end

/-! ## The compare -/

/-- Reading an envelope: of the signature words no count moves, no code is written. -/
structure SigRead (s t : State) : Prop where
  step   : SigStep s.m t.m
  counts : Keeps (fun c => (c.sig.cnt, c.sig.fcnt, c.flt)) s.m t.m
  ops    : t.m.ops = s.m.ops
  sram   : t.sram = s.sram
  store  : sameStore s t

theorem SigRead.rfl' (s : State) : SigRead s s := ⟨.rfl' _, .rfl' _ _, rfl, rfl, rfl, rfl⟩
theorem SigRead.trans' {a b c : State} (h : SigRead a b) (k : SigRead b c) : SigRead a c :=
  ⟨h.step.trans' k.step, h.counts.trans' k.counts, k.ops.trans h.ops, k.sram.trans h.sram, k.store.1.trans h.store.1,
    k.store.2.trans h.store.2⟩

theorem SigRead.modSig (n : Nat) {f : Sig → Sig} (s : State)
    (hf : ∀ g, (f g).cnt = g.cnt ∧ (f g).fcnt = g.fcnt := by intro _; exact ⟨rfl, rfl⟩) : SigRead s (s.on (Mach.modSig n f)) :=
  ⟨.modCh n s.m, .modCh n s.m fun c => Prod.ext (hf c.sig).1 (Prod.ext (hf c.sig).2 rfl), Mach.modCh_ops _ _ _, rfl, rfl, rfl⟩

theorem SigRead.event (p : Nat) (w : Word) (s : State) (ecc : List (Nat × Bool)) :
    SigRead s { s with eccBad := ecc, m := s.m.event p w } :=
  ⟨.event p w s.m, .event p w s.m, Mach.event_ops _ _ _, rfl, rfl, rfl⟩

theorem State.sramRead_reads (w : Nat) (s : State) : SigRead s (s.sramRead w).2.2 := by
  unfold State.sramRead
  split
  · exact .rfl' s
  · exact .event _ _ _ _
  · exact .event _ _ _ _

theorem State.sramRead_clean (w : Nat) {s : State} (h : s.eccBad = []) : s.sramRead w = (s.sramWord w, false, s) := by
  unfold State.sramRead
  rw [h]
  rfl

theorem State.sigScan_reads (n page l : Nat) (xs : List Int) : ∀ (k nfail first : Nat) (s : State),
    SigRead s (s.sigScan n page l k xs nfail first).2.2 := by
  induction xs with
  | nil => exact fun _ _ _ s => .rfl' s
  | cons x t ih =>
    intro k nfail first s
    have h := State.sramRead_reads (sramIndex page k) s
    unfold State.sigScan
    dsimp only
    generalize s.sramRead (sramIndex page k) = r at h ⊢
    split
    · exact (h.trans' (.modSig n _)).trans' (ih _ _ _ _)
    · split
      · exact h.trans' (ih _ _ _ _)
      · exact h.trans' (ih _ _ _ _)

/-- Without SRAM errors the scan counts the samples the envelope refuses. -/
theorem State.sigScan_clean (n page l : Nat) {s : State} (h : s.eccBad = []) (xs : List Int) : ∀ k nfail first : Nat,
    (s.sigScan n page l k xs nfail first).1 =
      nfail + (xs.zipIdx k).countP fun p => !sigPass p.1 (s.sramWord (sramIndex page p.2)) l := by
  induction xs with
  | nil => exact fun _ _ _ => rfl
  | cons x t ih =>
    intro k nfail first
    unfold State.sigScan
    rw [State.sramRead_clean _ h]
    dsimp only
    rw [if_neg Bool.false_ne_true, List.zipIdx_cons, List.countP_cons]
    split
    · next hp => rw [ih, hp]; simp
    · next hp => rw [ih, Bool.eq_false_iff.mpr hp]; simp; omega

/-- A capture of channel `n` has been judged: its result stands, a FAIL with its count, report and code. -/
structure SigJudged (n : Nat) (s t : State) : Prop where
  step  : SigStep s.m t.m
  cnt   : Keeps (fun c => c.sig.cnt) s.m t.m
  ops   : t.m.ops = s.m.ops
  sram  : t.sram = s.sram
  store : sameStore s t
  fail  : (t.m.ch n).sig.result = 2 → t.latched (chPage n) 8 ∧ (t.m.ch n).sig.fcnt = inc16 (s.m.ch n).sig.fcnt ∧
    (t.m.ch n).flt.code = if (s.m.ch n).flt.code = 0 then 0xC else (s.m.ch n).flt.code
  pass  : (t.m.ch n).sig.result ≠ 2 → (t.m.ch n).sig.fcnt = (s.m.ch n).sig.fcnt ∧ (t.m.ch n).flt = (s.m.ch n).flt

/-- Put the result of a compare and its reason. -/
def State.sigResult (n result reason : Nat) (s : State) : State :=
  s.on (Mach.modSig n fun g => { g with result := result, reason := reason })

theorem State.sigResult_reads (n result reason : Nat) (s : State) : SigRead s (s.sigResult n result reason) := .modSig n s

theorem State.sigResult_at {n : Nat} (result reason : Nat) (s : State) (hn : n < 24) :
    (((s.sigResult n result reason).m.ch n).sig.result, ((s.sigResult n result reason).m.ch n).sig.reason) = (result, reason) := by
  unfold State.sigResult Mach.modSig
  rw [State.on_m, Mach.ch_modCh_self _ _ _ hn]

theorem SigRead.judged {n result reason : Nat} {s t : State} (h : SigRead s t) (hn : n < 24) (hr : result ≠ 2) :
    SigJudged n s (t.sigResult n result reason) := by
  have hat := congrArg Prod.fst (State.sigResult_at result reason t hn)
  obtain ⟨hs, hc, ho, hsr, hst⟩ := h.trans' (State.sigResult_reads n result reason t)
  exact ⟨hs, hc.map Prod.fst, ho, hsr, hst, fun h2 => absurd (hat.symm.trans h2) hr,
    fun _ => ⟨congrArg (fun x => x.2.1) (hc n), congrArg (fun x => x.2.2) (hc n)⟩⟩

/-! ### A failed compare (R181) -/

section
variable (n : Nat) (m : Mach)

theorem SigStep.sigFail : SigStep m (m.sigFail n) := by
  unfold Mach.sigFail Mach.writeCode Mach.addHist Mach.modSig
  dsimp only
  have h : SigStep m ((m.modCh n fun c => { c with sig := { c.sig with fcnt := inc16 c.sig.fcnt } }).event (chPage n) 0x0100) :=
    (SigStep.modCh n m).trans' (.event _ _ _)
  split
  · exact h.trans' ((SigStep.modCh n _).trans' (.event _ _ _))
  · exact h.trans' (.modCh n _)

/-- A failed compare keeps the result it was found by, and the count of captures. -/
theorem Keeps.sigFail : Keeps (fun c => (c.sig.result, c.sig.reason, c.sig.cnt)) m (m.sigFail n) := by
  unfold Mach.sigFail Mach.writeCode Mach.addHist Mach.modSig
  dsimp only
  have h : Keeps (fun c => (c.sig.result, c.sig.reason, c.sig.cnt)) m
      ((m.modCh n fun c => { c with sig := { c.sig with fcnt := inc16 c.sig.fcnt } }).event (chPage n) 0x0100) :=
    (Keeps.modCh n m).trans' (.event _ _ _)
  exact .ite (h.trans' ((Keeps.modCh n _).trans' (.event _ _ _))) (h.trans' (.modCh n _))

theorem Mach.sigFail_ops : (m.sigFail n).ops = m.ops := by
  unfold Mach.sigFail Mach.writeCode Mach.addHist Mach.modSig
  dsimp only
  split <;> simp

end

theorem Mach.sigFail_at {n : Nat} {m : Mach} (hn : n < 24) : ((m.sigFail n).ch n).sig.fcnt = inc16 (m.ch n).sig.fcnt ∧
    ((m.sigFail n).ch n).flt.code = if (m.ch n).flt.code = 0 then 0xC else (m.ch n).flt.code := by
  unfold Mach.sigFail Mach.writeCode Mach.addHist Mach.modSig
  simp only [Mach.ch_of_chans (Mach.event_chans _ _ _), Mach.ch_modCh_self _ _ _ hn]
  split
  · rw [Mach.ch_of_chans (Mach.event_chans _ _ _), Mach.ch_modCh_self _ _ _ hn, Mach.ch_of_chans (Mach.event_chans _ _ _),
      Mach.ch_modCh_self _ _ _ hn]
    exact ⟨rfl, rfl⟩
  · rw [Mach.ch_modCh_self _ _ _ hn, Mach.ch_of_chans (Mach.event_chans _ _ _), Mach.ch_modCh_self _ _ _ hn]
    exact ⟨rfl, rfl⟩

theorem Mach.sigFail_latches {n : Nat} {m : Mach} (hp : headerPage m.dev.part (chPage n) = true) :
    ((m.sigFail n).evtWord (chPage n)).getLsbD 8 = true := by
  have h : (((m.modSig n fun g => { g with fcnt := inc16 g.fcnt }).event (chPage n) 0x0100).evtWord (chPage n)).getLsbD 8 = true :=
    Mach.event_latches (by simpa [Mach.modSig] using hp) (by decide)
  unfold Mach.sigFail Mach.writeCode Mach.addHist
  dsimp only
  split
  · exact evtKept_event _ _ _ _ _ (evtKept_of_evt (Mach.modCh_evt _ _ _) _ _ h)
  · exact evtKept_of_evt (Mach.modCh_evt _ _ _) _ _ h

/-- A FAIL: it is counted and reported, with code 0xC over code 0x0 (R181). -/
theorem SigRead.failed {n : Nat} {s t : State} (h : SigRead s t) (hn : n < s.m.nch) :
    SigJudged n s ((t.sigResult n 2 0).on (Mach.sigFail n)) := by
  have h24 : n < 24 := lt_of_lt_of_le hn s.m.nch_le
  obtain ⟨hs, hc, ho, hsr, hst⟩ := h.trans' (State.sigResult_reads n 2 0 t)
  have hat := congrArg Prod.fst (State.sigResult_at 2 0 t h24)
  have hpage := SigStep.headerPage hs hn
  generalize t.sigResult n 2 0 = u at *
  have hk := Keeps.sigFail n u.m
  obtain ⟨hf, hcode⟩ := Mach.sigFail_at (m := u.m) h24
  have hfcnt : (u.m.ch n).sig.fcnt = (s.m.ch n).sig.fcnt := congrArg (fun x => x.2.1) (hc n)
  have hflt : (u.m.ch n).flt = (s.m.ch n).flt := congrArg (fun x => x.2.2) (hc n)
  have hcnt : Keeps (fun c => c.sig.cnt) s.m (u.m.sigFail n) := (hc.map Prod.fst).trans' (hk.map fun x => x.2.2)
  refine ⟨hs.trans' (.sigFail n u.m), hcnt, (Mach.sigFail_ops n u.m).trans ho, hsr, hst,
    fun _ => ⟨Mach.sigFail_latches hpage, ?_, ?_⟩,
    fun h2 => absurd ((congrArg Prod.fst (hk n)).trans hat) h2⟩
  · exact hf.trans (by rw [hfcnt])
  · exact hcode.trans (by rw [hflt])

/-- Without the compare, or without an envelope of the interval, a capture is NOT_COMPARED; else the scan judges it (R180). -/
theorem State.sigCompare_judged {n : Nat} (c : Capture) (s : State) (hn : n < s.m.nch) : SigJudged n s (s.sigCompare n c) := by
  have h24 : n < 24 := lt_of_lt_of_le hn s.m.nch_le
  unfold State.sigCompare
  dsimp only
  split
  · exact (SigRead.rfl' s).judged h24 (by decide)
  · have h := State.sramRead_reads (sramIndex (fld (s.m.lw n 0x44) 8 6) 0) s
    generalize s.sramRead (sramIndex (fld (s.m.lw n 0x44) 8 6) 0) = r at h ⊢
    split
    · exact h.judged h24 (by decide)
    · split
      · exact h.judged h24 (by decide)
      · have h2 := h.trans' (State.sigScan_reads n (fld (s.m.lw n 0x44) 8 6) (2 ^ fld r.1 0 3) (c.data.drop 1) 1 0 0 r.2.2)
        generalize r.2.2.sigScan n (fld (s.m.lw n 0x44) 8 6) (2 ^ fld r.1 0 3) 1 (c.data.drop 1) 0 0 = x at h2 ⊢
        have h3 := h2.trans' (SigRead.modSig n (f := fun g => { g with nfail := x.1, first := x.2.1 }) x.2.2)
        split
        · exact h3.failed hn
        · exact h3.judged h24 (by decide)

/-- Without SRAM errors the result is the verdict (R180). -/
theorem State.sigCompare_verdict {n : Nat} (c : Capture) {s : State} (h : s.eccBad = []) (hn : n < 24) :
    (((s.sigCompare n c).m.ch n).sig.result, ((s.sigCompare n c).m.ch n).sig.reason) = verdict n c s := by
  unfold State.sigCompare verdict
  dsimp only
  rw [State.sramRead_clean _ h]
  dsimp only
  by_cases h4 : bit (s.m.lw n 0x43) 4 = false
  · rw [if_pos h4, if_pos (by rw [h4]; rfl)]
    exact State.sigResult_at 3 2 s hn
  · rw [if_neg h4, if_neg (by simpa using h4)]
    by_cases h5 : fld (s.sramWord (sramIndex (fld (s.m.lw n 0x44) 8 6) 0)) 8 8 = 0xE5
    · rw [if_neg (by simpa using h5), if_neg (not_not.mpr h5)]
      by_cases hd : fld (s.sramWord (sramIndex (fld (s.m.lw n 0x44) 8 6) 0)) 4 3 = c.d
      · rw [if_neg (by simpa using hd), if_neg (not_not.mpr hd)]
        have hx := State.sigScan_clean n (fld (s.m.lw n 0x44) 8 6)
          (2 ^ fld (s.sramWord (sramIndex (fld (s.m.lw n 0x44) 8 6) 0)) 0 3) h (c.data.drop 1) 1 0 0
        rw [Nat.zero_add] at hx
        generalize s.sigScan n (fld (s.m.lw n 0x44) 8 6) _ 1 (c.data.drop 1) 0 0 = x at hx ⊢
        rw [show refused c s (fld (s.m.lw n 0x44) 8 6) = x.1 from hx.symm]
        by_cases hf : fld (s.m.lw n 0x43) 5 5 < x.1
        · rw [if_pos hf, if_pos hf]
          have hk := Keeps.sigFail n ((x.2.2.on (Mach.modSig n fun g => { g with nfail := x.1, first := x.2.1 })).sigResult n 2 0).m n
          exact (congrArg (fun y : Nat × Nat × Nat => (y.1, y.2.1)) hk).trans (State.sigResult_at 2 0 _ hn)
        · rw [if_neg hf, if_neg hf]
          exact State.sigResult_at 1 0 _ hn
      · rw [if_pos (by simpa using hd), if_pos hd]
        exact State.sigResult_at 3 4 s hn
    · rw [if_pos (by simpa using h5), if_pos h5]
      exact State.sigResult_at 3 3 s hn

/-! ## Learning (R183) -/

/-- Learning moves operations and the SRAM at most. -/
structure Learnt (s t : State) : Prop where
  step  : SigStep s.m t.m
  chans : t.m.chans = s.m.chans
  store : sameStore s t

theorem Learnt.rfl' (s : State) : Learnt s s := ⟨.rfl' _, rfl, rfl, rfl⟩
theorem Learnt.trans' {a b c : State} (h : Learnt a b) (k : Learnt b c) : Learnt a c :=
  ⟨h.step.trans' k.step, k.chans.trans h.chans, k.store.1.trans h.store.1, k.store.2.trans h.store.2⟩
theorem Learnt.ite {s a b : State} {p : Prop} [Decidable p] (ha : Learnt s a) (hb : Learnt s b) :
    Learnt s (if p then a else b) := by
  split
  · exact ha
  · exact hb

theorem Learnt.modOp (o : LongOp) (f : LongOp → LongOp) (s : State) : Learnt s (s.on (Mach.modOp o f)) :=
  ⟨.ops rfl rfl, rfl, rfl, rfl⟩

theorem Learnt.endOp (o : LongOp) (st : OpSt) (status : Nat) (res0 res1 : Word) (s : State) :
    Learnt s (s.on (Mach.endOp o st status res0 res1)) := by
  have h : SigStep s.m (s.m.endOp o st status res0 res1) ∧ (s.m.endOp o st status res0 res1).chans = s.m.chans := by
    unfold Mach.endOp
    dsimp only
    split <;> exact ⟨.ops rfl rfl, rfl⟩
  exact ⟨h.1, h.2, rfl, rfl⟩

theorem Learnt.sramSetList (a : Nat) (vs : List Word) (s : State) : Learnt s (s.sramSetList a vs) := by
  refine ⟨?_, ?_, ?_, ?_⟩
  · rw [State.sramSetList_m]; exact .rfl' _
  · rw [State.sramSetList_m]
  · exact State.sramSetList_nv _ _ _
  · exact State.sramSetList_pending _ _ _

theorem State.learn_learnt (n : Nat) (c : Capture) (s : State) : Learnt s (s.learn n c) := by
  unfold State.learn
  split
  · exact .rfl' s
  · exact .ite (.rfl' s) (.ite (.modOp _ _ s) ((Learnt.sramSetList _ _ s).trans' ((Learnt.modOp _ _ _).trans' (.endOp _ _ _ _ _ _))))

theorem State.learn_idle (n : Nat) (c : Capture) {s : State} (h : s.m.opRunning 5 = none) : s.learn n c = s := by
  unfold State.learn
  rw [h]

/-! ## The end of a capture -/

/-- The words of a finished capture (R180). -/
def Sig.taken (c : Capture) (g : Sig) : Sig :=
  { g with cap := none, ipk := c.data.foldl max (c.data.headD 0)
           iend := inUnits (((c.data.drop 240).foldl (· + ·) 0 : Int) / (16 : Rat)), cnt := inc16 g.cnt }

/-- The finished capture is counted and reported. -/
def State.takeCapture (n : Nat) (c : Capture) (s : State) : State :=
  s.on fun m => (m.modSig n (Sig.taken c)).event (chPage n) 0x0080

theorem exec_sigCaptureComplete {ch : Ch} {s : State} {c : Capture} (hc : (s.m.ch ch).sig.cap = some c) (hk : 256 ≤ c.k) :
    exec (.sigCaptureComplete ch) s = .next (((s.sigCompare ch c).takeCapture ch c).learn ch c) := by
  show execSigCaptureComplete ch s = _
  unfold execSigCaptureComplete
  rw [hc]
  exact if_neg (Nat.not_lt.mpr hk)

theorem SigStep.sameConfig {s t : State} (h : SigStep s.m t.m) : sameConfig s t := by
  have ha : t.m.active = s.m.active := SigStep.field h Mach.active
  exact ⟨fun _ => Mach.cfg_of_active ha _, SigStep.field h Mach.staged, SigStep.field h Mach.time, SigStep.field h Mach.now⟩

theorem captureJudged {ch : Ch} {s : State} {c : Capture} (hn : ch.val < s.m.nch) (hc : (s.m.ch ch).sig.cap = some c)
    (hk : 256 ≤ c.k) :
    ∃ t, exec (.sigCaptureComplete ch) s = .next t ∧ (t.m.ch ch).sig.cap = none ∧
      (t.m.ch ch).sig.cnt = inc16 (s.m.ch ch).sig.cnt ∧ t.latched (chPage ch) 7 ∧
      (t.m.ch ch).sig.ipk = c.data.foldl max (c.data.headD 0) ∧
      (t.m.ch ch).sig.iend = inUnits (((c.data.drop 240).foldl (· + ·) 0 : Int) / (16 : Rat)) ∧
      (s.eccBad = [] → ((t.m.ch ch).sig.result, (t.m.ch ch).sig.reason) = verdict ch c s) ∧
      ((t.m.ch ch).sig.result = 2 → t.latched (chPage ch) 8 ∧ (t.m.ch ch).sig.fcnt = inc16 (s.m.ch ch).sig.fcnt ∧
        (t.m.ch ch).flt.code = if (s.m.ch ch).flt.code = 0 then 0xC else (s.m.ch ch).flt.code) ∧
      ((t.m.ch ch).sig.result ≠ 2 → (t.m.ch ch).sig.fcnt = (s.m.ch ch).sig.fcnt ∧
        (t.m.ch ch).flt = (s.m.ch ch).flt) ∧
      (∀ n, (t.m.ch n).st = (s.m.ch n).st ∧ (t.m.ch n).stage = (s.m.ch n).stage ∧ (t.m.ch n).prot = (s.m.ch n).prot) ∧
      t.m.frq = s.m.frq ∧ ((s.m.opRunning 5).isNone = true → t.sram = s.sram) ∧ sameConfig s t ∧ sameStore s t := by
  have h24 : ch.val < 24 := lt_of_lt_of_le hn s.m.nch_le
  have hj := State.sigCompare_judged c s hn
  have hv := fun h => State.sigCompare_verdict c (s := s) h h24
  refine ⟨_, exec_sigCaptureComplete hc hk, ?_⟩
  generalize s.sigCompare ch c = u at hj hv ⊢
  obtain ⟨hstep, hcnt, hops, hsram, hstore, hfail, hpass⟩ := hj
  have hl := State.learn_learnt ch c (u.takeCapture ch c)
  have hidle : (s.m.opRunning 5).isNone = true → (u.takeCapture ch c).learn ch c = u.takeCapture ch c := fun h => by
    refine State.learn_idle ch c (Eq.trans ?_ (Option.isNone_iff_eq_none.mp h))
    have ho : (u.takeCapture ch c).m.ops = u.m.ops := by simp [State.takeCapture, Mach.modSig]
    unfold Mach.opRunning
    rw [ho, hops]
  have htake : SigStep u.m (u.takeCapture ch c).m := (SigStep.modCh ch u.m).trans' (.event _ _ _)
  have hall := (hstep.trans' htake).trans' hl.step
  have hpage := SigStep.headerPage hstep hn
  generalize (u.takeCapture ch c).learn ch c = t at *
  have hat : t.m.ch ch = { u.m.ch ch with sig := (u.m.ch ch).sig.taken c } := by
    rw [Mach.ch_of_chans hl.chans]
    exact (Mach.ch_of_chans (Mach.event_chans _ _ _) ch).trans (Mach.ch_modCh_self _ _ _ h24)
  have h7 : t.latched (chPage ch) 7 := hl.step.evt _ _ (Mach.event_latches (by simpa [Mach.modSig] using hpage) (by decide))
  have hk : Keeps (fun c => (c.st, c.stage, c.prot)) s.m t.m := SigStep.keeps hall _
  rw [hat]
  refine ⟨rfl, congrArg inc16 (hcnt ch), h7, rfl, rfl, hv, fun h2 => ?_, hpass, fun n => ?_, SigStep.field hall Mach.frq, fun h => ?_,
    SigStep.sameConfig hall, hl.store.1.trans hstore.1, hl.store.2.trans hstore.2⟩
  · exact (hfail h2).imp_left fun h => (htake.evt.trans' hl.step.evt) _ _ h
  · exact ⟨congrArg Prod.fst (hk n), congrArg (fun x => x.2.1) (hk n), congrArg (fun x => x.2.2) (hk n)⟩
  · exact (congrArg State.sram (hidle h)).trans hsram

end Sys2Proof.Machine

section
open Sys2Proof.Machine

/-- Settles O26: the compare, the count of the capture and the learning each leave what the others show. -/
theorem signatureCapturesAreJudged : Obligations.SignatureCapturesAreJudged := by
  refine ⟨fun ch s hn c hc hk => captureJudged hn hc hk, fun ch s h => ?_⟩
  show execSigCaptureComplete ch s = .next s
  unfold execSigCaptureComplete
  split
  · next c hc => exact if_pos (h c hc)
  · rfl

end

namespace Sys2Proof.Machine
open Claim

/-! ## Cuts and starts: their frames (R90, R139 to R149, R231 to R234) -/

theorem leader_everyChannel {m : Mach} {n : Nat} (hn : n < 24) : m.leader n ∈ everyChannel :=
  Mach.members_everyChannel hn _ (m.leader_mem n)

/-- A channel without its count of cuts. -/
def Chan.uncut (c : Chan) : Chan := { c with prot := { c.prot with cycCnt := 0 } }

@[simp] theorem Chan.still_sig (c : Chan) : Chan.still { c with sig := Sig.reset } = c.still := rfl

/-- A change of one channel that counts a cut of it, and changes what a restart hides. -/
theorem Restarted.modCh {ks : List Nat} {n : Nat} {f : Chan → Chan} (m : Mach) (hn : n ∈ ks)
    (hf : ∀ c, (f c).still.uncut = c.still.uncut := by intro _; rfl)
    (hc : ∀ c, (f c).sig.cap = c.sig.cap := by intro _; rfl) (hs : ∀ c, (f c).st = c.st := by intro _; rfl) :
    Restarted ks [] m (m.modCh n f) where
  view := by
    unfold Mach.modCh
    split
    · next h =>
      have hv : (vmap (vmap (vmap (vmod m.chans ⟨n, h⟩ f) fun _ c => { c with sig := Sig.reset })
            fun k c => if ks.contains k.val then c.still else c) fun k c => if ks.contains k.val then c.uncut else c) =
          vmap (vmap (vmap m.chans fun _ c => { c with sig := Sig.reset }) fun k c => if ks.contains k.val then c.still else c)
            fun k c => if ks.contains k.val then c.uncut else c := by
        refine vmap_congr fun i => ?_
        simp only [vmap, Fin.getElem_fin, Vector.getElem_ofFn, vmod_get]
        by_cases hi : i.val = n
        · have hk : ks.contains i.val = true := List.contains_iff_mem.mpr (hi ▸ hn)
          simp only [if_pos hi, if_pos hk, Chan.still_sig]
          exact hf _
        · rw [if_neg hi]
      exact congrArg (fun v => { m.beside ks with chans := v }) hv
    · rfl
  evt := evtKept_of_evt (Mach.modCh_evt _ _ _)
  caps k := Mach.ch_modCh_view (fun c => c.sig.cap) n k f m hc
  st k _ := Mach.ch_modCh_view (fun c => c.st) n k f m hs

theorem Switched.holdCutCh {n : Nat} (m : Mach) (hn : n < 24) : Switched everyChannel [] m (m.holdCutCh n) := by
  have hl := leader_everyChannel (m := m) hn
  have h1 : Switched everyChannel [] m (if m.pwmRules (m.leader n) then m.modOut (m.leader n) fun u => { u with cut := true }
      else m.modCh (m.leader n) fun c => { c with limp := { c.limp with cut := true } }) :=
    .ite (Switched.modOut m hl) (Switched.modCh m hl)
  exact .ite (h1.trans' (Switched.gateOff _ _ (Mach.members_everyChannel (mem_everyChannel.mp hl)))) h1

theorem Switched.countEsc {l : Nat} (m : Mach) (hl : l < 24) : Switched everyChannel [m.leader l] m (m.countEsc l) := by
  unfold Mach.countEsc
  dsimp only
  have h1 : Switched everyChannel [] m (m.modCh l fun c =>
      { c with prot := { c.prot with escCnt := min 255 ((m.ch l).prot.escCnt + 1) } }) :=
    Switched.modCh m (mem_everyChannel.mpr hl)
  have h2 := Switched.turnOffFault (ks := everyChannel) 0x2
    (if (m.modCh l fun c => { c with prot := { c.prot with escCnt := min 255 ((m.ch l).prot.escCnt + 1) } }).tripOn l then 3 else 2) 0
    (m.modCh l fun c => { c with prot := { c.prot with escCnt := min 255 ((m.ch l).prot.escCnt + 1) } })
    (Mach.members_everyChannel hl)
  rw [Mach.leader_modCh] at h2
  exact .ite ((h1.any _).trans' h2) (h1.any _)

/-- The period in which a cut of leader `l` began counts (R233). -/
def Mach.markCut (l : Nat) (m : Mach) : Mach :=
  if m.pwmRules l then m.modOut l fun u => { u with hadCut := true }
  else m.modCh l fun c => { c with limp := { c.limp with hadCut := true } }

/-- The cut is counted. -/
def Mach.countedCut (l : Nat) (m : Mach) : Mach :=
  (m.markCut l).modCh l fun c => { c with prot := { c.prot with cycCnt := inc16 c.prot.cycCnt } }

/-- The output of a cut channel is held off, and that of its INVERT pair with it (R233, R234). -/
def Mach.holdCuts (n : Nat) (m : Mach) : Mach :=
  let m := m.holdCutCh n
  let other := if n % 2 = 0 then n + 1 else n - 1
  if m.pwmRules n && m.inverts (n / 2) && (m.st other).follows then m.holdCutCh other else m

theorem Mach.countCutCh_eq (n : Nat) (m : Mach) : m.countCutCh n =
    if (if m.pwmRules (m.leader n) then (m.out (m.leader n)).hadCut else (m.ch (m.leader n)).limp.hadCut) then m
    else (m.countedCut (m.leader n)).countEsc (m.leader n) := rfl

theorem Mach.cutCh_eq (n : Nat) (m : Mach) :
    m.cutCh n = if (m.st n).follows then (m.holdCuts n).countCutCh n else m := rfl

theorem Restarted.countedCut {l : Nat} (m : Mach) (hl : l ∈ everyChannel) : Restarted everyChannel [] m (m.countedCut l) := by
  have h : Switched everyChannel [] m (m.markCut l) := .ite (Switched.modOut m hl) (Switched.modCh m hl)
  exact Moved.trans' h.restarted (Restarted.modCh _ hl)

theorem Switched.holdCuts {n : Nat} (m : Mach) (hn : n < 24) : Switched everyChannel [] m (m.holdCuts n) := by
  have ho : (if n % 2 = 0 then n + 1 else n - 1) < 24 := by split <;> omega
  exact (Switched.holdCutCh m hn).trans' (Moved.ite (Switched.holdCutCh (m.holdCutCh n) ho) (.rfl' _ _ _))

theorem Restarted.countCutCh {n : Nat} (m : Mach) (hn : n < 24) : Restarted everyChannel [m.leader n] m (m.countCutCh n) := by
  have hl := leader_everyChannel (m := m) hn
  have h1 := Restarted.countedCut m hl
  have h2 := Switched.countEsc (m.countedCut (m.leader n)) (mem_everyChannel.mp hl)
  rw [(Restarted.rules h1).leader, Mach.leader_leader] at h2
  rw [Mach.countCutCh_eq]
  exact .ite (.rfl' _ _ m) ((h1.any _).trans' h2.restarted)

theorem Restarted.cutCh {n : Nat} (m : Mach) (hn : n < 24) : Restarted everyChannel [m.leader n] m (m.cutCh n) := by
  have h1 := Switched.holdCuts m hn
  have h2 := Restarted.countCutCh (m.holdCuts n) hn
  rw [(Switched.rules h1).leader] at h2
  rw [Mach.cutCh_eq]
  exact .ite ((h1.any _).restarted.trans' h2) (.rfl' _ _ m)

theorem Mach.modCh_congr {n : Nat} {f g : Chan → Chan} {m : Mach} (h : f (m.ch n) = g (m.ch n)) : m.modCh n f = m.modCh n g := by
  unfold Mach.modCh
  split
  · next hn =>
    have hch : m.ch n = m.chans[n] := by simp [Mach.ch, hn]
    rw [hch] at h
    congr 1
    refine Vector.ext fun i hi => ?_
    have hf := vmod_get m.chans ⟨n, hn⟩ f i hi
    have hg := vmod_get m.chans ⟨n, hn⟩ g i hi
    rw [hf, hg]
    split
    · next he => subst he; exact h
    · rfl
  · rfl

/-- New inrush words that keep the duration last measured. -/
theorem Switched.modCh_inr {ks : List Nat} {n : Nat} (r : Inr) (m : Mach) (hn : n ∈ ks) (hr : r.last = (m.ch n).inr.last) :
    Switched ks [] m (m.modCh n fun c => { c with inr := r }) := by
  rw [Mach.modCh_congr (g := fun c => { c with inr := { r with last := c.inr.last } }) (by rw [← hr])]
  exact Switched.modCh m hn

/-- A change of state keeps the inrush words. -/
theorem Keeps.setSt_inr (n : Nat) (st : ChSt) (m : Mach) : Keeps Chan.inr m (m.setSt n st) := by
  unfold Mach.setSt
  dsimp only
  exact .ite (.modCh _ m) ((Keeps.modCh _ m).trans' (.forList _ _ (fun k _ m => .modOut k _ m) _))

/-- A pass over a list whose every step, on a machine with the rules of `m0`, is a switching. -/
theorem Moved.forList_rules {α : Type} {v : Mach → Mach} {js : List Nat} {m0 : Mach}
    (hv : ∀ {m m' : Mach}, Moved v js m m' → SameRules m m') (l : List α) (f : α → Mach → Mach)
    (h : ∀ a ∈ l, ∀ m, SameRules m0 m → Moved v js m (f a m)) :
    ∀ m, SameRules m0 m → Moved v js m (Machine.forList l f m) := by
  induction l with
  | nil => exact fun m _ => .rfl' v js m
  | cons a t ih =>
    intro m hm
    have h1 := h a List.mem_cons_self m hm
    rw [forList_cons]
    exact h1.trans' (ih (fun b hb => h b (List.mem_cons_of_mem _ hb)) _ (hm.trans' (hv h1)))

/-- A channel in INRUSH with new inrush words, the counts of its members cleared (R139). -/
def Mach.inrushWith (l : Nat) (r : Inr) (m : Mach) : Mach :=
  let m := (m.setSt l .inrush).modCh l fun c => { c with inr := r }
  forList (m.members l)
    (fun k m => if k == l then m else m.modCh k fun c => { c with inr := { c.inr with clper := 0, clSeen := false } }) m

section
variable {l : Nat} (hl : l < 24)
include hl

theorem Restarted.enterFollowing (st : ChSt) (m : Mach) (hs : m.leader l = l) :
    Restarted everyChannel [l] m (m.enterFollowing l st) := by
  unfold Mach.enterFollowing
  dsimp only
  have h1 := Switched.setSt (ks := everyChannel) st m (Mach.members_everyChannel hl)
  have h2 := Restarted.cutCh (m.setSt l st) hl
  rw [(Switched.rules h1).leader, hs] at h2
  rw [hs] at h1
  exact .ite (h1.restarted.trans' h2) h1.restarted

omit hl in
theorem Mach.startInrush_eq (profile : Nat) (retry : Bool) (m : Mach) : ∃ r : Inr, r.last = (m.ch l).inr.last ∧
    m.startInrush l profile retry =
      if profile = 3 ∨ profile = 5 then (m.inrushWith l r).gateOn l else (m.inrushWith l r).gateOff .programmed l := by
  refine ⟨_, ?_, rfl⟩
  rfl

theorem Switched.inrushWith {r : Inr} {m : Mach} (hs : m.leader l = l) (hr : r.last = (m.ch l).inr.last) :
    Switched everyChannel [l] m (m.inrushWith l r) := by
  have hm : ∀ {x : Mach}, ∀ k ∈ x.members l, k ∈ everyChannel := Mach.members_everyChannel hl
  have h1 := Switched.setSt (ks := everyChannel) .inrush m hm
  rw [hs] at h1
  have h2 := Switched.modCh_inr r (m.setSt l .inrush) (mem_everyChannel.mpr hl)
    (hr.trans (congrArg Inr.last (Keeps.setSt_inr l .inrush m l).symm))
  exact (h1.trans' (h2.any _)).trans' (Moved.forList _ _ (fun k hk m => .ite (.rfl' _ _ _)
    ((Switched.modCh _ (hm k hk)).any _)) _)

theorem Switched.startInrush (profile : Nat) (retry : Bool) (m : Mach) (hs : m.leader l = l) :
    Switched everyChannel [l] m (m.startInrush l profile retry) := by
  obtain ⟨r, hr, he⟩ := Mach.startInrush_eq profile retry m
  have h := Switched.inrushWith hl hs hr
  rw [he]
  exact .ite (h.trans' ((Switched.gateOn _ (Mach.members_everyChannel hl)).any _))
    (h.trans' ((Switched.gateOff _ _ (Mach.members_everyChannel hl)).any _))

theorem Switched.armSig (m : Mach) : Switched everyChannel [] m (m.armSig l) :=
  Switched.modCh m (mem_everyChannel.mpr hl)

theorem Switched.uvFault (also : List (BitVec 16)) (m : Mach) (hs : m.leader l = l) :
    Switched everyChannel [l] m (m.uvFault l also) := by
  refine .ite (Moved.forList_rules Switched.rules _ _ (fun k hk x hx => ?_) m (.rfl' m)) (.rfl' _ _ m)
  have hk24 := Mach.members_lt hl k hk
  have h := Switched.turnOffFault (ks := everyChannel) 0xA 0 (nth also k 0) x (Mach.members_everyChannel hk24)
  rwa [hx.leader, Mach.leader_of_mem hk, hs] at h

theorem Restarted.startFromOff (retry : Bool) (m : Mach) (hs : m.leader l = l) :
    Restarted everyChannel [l] m (m.startFromOff l retry) := by
  have hm : ∀ {x : Mach}, ∀ k ∈ x.members l, k ∈ everyChannel := Mach.members_everyChannel hl
  have hle := mem_everyChannel.mpr hl
  unfold Mach.startFromOff
  dsimp only
  have h0 : Switched everyChannel [] m (m.modCh l fun c =>
      { c with limp := { c.limp with safeFlt := false }, rty := { c.rty with elapsed := false } }) := Switched.modCh m hle
  have hs0 := (Switched.rules h0).leader l
  rw [hs] at hs0
  generalize (m.modCh l fun c =>
      { c with limp := { c.limp with safeFlt := false }, rty := { c.rty with elapsed := false } }) = m0 at h0 hs0 ⊢
  have hstate (st : ChSt) (x : Mach) (hx : x.leader l = l) : Switched everyChannel [l] x (x.setSt l st) := by
    have h := Switched.setSt (ks := everyChannel) st x hm
    rwa [hx] at h
  have hoff := Switched.gateOff (ks := everyChannel) .programmed m0 hm
  have harm := Switched.armSig hl m0
  have hs1 := (Switched.rules harm).leader l
  rw [hs0] at hs1
  generalize m0.armSig l = m1 at harm hs1 ⊢
  have hoff1 := Switched.gateOff (ks := everyChannel) .programmed m1 hm
  have hlead {x y : Mach} (h : Restarted everyChannel [l] x y) (hx : x.leader l = l) : y.leader l = l :=
    ((Restarted.rules h).leader l).trans hx
  have hfollow (x : Mach) (h : Switched everyChannel [] m1 x) : Restarted everyChannel [l] m1 (x.enterFollowing l .pwm) :=
    (h.any _).restarted.trans' (Restarted.enterFollowing hl .pwm x (((Switched.rules h).leader l).trans hs1))
  have hin := fun p => (Switched.startInrush hl p retry m1 hs1).restarted
  have hon : Restarted everyChannel [l] m1 ((m1.setSt l .on).gateOn l) :=
    ((hstate .on m1 hs1).trans' ((Switched.gateOn _ hm).any _)).restarted
  have huv {x : Mach} (h : Restarted everyChannel [l] m1 x) : Restarted everyChannel [l] m1 (x.uvFault l []) :=
    h.trans' (Switched.uvFault hl [] x (hlead h hs1)).restarted
  refine .ite ?_ (((h0.any _).restarted.trans' (harm.any _).restarted).trans' ?_)
  · exact ((h0.any _).trans' ((hoff.any _).trans' (hstate .off _ (((Switched.rules hoff).leader l).trans hs0)))).restarted
  · exact huv (.ite (hin _) (.ite hon (hfollow _ (.ite hoff1 (.rfl' _ _ m1)))))

end

/-! ## The state a start leads to (R90, R123, R124, R233) -/

/-- A state with the machine `m`, for what is said of machines. -/
def Mach.alone (m : Mach) : State := { State.reset with m := m }

/-- What a fault leaves of the state of a leader. -/
theorem Mach.turnOffFault_st {k : Nat} (code detail : Nat) (also : BitVec 16) {m : Mach} (hk : k < m.nch) :
    ((m.turnOffFault k code detail also).ch (m.leader k)).st = .latched ∨
      ((m.turnOffFault k code detail also).ch (m.leader k)).st = .retryWait ∨
      ((m.st k).running = false ∧ ((m.turnOffFault k code detail also).ch (m.leader k)).st = m.st k) := by
  have h := turnsOff_st (Mach.turnOffFault_turnsOff code detail also m.alone hk)
  rwa [show (m.alone.on (Mach.turnOffFault k code detail also)).m.st k = _ from Mach.st_turnOffFault code detail also] at h

theorem ChSt.running_of_follows {st : ChSt} : st.follows = true → st.running = true := by cases st <;> decide

section
variable {l : Nat} {m : Mach} (hs : m.leader l = l)
include hs

theorem Mach.st_self : m.st l = (m.ch l).st := by unfold Mach.st; rw [hs]

theorem Mach.st_setSt_self (hl : l < 24) (st : ChSt) : ((m.setSt l st).ch l).st = st := by
  have h := Mach.st_setSt st m hl
  rwa [hs] at h

/-- An escalation turns a running channel off, and needs a count that acts (R124). -/
theorem Mach.countEsc_st (hl : l < m.nch) (hr : (m.ch l).st.running = true) : ((m.countEsc l).ch l).st = (m.ch l).st ∨
    (fld (m.lw l 0x15) 0 8 ≠ 0 ∧ (((m.countEsc l).ch l).st = .retryWait ∨ ((m.countEsc l).ch l).st = .latched)) := by
  have h24 : l < 24 := lt_of_lt_of_le hl m.nch_le
  unfold Mach.countEsc
  dsimp only
  have h1 : Switched everyChannel [] m (m.modCh l fun c =>
      { c with prot := { c.prot with escCnt := min 255 ((m.ch l).prot.escCnt + 1) } }) :=
    Switched.modCh m (mem_everyChannel.mpr h24)
  generalize (m.modCh l fun c => { c with prot := { c.prot with escCnt := min 255 ((m.ch l).prot.escCnt + 1) } }) = x at h1 ⊢
  have hx : x.leader l = l := ((Switched.rules h1).leader l).trans hs
  have hst : (x.ch l).st = (m.ch l).st := h1.st l List.not_mem_nil
  split
  · next hk =>
    have hf := Mach.turnOffFault_st 0x2 (if x.tripOn l then 3 else 2) 0 (m := x) (k := l) ((Switched.rules h1).nch.symm ▸ hl)
    rw [hx, Mach.st_self hx, hst, hr] at hf
    refine .inr ⟨fun h0 => ?_, ?_⟩
    · rw [h0] at hk; exact Bool.false_ne_true hk
    · rcases hf with h | h | ⟨h, -⟩
      exacts [.inr h, .inl h, absurd h.symm Bool.false_ne_true]
  · exact .inl hst

/-- A cut moves the state of a channel in PWM or HOLD by an escalation alone. -/
theorem Mach.cutCh_st (hl : l < m.nch) (hf : (m.ch l).st.follows = true) : ((m.cutCh l).ch l).st = (m.ch l).st ∨
    (fld (m.lw l 0x15) 0 8 ≠ 0 ∧ (((m.cutCh l).ch l).st = .retryWait ∨ ((m.cutCh l).ch l).st = .latched)) := by
  have h24 : l < 24 := lt_of_lt_of_le hl m.nch_le
  have h1 := Switched.holdCuts m h24
  have h2 := Restarted.countedCut (m.holdCuts l) (mem_everyChannel.mpr h24)
  have hx : (m.holdCuts l).leader l = l := ((Switched.rules h1).leader l).trans hs
  rw [Mach.cutCh_eq, Mach.st_self hs, if_pos hf, Mach.countCutCh_eq, hx]
  have h3 := h1.restarted.trans' h2
  generalize (m.holdCuts l).countedCut l = y at h3 ⊢
  have hst := h3.st l List.not_mem_nil
  have hesc := Mach.countEsc_st (((Restarted.rules h3).leader l).trans hs) ((Restarted.rules h3).nch.symm ▸ hl)
    (by rw [hst]; exact ChSt.running_of_follows hf)
  rw [hst, (Restarted.rules h3).lw] at hesc
  by_cases hc : (if (m.holdCuts l).pwmRules l then ((m.holdCuts l).out l).hadCut else ((m.holdCuts l).ch l).limp.hadCut) = true
  · rw [if_pos hc]
    exact .inl (h1.st l List.not_mem_nil)
  · rw [if_neg hc]
    exact hesc

/-- A channel that enters PWM is in PWM, unless a source that is active already escalates (R124, R233). -/
theorem Mach.enterFollowing_st (hl : l < m.nch) : ((m.enterFollowing l .pwm).ch l).st = .pwm ∨
    (((m.tripOn l = true ∨ m.climOn l = true) ∧ fld (m.lw l 0x15) 0 8 ≠ 0) ∧
      (((m.enterFollowing l .pwm).ch l).st = .retryWait ∨ ((m.enterFollowing l .pwm).ch l).st = .latched)) := by
  have h24 : l < 24 := lt_of_lt_of_le hl m.nch_le
  have h1 := Switched.rules (Switched.setSt (ks := everyChannel) .pwm m (Mach.members_everyChannel h24))
  have hst := Mach.st_setSt_self hs h24 .pwm
  unfold Mach.enterFollowing
  dsimp only
  split
  · next ha =>
    have hcut := Mach.cutCh_st ((h1.leader l).trans hs) (h1.nch.symm ▸ hl) (by rw [hst]; rfl)
    rw [hst, h1.lw] at hcut
    refine hcut.imp_right fun h => ⟨⟨?_, h.1⟩, h.2⟩
    have hacts := (Bool.and_eq_true_iff.mp (Bool.and_eq_true_iff.mp ha).2).2
    rwa [Bool.or_eq_true, h1.tripOn, h1.climOn] at hacts
  · exact .inl hst

end

theorem Mach.firstFound_none (m : Mach) (k code detail : Nat) : m.firstFound k code detail 0 = (code, detail) := by
  simp [Mach.firstFound, Mach.alsoFound]

/-- A fault 0xA of a channel that runs, or waits already, leads to RETRY_WAIT (R123). -/
theorem Mach.uvTurnOff_st {k : Nat} {m : Mach} (hk : k < m.nch) (h : (m.st k).running = true ∨ m.st k = .retryWait) :
    ((m.turnOffFault k 0xA 0 0).ch (m.leader k)).st = .retryWait := by
  have ht := Mach.turnOffFault_turnsOff 0xA 0 0 m.alone hk
  have hf : found k 0xA 0 0 m.alone = (0xA, 0) := Mach.firstFound_none m k 0xA 0
  obtain ⟨-, -, -, -, -, -, -, huv, hrest⟩ := ht
  rw [hf] at huv hrest
  have hst := Mach.st_turnOffFault (k := k) (m := m) 0xA 0 0
  rcases h with h | h
  · exact hst.symm.trans (huv h rfl).1
  · refine hst.symm.trans ((hrest (show (m.st k).running = false by rw [h]; rfl) fun hx => hx.1 rfl).trans ?_)
    rw [if_neg fun hx => hx.2.1 rfl]
    exact h

section
variable {l : Nat}

/-- The faults of an undervoltage on the members of a group. -/
theorem Mach.uvFaults_st {m0 : Mach} (L : List Nat) (hL : ∀ k ∈ L, k < m0.nch ∧ m0.leader k = l) : ∀ m : Mach, SameRules m0 m →
    (((m.ch l).st = .retryWait → ((forList L (fun k m => m.turnOffFault k 0xA 0 (nth [] k 0)) m).ch l).st = .retryWait) ∧
      ((m.ch l).st.running = true → L ≠ [] →
        ((forList L (fun k m => m.turnOffFault k 0xA 0 (nth [] k 0)) m).ch l).st = .retryWait)) := by
  induction L with
  | nil => exact fun m _ => ⟨id, fun _ h => absurd rfl h⟩
  | cons k t ih =>
    intro m hm
    obtain ⟨hk, hkl⟩ := hL k List.mem_cons_self
    have hk' : k < m.nch := hm.nch.symm ▸ hk
    have hlead : m.leader k = l := (hm.leader k).trans hkl
    have hst : m.st k = (m.ch l).st := by unfold Mach.st; rw [hlead]
    have h1 := Switched.turnOffFault (ks := everyChannel) 0xA 0 0 m
      (Mach.members_everyChannel (lt_of_lt_of_le hk' m.nch_le))
    have hwait := (ih (fun j hj => hL j (List.mem_cons_of_mem _ hj)) _ (hm.trans' (Switched.rules h1))).1
    have hone (h : (m.st k).running = true ∨ m.st k = .retryWait) := hlead ▸ Mach.uvTurnOff_st hk' h
    rw [forList_cons]
    exact ⟨fun h => hwait (hone (.inr (hst.trans h))), fun h _ => hwait (hone (.inl (by rw [hst]; exact h)))⟩

variable {m : Mach} (hs : m.leader l = l) (hl : l < m.nch)
include hs hl

theorem Mach.uvFault_st : ((m.uvFault l []).ch l).st =
    if (m.ch l).st.running = true ∧ m.pwr.vbbUv = true then .retryWait else (m.ch l).st := by
  unfold Mach.uvFault
  by_cases h : (m.ch l).st.running = true ∧ m.pwr.vbbUv = true
  · rw [if_pos h, if_pos (Bool.and_eq_true_iff.mpr h)]
    exact (Mach.uvFaults_st (m.members l) (fun k hk => ⟨Mach.mem_lt hk hl, (Mach.leader_of_mem hk).trans hs⟩) m
      (.rfl' m)).2 h.1 (List.ne_nil_of_mem (m.self_mem l))
  · rw [if_neg h, if_neg fun hx => h (Bool.and_eq_true_iff.mp hx)]

/-- The undervoltage that meets a channel which has reached its start state (R123). -/
theorem Mach.uvFault_started {m0 : Mach} (hr : SameRules m0 m) (hst : (m.ch l).st = m0.startState l)
    (hrun : (m0.startState l).running = true) : m0.startsTo l ((m.uvFault l []).ch l).st := by
  refine .inr ?_
  rw [Mach.uvFault_st hs hl, hst, hr.vbbUv]
  by_cases hv : m0.pwr.vbbUv = true
  · rw [if_pos ⟨hrun, hv⟩, if_pos ⟨hv, fun h => by rw [h] at hrun; cases hrun⟩]
  · rw [if_neg fun h => hv h.2, if_neg fun h => hv h.1]

theorem Mach.st_startInrush (profile : Nat) (retry : Bool) : ((m.startInrush l profile retry).ch l).st = .inrush := by
  have h24 : l < 24 := lt_of_lt_of_le hl m.nch_le
  have hm : ∀ {x : Mach}, ∀ k ∈ x.members l, k ∈ [l] ++ everyChannel := fun k hk =>
    List.mem_append_right _ (Mach.members_everyChannel h24 k hk)
  obtain ⟨r, -, he⟩ := Mach.startInrush_eq (l := l) profile retry m
  have h1 : Keeps Chan.st (m.setSt l .inrush) (m.inrushWith l r) :=
    (Keeps.modCh _ _).trans' (.forList _ _ (fun k _ m => .ite (.rfl' _ m) (.modCh k m)) _)
  have h2 : ((m.inrushWith l r).ch l).st = .inrush := (h1 l).trans (Mach.st_setSt_self hs h24 .inrush)
  rw [he]
  split
  · exact ((Switched.gateOn _ hm).st l List.not_mem_nil).trans h2
  · exact ((Switched.gateOff _ _ hm).st l List.not_mem_nil).trans h2

/-- The state a start without holds leads to. -/
theorem Mach.started_startsTo {m0 : Mach} (retry : Bool) (hr : SameRules m0 m) (hon : ¬ (m0.mode l = 0 ∨ m0.held? l = true)) :
    m0.startsTo l (((if (m0.startProfile l (m0.mode l) != 0) = true then m.startInrush l (m0.startProfile l (m0.mode l)) retry
      else if m0.mode l = 1 then (m.setSt l .on).gateOn l
      else (if (m.dev.governed || l % 8 != 0) = true then m.gateOff .programmed l else m).enterFollowing l .pwm).uvFault l []).ch
        l).st := by
  have h24 : l < 24 := lt_of_lt_of_le hl m.nch_le
  have hm : ∀ {x : Mach}, ∀ k ∈ x.members l, k ∈ everyChannel := Mach.members_everyChannel h24
  have hstart : m0.startState l = if m0.startProfile l (m0.mode l) ≠ 0 then .inrush else if m0.mode l = 1 then .on else .pwm :=
    if_neg hon
  by_cases hp : m0.startProfile l (m0.mode l) = 0
  · rw [if_neg (by simp [hp])]
    rw [if_neg (not_not.mpr hp)] at hstart
    by_cases hmd : m0.mode l = 1
    · rw [if_pos hmd]
      rw [if_pos hmd] at hstart
      have h1 := Switched.setSt (ks := everyChannel) .on m hm
      have h2 := Switched.gateOn (ks := everyChannel) (m.setSt l .on) hm
      have hr2 := (Switched.rules h1).trans' (Switched.rules h2)
      refine Mach.uvFault_started ((hr2.leader l).trans hs) (hr2.nch.symm ▸ hl) (hr.trans' hr2) ?_ (by rw [hstart]; rfl)
      rw [h2.st l List.not_mem_nil, Mach.st_setSt_self hs h24, hstart]
    · rw [if_neg hmd]
      rw [if_neg hmd] at hstart
      have h1 : Switched everyChannel [] m (if (m.dev.governed || l % 8 != 0) = true then m.gateOff .programmed l else m) :=
        .ite (Switched.gateOff _ m hm) (.rfl' _ _ m)
      generalize (if (m.dev.governed || l % 8 != 0) = true then m.gateOff .programmed l else m) = x at h1 ⊢
      have hrx := hr.trans' (Switched.rules h1)
      have hx : x.leader l = l := ((Switched.rules h1).leader l).trans hs
      have hlx : l < x.nch := (Switched.rules h1).nch.symm ▸ hl
      have hry := Restarted.rules (Restarted.enterFollowing h24 .pwm x hx)
      have hst := Mach.enterFollowing_st hx hlx
      generalize x.enterFollowing l .pwm = y at hry hst ⊢
      have hy := (hry.leader l).trans hx
      have hly : l < y.nch := hry.nch.symm ▸ hlx
      rcases hst with hst | ⟨⟨hacts, hk⟩, hst⟩
      · exact Mach.uvFault_started hy hly (hrx.trans' hry) (hst.trans hstart.symm) (by rw [hstart]; rfl)
      · rw [hrx.tripOn, hrx.climOn] at hacts
        rw [hrx.lw] at hk
        have hstop : (y.ch l).st.running = false := by rcases hst with h | h <;> rw [h] <;> rfl
        refine .inl ⟨⟨hstart, hacts, hk⟩, ?_⟩
        rw [Mach.uvFault_st hy hly, if_neg fun h => by rw [hstop] at h; exact Bool.false_ne_true h.1]
        exact hst
  · rw [if_pos (by simpa using hp)]
    rw [if_pos hp] at hstart
    have h1 := Switched.rules (Switched.startInrush h24 (m0.startProfile l (m0.mode l)) retry m hs)
    exact Mach.uvFault_started ((h1.leader l).trans hs) (h1.nch.symm ▸ hl) (hr.trans' h1)
      ((Mach.st_startInrush hs hl _ _).trans hstart.symm) (by rw [hstart]; rfl)

/-- A start as from OFF leads to the state of the mode, or of the fault it meets (R90). -/
theorem Mach.startFromOff_startsTo (retry : Bool) : m.startsTo l ((m.startFromOff l retry).ch l).st := by
  have h24 : l < 24 := lt_of_lt_of_le hl m.nch_le
  have hm : ∀ {x : Mach}, ∀ k ∈ x.members l, k ∈ everyChannel := Mach.members_everyChannel h24
  unfold Mach.startFromOff
  dsimp only
  have h0 : Switched everyChannel [] m (m.modCh l fun c =>
      { c with limp := { c.limp with safeFlt := false }, rty := { c.rty with elapsed := false } }) :=
    Switched.modCh m (mem_everyChannel.mpr h24)
  generalize (m.modCh l fun c =>
      { c with limp := { c.limp with safeFlt := false }, rty := { c.rty with elapsed := false } }) = m0 at h0 ⊢
  have hr0 := Switched.rules h0
  rw [← hr0.startsTo]
  replace hs := (hr0.leader l).trans hs
  replace hl : l < m0.nch := hr0.nch.symm ▸ hl
  clear hr0 h0
  have harm := Switched.rules (Switched.armSig h24 m0)
  split
  · next hoff =>
    have hst : m0.startState l = .off := if_pos (by simpa using hoff)
    refine .inr ?_
    have hg := Switched.rules (Switched.gateOff (ks := everyChannel) .programmed m0 hm)
    rw [Mach.st_setSt_self ((hg.leader l).trans hs) h24, hst, if_neg fun h => h.2 rfl]
  · next hon =>
    have hon' : ¬ (m0.mode l = 0 ∨ m0.held? l = true) := by simpa using hon
    exact Mach.started_startsTo ((harm.leader l).trans hs) (harm.nch.symm ▸ hl) retry harm hon'

end

/-! ## SAFE (R90, R92, R294) -/

section
variable {l : Nat} (hl : l < 24)
include hl

theorem Switched.safeDrive (m : Mach) : Switched everyChannel [] m (m.safeDrive l) :=
  .ite (Switched.gateOn m (Mach.members_everyChannel hl)) (Switched.gateOff _ m (Mach.members_everyChannel hl))

/-- A channel in SAFE with the words SAFE resets. -/
theorem Switched.toSafe (m : Mach) (hs : m.leader l = l) : Switched everyChannel [l] m (((m.endInrush l 5).setSt l .safe).modCh l fun c =>
      { c with limp := { c.limp with safeFlt := false, uvHeld := ((m.endInrush l 5).setSt l .safe).pwr.vbbUv },
               rty := { c.rty with elapsed := false, cause := 0, causeDet := 0 } }) := by
  have hm : ∀ {x : Mach}, ∀ k ∈ x.members l, k ∈ everyChannel := Mach.members_everyChannel hl
  have h1 := Switched.endInrush 5 m hm
  have h2 := Switched.setSt .safe (m.endInrush l 5) hm
  rw [(Switched.rules h1).leader, hs] at h2
  exact ((h1.any _).trans' h2).trans' ((Switched.modCh _ (mem_everyChannel.mpr hl)).any _)

theorem Switched.safeCode (m : Mach) : Switched everyChannel [] m (
      if m.safeOn l && (m.throttleHold l || m.stopHeld l) then
        if [0x7, 0x8].contains (m.ch l).flt.code then m
        else (m.writeCode l (if m.stopHeld l then 0x8 else 0x7) 0).recordFault l (if m.stopHeld l then 0x8 else 0x7) 0
          ((m.ch l).flt.code == 0)
      else m.clearIf l [0x7, 0x8, 0xE]) := by
  have hle := mem_everyChannel.mpr hl
  exact .ite (.ite (.rfl' _ _ m) ((Switched.writeCode _ _ m hle).trans' (Switched.recordFault _ _ _ _ hle)))
    (Switched.clearIf _ m hle)

theorem Switched.enterSafe (m : Mach) (hs : m.leader l = l) : Switched everyChannel [l] m (m.enterSafe l) := by
  unfold Mach.enterSafe
  dsimp only
  exact .ite (.rfl' _ _ m) (((Switched.toSafe hl m hs).trans' ((Switched.safeCode hl _).any _)).trans'
    ((Switched.safeDrive hl _).any _))

theorem Mach.enterSafe_st (m : Mach) (hs : m.leader l = l) : ((m.enterSafe l).ch l).st = .safe := by
  have hm : ∀ {x : Mach}, ∀ k ∈ x.members l, k ∈ everyChannel := Mach.members_everyChannel hl
  unfold Mach.enterSafe
  split
  · next h => simpa using h
  · dsimp only
    refine (((Switched.safeCode hl _).trans' (Switched.safeDrive hl _)).st l List.not_mem_nil).trans ?_
    rw [Mach.ch_modCh_self _ _ _ hl]
    exact Mach.st_setSt_self (((Switched.rules (Switched.endInrush 5 m hm)).leader l).trans hs) hl .safe

theorem Restarted.leaveSafe (m : Mach) (hs : m.leader l = l) : Restarted everyChannel [l] m (m.leaveSafe l) :=
  .ite (Restarted.startFromOff hl false m hs) (.rfl' _ _ m)

end

/-! ## Passes over the leaders -/

/-- A pass in which each step moves the state of its own channel, and the view `g` of no other: what it comes to is its own
step's doing, and the view of the others stands. -/
theorem Moved.forList_own {β : Type} {v : Mach → Mach} {m0 : Mach}
    (hv : ∀ {js : List Nat} {m m' : Mach}, Moved v js m m' → SameRules m m') (g : Chan → β)
    (f : Nat → Mach → Mach) (L : List Nat) (hL : L.Nodup) (h : ∀ a ∈ L, ∀ m, SameRules m0 m → Moved v [a] m (f a m))
    (hg : ∀ a ∈ L, ∀ m, SameRules m0 m → ∀ n, n ≠ a → g ((f a m).ch n) = g (m.ch n)) :
    ∀ m, SameRules m0 m → Moved v L m (Machine.forList L f m) ∧
      (∀ n, n ∉ L → g ((Machine.forList L f m).ch n) = g (m.ch n)) ∧
      ∀ b ∈ L, ∃ x, SameRules m0 x ∧ (x.ch b).st = (m.ch b).st ∧ g (x.ch b) = g (m.ch b) ∧ ((Machine.forList L f m).ch b).st = ((f b x).ch b).st := by
  induction L with
  | nil => exact fun m _ => ⟨.rfl' _ _ m, fun _ _ => rfl, fun _ hb => absurd hb List.not_mem_nil⟩
  | cons a t ih =>
    intro m hm
    obtain ⟨hat, ht⟩ := List.nodup_cons.mp hL
    have h1 := h a List.mem_cons_self m hm
    obtain ⟨h2, hout, hown⟩ := ih ht (fun b hb => h b (List.mem_cons_of_mem _ hb)) (fun b hb => hg b (List.mem_cons_of_mem _ hb))
      (f a m) (hm.trans' (hv h1))
    rw [forList_cons]
    refine ⟨(h1.mono (by simp)).trans' (h2.mono (by simp)), fun n hn => ?_, fun b hb => ?_⟩
    · obtain ⟨hna, hnt⟩ : n ≠ a ∧ n ∉ t := by simpa using hn
      exact (hout n hnt).trans (hg a List.mem_cons_self m hm n hna)
    · rcases List.mem_cons.mp hb with rfl | hb
      · exact ⟨m, hm, rfl, rfl, h2.st b hat⟩
      · obtain ⟨x, hx, hst, hgx, hres⟩ := hown b hb
        have hne : b ≠ a := fun e => hat (e ▸ hb)
        exact ⟨x, hx, hst.trans (h1.st b (by simpa using hne)), hgx.trans (hg a List.mem_cons_self m hm b hne), hres⟩

theorem Mach.leaders_nodup (m : Mach) : m.leaders.Nodup := List.nodup_range.filter _

theorem Mach.leaders_lt {m : Mach} {l : Nat} (h : l ∈ m.leaders) : l < 24 :=
  lt_of_lt_of_le (Mach.mem_leaders.mp h).1 m.nch_le

theorem Mach.leaders_everyChannel (m : Mach) : m.leaders ⊆ everyChannel := fun _ h => mem_everyChannel.mpr (Mach.leaders_lt h)

/-- Every channel comes to a state in a pass whose step puts its own channel there. -/
theorem Switched.allTo {f : Nat → Mach → Mach} {st : ChSt}
    (hf : ∀ {l}, l < 24 → ∀ m : Mach, m.leader l = l → Switched everyChannel [l] m (f l m))
    (hst : ∀ {l}, l < 24 → ∀ m : Mach, m.leader l = l → ((f l m).ch l).st = st) (m : Mach) :
    Switched everyChannel everyChannel m (forList m.leaders f m) ∧ ∀ n, n < m.nch → (forList m.leaders f m).st n = st := by
  obtain ⟨h, -, hown⟩ := Moved.forList_own (m0 := m) Switched.rules (fun _ => ()) f m.leaders m.leaders_nodup (fun a ha x hx =>
    hf (Mach.leaders_lt ha) x ((hx.leader a).trans (Mach.mem_leaders.mp ha).2)) (fun _ _ _ _ _ _ => rfl) m (.rfl' m)
  refine ⟨h.mono m.leaders_everyChannel, fun n hn => ?_⟩
  have hl := Mach.leader_mem_leaders hn
  obtain ⟨x, hx, -, -, hres⟩ := hown _ hl
  unfold Mach.st
  rw [(Switched.rules h).leader, hres]
  exact hst (Mach.leaders_lt hl) x ((hx.leader _).trans (Mach.mem_leaders.mp hl).2)

/-- Every channel enters SAFE. -/
theorem Switched.allSafe (m : Mach) : Switched everyChannel everyChannel m (forList m.leaders Mach.enterSafe m) ∧
    ∀ n, n < m.nch → (forList m.leaders Mach.enterSafe m).st n = .safe :=
  Switched.allTo Switched.enterSafe Mach.enterSafe_st m

/-- What the end of SAFE does: channels in SAFE start as from OFF, the others stay (R294). -/
theorem Restarted.endSafe (m : Mach) : Restarted everyChannel everyChannel m m.endSafe ∧
    (m.safeReason = true → m.endSafe = m) ∧
    (m.safeReason = false → ∀ l, l ∈ m.leaders → (m.ch l).st = .safe → m.startsTo l (m.endSafe.ch l).st) ∧
    ∀ l, l ∈ m.leaders → (m.ch l).st ≠ .safe → (m.endSafe.ch l).st = (m.ch l).st := by
  obtain ⟨h, -, hown⟩ := Moved.forList_own (m0 := m) Restarted.rules (fun _ => ()) Mach.leaveSafe m.leaders m.leaders_nodup
    (fun a ha x hx => Restarted.leaveSafe (Mach.leaders_lt ha) x ((hx.leader a).trans (Mach.mem_leaders.mp ha).2))
    (fun _ _ _ _ _ _ => rfl) m (.rfl' m)
  unfold Mach.endSafe
  refine ⟨.ite (.rfl' _ _ m) (h.mono m.leaders_everyChannel), fun hr => if_pos hr, fun hr l hl hst => ?_, fun l hl hst => ?_⟩
  · rw [if_neg (Bool.eq_false_iff.mp hr)]
    obtain ⟨x, hx, hxst, -, hres⟩ := hown l hl
    obtain ⟨hlt, hlead⟩ := Mach.mem_leaders.mp hl
    rw [hres, Mach.leaveSafe, if_pos (by rw [hxst, hst]; rfl), ← hx.startsTo]
    exact Mach.startFromOff_startsTo ((hx.leader l).trans hlead) (hx.nch.symm ▸ hlt) false
  · split
    · rfl
    · obtain ⟨x, hx, hxst, -, hres⟩ := hown l hl
      rw [hres, Mach.leaveSafe, if_neg (by rw [hxst]; simpa using hst), hxst]

/-! ## The clocks (R34, R294, R447, R448) -/

/-- Starting channels after a change `m` of the machine takes effect through settling. -/
theorem Restarted.restarts {ks js : List Nat} {f : Mach → Mach} {s : State} {m : Mach} (he : evtKept s.m m)
    (hc : ∀ n, (m.ch n).sig.cap = (s.m.ch n).sig.cap) (h : Restarted ks js m (f s.m)) : restarts ks s (s.ctl f) m := by
  have hs := State.settle_rel (s.on f)
  exact ⟨(congrArg (Mach.uncut ks) (Mach.beside_of_calm ks hs.calm)).trans h.view, (he.trans' h.evt).trans' hs.evt,
    fun a ha => hs.sram a fun n c hn => ha n c (((h.caps n).trans (hc n)) ▸ hn), hs.keep⟩

@[simp] theorem State.ctl_st (f : Mach → Mach) (s : State) (n : Nat) : (s.ctl f).m.st n = (f s.m).st n :=
  calm_st (State.ctl_calm f s) n

/-- The clock words decide no mode, hold or cut. -/
theorem SameRules.modClk (f : Clk → Clk) (m : Mach) : SameRules m (m.modClk f) :=
  ⟨rfl, rfl, rfl, rfl, rfl, rfl, rfl, rfl, fun _ => rfl⟩

theorem evtKept_modClk (f : Clk → Clk) (m : Mach) : evtKept m (m.modClk f) := evtKept_of_evt rfl

/-- A change of the clock words that ends a safe interval: the channels that leave SAFE with it. -/
structure SafeEnds (c : Clk → Clk) (s t : State) : Prop where
  clk   : t.m.clk = c s.m.clk
  leave : (s.m.modClk c).safeReason = false → ∀ l, l ∈ s.m.leaders → s.m.st l = .safe → s.m.startsTo l (t.m.st l)
  held  : (s.m.modClk c).safeReason = true → ∀ l, l ∈ s.m.leaders → t.m.st l = s.m.st l
  other : ∀ l, l ∈ s.m.leaders → s.m.st l ≠ .safe → t.m.st l = s.m.st l
  frame : restarts everyChannel s t (s.m.modClk c)

theorem State.safeEnds (c : Clk → Clk) (s : State) : SafeEnds c s (s.ctl fun m => (m.modClk c).endSafe) := by
  obtain ⟨h, hheld, hleave, hother⟩ := Restarted.endSafe (s.m.modClk c)
  have hr := SameRules.modClk c s.m
  have hclk : (s.ctl fun m => (m.modClk c).endSafe).m.clk = c s.m.clk := by
    rw [calm_clk (State.ctl_calm _ s)]
    exact Restarted.field Mach.clk h
  have hst {l : Nat} (hl : l ∈ s.m.leaders) :
      (s.ctl fun m => (m.modClk c).endSafe).m.st l = ((s.m.modClk c).endSafe.ch l).st := by
    rw [State.ctl_st]
    exact Mach.st_self (((Restarted.rules h).leader l).trans ((hr.leader l).trans (Mach.mem_leaders.mp hl).2))
  have hst0 {l : Nat} (hl : l ∈ s.m.leaders) : s.m.st l = (s.m.ch l).st := Mach.st_self (Mach.mem_leaders.mp hl).2
  refine ⟨hclk, fun hn l hl hs => ?_, fun hn l hl => ?_, fun l hl hs => ?_,
    Restarted.restarts (evtKept_modClk c s.m) (fun _ => rfl) h⟩
  · rw [hst hl, ← hr.startsTo]
    exact hleave hn l (hr.leaders.symm ▸ hl) (by rw [← hs, hst0 hl]; rfl)
  · rw [hst hl, hst0 hl, hheld hn]
    rfl
  · rw [hst0 hl] at hs ⊢
    exact (hst hl).trans (hother l (hr.leaders.symm ▸ hl) hs)

theorem Mach.safeReason_iff {m : Mach} :
    m.safeReason = false ↔ m.clk.refSafe = false ∧ m.clk.lfSafe = false ∧ m.dev.phase = .running := by
  simp [Mach.safeReason, and_assoc]

theorem limpResume_holds (s : State) (hr : s.m.clk.refOk = true) (hg : s.m.dev.governed = false) (hp : s.m.dev.phase ≠ .powerOff) :
    ∃ t, exec .limpResume s = .next t ∧ t.m.clk.epwmSafe = false ∧ t.m.clk.refSafe = false ∧
      (s.m.dev.phase = .running → s.m.clk.lfSafe = false →
        ∀ l, l ∈ s.m.leaders → s.m.st l = .safe → s.m.pwr.vbbUv = false → s.m.startsTo l (t.m.st l)) ∧
      ((s.m.dev.phase ≠ .running ∨ s.m.clk.lfSafe = true) → ∀ l, l ∈ s.m.leaders → t.m.st l = s.m.st l) ∧
      (∀ l, l ∈ s.m.leaders → s.m.st l ≠ .safe → t.m.st l = s.m.st l) ∧
      restarts everyChannel s t { s.m with clk := { s.m.clk with refSafe := false, epwmSafe := false } } := by
  obtain ⟨hclk, hleave, hheld, hother, hf⟩ := State.safeEnds (fun c => { c with refSafe := false, epwmSafe := false }) s
  refine ⟨s.ctl fun m => (m.modClk fun c => { c with refSafe := false, epwmSafe := false }).endSafe,
    congrArg Host.Outcome.next (State.ctl_congr (if_pos (by simp [hr, hg, hp]))), by rw [hclk], by rw [hclk],
    fun hrun hlf l hl hs _ => hleave (Mach.safeReason_iff.mpr ⟨rfl, hlf, hrun⟩) l hl hs, fun h => hheld ?_, hother, hf⟩
  rw [← Bool.not_eq_false, Mach.safeReason_iff]
  rintro ⟨-, hlf, hrun⟩
  rcases h with h | h
  · exact h hrun
  · exact Bool.false_ne_true (hlf.symm.trans h)

theorem lfoscReturn_holds (s : State) (hlf : s.m.clk.lfOk = false) :
    ∃ t, exec .lfoscReturn s = .next t ∧ t.m.clk.lfOk = true ∧ t.m.clk.lfSafe = false ∧
      (s.m.dev.phase = .running → s.m.clk.refSafe = false → s.m.pwr.vbbUv = false →
        ∀ l, l ∈ s.m.leaders → s.m.st l = .safe → s.m.startsTo l (t.m.st l)) ∧
      (∀ l, l ∈ s.m.leaders → s.m.st l ≠ .safe → t.m.st l = s.m.st l) ∧
      restarts everyChannel s t { s.m with clk := t.m.clk } := by
  let c (k : Clk) : Clk := { k with lfOk := true, lfSafe := false, lfGone := Config.lfCycles s.m.now - k.lfStop }
  obtain ⟨hclk, hleave, -, hother, hf⟩ := State.safeEnds c s
  refine ⟨s.ctl fun m => (m.modClk c).endSafe, congrArg Host.Outcome.next (State.ctl_congr (if_neg (by simp [hlf]))),
    by rw [hclk], by rw [hclk], fun hrun hrs _ l hl hs => hleave (Mach.safeReason_iff.mpr ⟨hrs, rfl, hrun⟩) l hl hs, hother, ?_⟩
  rw [hclk]
  exact hf

theorem headerPage_clk (p : Part) : headerPage p 0x01 = true := by cases p <;> rfl

theorem lfoscLoss_holds (s : State) (hlf : s.m.clk.lfOk = true) (hp : s.m.dev.phase ≠ .powerOff) :
    ∃ t, exec .lfoscLoss s = .next t ∧ t.latched 0x01 2 ∧
      (s.m.dev.latched = true → ∀ n, n < s.m.nch → t.m.st n = .safe) ∧
      switches everyChannel s t { s.m with clk := { s.m.clk with lfOk := false, lfSafe := true, lfStop := s.m.lf,
                                                                 lfLossCnt := inc16 s.m.clk.lfLossCnt } } := by
  let c (k : Clk) : Clk := { k with lfOk := false, lfSafe := true, lfStop := s.m.lf, lfLossCnt := inc16 k.lfLossCnt }
  let f (m : Mach) : Mach := let m := (m.modClk c).event 0x01 0x0004
    if m.dev.latched then forList m.leaders Mach.enterSafe m else m
  have hex : exec .lfoscLoss s = .next (s.ctl f) :=
    congrArg Host.Outcome.next (State.ctl_congr (if_pos (by simp [hlf, hp])))
  have h1 := Switched.event everyChannel 0x01 0x0004 (s.m.modClk c)
  have hev : (((s.m.modClk c).event 0x01 0x0004).evtWord 0x01).getLsbD 2 = true :=
    Mach.event_latches (headerPage_clk _) (by decide)
  have hlatched : ((s.m.modClk c).event 0x01 0x0004).dev.latched = s.m.dev.latched := by simp [Mach.modClk]
  obtain ⟨h2, hsafe⟩ := Switched.allSafe ((s.m.modClk c).event 0x01 0x0004)
  have h3 : Switched everyChannel everyChannel ((s.m.modClk c).event 0x01 0x0004) (f s.m) := .ite h2 (.rfl' _ _ _)
  have hset := State.settle_rel (s.on f)
  refine ⟨s.ctl f, hex, hset.evt _ _ (h3.evt _ _ hev), fun hl n hn => ?_,
    Switched.switches (evtKept_modClk c s.m) (fun _ => rfl) ((h1.any _).trans' h3)⟩
  rw [State.ctl_st]
  have hf : f s.m = _ := if_pos (hlatched.trans hl)
  rw [hf]
  exact hsafe n (by rw [(Switched.rules h1).nch]; exact hn)

theorem lfoscEvents_hold : lfoscEvents := ⟨lfoscLoss_holds, lfoscReturn_holds⟩

theorem refclkPresent_holds (ext : Bool) (s : State) (hr : s.m.clk.refOk = false) (hp : s.m.dev.phase ≠ .powerOff) :
    ∃ t, exec (.refclkPresent ext) s = .next t ∧ t.m.clk.refOk = true ∧ t.m.clk.refExt = ext ∧ t.latched 0x01 1 ∧
      becomes s t { s.m with clk := t.m.clk } := by
  let c (k : Clk) : Clk := { k with refOk := true, refExt := ext,
                                    rlossDur := if k.rlossAt = 0 then k.rlossDur else min 0xFFFF ((s.m.now - k.rlossAt) / 480) }
  have hex : exec (.refclkPresent ext) s = .next (s.on fun m => (m.modClk c).event 0x01 0x0002) :=
    congrArg (fun x : Mach => (Host.Outcome.next { s with m := x } : Out)) (if_neg (by simp [hr, hp]))
  have hclk : ((s.m.modClk c).event 0x01 0x0002).clk = c s.m.clk := Mach.event_clk _ _ _
  have hb : becomes s (s.on fun m => (m.modClk c).event 0x01 0x0002) (s.m.modClk c) :=
    becomes_withM s (Mach.quiet_event _ _ _) ((evtKept_modClk c s.m).trans' (evtKept_event _ _ _))
  refine ⟨_, hex, ?_, ?_, Mach.event_latches (headerPage_clk _) (by decide), ?_⟩
  · rw [State.on_m, hclk]
  · rw [State.on_m, hclk]
  · rw [State.on_m, hclk]
    exact hb

/-! ## What the end of operations and of a membership leaves (R346, R376, R496) -/

/-- A machine without its operations, its rings, its site link and its reports. -/
def Mach.worked (m : Mach) : Mach :=
  { m.quiet with free := 0, ops := [], opLast := [], rings := .reset, site := .reset }

/-- A step on operations, rings and the site link. -/
abbrev Worked : Mach → Mach → Prop := Moved Mach.worked []

theorem Moved.hidden {v : Mach → Mach} {m m' : Mach} (hv : v m' = v m) (he : m'.evt = m.evt) (hc : m'.chans = m.chans) :
    Moved v [] m m' :=
  ⟨hv, evtKept_of_evt he, fun n => by rw [Mach.ch_of_chans hc], fun n _ => by rw [Mach.ch_of_chans hc]⟩

/-- A view of a view. -/
theorem Moved.coarser {v : Mach → Mach} {js : List Nat} {m m' : Mach} (g : Mach → Mach) (h : Moved v js m m') :
    Moved (fun x => g (v x)) js m m' := ⟨congrArg g h.view, h.evt, h.caps, h.st⟩

theorem Worked.of_quiet {m m' : Mach} (hq : m'.quiet = m.quiet) (he : evtKept m m') : Worked m m' := by
  let G (x : Mach) : Mach := { x with free := 0, ops := [], opLast := [], rings := .reset, site := .reset }
  have hc : m'.chans = m.chans := (congrArg Mach.chans hq : m'.quiet.chans = m.quiet.chans)
  exact ⟨(congrArg G hq : G m'.quiet = G m.quiet), he, fun n => by rw [Mach.ch_of_chans hc], fun n _ => by rw [Mach.ch_of_chans hc]⟩

theorem Worked.event (p : Nat) (w : Word) (m : Mach) : Worked m (m.event p w) :=
  .of_quiet (Mach.quiet_event p w m) (evtKept_event p w m)

theorem Worked.modSite (f : Site → Site) (m : Mach) : Worked m (m.modSite f) := .hidden rfl rfl rfl
theorem Worked.modOp (o : LongOp) (f : LongOp → LongOp) (m : Mach) : Worked m (m.modOp o f) := .hidden rfl rfl rfl
theorem Worked.nextFree (m : Mach) : Worked m m.nextFree := .hidden rfl rfl rfl
theorem Worked.complete (i : Infl) (st : Nat) (r0 r1 : Word) (m : Mach) : Worked m (m.complete i st r0 r1) := .hidden rfl rfl rfl

theorem Worked.endOp (o : LongOp) (st : OpSt) (status : Nat) (r0 r1 : Word) (m : Mach) : Worked m (m.endOp o st status r0 r1) :=
  .ite (.hidden rfl rfl rfl) (.hidden rfl rfl rfl)

theorem Worked.failOp (o : LongOp) (reason : Word) (m : Mach) : Worked m (m.failOp o reason) := Worked.endOp _ _ _ _ _ m

theorem Worked.forceSuspend (kind cause : Nat) (m : Mach) : Worked m (m.forceSuspend kind cause) := by
  unfold Mach.forceSuspend
  split
  · exact (Worked.modOp _ _ m).trans' (Worked.event _ _ _)
  · exact .rfl' _ _ m

theorem Worked.forceFail (kind : Nat) (reason : Word) (m : Mach) : Worked m (m.forceFail kind reason) := by
  unfold Mach.forceFail
  split
  · exact Worked.failOp _ _ m
  · exact .rfl' _ _ m

theorem Worked.otpSuspend (kind : Nat) (m : Mach) : Worked m (m.otpSuspend kind) :=
  .ite ((Worked.forceSuspend kind 2 m).trans' (Worked.event 0x0C 0x0040 _)) (.rfl' _ _ m)

theorem Worked.joinFail (o : LongOp) (reason : Word) (m : Mach) : Worked m (m.joinFail o reason) :=
  (Worked.modSite _ m).trans' (Worked.failOp _ _ _)

theorem Worked.setJoined (j : Bool) (m : Mach) : Worked m (m.setJoined j) :=
  .ite (.rfl' _ _ m) ((Worked.modSite _ m).trans' (Worked.event _ _ _))
theorem Worked.setActing (a : Bool) (m : Mach) : Worked m (m.setActing a) :=
  .ite (.rfl' _ _ m) ((Worked.modSite _ m).trans' (Worked.event _ _ _))

theorem Worked.siteRefresh (m : Mach) : Worked m m.siteRefresh := by
  have hev (p : Prop) [Decidable p] (w : Word) (x : Mach) : Worked x (if p then x else x.event 0x0F w) :=
    .ite (.rfl' _ _ x) (Worked.event _ w x)
  have hr : Worked m m.siteReport := (((Worked.modSite _ m).trans' (hev _ _ _)).trans' (hev _ _ _)).trans' (hev _ _ _)
  exact hr.trans' (.ite (Worked.modSite _ _) (.rfl' _ _ _))

theorem Worked.siteLeave (m : Mach) : Worked m m.siteLeave := by
  have h : Worked m ((m.setJoined false).setActing false) := (Worked.setJoined false m).trans' (Worked.setActing false _)
  unfold Mach.siteLeave
  refine Moved.trans' ?_ ((Worked.modSite _ _).trans' (Worked.siteRefresh _))
  split
  · exact h.trans' ((Worked.modSite _ _).trans' (Worked.complete _ _ _ _ _))
  · exact h

theorem Worked.autoJoin (m : Mach) : Worked m m.autoJoin := by
  unfold Mach.autoJoin
  dsimp only
  exact .ite (.ite (Worked.failOp _ _ m) (.ite (.hidden rfl rfl rfl) (.hidden rfl rfl rfl))) (.rfl' _ _ m)

theorem Worked.trackLost (m : Mach) : Worked m m.trackLost :=
  .ite (Worked.siteLeave m) (.ite ((Worked.siteLeave m).trans' (Worked.autoJoin _)) (.rfl' _ _ m))

theorem Worked.field {m m' : Mach} {β : Type} (g : Mach → β) (h : Worked m m') : g m'.worked = g m.worked := congrArg g h.view

/-! ## The loss of REFCLK (R34, R214, R294, R447) -/

/-- What no loss of a clock or a supply touches: the configuration, the staging and the time. -/
structure Grounded (m m' : Mach) : Prop where
  active : m'.active = m.active
  staged : m'.staged = m.staged
  time   : m'.time = m.time
  now    : m'.now = m.now
  part   : m'.dev.part = m.dev.part
  evt    : evtKept m m'

theorem Grounded.rfl' (m : Mach) : Grounded m m := ⟨rfl, rfl, rfl, rfl, rfl, evtKept.rfl' m⟩
theorem Grounded.trans' {a b c : Mach} (h : Grounded a b) (k : Grounded b c) : Grounded a c :=
  ⟨k.active.trans h.active, k.staged.trans h.staged, k.time.trans h.time, k.now.trans h.now, k.part.trans h.part,
    h.evt.trans' k.evt⟩

theorem Worked.grounded {m m' : Mach} (h : Worked m m') : Grounded m m' :=
  ⟨Worked.field Mach.active h, Worked.field Mach.staged h, Worked.field Mach.time h, Worked.field Mach.now h,
    Worked.field (fun x => x.dev.part) h, h.evt⟩

theorem Switched.grounded {ks js : List Nat} {m m' : Mach} (h : Switched ks js m m') : Grounded m m' :=
  ⟨Restarted.field Mach.active h.restarted, Restarted.field Mach.staged h.restarted, Switched.time h, Switched.now h,
    Restarted.field (fun x => x.dev.part) h.restarted, h.evt⟩

/-! ### Before the clock is lost: the OTP operations stop -/

/-- The OTP operations stop: beside the store, words of operations and the OTP bitmaps move. -/
structure OtpStops (s t : State) : Prop where
  ground : Grounded s.m t.m
  dev    : t.m.dev = s.m.dev
  clk    : t.m.clk = s.m.clk
  tbs    : t.m.tbs = s.m.tbs

theorem OtpStops.trans' {a b c : State} (h : OtpStops a b) (k : OtpStops b c) : OtpStops a c :=
  ⟨h.ground.trans' k.ground, k.dev.trans h.dev, k.clk.trans h.clk, k.tbs.trans h.tbs⟩

theorem OtpStops.of_worked {s t : State} (h : Worked s.m t.m) : OtpStops s t :=
  ⟨Worked.grounded h, Worked.field Mach.dev h, Worked.field Mach.clk h, Worked.field Mach.tbs h⟩

theorem State.cutPulse_stops (s : State) : OtpStops s s.cutPulse := by
  refine OtpStops.of_worked ?_
  unfold State.cutPulse
  split
  · dsimp only
    split
    · exact Worked.nextFree s.m
    · exact .rfl' _ _ s.m
  · exact .rfl' _ _ s.m

theorem State.verifyStep_stops (s : State) : OtpStops s s.verifyStep := by
  unfold State.verifyStep
  split
  · exact ⟨⟨rfl, rfl, rfl, rfl, rfl, evtKept_of_evt rfl⟩, rfl, rfl, rfl⟩
  · exact OtpStops.of_worked (.rfl' _ _ s.m)

theorem State.otpLoseSupply_stops (s : State) : OtpStops s s.otpLoseSupply :=
  ((State.cutPulse_stops s).trans' (State.verifyStep_stops _)).trans'
    (OtpStops.of_worked ((Worked.otpSuspend 0 _).trans' (Worked.otpSuspend 1 _)))

/-! ### The timebases stop -/

theorem Mach.haltTb_tb (k j : Nat) (m : Mach) (hk : k < 8) : ∃ c, (m.haltTb k).tb j =
    if j = k ∧ ((m.tb j).running || (m.tb j).startReq) = true ∧ (m.tb j).halt.isNone = true
    then { m.tb j with halt := some c } else m.tb j := by
  have hb : (forList (m.unitsOn k) (fun o m => m.modOut o fun u => { u with whole := false }) m).tbs = m.tbs :=
    forList_keeps Mach.tbs _ _ (fun o _ m => Mach.modOut_tbs o _ m) m
  have htb (j : Nat) : (forList (m.unitsOn k) (fun o m => m.modOut o fun u => { u with whole := false }) m).tb j = m.tb j := by
    unfold Mach.tb; rw [hb]
  refine ⟨m.tbCount k, ?_⟩
  unfold Mach.haltTb
  dsimp only
  rw [Mach.tb_modTb _ _ _ _ hk, htb]
  by_cases hj : j = k
  · simp [hj]
  · simp [hj]

theorem Mach.haltTb_grounded (k : Nat) (m : Mach) : Grounded m (m.haltTb k) ∧
    (m.haltTb k).dev = m.dev ∧ (m.haltTb k).clk = m.clk := by
  have h (β : Type) (g : Mach → β) (ho : ∀ o f m, g (Mach.modOut o f m) = g m) (ht : ∀ f m, g (Mach.modTb k f m) = g m) :
      g (m.haltTb k) = g m := (ht _ _).trans (forList_keeps g _ _ (fun o _ m => ho o _ m) m)
  exact ⟨⟨h _ _ (by simp) (by simp), h _ _ (by simp) (by simp), h _ _ (by simp) (by simp), h _ _ (by simp) (by simp),
    h _ (fun m => m.dev.part) (by simp) (by simp), evtKept_of_evt (h _ Mach.evt (by simp) (by simp))⟩, h _ _ (by simp) (by simp),
    h _ _ (by simp) (by simp)⟩

/-- The timebases of the machine that are running stand. -/
def Mach.halted (m : Mach) (k : Nat) : Prop := (m.tb k).running = true → (m.tb k).halt.isSome = true

/-- After a pass over the timebases in `L` each of them stands that ran, and runs that ran. -/
theorem Mach.haltAll (L : List Nat) (hL : ∀ k ∈ L, k < 8) : ∀ m : Mach,
    (∀ j, ((forList L Mach.haltTb m).tb j).running = (m.tb j).running ∧ (m.halted j → (forList L Mach.haltTb m).halted j)) ∧
      ∀ j ∈ L, (forList L Mach.haltTb m).halted j := by
  induction L with
  | nil => exact fun m => ⟨fun _ => ⟨rfl, id⟩, fun _ h => absurd h List.not_mem_nil⟩
  | cons k t ih =>
    intro m
    have hone (j : Nat) : ((m.haltTb k).tb j).running = (m.tb j).running ∧ (m.halted j → (m.haltTb k).halted j) ∧
        (j = k → (m.haltTb k).halted j) := by
      obtain ⟨c, hc⟩ := m.haltTb_tb k j (hL k List.mem_cons_self)
      unfold Mach.halted
      rw [hc]
      split
      · exact ⟨rfl, fun _ _ => rfl, fun _ _ => rfl⟩
      · next hn =>
        refine ⟨rfl, id, fun hj hr => ?_⟩
        by_contra hh
        exact hn ⟨hj, by rw [hr]; rfl, by simpa using hh⟩
    obtain ⟨hall, hin⟩ := ih (fun j hj => hL j (List.mem_cons_of_mem _ hj)) (m.haltTb k)
    rw [forList_cons]
    refine ⟨fun j => ⟨(hall j).1.trans (hone j).1, fun h => (hall j).2 ((hone j).2.1 h)⟩, fun j hj => ?_⟩
    rcases List.mem_cons.mp hj with rfl | hj
    · exact (hall j).2 ((hone j).2.2 rfl)
    · exact hin j hj

/-! ### The steps of the loss -/

/-- The clock words once REFCLK is lost. -/
def Mach.refLostClk (m : Mach) (c : Clk) : Clk :=
  { c with refOk := false, refLossCnt := inc16 c.refLossCnt, rlossT := m.time, rlossAt := m.now, refSafe := true, epwmSafe := true }

/-- REFCLK is recorded as lost; a pending commit will be refused (R67). -/
def Mach.refGone (m : Mach) : Mach := ((m.modClk m.refLostClk).event 0x01 0x0001).holdPending

/-- Every channel enters SAFE once the latches are driven. -/
def Mach.safeAll (m : Mach) : Mach := if m.dev.latched then forList m.leaders Mach.enterSafe m else m

/-- The delay line, the tach inputs and the measurements lose their clock. -/
def Mach.staleAll (m : Mach) : Mach :=
  let m := { m with dl := { m.dl with valid := false, busy := false } }
  let m := forList (List.range 4) (fun i m => (m.tachDisarm i).modTach i fun t => { t with last := none }) m
  forList m.allCh (fun n m => m.modMeas n fun q =>
    { q with stale := true, winBad := true, stopped := true, iWin := [], eGap := true }) m

/-- A running join ends. -/
def Mach.joinEnds (m : Mach) : Mach :=
  match m.opRunning 6 with
  | some o => (m.nextFree).joinFail o (wd m.freeVal)
  | none => m

/-- The operations that need REFCLK end or suspend. -/
def Mach.refJobs (m : Mach) : Mach :=
  (((m.nextFree).forceFail 3 (wd m.freeVal)).forceSuspend 7 4).modSite fun x => { x with bcnThis := false }

theorem Mach.loseRef_eq (m : Mach) :
    m.loseRef = ((((forList (List.range 8) Mach.haltTb m).refGone.safeAll).staleAll).joinEnds.zcUnlocked).refJobs := rfl

theorem Worked.joinEnds (m : Mach) : Worked m m.joinEnds := by
  unfold Mach.joinEnds
  split
  · exact (Worked.nextFree m).trans' (Worked.joinFail _ _ _)
  · exact .rfl' _ _ m

theorem Worked.refJobs (m : Mach) : Worked m m.refJobs :=
  (((Worked.nextFree m).trans' (Worked.forceFail _ _ _)).trans' (Worked.forceSuspend _ _ _)).trans' (Worked.modSite _ _)

/-- The tracker without its words, in the view of `Mach.worked`. -/
def Mach.workedZ (m : Mach) : Mach := { m.worked with zc := .reset }

theorem Worked.toZ {m m' : Mach} (h : Worked m m') : Moved Mach.workedZ [] m m' :=
  h.coarser fun x => { x with zc := .reset }

theorem Moved.zcUnlocked (m : Mach) : Moved Mach.workedZ [] m m.zcUnlocked := by
  have hz (f : Zc → Zc) : Moved Mach.workedZ [] m (m.modZc f) := .hidden rfl rfl rfl
  exact .ite (.rfl' _ _ m) ((hz _).trans' (Worked.trackLost _).toZ)

theorem Mach.refJobs_zc (m : Mach) : m.refJobs.zc = m.zc := by
  have h := Worked.refJobs m
  generalize m.refJobs = m' at h ⊢
  exact Worked.field Mach.zc h

/-- The operations and the tracker end: nothing else moves, and the tracker is unlocked. -/
theorem Mach.jobsEnd (m : Mach) : Moved Mach.workedZ [] m (m.joinEnds.zcUnlocked.refJobs) ∧
    m.joinEnds.zcUnlocked.refJobs.zc.st = .unlocked := by
  have h1 := (Worked.joinEnds m).toZ
  generalize m.joinEnds = a at h1 ⊢
  have h2 := Moved.zcUnlocked a
  have hz := (Mach.zcUnlocked_keeps a).2.2.2
  generalize a.zcUnlocked = b at h2 hz ⊢
  refine ⟨(h1.trans' h2).trans' (Worked.refJobs b).toZ, ?_⟩
  rw [Mach.refJobs_zc]
  exact hz

theorem Moved.zField {m m' : Mach} {β : Type} (g : Mach → β) (h : Moved Mach.workedZ [] m m') : g m'.workedZ = g m.workedZ :=
  congrArg g h.view

/-- The measurements go stale on every channel of the part. -/
theorem Mach.staleAll_stale (m : Mach) : ∀ n, n < m.nch → (m.staleAll.ch n).meas.stale = true := by
  have hone (L : List Nat) : ∀ m : Mach, (∀ j ∈ L, j < 24) → ∀ n, (n ∈ L ∨ (m.ch n).meas.stale = true) →
      ((forList L (fun n m => m.modMeas n fun q =>
        { q with stale := true, winBad := true, stopped := true, iWin := [], eGap := true }) m).ch n).meas.stale = true := by
    induction L with
    | nil => exact fun m _ n h => h.resolve_left List.not_mem_nil
    | cons k t ih =>
      intro m hL n h
      rw [forList_cons]
      refine ih _ (fun j hj => hL j (List.mem_cons_of_mem _ hj)) n ?_
      by_cases hn : n = k
      · subst hn
        exact .inr (by rw [Mach.modMeas, Mach.ch_modCh_self _ _ _ (hL n List.mem_cons_self)])
      · refine (h.imp_left fun hm => (List.mem_cons.mp hm).resolve_left hn).imp_right fun hs => ?_
        rw [Mach.modMeas, Mach.ch_modCh_ne _ _ _ _ hn]
        exact hs
  intro n hn
  have h24 := m.nch_le
  unfold Mach.staleAll
  dsimp only
  have hnch (x : Mach) : (forList (List.range 4) (fun i (m : Mach) => (m.tachDisarm i).modTach i fun t => { t with last := none }) x).dev =
      x.dev :=
    forList_keeps Mach.dev _ _ (fun i _ m => by simp [Mach.tachDisarm]) x
  have hpart : (forList (List.range 4) (fun i (m : Mach) => (m.tachDisarm i).modTach i fun t => { t with last := none })
      { m with dl := { m.dl with valid := false, busy := false } }).nch = m.nch := by unfold Mach.nch; rw [hnch]
  refine hone _ _ (fun j hj => ?_) n (.inl ?_)
  · rw [Mach.allCh, hpart, List.mem_range] at hj; omega
  · rw [Mach.allCh, hpart, List.mem_range]; exact hn

/-- What the loss of the measurements' clock leaves. -/
structure ClockKept (m m' : Mach) : Prop where
  ground : Grounded m m'
  clk    : m'.clk = m.clk
  tbs    : m'.tbs = m.tbs
  otp    : m'.otp = m.otp
  st     : Keeps Chan.st m m'

theorem ClockKept.trans' {a b c : Mach} (h : ClockKept a b) (k : ClockKept b c) : ClockKept a c :=
  ⟨h.ground.trans' k.ground, k.clk.trans h.clk, k.tbs.trans h.tbs, k.otp.trans h.otp, h.st.trans' k.st⟩

theorem ClockKept.stAt {m m' : Mach} (h : ClockKept m m') (n : Nat) : m'.st n = m.st n := by
  unfold Mach.st
  rw [Mach.leader_of h.otp h.ground.part, h.st]

theorem Mach.staleAll_kept (m : Mach) : ClockKept m m.staleAll ∧ m.staleAll.dl.valid = false := by
  have h {β : Type} (g : Mach → β) (ht : ∀ i f m, g (Mach.modTach i f m) = g m) (hc : ∀ n f m, g (Mach.modMeas n f m) = g m) :
      g m.staleAll = g { m with dl := { m.dl with valid := false, busy := false } } :=
    (forList_keeps g _ _ (fun n _ m => hc n _ m) _).trans
      (forList_keeps g _ _ (fun i _ m => (ht _ _ _).trans (ht _ _ _)) _)
  have hst : Keeps Chan.st m m.staleAll := by
    refine Keeps.trans' (Keeps.of_chans ?_) (.forList _ _ (fun n _ m => .modCh n m) _)
    exact forList_keeps Mach.chans _ _ (fun i _ m => by simp [Mach.tachDisarm]) _
  refine ⟨⟨⟨h Mach.active ?_ ?_, h Mach.staged ?_ ?_, h Mach.time ?_ ?_, h Mach.now ?_ ?_, h (fun m => m.dev.part) ?_ ?_,
    evtKept_of_evt (h Mach.evt ?_ ?_)⟩, h Mach.clk ?_ ?_, h Mach.tbs ?_ ?_, h Mach.otp ?_ ?_, hst⟩,
    h (fun m => m.dl.valid) ?_ ?_⟩ <;> simp [Mach.modMeas]

theorem Moved.clockKept {m m' : Mach} (h : Moved Mach.workedZ [] m m') : ClockKept m m' :=
  ⟨⟨Moved.zField Mach.active h, Moved.zField Mach.staged h, Moved.zField Mach.time h, Moved.zField Mach.now h,
    Moved.zField (fun x => x.dev.part) h, h.evt⟩, Moved.zField Mach.clk h, Moved.zField Mach.tbs h, Moved.zField Mach.otp h,
    .of_chans (Moved.zField Mach.chans h)⟩

theorem SameRules.nch_of_part {m m' : Mach} (h : m'.dev.part = m.dev.part) : m'.nch = m.nch := by unfold Mach.nch; rw [h]

theorem Mach.refGone_kept (m : Mach) : Grounded m m.refGone ∧ m.refGone.dev = m.dev ∧ m.refGone.tbs = m.tbs ∧
    m.refGone.clk = m.refLostClk m.clk ∧
    (m.refGone.evtWord 0x01).getLsbD 0 = true := by
  have h0 (c : Clk → Clk) : Grounded m (m.modClk c) := ⟨rfl, rfl, rfl, rfl, rfl, evtKept_of_evt rfl⟩
  have h1 (x : Mach) : Grounded x x.holdPending := ⟨rfl, rfl, rfl, rfl, rfl, evtKept_of_evt rfl⟩
  have h2 (x : Mach) : x.holdPending.dev = x.dev ∧ x.holdPending.tbs = x.tbs ∧ x.holdPending.clk = x.clk ∧
    x.holdPending.evtWord = x.evtWord := ⟨rfl, rfl, rfl, rfl⟩
  refine ⟨((h0 _).trans' (Worked.event 0x01 0x0001 _).grounded).trans' (h1 _), ?_⟩
  unfold Mach.refGone
  obtain ⟨hd, ht, hc, he⟩ := h2 ((m.modClk m.refLostClk).event 0x01 0x0001)
  rw [hd, ht, hc, he]
  refine ⟨?_, ?_, ?_, Mach.event_latches (headerPage_clk _) (by decide)⟩ <;> simp [Mach.modClk]

theorem Mach.safeAll_kept (m : Mach) : Grounded m m.safeAll ∧ m.safeAll.clk = m.clk ∧ m.safeAll.tbs = m.tbs ∧
    (m.dev.latched = true → ∀ n, n < m.nch → m.safeAll.st n = .safe) := by
  obtain ⟨h, hsafe⟩ := Switched.allSafe m
  have h1 : Switched everyChannel everyChannel m m.safeAll := .ite h (.rfl' _ _ m)
  refine ⟨Switched.grounded h1, Switched.clk h1, Restarted.field Mach.tbs h1.restarted, fun hl n hn => ?_⟩
  rw [Mach.safeAll, if_pos hl]
  exact hsafe n hn

/-- What a machine without REFCLK is after its loss. -/
structure RefLost (m m' : Mach) : Prop where
  ground : Grounded m m'
  clk    : m'.clk = m.refLostClk m.clk
  evt    : (m'.evtWord 0x01).getLsbD 0 = true
  safe   : m.dev.latched = true → ∀ n, n < m.nch → m'.st n = .safe
  stale  : ∀ n, n < m.nch → (m'.ch n).meas.stale = true
  dl     : m'.dl.valid = false
  zc     : m'.zc.st = .unlocked
  halted : ∀ k, k < 8 → (m.tb k).running = true → (m'.tb k).halt.isSome = true

theorem Mach.loseRef_lost (m : Mach) : RefLost m m.loseRef := by
  rw [Mach.loseRef_eq]
  have hg1 : Grounded m (forList (List.range 8) Mach.haltTb m) :=
    forList_rel Grounded _ _ Grounded.rfl' (fun _ _ _ => Grounded.trans') (fun k _ m => (m.haltTb_grounded k).1) m
  have hd1 : (forList (List.range 8) Mach.haltTb m).dev = m.dev := forList_keeps Mach.dev _ _ (fun k _ m => (m.haltTb_grounded k).2.1) m
  have hc1 : (forList (List.range 8) Mach.haltTb m).clk = m.clk := forList_keeps Mach.clk _ _ (fun k _ m => (m.haltTb_grounded k).2.2) m
  obtain ⟨hrun, hhalt⟩ := Mach.haltAll (List.range 8) (fun k hk => List.mem_range.mp hk) m
  generalize forList (List.range 8) Mach.haltTb m = a at *
  obtain ⟨hg2, hd2, ht2, hc2, he2⟩ := a.refGone_kept
  generalize a.refGone = b at *
  obtain ⟨hg3, hc3, ht3, hsafe⟩ := b.safeAll_kept
  generalize b.safeAll = c at *
  obtain ⟨hk4, hdl⟩ := c.staleAll_kept
  have hstale := c.staleAll_stale
  generalize c.staleAll = d at *
  obtain ⟨hm5, hzc⟩ := d.jobsEnd
  have hk5 := hm5.clockKept
  generalize d.joinEnds.zcUnlocked.refJobs = z at *
  have hdl5 : z.dl = d.dl := Moved.zField Mach.dl hm5
  have hch5 : z.chans = d.chans := Moved.zField Mach.chans hm5
  have hk := hk4.trans' hk5
  have hnch : c.nch = m.nch := SameRules.nch_of_part (hg3.part.trans (hg2.part.trans hg1.part))
  have htb (k : Nat) : z.tb k = a.tb k := by unfold Mach.tb; rw [hk.tbs, ht3, ht2]
  refine ⟨((hg1.trans' hg2).trans' hg3).trans' hk.ground, ?_, hk.ground.evt _ _ (hg3.evt _ _ he2), fun hl n hn => ?_, fun n hn => ?_,
    by rw [hdl5]; exact hdl, hzc, fun k hk8 hr => ?_⟩
  · rw [hk.clk, hc3, hc2, hc1, Mach.refLostClk, Mach.refLostClk, hg1.time, hg1.now]
  · rw [hk.stAt]
    exact hsafe (by rw [hd2, hd1]; exact hl) n (by rw [SameRules.nch_of_part (hg2.part.trans hg1.part)]; exact hn)
  · rw [Mach.ch_of_chans hch5]
    exact hstale n (hnch.symm ▸ hn)
  · rw [htb]
    exact hhalt k (List.mem_range.mpr hk8) ((hrun k).1.trans hr)

theorem refclkLoss_holds (s : State) (hr : s.m.clk.refOk = true) :
    ∃ t, exec .refclkLoss s = .next t ∧ t.m.clk.refOk = false ∧ t.m.clk.refLossCnt = inc16 s.m.clk.refLossCnt ∧
      t.m.clk.rlossT = s.m.time ∧ t.latched 0x01 0 ∧
      (s.m.dev.latched = true → ∀ n, n < s.m.nch → t.m.st n = .safe) ∧
      (∀ n, n < s.m.nch → (t.m.ch n).meas.stale = true) ∧ t.m.dl.valid = false ∧ t.m.zc.st = .unlocked ∧
      (∀ k, k < 8 → (s.m.tb k).running = true → (t.m.tb k).halt.isSome = true) ∧ sameConfig s t ∧ storeHeld s t := by
  have hex : exec .refclkLoss s = .next ((s.otpLoseSupply).ctl Mach.loseRef) := congrArg Host.Outcome.next (if_pos hr)
  have hheld : Held s ((s.otpLoseSupply).ctl Mach.loseRef) := (State.otpLoseSupply_held s).trans' (Held.ctl' _ _)
  obtain ⟨hg, hdev, hclk, htbs⟩ := s.otpLoseSupply_stops
  refine ⟨_, hex, ?_⟩
  generalize s.otpLoseSupply = u at *
  obtain ⟨hground, hc, he, hsafe, hstale, hdl, hzc, hhalt⟩ := u.m.loseRef_lost
  have hcalm := State.ctl_calm Mach.loseRef u
  have hset := (State.settle_rel (u.on Mach.loseRef)).evt
  have hnch : u.m.nch = s.m.nch := SameRules.nch_of_part hg.part
  have hclk' : (u.ctl Mach.loseRef).m.clk = _ := (calm_clk hcalm).trans hc
  have hmeas : Keeps (fun c => c.meas.stale) (u.m.loseRef) (u.ctl Mach.loseRef).m := .of_calm hcalm
  refine ⟨by rw [hclk']; rfl, by rw [hclk', ← hclk]; rfl, by rw [hclk', ← hg.time]; rfl, hset _ _ he,
    fun hl n hn => ?_, fun n hn => ?_, by rw [calm_dl hcalm]; exact hdl, by rw [calm_zc hcalm]; exact hzc, fun k hk hrun => ?_, ⟨fun a => ?_, ?_, ?_, ?_⟩,
    hheld.pending, hheld.cells⟩
  · rw [State.ctl_st]
    exact hsafe (by rw [hdev]; exact hl) n (hnch.symm ▸ hn)
  · exact (hmeas n).trans (hstale n (hnch.symm ▸ hn))
  · have htb : (u.ctl Mach.loseRef).m.tb k = u.m.loseRef.tb k := by unfold Mach.tb; rw [calm_tbs hcalm]
    rw [htb]
    exact hhalt k hk (by unfold Mach.tb at hrun ⊢; rw [htbs]; exact hrun)
  · exact Mach.cfg_of_active ((calm_active hcalm).trans (hground.active.trans hg.active)) a
  · exact (calm_staged hcalm).trans (hground.staged.trans hg.staged)
  · exact (calm_time hcalm).trans (hground.time.trans hg.time)
  · exact (calm_now hcalm).trans (hground.now.trans hg.now)

theorem refclkEvents_hold : refclkEvents :=
  ⟨refclkLoss_holds, refclkPresent_holds, limpResume_holds⟩

end Sys2Proof.Machine

section
open Sys2Proof.Machine

/-- Settles O17: the loss of a clock is a pass of `enterSafe` over the leaders, its return one of starts as from OFF. -/
theorem clocksFailSafe : Obligations.ClocksFailSafe := ⟨refclkEvents_hold, lfoscEvents_hold⟩

end

namespace Sys2Proof.Machine
open Claim

/-! ## Holds: what judging them can change (R91, R261 to R267, R274, R387) -/

/-- A channel as the holds on it and the sources that cut it read it, and whether its throttle hold has been seen. -/
def Chan.bare (c : Chan) : Chan :=
  { Chan.reset with
    thm := { Chan.reset.thm with ownHold := c.thm.ownHold, stopHold := c.thm.stopHold }
    limp := { Chan.reset.limp with siteHold := c.limp.siteHold, thrSeen := c.limp.thrSeen }
    prot := { Chan.reset.prot with clim := c.prot.clim } }

/-- A machine without its operations, its reports and fault record, its outputs and tach inputs, and of its channels the holds
and the cycle limit alone. -/
def Mach.bare (m : Mach) : Mach :=
  { m.worked with
    chans := vmap m.chans fun _ c => c.bare
    outs := .replicate 32 .reset, tachs := .replicate 4 .reset
    frq := [], jnl := { m.jnl with supp := [] }, dev := { m.dev with frLost := 0 } }

/-- A step on channels that moves the states of `js` at most. -/
abbrev Bared : List Nat → Mach → Mach → Prop := Moved Mach.bare

theorem Mach.bare_besideUncut (ks : List Nat) (m : Mach) : (m.besideUncut ks).bare = m.bare := by
  have hv : (vmap (m.besideUncut ks).chans fun _ c => c.bare) = vmap m.chans fun _ c => c.bare := by
    refine vmap_congr fun i => ?_
    simp only [Mach.besideUncut, Mach.uncut, Mach.beside, Mach.calm, Mach.quiet, vmap, Fin.getElem_fin, Vector.getElem_ofFn]
    split <;> rfl
  exact congrArg (fun v => { m.bare with chans := v }) hv

theorem Restarted.bared {ks js : List Nat} {m m' : Mach} (h : Restarted ks js m m') : Bared js m m' :=
  ⟨by rw [← Mach.bare_besideUncut ks m', h.view, Mach.bare_besideUncut], h.evt, h.caps, h.st⟩

theorem Switched.bared {ks js : List Nat} {m m' : Mach} (h : Switched ks js m m') : Bared js m m' := Restarted.bared h.restarted

/-- A change of one channel that holds and cuts do not read. -/
theorem Bared.modCh {n : Nat} {f : Chan → Chan} (m : Mach) (hf : ∀ c, (f c).bare = c.bare := by intro _; rfl)
    (hc : ∀ c, (f c).sig.cap = c.sig.cap := by intro _; rfl) (hs : ∀ c, (f c).st = c.st := by intro _; rfl) :
    Bared [] m (m.modCh n f) where
  view := by
    unfold Mach.modCh
    split
    · next h =>
      have hv : (vmap (vmod m.chans ⟨n, h⟩ f) fun _ c => c.bare) = vmap m.chans fun _ c => c.bare := by
        refine vmap_congr fun i => ?_
        simp only [Fin.getElem_fin, vmod_get]
        split
        · exact hf _
        · rfl
      exact congrArg (fun v => { m.bare with chans := v }) hv
    · rfl
  evt := evtKept_of_evt (Mach.modCh_evt _ _ _)
  caps k := Mach.ch_modCh_view (fun c => c.sig.cap) n k f m hc
  st k _ := Mach.ch_modCh_view (fun c => c.st) n k f m hs

section
variable {js : List Nat} {m m' : Mach}

theorem Bared.field {β : Type} (g : Mach → β) (h : Bared js m m') : g m'.bare = g m.bare := congrArg g h.view

theorem Bared.rules (h : Bared js m m') : SameRules m m' where
  active := Bared.field Mach.active h
  otp := Bared.field Mach.otp h
  part := Bared.field (fun x => x.dev.part) h
  governed := Bared.field (fun x => x.dev.governed) h
  phase := Bared.field (fun x => x.dev.phase) h
  thm := Bared.field Mach.thm h
  trips := Bared.field Mach.trips h
  vbbUv := Bared.field (fun x => x.pwr.vbbUv) h
  rules n := by
    have hch (x : Mach) : (x.bare.ch n).rules = (x.ch n).rules := by
      by_cases hn : n < 24
      · simp [Mach.bare, Mach.ch, hn, vmap, Chan.bare, Chan.rules]
      · simp [Mach.ch, hn]
    rw [← hch m', h.view, hch]

end

section
variable {l : Nat} (hl : l < 24)
include hl

/-- A hold begins. -/
theorem Bared.applyHold (code : Nat) (m : Mach) (hs : m.leader l = l) : Bared [l] m (m.applyHold l code) := by
  have hm : ∀ {x : Mach}, ∀ k ∈ x.members l, k ∈ everyChannel := Mach.members_everyChannel hl
  have hle := mem_everyChannel.mpr hl
  have hcode (x : Mach) (first : Bool) : Switched everyChannel [] x ((x.writeCode l code 0).recordFault l code 0 first) :=
    (Switched.writeCode _ _ x hle).trans' (Switched.recordFault _ _ _ _ hle)
  have hcount (x : Mach) : Bared [] x (x.modCh l fun c =>
      if code = 0x7 then { c with thm := { c.thm with thCnt := inc16 c.thm.thCnt } }
      else if code = 0xE then { c with limp := { c.limp with shedCnt := inc16 c.limp.shedCnt } } else c) := by
    refine Bared.modCh x (fun c => ?_) (fun c => ?_) (fun c => ?_) <;> split_ifs <;> rfl
  have hshed : Switched everyChannel [l] m (((m.endInrush l 5).gateOff .programmed l).setSt l .shed) := by
    have h1 := (Switched.endInrush 5 m hm).trans' (Switched.gateOff .programmed _ hm)
    have h2 := Switched.setSt .shed ((m.endInrush l 5).gateOff .programmed l) hm
    rw [(Switched.rules h1).leader, hs] at h2
    exact (h1.any _).trans' h2
  unfold Mach.applyHold
  dsimp only
  exact .ite ((Switched.bared (hshed.trans' ((hcode _ _).any _))).trans' ((hcount _).any _))
    (.ite (Switched.bared ((hcode m _).any _)) (.ite ((Switched.bared (((hcode m _).trans' (Switched.safeDrive hl _)).any _)).trans'
      ((hcount _).any _)) (.rfl' _ _ m)))

theorem Bared.runRetry (m : Mach) (hs : m.leader l = l) : Bared [l] m (m.runRetry l) := by
  have hle := mem_everyChannel.mpr hl
  have h1 : Switched everyChannel [] m (m.modCh l fun c => { c with rty := { c.rty with elapsed := false } }) := Switched.modCh m hle
  have h2 : Bared [] m (m.modCh l fun c => { c with rty := { c.rty with total := inc16 c.rty.total } }) := Bared.modCh m
  have h3 := Switched.setSt (ks := everyChannel) .off (m.modCh l fun c => { c with rty := { c.rty with elapsed := false } })
    (Mach.members_everyChannel hl)
  rw [Mach.leader_modCh, hs] at h3
  exact .ite (Switched.bared ((h1.any _).trans' h3))
    ((h2.any _).trans' (Restarted.bared (Restarted.startFromOff hl true _ ((Mach.leader_modCh _ _ _ _).trans hs))))

/-- A hold may have ended. -/
theorem Bared.releaseHold (m : Mach) (hs : m.leader l = l) : Bared [l] m (m.releaseHold l) := by
  have hle := mem_everyChannel.mpr hl
  have hclear (codes : List Nat) : Switched everyChannel [] m (m.clearIf l codes) := Switched.clearIf codes m hle
  have hstart (x : Mach) (h : Switched everyChannel [] m x) : Bared [l] m (x.startFromOff l false) :=
    (Switched.bared (h.any _)).trans' (Restarted.bared (Restarted.startFromOff hl false x (((Switched.rules h).leader l).trans hs)))
  have hopen (p : Prop) [Decidable p] : Switched everyChannel [] m (if p then m else m.clearIf l [0x7, 0x8]) :=
    .ite (.rfl' _ _ m) (hclear _)
  unfold Mach.releaseHold
  split
  · exact .ite (.ite (.rfl' _ _ m) (.ite (Switched.bared ((Switched.writeCode _ _ m hle).any _)) (.rfl' _ _ m))) (hstart _ (hclear _))
  · exact Switched.bared (((hopen _).trans' (Switched.safeDrive hl _)).any _)
  · exact .ite (hstart _ (hopen _)) (Switched.bared ((hopen _).any _))
  · exact .ite (Bared.runRetry hl m hs) (.rfl' _ _ m)
  · exact .rfl' _ _ m

end

/-- A bare machine without what has been seen of throttle holds. -/
def Mach.unseen (m : Mach) : Mach :=
  { m.bare with chans := vmap m.bare.chans fun _ c => { c with limp := { c.limp with thrSeen := false } } }

/-- A step that judges throttle holds. -/
abbrev Seen : List Nat → Mach → Mach → Prop := Moved Mach.unseen

theorem Bared.seen {js : List Nat} {m m' : Mach} (h : Bared js m m') : Seen js m m' :=
  h.coarser fun x => { x with chans := vmap x.chans fun _ c => { c with limp := { c.limp with thrSeen := false } } }

theorem Bared.thrSeen {js : List Nat} {m m' : Mach} (h : Bared js m m') (n : Nat) :
    (m'.ch n).limp.thrSeen = (m.ch n).limp.thrSeen := by
  have hch (x : Mach) : (x.bare.ch n).limp.thrSeen = (x.ch n).limp.thrSeen := by
    by_cases hn : n < 24
    · simp [Mach.bare, Mach.ch, hn, vmap, Chan.bare]
    · simp [Mach.ch, hn]
  rw [← hch m', h.view, hch]

section
variable {js : List Nat} {m m' : Mach}

theorem Seen.field {β : Type} (g : Mach → β) (h : Seen js m m') : g m'.unseen = g m.unseen := congrArg g h.view

theorem Seen.rules (h : Seen js m m') : SameRules m m' where
  active := Seen.field Mach.active h
  otp := Seen.field Mach.otp h
  part := Seen.field (fun x => x.dev.part) h
  governed := Seen.field (fun x => x.dev.governed) h
  phase := Seen.field (fun x => x.dev.phase) h
  thm := Seen.field Mach.thm h
  trips := Seen.field Mach.trips h
  vbbUv := Seen.field (fun x => x.pwr.vbbUv) h
  rules n := by
    have hch (x : Mach) : (x.unseen.ch n).rules = (x.ch n).rules := by
      by_cases hn : n < 24
      · simp [Mach.unseen, Mach.bare, Mach.ch, hn, vmap, Chan.bare, Chan.rules]
      · simp [Mach.ch, hn]
    rw [← hch m', h.view, hch]

end

/-- What has been seen of the throttle hold of one channel. -/
theorem Seen.modCh_thrSeen {l : Nat} (b : Bool) (m : Mach) :
    Seen [] m (m.modCh l fun c => { c with limp := { c.limp with thrSeen := b } }) where
  view := by
    unfold Mach.modCh
    split
    · next h =>
      have hv : (vmap (vmap (vmod m.chans ⟨l, h⟩ fun c => { c with limp := { c.limp with thrSeen := b } }) fun _ c => c.bare)
            fun _ c => { c with limp := { c.limp with thrSeen := false } }) =
          vmap (vmap m.chans fun _ c => c.bare) fun _ c => { c with limp := { c.limp with thrSeen := false } } := by
        refine vmap_congr fun i => ?_
        simp only [vmap, Fin.getElem_fin, Vector.getElem_ofFn, vmod_get]
        split <;> rfl
      exact congrArg (fun v => { m.bare with chans := v }) hv
    · rfl
  evt := evtKept_of_evt (Mach.modCh_evt _ _ _)
  caps k := Mach.ch_modCh_view (fun c => c.sig.cap) l k _ m fun _ => rfl
  st k _ := Mach.ch_modCh_view (fun c => c.st) l k _ m fun _ => rfl

section
variable {l : Nat} (hl : l < 24) (m : Mach) (hs : m.leader l = l)
include hl hs

/-- Judging a throttle hold: the channel's own words, then a hold that begins or ends. -/
theorem Seen.judgeThrottle : Seen [l] m (m.judgeThrottle l) ∧
    ∀ n, n ≠ l → ((m.judgeThrottle l).ch n).limp.thrSeen = (m.ch n).limp.thrSeen := by
  have h1 := Seen.modCh_thrSeen (l := l) (m.throttleHold l) m
  have hne (n : Nat) (hn : n ≠ l) :
      ((m.modCh l fun c => { c with limp := { c.limp with thrSeen := m.throttleHold l } }).ch n).limp.thrSeen =
        (m.ch n).limp.thrSeen := by rw [Mach.ch_modCh_ne _ _ _ _ hn]
  have hs1 : (m.modCh l fun c => { c with limp := { c.limp with thrSeen := m.throttleHold l } }).leader l = l :=
    (Mach.leader_modCh _ _ _ _).trans hs
  unfold Mach.judgeThrottle
  dsimp only
  generalize (m.modCh l fun c => { c with limp := { c.limp with thrSeen := m.throttleHold l } }) = x at *
  have ha := Bared.applyHold hl 0x7 x hs1
  have hr := Bared.releaseHold hl x hs1
  split
  · exact ⟨(h1.any _).trans' ha.seen, fun n hn => (ha.thrSeen n).trans (hne n hn)⟩
  · split
    · exact ⟨(h1.any _).trans' hr.seen, fun n hn => (hr.thrSeen n).trans (hne n hn)⟩
    · exact ⟨h1.any _, hne⟩

omit hl hs in
/-- Without a throttle hold now or before, judging changes no state. -/
theorem Mach.judgeThrottle_calm (hn : m.throttleHold l = false) (hw : (m.ch l).limp.thrSeen = false) :
    ((m.judgeThrottle l).ch l).st = (m.ch l).st := by
  unfold Mach.judgeThrottle
  rw [hn, hw]
  exact (Seen.modCh_thrSeen (l := l) false m).st l List.not_mem_nil

end

/-- Judging all throttle holds moves states of leaders alone, and that of none without a hold now or before. -/
theorem Seen.judgeAll (m : Mach) : Seen m.leaders m m.judgeAll ∧ ∀ l, l ∈ m.leaders → m.throttleHold l = false →
    (m.ch l).limp.thrSeen = false → (m.judgeAll.ch l).st = (m.ch l).st := by
  have hstep (a : Nat) (ha : a ∈ m.leaders) (x : Mach) (hx : SameRules m x) :=
    Seen.judgeThrottle (Mach.leaders_lt ha) x ((hx.leader a).trans (Mach.mem_leaders.mp ha).2)
  have hpass (p : Nat → Bool) := Moved.forList_own (m0 := m) Seen.rules (fun c => c.limp.thrSeen) Mach.judgeThrottle
    (m.leaders.filter p) (m.leaders_nodup.filter p) (fun a ha x hx => (hstep a (List.mem_filter.mp ha).1 x hx).1)
    (fun a ha x hx => (hstep a (List.mem_filter.mp ha).1 x hx).2)
  obtain ⟨hb, hbout, -⟩ := hpass m.throttleHold m (.rfl' m)
  obtain ⟨he, -, heown⟩ := hpass (fun l => !m.throttleHold l) _ (Seen.rules hb)
  refine ⟨(hb.mono (List.filter_subset_self _)).trans' (he.mono (List.filter_subset_self _)), fun l hl hno hw => ?_⟩
  have hbeg : l ∉ m.leaders.filter m.throttleHold := fun h => by simp [hno] at h
  obtain ⟨x, hx, hst, hseen, hres⟩ := heown l (List.mem_filter.mpr ⟨hl, by simp [hno]⟩)
  calc (m.judgeAll.ch l).st = ((x.judgeThrottle l).ch l).st := hres
    _ = (x.ch l).st := Mach.judgeThrottle_calm x ((hx.throttleHold l).trans hno) (hseen.trans ((hbout l hbeg).trans hw))
    _ = (m.ch l).st := hst.trans (hb.st l hbeg)

/-! ## The sense sequencer drives the latches (R303, R396, R397, R454) -/

/-- The machine when its latches are driven and the port mode is sampled. -/
def Mach.driven (otp : Otp) (io3 : Bool) (m : Mach) : Mach :=
  let m := (({ m with otp := otp }).driveLatches).modDev fun d => { d with latched := true, phase := .sensed }
  { m with port := { m.port with chain := !io3 } }

/-- A channel in SAFE drives its safe state, any other enters SAFE. -/
def Mach.driveSafe (l : Nat) (m : Mach) : Mach := if (m.ch l).st == .safe then m.safeDrive l else m.enterSafe l

/-- Driving the latches writes the configuration alone. -/
theorem Mach.driveLatches_keeps {β : Type} (g : Mach → β) (m : Mach) (hg : ∀ a w m, g (Mach.setCfg a w m) = g m := by intros; rfl) :
    g m.driveLatches = g m := forList_keeps g _ _ (fun p _ m => hg p.1 p.2 m) m

theorem Mach.driven_staged (otp : Otp) (io3 : Bool) (m : Mach) : (m.driven otp io3).staged = m.staged :=
  Mach.driveLatches_keeps Mach.staged { m with otp := otp }
theorem Mach.driven_time (otp : Otp) (io3 : Bool) (m : Mach) : (m.driven otp io3).time = m.time :=
  Mach.driveLatches_keeps Mach.time { m with otp := otp }
theorem Mach.driven_chans (otp : Otp) (io3 : Bool) (m : Mach) : (m.driven otp io3).chans = m.chans :=
  Mach.driveLatches_keeps Mach.chans { m with otp := otp }
theorem Mach.driven_dev (otp : Otp) (io3 : Bool) (m : Mach) :
    (m.driven otp io3).dev = { m.dev with latched := true, phase := .sensed } :=
  congrArg (fun d : Dev => { d with latched := true, phase := .sensed }) (Mach.driveLatches_keeps Mach.dev { m with otp := otp })

section
variable {l : Nat} (hl : l < 24) (m : Mach) (hs : m.leader l = l)
include hl hs

theorem Switched.driveSafe : Switched everyChannel [l] m (m.driveSafe l) :=
  .ite ((Switched.safeDrive hl m).any _) (Switched.enterSafe hl m hs)

theorem Mach.driveSafe_st : ((m.driveSafe l).ch l).st = .safe := by
  unfold Mach.driveSafe
  split
  · next h => exact ((Switched.safeDrive hl m).st l List.not_mem_nil).trans (eq_of_beq h)
  · exact Mach.enterSafe_st hl m hs

end

theorem senseSequencerDone_holds (io3 : Bool) (s : State) (hp : s.m.dev.phase = .sensing) :
    ∃ t, exec (.senseSequencerDone io3) s = .next t ∧ t.m.dev.phase = .sensed ∧ t.m.dev.latched = true ∧
      t.m.port.chain = !io3 ∧ (∀ n, n < s.m.nch → t.m.st n = .safe) ∧
      (∀ a, (∀ n c, (s.m.ch n).sig.cap = some c → a / 512 ≠ c.page) → Memory.read t.sram a = 0) ∧
      t.m.staged = s.m.staged ∧ t.m.time = s.m.time ∧ sameStore s t := by
  let otp := if s.m.dev.latched then s.m.otp else { s.nv.sense with winVdd := s.m.otp.winVdd, winSup := s.m.otp.winSup }
  let f (m : Mach) : Mach := forList (m.driven otp io3).leaders Mach.driveSafe (m.driven otp io3)
  let u : State := { s with sram := [], eccBad := [] }
  have hex : exec (.senseSequencerDone io3) s = .next (u.ctl f) := congrArg Host.Outcome.next (if_pos (by rw [hp]; rfl))
  have hdev := Mach.driven_dev otp io3 s.m
  have hstaged := Mach.driven_staged otp io3 s.m
  have htime := Mach.driven_time otp io3 s.m
  have hchans := Mach.driven_chans otp io3 s.m
  have hchain : (s.m.driven otp io3).port.chain = !io3 := rfl
  obtain ⟨hf, hsafe⟩ := Switched.allTo Switched.driveSafe Mach.driveSafe_st (s.m.driven otp io3)
  have hcalm : (u.ctl f).m.calm = (forList (s.m.driven otp io3).leaders Mach.driveSafe (s.m.driven otp io3)).calm := State.ctl_calm f u
  have hset := State.settle_rel (u.on f)
  have hcap (n : Nat) : ((u.on f).m.ch n).sig.cap = (s.m.ch n).sig.cap := (hf.caps n).trans (by rw [Mach.ch_of_chans hchans])
  have hst (n : Nat) : (u.ctl f).m.st n = (forList (s.m.driven otp io3).leaders Mach.driveSafe (s.m.driven otp io3)).st n :=
    State.ctl_st f u n
  generalize forList (s.m.driven otp io3).leaders Mach.driveSafe (s.m.driven otp io3) = z at *
  generalize s.m.driven otp io3 = d at *
  have hzd : z.dev.phase = d.dev.phase ∧ z.dev.latched = d.dev.latched :=
    ⟨Restarted.field (fun x => x.dev.phase) hf.restarted, Restarted.field (fun x => x.dev.latched) hf.restarted⟩
  refine ⟨_, hex, ?_, ?_, ?_, fun n hn => ?_, fun a ha => ?_, ?_, ?_, hset.keep⟩
  · rw [calm_dev hcalm, hzd.1, hdev]
  · rw [calm_dev hcalm, hzd.2, hdev]
  · rw [calm_port hcalm, ← hchain]
    exact Restarted.field (fun x => x.port.chain) hf.restarted
  · rw [hst]
    exact hsafe n (by rw [SameRules.nch_of_part (show d.dev.part = s.m.dev.part by rw [hdev])]; exact hn)
  · exact hset.sram a fun n c hn => ha n c ((hcap n).symm.trans hn)
  · rw [calm_staged hcalm]; exact (Restarted.field Mach.staged hf.restarted).trans hstaged
  · rw [calm_time hcalm]; exact (Switched.time hf).trans htime

/-! ## The end of STARTUP (R37, R277, R285, R454, R455) -/

/-- The words that say in which state STARTUP leaves the device, with the configuration and the time. -/
structure Boot where
  active   : WMap
  staged   : WMap
  time     : Time
  now      : Nat
  phase    : Phase
  frz      : Bool
  governed : Bool
  rstKind  : Nat
  init     : Bool
  cause    : Nat
  entryCnt : Nat

def Mach.boot (m : Mach) : Boot where
  active := m.active
  staged := m.staged
  time := m.time
  now := m.now
  phase := m.dev.phase
  frz := m.dev.frz
  governed := m.dev.governed
  rstKind := m.dev.rstKind
  init := m.thm.init
  cause := m.limp.cause
  entryCnt := m.limp.entryCnt

theorem Seen.boot {js : List Nat} {m m' : Mach} (h : Seen js m m') : m'.boot = m.boot := Seen.field Mach.boot h
theorem Switched.boot {ks js : List Nat} {m m' : Mach} (h : Switched ks js m m') : m'.boot = m.boot := Seen.boot h.bared.seen
theorem boot_of_calm {m m' : Mach} (h : m'.calm = m.calm) : m'.boot = m.boot :=
  (congrArg Mach.boot h : m'.calm.boot = m.calm.boot)
theorem Worked.boot {m m' : Mach} (h : Worked m m') : m'.boot = m.boot := Worked.field Mach.boot h

theorem Mach.noteState_boot (m : Mach) : m.noteState.boot = m.boot := by
  unfold Mach.noteState
  split
  · rfl
  · exact (Worked.boot (Worked.event _ _ _)).trans rfl

theorem Mach.passJournal_boot (kind : Nat) (pay : List Byte) (m : Mach) : (m.passJournal kind pay).boot = m.boot := by
  unfold Mach.passJournal
  split
  · exact Switched.boot (Switched.frPush (ks := []) _ m)
  · rfl

/-- The estimate of a channel set. -/
def Mach.setEst (k e : Nat) (m : Mach) : Mach := m.modCh k fun c => { c with prot := { c.prot with est := e } }

/-- A fault STARTUP held back is written, to channel `k` and its leader `l`, and recorded with the estimate it was found at. -/
def Mach.writeLate (k l : Nat) (x : LateFault) (m : Mach) : Mach :=
  let first := (m.ch k).flt.code == 0
  let m := (m.addHist k x.also).writeCode k x.code x.detail
  let m := if l == k then m else (m.addHist l (x.also &&& turnOffBits .safe)).writeCode l x.code x.detail
  (m.setEst k x.est).recordFault k x.code x.detail first

theorem Mach.recordLate_eq (k : Nat) (m : Mach) : m.recordLate k =
    let z := (forList (m.ch k).flt.late (Mach.writeLate k (m.leader k)) m).setEst k (m.ch k).prot.est
    if (m.ch k).flt.late.isEmpty then z else z.modCh k fun c => { c with flt := { c.flt with late := [] } } := rfl

theorem Bared.setEst (k e : Nat) (m : Mach) : Bared [] m (m.setEst k e) := Bared.modCh m

theorem Bared.writeLate {k l : Nat} (hk : k ∈ everyChannel) (hl : l ∈ everyChannel) (x : LateFault) (m : Mach) :
    Bared [] m (m.writeLate k l x) := by
  have hwrite {j : Nat} (hj : j ∈ everyChannel) (bits : BitVec 16) (y : Mach) :
      Switched everyChannel [] y ((y.addHist j bits).writeCode j x.code x.detail) :=
    (Switched.addHist bits y hj).trans' (Switched.writeCode _ _ _ hj)
  unfold Mach.writeLate
  dsimp only
  exact ((Switched.bared ((hwrite hk x.also m).trans' (.ite (.rfl' _ _ _) (hwrite hl _ _)))).trans' (Bared.setEst k x.est _)).trans'
    (Switched.bared (Switched.recordFault _ _ _ _ hk))

/-- The faults STARTUP held back are recorded (R133). -/
theorem Bared.recordLate {k : Nat} (m : Mach) (hk : k < 24) : Bared [] m (m.recordLate k) := by
  have hz : Bared [] m ((forList (m.ch k).flt.late (Mach.writeLate k (m.leader k)) m).setEst k (m.ch k).prot.est) :=
    (Moved.forList _ _ (fun x _ y => Bared.writeLate (mem_everyChannel.mpr hk) (leader_everyChannel hk) x y) m).trans'
      (Bared.setEst _ _ _)
  rw [Mach.recordLate_eq]
  exact .ite hz (hz.trans' (Bared.modCh _))

theorem Mach.enterStop_boot (cause : Nat) (m : Mach) : (m.enterStop cause).boot = m.boot := by
  have habandon (x : Mach) : x.abandonCopy.boot = x.boot := by
    unfold Mach.abandonCopy
    repeat' split
    all_goals rfl
  have hpass (x : Mach) : ((x.passDevice 2 cause 0).queueCounters).boot = x.boot := by
    have h : (x.passDevice 2 cause 0).boot = x.boot := Switched.boot (Switched.frPush (ks := []) _ x)
    unfold Mach.queueCounters
    split
    · exact (Mach.passJournal_boot _ _ _).trans h
    · exact h
  unfold Mach.enterStop
  dsimp only
  rw [Mach.noteState_boot]
  refine (hpass _).trans ((Worked.boot (Worked.event _ _ _)).trans ?_)
  split
  · exact habandon m
  · rfl

theorem Bared.stopAll (m : Mach) : Bared m.leaders m m.stopAll :=
  (Moved.forList_own (m0 := m) Bared.rules (fun _ => ()) (fun l x => x.applyHold l 0x8) m.leaders m.leaders_nodup
    (fun _ ha x hx => Bared.applyHold (Mach.leaders_lt ha) 0x8 x ((hx.leader _).trans (Mach.mem_leaders.mp ha).2))
    (fun _ _ _ _ _ _ => rfl) m (.rfl' m)).1

theorem Mach.hotStart_boot (m : Mach) : m.hotStart.boot = m.boot := by
  unfold Mach.hotStart
  split
  · exact (Seen.boot (Bared.seen (Bared.stopAll _))).trans (Mach.enterStop_boot 4 m)
  · rfl

theorem Mach.thermInit_boot (diode : List (Option Int)) (ntc : Option Int) (m : Mach) :
    (m.thermInit diode ntc).boot = { m.boot with init := true } := by
  have hsensor (x : Nat) (f : Sensor → Sensor) (y : Mach) : (y.modSensor x f).boot = y.boot := by
    unfold Mach.modSensor
    split <;> rfl
  unfold Mach.thermInit
  dsimp only
  refine (forList_keeps Mach.boot _ _ (fun x _ y => ?_) _).trans rfl
  split
  · exact hsensor _ _ _
  · rfl

/-- What the last step of STARTUP leaves of the words that say how the device starts. -/
theorem Mach.endStartup_boot (diode : List (Option Int)) (ntc : Option Int) (m : Mach) : (m.endStartup diode ntc).boot =
    { m.boot with init := true, phase := .running, cause := if m.dev.rstKind = 1 then 1 else 2,
                  entryCnt := inc16 m.limp.entryCnt } := by
  unfold Mach.endStartup
  extract_lets inited running reported digested limped booted recorded hot judged sited noted
  have hinited : inited.boot = { m.boot with init := true } := by
    unfold inited
    split
    · next h => exact congrArg (fun b => { m.boot with init := b }) h
    · exact Mach.thermInit_boot _ _ _
  have hrunning : running.boot = { inited.boot with phase := .running } := rfl
  have hreported : reported.boot = running.boot := by
    unfold reported
    split
    · rfl
    · exact Worked.boot (Worked.event _ _ _)
  have hlimped : limped.boot =
      { digested.boot with cause := if digested.boot.rstKind = 1 then 1 else 2, entryCnt := inc16 digested.boot.entryCnt } :=
    Mach.noteState_boot _
  have hrecorded : recorded.boot = booted.boot :=
    forList_inv (fun y => y.boot = booted.boot) booted.allCh _
      (fun k hk y hy => (Seen.boot (Bared.seen (Bared.recordLate y ((List.mem_range.mp hk).trans_le booted.nch_le)))).trans hy) booted rfl
  have hjudged : judged.boot = hot.boot :=
    (Seen.boot (Seen.judgeAll _).1).trans (Seen.boot (Bared.seen (Restarted.bared (Restarted.endSafe hot).1)))
  have hsited : sited.boot = judged.boot := by
    unfold sited
    split
    · exact Worked.boot ((Worked.siteRefresh judged).trans' (Worked.autoJoin _))
    · rfl
  have hnoted : noted.boot = sited.boot := Mach.noteState_boot _
  have hhot : hot.boot = recorded.boot := Mach.hotStart_boot _
  have hbooted : booted.boot = limped.boot := Mach.passJournal_boot _ _ _
  have hdigested : digested.boot = reported.boot := rfl
  clear_value noted sited judged hot recorded booted limped digested reported running inited
  refine Eq.trans (b := noted.boot) rfl ?_
  rw [hnoted, hsited, hjudged, hhot, hrecorded, hbooted, hlimped, hdigested, hreported, hrunning, hinited]
  rfl

/-- What the words of the end of STARTUP say of the device. -/
structure Started (m m' : Mach) : Prop where
  phase : m'.dev.phase = .running
  init  : m'.thm.init = true
  frz   : m'.dev.frz = m.dev.frz
  gov   : m'.dev.governed = m.dev.governed
  cause : m'.limp.cause = if m.dev.rstKind = 1 then 1 else 2
  count : m'.limp.entryCnt = inc16 m.limp.entryCnt
  cfg   : m'.active = m.active
  staged : m'.staged = m.staged
  time  : m'.time = m.time
  now   : m'.now = m.now

theorem Started.of_boot {m m' : Mach} (h : m'.boot =
    { m.boot with init := true, phase := .running, cause := if m.dev.rstKind = 1 then 1 else 2,
                  entryCnt := inc16 m.limp.entryCnt }) : Started m m' :=
  ⟨congrArg Boot.phase h, congrArg Boot.init h, congrArg Boot.frz h, congrArg Boot.governed h, congrArg Boot.cause h,
    congrArg Boot.entryCnt h, congrArg Boot.active h, congrArg Boot.staged h, congrArg Boot.time h, congrArg Boot.now h⟩

theorem startupComplete_holds (diode : List (Option Int)) (ntc : Option Int) (s : State)
    (hw : (Instr.startupComplete diode ntc).WellFormed = true) (hp : s.m.dev.phase = .sensed) :
    ∃ t, exec (.startupComplete diode ntc) s = .next t ∧ t.m.dev.phase = .running ∧ t.m.thm.init = true ∧
      t.m.devState = (if t.m.thm.stop then 4 else if s.m.dev.frz then 5 else if s.m.dev.governed then 3 else 2) ∧
      t.m.limp.cause = (if s.m.dev.rstKind = 1 then 1 else 2) ∧
      t.m.limp.entryCnt = inc16 s.m.limp.entryCnt ∧ sameConfig s t ∧ sameStore s t := by
  let f : Mach → Mach := Mach.endStartup diode ntc
  have hex : exec (.startupComplete diode ntc) s = .next (s.ctl f) :=
    (if_pos hw).trans (congrArg Host.Outcome.next (State.ctl_congr (if_pos (by rw [hp]; rfl))))
  have hf : (f s.m).boot = _ := Mach.endStartup_boot diode ntc s.m
  clear_value f
  have hstarted : Started s.m (s.ctl f).m := .of_boot ((boot_of_calm (State.ctl_calm f s)).trans hf)
  refine ⟨_, hex, hstarted.phase, hstarted.init, ?_, hstarted.cause, hstarted.count,
    ⟨Mach.cfg_of_active hstarted.cfg, hstarted.staged, hstarted.time, hstarted.now⟩, (State.settle_rel (s.on f)).keep⟩
  unfold Mach.devState
  rw [hstarted.phase, ← hstarted.frz, ← hstarted.gov]

end Sys2Proof.Machine

section
open Sys2Proof.Machine

/-- Settles O15: the sense sequencer's pass puts each leader in SAFE; no later step of STARTUP touches the words that name
the state. -/
theorem startupEndsInLimpHome : Obligations.StartupEndsInLimpHome := ⟨senseSequencerDone_holds, startupComplete_holds⟩

end

namespace Sys2Proof.Machine
open Claim

/-! ## One channel passes to the limp map (R289, R293) -/

/-- The limp generator of a channel starts at the level `lvl`. -/
def Mach.startGen (l : Nat) (lvl : Bool) (m : Mach) : Mach :=
  let m := forList (m.members l)
    (fun k m => m.modOut k fun u => { u with joined := false, cut := false, hadCut := false }) m
  m.modCh l fun c => { c with limp := { c.limp with run := true, lvl := lvl, rose := false } }

/-- A channel leaves its PWM stages for its limp generator. -/
def Mach.handOver (l : Nat) (st : ChSt) (lvl : Bool) (m : Mach) : Mach := (m.setSt l st).startGen l lvl

theorem Mach.limpFollow_eq (l : Nat) (st : ChSt) (lvl : Bool) (m : Mach) : m.limpFollow l st lvl =
    if (m.handOver l st lvl).sourceActs l then (m.handOver l st lvl).cutCh l else m.handOver l st lvl := rfl

/-- A steady channel passes to its limp code, a generator starting at level `on`. -/
def Mach.limpSteady (l : Nat) (on : Bool) (m : Mach) : Mach :=
  match m.limpCode l with
  | 0 => (m.gateOff .programmed l).setSt l .off
  | 1 => (m.setSt l .on).gateOn l
  | 2 => m.limpFollow l .pwm on
  | _ => m.limpFollow l .hold on

/-- The words of a pending retry are cleared. -/
def Mach.noRetry (l : Nat) (m : Mach) : Mach :=
  m.modCh l fun c => { c with rty := { c.rty with elapsed := false, cause := 0, causeDet := 0 } }

/-- A channel that does not run passes to its limp code. -/
def Mach.limpIdle (l : Nat) (m : Mach) : Mach :=
  if m.limpCode l = 0 then (m.noRetry l).setSt l .off else (m.noRetry l).startFromOff l false

/-- A channel in INRUSH passes to its limp code. -/
def Mach.limpInrush (l : Nat) (m : Mach) : Mach :=
  if m.limpCode l = 0 then ((m.endInrush l 5).gateOff .programmed l).setSt l .off else (m.endInrush l 5).startFromOff l false

theorem Mach.limpEnter_eq (l : Nat) (m : Mach) : m.limpEnter l =
    match (m.ch l).st with
    | .on => m.limpSteady l ((m.ch l).stage.gateOn || (m.ch l).st == .on)
    | .pwm => m.limpSteady l ((m.ch l).stage.gateOn || (m.ch l).st == .on)
    | .hold => m.limpSteady l ((m.ch l).stage.gateOn || (m.ch l).st == .on)
    | .inrush => m.limpInrush l
    | .off => m.limpIdle l
    | .retryWait => m.limpIdle l
    | .latched => m.limpIdle l
    | _ => m := by
  unfold Mach.limpEnter
  split <;> simp_all <;> rfl

/-- The state of the limp code. -/
def Mach.limpState (m : Mach) (l : Nat) : ChSt :=
  if m.limpCode l = 0 then .off else if m.limpCode l = 1 then .on else if m.limpCode l = 2 then .pwm else .hold

/-- What the limp map makes of the state of a steady channel. -/
def Mach.limpsTo (m : Mach) (l : Nat) (st : ChSt) : Prop := st = m.limpState l ∨
  (2 ≤ m.limpCode l ∧ (m.tripOn l = true ∨ m.climOn l = true) ∧ fld (m.lw l 0x15) 0 8 ≠ 0 ∧
    (st = .retryWait ∨ st = .latched))

theorem SameRules.limpsTo {m m' : Mach} (h : SameRules m m') (l : Nat) (st : ChSt) : m'.limpsTo l st ↔ m.limpsTo l st := by
  unfold Mach.limpsTo Mach.limpState
  rw [h.limpCode, h.tripOn, h.climOn, h.lw]

section
variable {l : Nat} (hl : l < 24)
include hl

theorem Switched.setLeader (st : ChSt) (m : Mach) (hs : m.leader l = l) : Switched everyChannel [l] m (m.setSt l st) := by
  have h := Switched.setSt (ks := everyChannel) st m (Mach.members_everyChannel hl)
  rwa [hs] at h

theorem Switched.startGen (lvl : Bool) (m : Mach) : Switched everyChannel [] m (m.startGen l lvl) :=
  (Moved.forList _ _ (fun k hk x => Switched.modOut x (Mach.members_everyChannel hl k hk)) m).trans'
    (Switched.modCh _ (mem_everyChannel.mpr hl))

theorem Switched.handOver (st : ChSt) (lvl : Bool) (m : Mach) (hs : m.leader l = l) :
    Switched everyChannel [l] m (m.handOver l st lvl) :=
  (Switched.setLeader hl st m hs).trans' ((Switched.startGen hl lvl _).any _)

theorem Restarted.limpFollow (st : ChSt) (lvl : Bool) (m : Mach) (hs : m.leader l = l) :
    Restarted everyChannel [l] m (m.limpFollow l st lvl) := by
  have h1 := Switched.handOver hl st lvl m hs
  have h2 := Restarted.cutCh (m.handOver l st lvl) hl
  rw [(Switched.rules h1).leader, hs] at h2
  rw [Mach.limpFollow_eq]
  exact .ite (h1.restarted.trans' h2) h1.restarted

/-- A channel that turns off by its limp code. -/
theorem Switched.limpOff (m : Mach) (hs : m.leader l = l) : Switched everyChannel [l] m ((m.gateOff .programmed l).setSt l .off) := by
  have h := Switched.gateOff (ks := everyChannel) .programmed m (Mach.members_everyChannel hl)
  exact (h.any _).trans' (Switched.setLeader hl .off _ (((Switched.rules h).leader l).trans hs))

theorem Restarted.limpSteady (on : Bool) (m : Mach) (hs : m.leader l = l) : Restarted everyChannel [l] m (m.limpSteady l on) := by
  unfold Mach.limpSteady
  split
  · exact (Switched.limpOff hl m hs).restarted
  · exact ((Switched.setLeader hl .on m hs).trans' ((Switched.gateOn _ (Mach.members_everyChannel hl)).any _)).restarted
  · exact Restarted.limpFollow hl .pwm _ m hs
  · exact Restarted.limpFollow hl .hold _ m hs

theorem Switched.noRetry (m : Mach) : Switched everyChannel [] m (m.noRetry l) := Switched.modCh m (mem_everyChannel.mpr hl)

theorem Restarted.limpIdle (m : Mach) (hs : m.leader l = l) : Restarted everyChannel [l] m (m.limpIdle l) := by
  have h := Switched.noRetry hl m
  have hlead := ((Switched.rules h).leader l).trans hs
  exact .ite ((h.any _).trans' (Switched.setLeader hl .off _ hlead)).restarted
    ((h.any _).restarted.trans' (Restarted.startFromOff hl false _ hlead))

theorem Restarted.limpInrush (m : Mach) (hs : m.leader l = l) : Restarted everyChannel [l] m (m.limpInrush l) := by
  have h := Switched.endInrush (ks := everyChannel) 5 m (Mach.members_everyChannel hl)
  have hlead := ((Switched.rules h).leader l).trans hs
  exact .ite ((h.any _).trans' (Switched.limpOff hl _ hlead)).restarted
    ((h.any _).restarted.trans' (Restarted.startFromOff hl false _ hlead))

theorem Restarted.limpEnter (m : Mach) (hs : m.leader l = l) : Restarted everyChannel [l] m (m.limpEnter l) := by
  rw [Mach.limpEnter_eq]
  split
  exacts [Restarted.limpSteady hl _ m hs, Restarted.limpSteady hl _ m hs, Restarted.limpSteady hl _ m hs,
    Restarted.limpInrush hl m hs, Restarted.limpIdle hl m hs, Restarted.limpIdle hl m hs, Restarted.limpIdle hl m hs, .rfl' _ _ m]

theorem Restarted.toLimpMap (m : Mach) (hs : m.leader l = l) : Restarted everyChannel [l] m (m.toLimpMap l) := by
  unfold Mach.toLimpMap
  split
  exacts [Restarted.limpEnter hl m hs, Restarted.limpEnter hl m hs, Restarted.limpEnter hl m hs,
    .ite (Restarted.limpEnter hl m hs) (.rfl' _ _ m)]

end

section
variable {l : Nat} {m : Mach} (hs : m.leader l = l) (hl : l < m.nch)
include hs hl

theorem Mach.limpFollow_st {st : ChSt} (lvl : Bool) (hf : st.follows = true) : ((m.limpFollow l st lvl).ch l).st = st ∨
    ((m.tripOn l = true ∨ m.climOn l = true) ∧ fld (m.lw l 0x15) 0 8 ≠ 0 ∧
      (((m.limpFollow l st lvl).ch l).st = .retryWait ∨ ((m.limpFollow l st lvl).ch l).st = .latched)) := by
  have h24 : l < 24 := lt_of_lt_of_le hl m.nch_le
  have hr := Switched.rules (Switched.handOver h24 st lvl m hs)
  have hst : ((m.handOver l st lvl).ch l).st = st :=
    ((Switched.startGen h24 lvl _).st l List.not_mem_nil).trans (Mach.st_setSt_self hs h24 st)
  rw [Mach.limpFollow_eq]
  split
  · next hacts =>
    have hcut := Mach.cutCh_st ((hr.leader l).trans hs) (hr.nch.symm ▸ hl) (by rw [hst]; exact hf)
    rw [hst, hr.lw] at hcut
    have hsrc := (Bool.and_eq_true_iff.mp hacts).2
    rw [Bool.or_eq_true, hr.tripOn, hr.climOn] at hsrc
    exact hcut.imp_right fun h => ⟨hsrc, h⟩
  · exact .inl hst

theorem Mach.limpSteady_st (on : Bool) : m.limpsTo l ((m.limpSteady l on).ch l).st := by
  have h24 : l < 24 := lt_of_lt_of_le hl m.nch_le
  have hm : ∀ {x : Mach}, ∀ k ∈ x.members l, k ∈ everyChannel := Mach.members_everyChannel h24
  unfold Mach.limpSteady Mach.limpsTo Mach.limpState
  split
  · next hc =>
    have hg := Switched.rules (Switched.gateOff (ks := everyChannel) .programmed m hm)
    exact .inl ((Mach.st_setSt_self ((hg.leader l).trans hs) h24 .off).trans (by rw [hc]; rfl))
  · next hc =>
    have hg := (Switched.gateOn (ks := everyChannel) (m.setSt l .on) hm).st l List.not_mem_nil
    exact .inl ((hg.trans (Mach.st_setSt_self hs h24 .on)).trans (by rw [hc]; rfl))
  · next hc => rw [hc]; exact (Mach.limpFollow_st hs hl on rfl).imp id fun h => ⟨le_rfl, h⟩
  · next h0 h1 h2 =>
    rw [if_neg h0, if_neg h1, if_neg h2]
    exact (Mach.limpFollow_st hs hl on rfl).imp id fun h => ⟨(Nat.two_le_iff _).mpr ⟨h0, h1⟩, h⟩

/-- A channel that does not run starts by its limp code as from OFF. -/
theorem Mach.limpIdle_st (hg : m.dev.governed = false) : m.startsTo l ((m.limpIdle l).ch l).st := by
  have h24 : l < 24 := lt_of_lt_of_le hl m.nch_le
  have hr := Switched.rules (Switched.noRetry h24 m)
  have hlead := (hr.leader l).trans hs
  unfold Mach.limpIdle
  split
  · next hc =>
    have hmode : m.mode l = 0 := by unfold Mach.mode; rw [hg]; exact hc
    have hoff : m.startState l = .off := if_pos (.inl hmode)
    refine .inr ((Mach.st_setSt_self hlead h24 .off).trans ?_)
    rw [hoff, if_neg fun h => h.2 rfl]
  · rw [← hr.startsTo]
    exact Mach.startFromOff_startsTo hlead (hr.nch.symm ▸ hl) false

/-- A channel under no stop hold that was steady comes to the state of its limp code (R293). -/
theorem Mach.toLimpMap_steady (hst : (m.ch l).st.steady = true) (hg : m.limpGoverns l = true) :
    m.limpsTo l ((m.toLimpMap l).ch l).st := by
  have hto : m.toLimpMap l = m.limpEnter l := by
    unfold Mach.toLimpMap
    rw [Mach.st_self hs, hg]
    split <;> rfl
  rw [hto, Mach.limpEnter_eq]
  split
  case h_1 | h_2 | h_3 => exact Mach.limpSteady_st hs hl _
  all_goals simp_all [ChSt.steady]

/-- A channel that does not run starts by the limp map. -/
theorem Mach.toLimpMap_idle (hst : (m.ch l).st = .off ∨ (m.ch l).st = .retryWait ∨ (m.ch l).st = .latched)
    (hg : m.dev.governed = false) : m.startsTo l ((m.toLimpMap l).ch l).st := by
  have hto : m.toLimpMap l = m.limpIdle l := by
    unfold Mach.toLimpMap
    rw [Mach.st_self hs, Mach.limpEnter_eq]
    rcases hst with h | h | h <;> rw [h]
  rw [hto]
  exact Mach.limpIdle_st hs hl hg

end

/-! ## The limp map takes over (R293) -/

/-- Every channel passes to the limp map, and the holds are judged. -/
def Mach.limpPass (m : Mach) : Mach := (forList m.leaders Mach.toLimpMap m).judgeAll

theorem Mach.limpGoverns_of_free {m : Mach} {l : Nat} (hg : m.dev.governed = false) (hp : m.dev.phase = .running)
    (hh : m.stopHeld l = false) : m.limpGoverns l = true := by
  obtain ⟨-, hstop⟩ := (Bool.or_eq_false_iff.mp hh : m.thm.stop = false ∧ (m.ch (m.leader l)).thm.stopHold = false)
  simp [Mach.limpGoverns, hg, hp, hstop]

/-- What the pass makes of leader `l`, which no hold keeps. -/
structure LimpMapped (z z' : Mach) (l : Nat) : Prop where
  steady : (z.st l).steady = true → z'.limpsTo l (z'.st l)
  idle   : z.st l = .off ∨ z.st l = .retryWait ∨ z.st l = .latched → z'.startsTo l (z'.st l)

theorem Bared.limpMaps (z : Mach) : Bared z.leaders z (forList z.leaders Mach.toLimpMap z) ∧
    ∀ l ∈ z.leaders, ∃ x, SameRules z x ∧ (x.ch l).st = (z.ch l).st ∧ ((forList z.leaders Mach.toLimpMap z).ch l).st = ((x.toLimpMap l).ch l).st := by
  obtain ⟨h, -, hown⟩ := Moved.forList_own (m0 := z) Bared.rules (fun _ => ()) Mach.toLimpMap z.leaders z.leaders_nodup
    (fun a ha x hx => Restarted.bared (Restarted.toLimpMap (Mach.leaders_lt ha) x ((hx.leader a).trans (Mach.mem_leaders.mp ha).2)))
    (fun _ _ _ _ _ _ => rfl) z (.rfl' z)
  refine ⟨h, fun l hl => ?_⟩
  obtain ⟨x, hx, hst, -, hres⟩ := hown l hl
  exact ⟨x, hx, hst, hres⟩

theorem Mach.limpPass_seen (z : Mach) : Seen z.leaders z z.limpPass := by
  obtain ⟨h, -⟩ := Bared.limpMaps z
  have hj := (Seen.judgeAll (forList z.leaders Mach.toLimpMap z)).1
  rw [(Bared.rules h).leaders] at hj
  exact (Bared.seen h).trans' hj

theorem Mach.limpPass_maps {z : Mach} (hg : z.dev.governed = false) (hp : z.dev.phase = .running) (l : Nat) (hl : l ∈ z.leaders)
    (hstop : z.stopHeld l = false) (hw : (z.ch l).limp.thrSeen = false) (hthr : z.limpPass.throttleHold l = false) :
    LimpMapped z z.limpPass l := by
  obtain ⟨h1, hown⟩ := Bared.limpMaps z
  have hr1 := Bared.rules h1
  have hcalm := (Seen.judgeAll (forList z.leaders Mach.toLimpMap z)).2
  rw [hr1.leaders] at hcalm
  have hr := Seen.rules z.limpPass_seen
  obtain ⟨hlt, hlead⟩ := Mach.mem_leaders.mp hl
  obtain ⟨x, hx, hst, hres⟩ := hown l hl
  have hxl : x.leader l = l := (hx.leader l).trans hlead
  have hxn : l < x.nch := hx.nch.symm ▸ hlt
  have hend : z.limpPass.st l = ((x.toLimpMap l).ch l).st := by
    rw [Mach.st_self ((hr.leader l).trans hlead)]
    refine (hcalm l hl ?_ ((Bared.thrSeen h1 l).trans hw)).trans hres
    rw [hr1.throttleHold, ← hr.throttleHold]
    exact hthr
  have hz : z.st l = (x.ch l).st := (Mach.st_self hlead).trans hst.symm
  constructor
  · rw [hend, hz, hr.limpsTo, ← hx.limpsTo]
    exact fun hs => Mach.toLimpMap_steady hxl hxn hs (by rw [hx.limpGoverns]; exact Mach.limpGoverns_of_free hg hp hstop)
  · rw [hend, hz, hr.startsTo, ← hx.startsTo]
    exact fun hs => Mach.toLimpMap_idle hxl hxn hs (by rw [hx.governed]; exact hg)

/-! ## The words of a limp-home entry (R285, R286, R293, R296, R354, R458) -/

/-- What of the limp-home words an entry decides or leaves alone. -/
def Limp.core (x : Limp) : Limp := { x with entryAt := 0, wdgNext := false, wdgAt := 0 }

/-- A machine without its reports, fault queue, journal and operations, and without the results of commits and freezes. -/
def Mach.reported (m : Mach) : Mach :=
  { m.worked with
    frq := [], jnl := .reset, dbg := .reset, dev := { m.dev with frLost := 0, seenState := 0 }, limp := m.limp.core
    cmt := { Cmt.reset with pend := m.cmt.pend, takeArmed := m.cmt.takeArmed } }

/-- A step that reports. -/
abbrev Reported : Mach → Mach → Prop := Moved Mach.reported []

/-- A reported machine without the words of limp-home, of the commit, of modes and of the port master. -/
def Mach.noted (m : Mach) : Mach :=
  { m.reported with limp := .reset, cmt := .reset, mst := .reset, dev := { m.reported.dev with governed := false, frz := false } }

/-- A step on the words of a limp-home entry. -/
abbrev Noted : Mach → Mach → Prop := Moved Mach.noted []

theorem Reported.noted {m m' : Mach} (h : Reported m m') : Noted m m' :=
  h.coarser fun x => { x with limp := .reset, cmt := .reset, mst := .reset, dev := { x.dev with governed := false, frz := false } }

theorem Worked.reported {m m' : Mach} (h : Worked m m') : Reported m m' :=
  h.coarser fun x =>
    { x with frq := [], jnl := .reset, dbg := .reset, dev := { x.dev with frLost := 0, seenState := 0 }, limp := x.limp.core
             cmt := { Cmt.reset with pend := x.cmt.pend, takeArmed := x.cmt.takeArmed } }

theorem Reported.event (p : Nat) (w : Word) (m : Mach) : Reported m (m.event p w) := (Worked.event p w m).reported

theorem Reported.frPush (it : FrItem) (m : Mach) : Reported m (m.frPush it) := by
  have hlost (x : Nat) (y : Mach) : Reported y { y with dev := { y.dev with frLost := x } } := .hidden rfl rfl rfl
  unfold Mach.frPush
  exact .ite (.rfl' _ _ m) (.ite ((hlost _ m).trans' (Reported.event _ _ _)) (.hidden rfl rfl rfl))

theorem Reported.queueCounters (m : Mach) : Reported m m.queueCounters := by
  unfold Mach.queueCounters Mach.passJournal
  exact .ite (.ite (Reported.frPush _ m) (.rfl' _ _ m)) (.rfl' _ _ m)

theorem Reported.noteState (m : Mach) : Reported m m.noteState := by
  have hseen (y : Mach) (x : Nat) : Reported y { y with dev := { y.dev with seenState := x } } := .hidden rfl rfl rfl
  unfold Mach.noteState
  exact .ite (.rfl' _ _ m) ((hseen m _).trans' (Reported.event _ _ _))

theorem Reported.eventOwn (p : Nat) (w : Word) (e : EqEv) (m : Mach) : Reported m (m.eventOwn p w e) := by
  have he : evtKept m (m.eventOwn p w e) := by
    unfold Mach.eventOwn
    dsimp only
    split
    · exact (evtKept_latchEvt p w m).trans' (evtKept_collect _ _)
    · exact evtKept_latchEvt p w m
  exact Worked.reported (.of_quiet (Mach.quiet_eventOwn p w e m) he)

theorem Reported.endCommitTag (t : Option Tag) (status : Nat) (seq reason : Word) (m : Mach) :
    Reported m (m.endCommitTag t status seq reason) := by
  unfold Mach.endCommitTag
  split
  · split
    · exact Worked.reported (Worked.complete _ _ _ _ _)
    · exact .rfl' _ _ m
  · exact .rfl' _ _ m

theorem Reported.recordLr (bits seq tag reason : Word) (chmask : BitVec 24) (t : Option Tag) (m : Mach) :
    Reported m (m.recordLr bits seq tag reason chmask t) := by
  have hlr : Reported m { m with cmt := { m.cmt with lrSeq := seq, lrTag := tag, lrReason := reason, lrChmask := chmask } } :=
    .hidden rfl rfl rfl
  have hrest (y : Mach) : Reported y ((y.eventOwn 0x05 bits (commitEntry y bits seq reason tag)).endCommitTag t stRefused seq reason) :=
    (Reported.eventOwn _ _ _ _).trans' (Reported.endCommitTag _ _ _ _ _)
  exact hlr.trans' (hrest _)

/-- The words of a limp-home entry. -/
structure LimpWords where
  active    : WMap
  staged    : WMap
  time      : Time
  now       : Nat
  limp      : Limp
  takeArmed : Bool
  pend      : Option Pending
  frz       : Bool
  governed  : Bool
  grant     : Bool
  stop      : Bool
  holds     : Bool

def Mach.limpWords (m : Mach) : LimpWords where
  active := m.active
  staged := m.staged
  time := m.time
  now := m.now
  limp := m.limp.core
  takeArmed := m.cmt.takeArmed
  pend := m.cmt.pend
  frz := m.dev.frz
  governed := m.dev.governed
  grant := m.mst.wdgGrant
  stop := m.thm.stop
  holds := m.thm.holds

theorem Reported.words {m m' : Mach} (h : Reported m m') : m'.limpWords = m.limpWords :=
  (congrArg (fun x : Mach => { x.limpWords with limp := x.limp }) h.view)
theorem Seen.words {js : List Nat} {m m' : Mach} (h : Seen js m m') : m'.limpWords = m.limpWords := Seen.field Mach.limpWords h

/-- The pending commit is dropped (R64). -/
theorem Mach.dropPending_noted (reason : Word) (m : Mach) : Noted m (m.dropPending reason) ∧
    (m.dropPending reason).limpWords = { m.limpWords with pend := none } := by
  have hclear : Noted m { m with cmt := { m.cmt with pend := none } } := .hidden rfl rfl rfl
  unfold Mach.dropPending
  split
  · have h := Reported.recordLr (if reason = 0x03 then 0x0002 else 0x0004)
    exact ⟨hclear.trans' (Reported.noted (h _ _ _ _ _ _)), (Reported.words (h _ _ _ _ _ _)).trans rfl⟩
  · next hp => exact ⟨.rfl' _ _ m, by rw [show (none : Option Pending) = m.limpWords.pend from hp.symm]⟩

/-! ## The entry into limp-home (R276, R285, R286, R293) -/

/-- The mode of limp-home, the watchdog stopped and the entry's time recorded. -/
def Mach.toLimp (m : Mach) : Mach :=
  { m with dev := { m.dev with governed := false }
           limp := { m.limp with wdgRun := false, entryTime := m.time, entryAt := m.lf }
           jnl := { m.jnl with limpTotal := m.jnl.limpTotal + 1 } }

/-- The entry before the limp map takes over. -/
def Mach.limpStart (cause before : Nat) (granted : Bool) (m : Mach) : Mach :=
  ((((if granted then m else m.dropPending 0x0D).toLimp.event 0x0B 0x0001).passDevice 1 cause before).queueCounters)

theorem Mach.enterLimp_eq (cause before : Nat) (granted : Bool) (m : Mach) :
    m.enterLimp cause before granted = (m.limpStart cause before granted).limpPass := rfl

/-- What the entry leaves before the limp map takes over. -/
structure LimpStarted (granted : Bool) (m m' : Mach) : Prop where
  frame : Noted m m'
  words : m'.limpWords = { m.limpWords with
    pend := if granted then m.cmt.pend else none, governed := false
    limp := { m.limp.core with wdgRun := false, entryTime := m.time } }
  event : (m'.evtWord 0x0B).getLsbD 0 = true

theorem headerPage_limp (p : Part) : headerPage p 0x0B = true := by cases p <;> rfl

theorem Mach.limpStart_started (cause before : Nat) (granted : Bool) (m : Mach) :
    LimpStarted granted m (m.limpStart cause before granted) := by
  have hdrop : Noted m (if granted then m else m.dropPending 0x0D) ∧
      (if granted then m else m.dropPending 0x0D).limpWords =
        { m.limpWords with pend := if granted then m.cmt.pend else none } := by
    cases granted
    · exact m.dropPending_noted 0x0D
    · exact ⟨.rfl' _ _ m, rfl⟩
  unfold Mach.limpStart
  generalize (if granted then m else m.dropPending 0x0D) = x at hdrop ⊢
  obtain ⟨hx, hwx⟩ := hdrop
  have hto : Noted x x.toLimp := .hidden rfl rfl rfl
  have hwto : x.toLimp.limpWords = { x.limpWords with
    governed := false, limp := { x.limpWords.limp with wdgRun := false, entryTime := x.limpWords.time } } := rfl
  generalize x.toLimp = y at hto hwto ⊢
  have hev := Reported.event 0x0B 0x0001 y
  have hbit : ((y.event 0x0B 0x0001).evtWord 0x0B).getLsbD 0 = true := Mach.event_latches (headerPage_limp _) (by decide)
  have hrep : Reported (y.event 0x0B 0x0001) (((y.event 0x0B 0x0001).passDevice 1 cause before).queueCounters) :=
    (Reported.frPush _ _).trans' (Reported.queueCounters _)
  generalize y.event 0x0B 0x0001 = z at hev hbit hrep ⊢
  refine ⟨(hx.trans' hto).trans' (Reported.noted (hev.trans' hrep)), ?_, hrep.evt _ _ hbit⟩
  rw [Reported.words (hev.trans' hrep), hwto, hwx]
  rfl

/-- A thermal stop leaves its holds (R276). -/
theorem Mach.stopToHolds_words (m : Mach) : m.stopToHolds.limpWords = { m.limpWords with
    stop := false, holds := m.thm.stop || m.thm.holds } ∧ evtKept m m.stopToHolds ∧ (m.thm.stop = false → m.stopToHolds = m) := by
  have hpass (L : List Nat) (x : Mach) :
      (forList L (fun l m => m.modCh l fun c => { c with thm := { c.thm with stopHold := true } }) x).limpWords = x.limpWords ∧
      (forList L (fun l m => m.modCh l fun c => { c with thm := { c.thm with stopHold := true } }) x).evt = x.evt := by
    refine ⟨forList_keeps Mach.limpWords _ _ (fun l _ y => ?_) x, forList_keeps Mach.evt _ _ (fun l _ y => Mach.modCh_evt _ _ _) x⟩
    unfold Mach.modCh
    split <;> rfl
  unfold Mach.stopToHolds
  by_cases hs : m.thm.stop = true
  · rw [if_pos hs, hs]
    exact ⟨(hpass _ _).1.trans rfl, evtKept_of_evt ((hpass _ _).2.trans rfl), fun h => absurd h (by simp)⟩
  · rw [if_neg hs]
    rw [Bool.not_eq_true] at hs
    refine ⟨?_, evtKept.rfl' m, fun _ => rfl⟩
    rw [hs, Bool.false_or, ← hs]
    rfl

/-- The freeze is over and the watchdog as after its end. -/
def Mach.thawed (cause : Nat) (m : Mach) : Mach :=
  ({ m with dev := { m.dev with frz := false }, dbg := { m.dbg with endCause := cause } }).startWdg

theorem Mach.endFreeze_eq (cause : Nat) (m : Mach) :
    m.endFreeze cause = if m.dev.frz then ((m.thawed cause).event 0x12 0x0002).noteState else m := rfl

/-- What the end of a freeze leaves outside governed mode: the watchdog does not restart. -/
structure Thawed (m m' : Mach) : Prop where
  frame : Noted m m'
  words : m'.limpWords = { m.limpWords with frz := false, limp := { m.limp.core with wdgRun := m.limp.wdgRun && !m.dev.frz } }

theorem Thawed.reported {m x y : Mach} (h : Thawed m x) (hr : Reported x y) : Thawed m y :=
  ⟨h.frame.trans' (Reported.noted hr), (Reported.words hr).trans h.words⟩

theorem Mach.endFreeze_thawed (m : Mach) (hg : m.dev.governed = false) : Thawed m (m.endFreeze 3) := by
  rw [Mach.endFreeze_eq]
  split
  · next hf =>
    have h : Thawed m (m.thawed 3) := by
      refine ⟨.hidden rfl rfl rfl, ?_⟩
      have hrun : (m.thawed 3).limp.wdgRun = false := by
        unfold Mach.thawed Mach.startWdg
        dsimp only
        rw [hg, Bool.false_and, Bool.false_and]
      have hw : (m.thawed 3).limpWords =
          { m.limpWords with frz := false, limp := { m.limp.core with wdgRun := (m.thawed 3).limp.wdgRun } } := rfl
      rw [hw, hrun, hf, Bool.not_true, Bool.and_false]
    exact h.reported ((Reported.event _ _ _).trans' (Reported.noteState _))
  · next hf =>
    rw [Bool.not_eq_true] at hf
    refine ⟨.rfl' _ _ m, ?_⟩
    rw [hf, Bool.not_false, Bool.and_true, ← hf]
    rfl

/-! ## The triggers of a round take effect (R285, R286, R293) -/

section
variable {m m' : Mach}

theorem Noted.field {β : Type} (g : Mach → β) (h : Noted m m') : g m'.noted = g m.noted := congrArg g h.view

theorem Noted.chans (h : Noted m m') : m'.chans = m.chans := Noted.field Mach.chans h

/-- A step on the words of an entry that changes no mode leaves what decides holds and starts. -/
theorem Noted.rules (h : Noted m m') (hg : m'.dev.governed = m.dev.governed) : SameRules m m' where
  active := Noted.field Mach.active h
  otp := Noted.field Mach.otp h
  part := Noted.field (fun x => x.dev.part) h
  governed := hg
  phase := Noted.field (fun x => x.dev.phase) h
  thm := Noted.field Mach.thm h
  trips := Noted.field Mach.trips h
  vbbUv := Noted.field (fun x => x.pwr.vbbUv) h
  rules n := by rw [Mach.ch_of_chans (Noted.chans h)]

/-- The machine in another mode. -/
def Mach.inMode (g : Bool) (m : Mach) : Mach := { m with dev := { m.dev with governed := g } }

theorem Noted.rulesIn (h : Noted m m') : SameRules (m.inMode m'.dev.governed) m' :=
  Noted.rules (⟨h.view, h.evt, h.caps, h.st⟩ : Noted (m.inMode m'.dev.governed) m') rfl

theorem Noted.leaders (h : Noted m m') : m'.leaders = m.leaders := (Noted.rulesIn h).leaders
theorem Noted.stopHeld (h : Noted m m') (n : Nat) : m'.stopHeld n = m.stopHeld n := (Noted.rulesIn h).stopHeld n
theorem Noted.stAt (h : Noted m m') (n : Nat) : m'.st n = m.st n := by
  unfold Mach.st
  rw [Mach.ch_of_chans (Noted.chans h), (Noted.rulesIn h).leader]
  rfl

theorem SameRules.of_calm (h : m'.calm = m.calm) : SameRules m m' where
  active := calm_active h
  otp := calm_otp h
  part := congrArg Dev.part (calm_dev h)
  governed := congrArg Dev.governed (calm_dev h)
  phase := congrArg Dev.phase (calm_dev h)
  thm := calm_thm h
  trips := calm_trips h
  vbbUv := congrArg Pwr.vbbUv (calm_pwr h)
  rules n := (Keeps.of_calm h : Keeps Chan.rules m m') n

theorem LimpMapped.transport {l : Nat} {z w y : Mach} (h : LimpMapped z w l) (hz : z.st l = m.st l) (hr : SameRules w y)
    (hst : y.st l = w.st l) : LimpMapped m y l := by
  constructor
  · rw [hst, hr.limpsTo, ← hz]; exact h.steady
  · rw [hst, hr.startsTo, ← hz]; exact h.idle

end

/-- The words of the triggers: the cause, the history, the count, TAKE_CONTROL disarmed. -/
def Mach.triggered (cause : Nat) (codes : List Nat) (m : Mach) : Mach :=
  { m with limp := { m.limp with cause := cause, entryCnt := inc16 m.limp.entryCnt,
                                 causeHist := codes.foldl (fun x c => x ||| BitVec.ofNat 16 (2 ^ c)) m.limp.causeHist }
           cmt := { m.cmt with takeArmed := false } }

/-- The passage from governed mode, where the device is in it. -/
def Mach.toLimpMode (cause before : Nat) (granted : Bool) (m : Mach) : Mach :=
  if m.dev.governed then m.enterLimp cause before granted else m

theorem Mach.limpTrigger_eq {m : Mach} (hp : m.dev.phase = .running) (cause : Nat) (codes : List Nat) (granted : Bool) :
    m.limpTrigger (cause :: codes) granted =
      ((((m.triggered cause (cause :: codes)).stopToHolds.toLimpMode cause m.devState granted).endFreeze 3).noteState) := by
  unfold Mach.limpTrigger
  rw [hp]
  rfl

/-- The words with the triggers of a round. -/
def LimpWords.triggered (cause : Nat) (codes : List Nat) (w : LimpWords) : LimpWords :=
  { w with
    takeArmed := false
    limp := { w.limp with
      cause := cause, entryCnt := inc16 w.limp.entryCnt
      causeHist := codes.foldl (fun x c => x ||| BitVec.ofNat 16 (2 ^ c)) w.limp.causeHist } }

/-- The words when a thermal stop has left its holds. -/
def LimpWords.toHolds (w : LimpWords) : LimpWords := { w with stop := false, holds := w.stop || w.holds }

/-- The words outside governed mode. -/
def LimpWords.toLimp (granted : Bool) (w : LimpWords) : LimpWords :=
  { w with
    governed := false, pend := if w.governed && !granted then none else w.pend
    limp := { w.limp with wdgRun := w.limp.wdgRun && !w.governed
                          entryTime := if w.governed then w.time else w.limp.entryTime } }

/-- The words when a freeze has ended. -/
def LimpWords.thawed (w : LimpWords) : LimpWords :=
  { w with frz := false, limp := { w.limp with wdgRun := w.limp.wdgRun && !w.frz } }

/-- The words an entry leaves. -/
def LimpWords.entered (cause : Nat) (codes : List Nat) (granted : Bool) (w : LimpWords) : LimpWords :=
  (((w.triggered cause codes).toHolds).toLimp granted).thawed

/-- What the passage from governed mode leaves. -/
structure ToLimp (granted : Bool) (m m' : Mach) : Prop where
  words : m'.limpWords = m.limpWords.toLimp granted
  evt   : evtKept m m'
  event : m.dev.governed = true → (m'.evtWord 0x0B).getLsbD 0 = true
  maps  : m.dev.governed = true → m.dev.phase = .running → ∀ l ∈ m.leaders, m.stopHeld l = false →
    (m.ch l).limp.thrSeen = false → m'.throttleHold l = false → LimpMapped m m' l

theorem Mach.toLimpMode_toLimp (cause before : Nat) (granted : Bool) (m : Mach) :
    ToLimp granted m (m.toLimpMode cause before granted) := by
  unfold Mach.toLimpMode
  split
  · next hg =>
    rw [Mach.enterLimp_eq]
    obtain ⟨hf, hw, he⟩ := m.limpStart_started cause before granted
    generalize m.limpStart cause before granted = z at hf hw he ⊢
    have hzg : z.dev.governed = false := congrArg LimpWords.governed hw
    have hzp : z.dev.phase = m.dev.phase := Noted.field (fun x => x.dev.phase) hf
    have hseen : Seen z.leaders z z.limpPass := Mach.limpPass_seen z
    refine ⟨?_, hf.evt.trans' hseen.evt, fun _ => hseen.evt _ _ he, fun _ hp l hl hstop hthr hno => ?_⟩
    · have hwg : m.limpWords.governed = true := hg
      unfold LimpWords.toLimp
      rw [Seen.words hseen, hw, hwg, Bool.not_true, Bool.and_false]
      cases granted <;> rfl
    · exact (Mach.limpPass_maps hzg (hzp.trans hp) l (by rw [Noted.leaders hf]; exact hl) (by rw [Noted.stopHeld hf]; exact hstop)
        (by rw [Mach.ch_of_chans (Noted.chans hf)]; exact hthr) hno).transport (Noted.stAt hf l) (.rfl' _) rfl
  · next hg =>
    rw [Bool.not_eq_true] at hg
    refine ⟨?_, evtKept.rfl' m, fun h => absurd (hg.symm.trans h) Bool.false_ne_true,
      fun h => absurd (hg.symm.trans h) Bool.false_ne_true⟩
    refine (congrArg (fun g => { m.limpWords with governed := g }) hg).trans ?_
    have hwg : m.limpWords.governed = false := hg
    unfold LimpWords.toLimp
    rw [hwg, Bool.false_and, Bool.not_false, Bool.and_true, if_neg Bool.false_ne_true, if_neg Bool.false_ne_true]

/-- What the triggers of a round leave. -/
structure LimpEntered (cause : Nat) (codes : List Nat) (granted : Bool) (m m' : Mach) : Prop where
  words : m'.limpWords = m.limpWords.entered cause codes granted
  evt   : evtKept m m'
  event : m.dev.governed = true → (m'.evtWord 0x0B).getLsbD 0 = true
  maps  : m.dev.governed = true → ∀ l ∈ m.leaders, m.stopHeld l = false →
    (m.ch l).limp.thrSeen = false → m'.throttleHold l = false → LimpMapped m m' l

theorem Mach.limpTrigger_entered {m : Mach} (hp : m.dev.phase = .running) (cause : Nat) (codes : List Nat) (granted : Bool) :
    LimpEntered cause (cause :: codes) granted m (m.limpTrigger (cause :: codes) granted) := by
  rw [Mach.limpTrigger_eq hp]
  have hx : Noted m (m.triggered cause (cause :: codes)) := .hidden rfl rfl rfl
  have hxg : (m.triggered cause (cause :: codes)).dev.governed = m.dev.governed := rfl
  have hxw : (m.triggered cause (cause :: codes)).limpWords = m.limpWords.triggered cause (cause :: codes) := rfl
  generalize m.triggered cause (cause :: codes) = x at hx hxg hxw ⊢
  obtain ⟨hyw, hye, hystop⟩ := x.stopToHolds_words
  have hyg : x.stopToHolds.dev.governed = x.dev.governed := congrArg LimpWords.governed hyw
  generalize hy : x.stopToHolds = y at hyw hye hystop hyg ⊢
  obtain ⟨hzw, hze, hzev, hzmaps⟩ := y.toLimpMode_toLimp cause m.devState granted
  generalize y.toLimpMode cause m.devState granted = z at hzw hze hzev hzmaps ⊢
  have hzg : z.dev.governed = false := congrArg LimpWords.governed hzw
  have ht := (z.endFreeze_thawed hzg).reported (Reported.noteState _)
  obtain ⟨hf, hw⟩ := ht
  generalize (z.endFreeze 3).noteState = t at hf hw ⊢
  refine ⟨?_, ((hx.evt.trans' hye).trans' hze).trans' hf.evt, fun hg => hf.evt _ _ (hzev (hyg.trans (hxg.trans hg))),
    fun hg l hl hstop hthr hno => ?_⟩
  · calc t.limpWords = z.limpWords.thawed := hw
      _ = (y.limpWords.toLimp granted).thawed := congrArg LimpWords.thawed hzw
      _ = (x.limpWords.toHolds.toLimp granted).thawed := congrArg (fun w => (LimpWords.toLimp granted w).thawed) hyw
      _ = _ := congrArg (fun w => (LimpWords.toLimp granted w.toHolds).thawed) hxw
  · have hst : x.thm.stop = false :=
      (Bool.or_eq_false_iff.mp (((Noted.stopHeld hx l).trans hstop : x.stopHeld l = false))).1
    have hr := Noted.rules hf ((congrArg LimpWords.governed hw).trans rfl)
    cases hystop hst
    refine (hzmaps (hxg.trans hg) ((Noted.field (fun x => x.dev.phase) hx).trans hp) l (by rw [Noted.leaders hx]; exact hl)
      (by rw [Noted.stopHeld hx]; exact hstop) (by rw [Mach.ch_of_chans (Noted.chans hx)]; exact hthr)
      (by rw [← hr.throttleHold]; exact hno)).transport (Noted.stAt hx l) hr (Noted.stAt hf l)

/-! ## An entry, as the command that brings it leaves the block (R285, R286, R293) -/

theorem getLsbD_causeHist (codes : List Nat) (h : BitVec 16) {i : Nat} (hi : i < 16) :
    (codes.foldl (fun x c => x ||| BitVec.ofNat 16 (2 ^ c)) h).getLsbD i = (h.getLsbD i || codes.contains i) := by
  induction codes generalizing h with
  | nil => simp
  | cons c t ih =>
    rw [List.foldl_cons, ih, BitVec.getLsbD_or, BitVec.getLsbD_ofNat, Nat.testBit_two_pow]
    simp [hi, Bool.or_assoc, eq_comm]

/-- The machine `x` is `m` with the triggers of a round. -/
structure Triggers (m x : Mach) : Prop where
  frame    : Noted m x
  hist     : x.limp.causeHist = m.limp.causeHist
  count    : x.limp.entryCnt = m.limp.entryCnt
  pend     : x.cmt.pend = m.cmt.pend
  governed : x.dev.governed = m.dev.governed

theorem Triggers.rfl' (m : Mach) : Triggers m m := ⟨.rfl' _ _ m, rfl, rfl, rfl, rfl⟩
theorem Triggers.trans' {a b c : Mach} (h : Triggers a b) (k : Triggers b c) : Triggers a c :=
  ⟨h.frame.trans' k.frame, k.hist.trans h.hist, k.count.trans h.count, k.pend.trans h.pend, k.governed.trans h.governed⟩

theorem words_of_calm {m m' : Mach} (h : m'.calm = m.calm) : m'.limpWords = m.limpWords :=
  (congrArg Mach.limpWords h : m'.calm.limpWords = m.calm.limpWords)

section
variable {cause : Nat} {codes : List Nat} {granted : Bool} {m m' : Mach} (h : LimpEntered cause codes granted m m')
include h

theorem LimpEntered.grant : m'.mst.wdgGrant = m.mst.wdgGrant := congrArg LimpWords.grant h.words
theorem LimpEntered.lh : m'.limp.lh = m.limp.lh := congrArg (fun w => w.limp.lh) h.words
theorem LimpEntered.lhAssert : m'.limp.lhAssert = m.limp.lhAssert := congrArg (fun w => w.limp.lhAssert) h.words
theorem LimpEntered.wdgBad : m'.limp.wdgBad = m.limp.wdgBad := congrArg (fun w => w.limp.wdgBad) h.words
theorem LimpEntered.wdgRun (hr : m.limp.wdgRun = false) : m'.limp.wdgRun = false := by
  have hw : m'.limp.wdgRun = ((m.limp.wdgRun && !m.dev.governed) && !m.dev.frz) := congrArg (fun w => w.limp.wdgRun) h.words
  rw [hw, hr, Bool.false_and, Bool.false_and]

end

section
variable {cause : Nat} {codes : List Nat} {granted : Bool} {s : State} {x : Mach} {f : Mach → Mach}
  (hf : f s.m = x.limpTrigger (cause :: codes) granted) (hx : Triggers s.m x) (hp : s.m.dev.phase = .running)
include hf hx hp

/-- What stands after an entry that `x` brings. -/
theorem State.ctl_entered : LimpEntered cause (cause :: codes) granted x (s.ctl f).m := by
  have hxp : x.dev.phase = .running := (Noted.field (fun m => m.dev.phase) hx.frame).trans hp
  obtain ⟨hw, he, hev, hmaps⟩ := Mach.limpTrigger_entered hxp cause codes granted
  rw [← hf] at hw he hev hmaps
  have hcalm := State.ctl_calm f s
  have hset := (State.settle_rel (s.on f)).evt
  have hr := SameRules.of_calm hcalm
  refine ⟨(words_of_calm hcalm).trans hw, he.trans' hset, fun hg => hset _ _ (hev hg), fun hg l hl hstop hthr hno => ?_⟩
  exact (hmaps hg l hl hstop hthr (by rw [← hr.throttleHold]; exact hno)).transport rfl hr (State.ctl_st f s l)

theorem State.ctl_entersLimp : entersLimp (cause :: codes) granted s (s.ctl f) := by
  obtain ⟨hw, -, hev, hmaps⟩ := State.ctl_entered hf hx hp
  have hkeep : sameStore s (s.ctl f) := (State.settle_rel (s.on f)).keep
  generalize s.ctl f = t at hw hev hmaps hkeep
  have hfield {β : Type} (g : LimpWords → β) : g t.m.limpWords = g (x.limpWords.entered cause (cause :: codes) granted) :=
    congrArg g hw
  have hxw : x.limpWords.active = s.m.active ∧ x.limpWords.staged = s.m.staged ∧ x.limpWords.time = s.m.time ∧
      x.limpWords.now = s.m.now ∧ x.limpWords.stop = s.m.thm.stop ∧ x.limpWords.limp.causeHist = s.m.limp.causeHist ∧
      x.limpWords.limp.entryCnt = s.m.limp.entryCnt ∧ x.limpWords.pend = s.m.cmt.pend ∧ x.limpWords.governed = s.m.dev.governed :=
    have h {β : Type} (g : Mach → β) := Noted.field g hx.frame
    ⟨h Mach.active, h Mach.staged, h Mach.time, h Mach.now, h fun m => m.thm.stop, hx.hist, hx.count, hx.pend, hx.governed⟩
  obtain ⟨hactive, hstaged, htime, hnow, hstop, hhist, hcount, hpend, hgov⟩ := hxw
  refine ⟨hfield fun w => w.limp.cause, fun i hi => ?_, ?_, hfield LimpWords.takeArmed, hfield LimpWords.governed,
    hfield LimpWords.frz, hfield LimpWords.stop, fun hs => ?_,
    fun hg => ⟨?_, ?_, ?_, hev (hx.governed.trans hg), fun l hl hfree hthr hno => ?_⟩,
    ⟨Mach.cfg_of_active ((hfield LimpWords.active).trans hactive), (hfield LimpWords.staged).trans hstaged,
      (hfield LimpWords.time).trans htime, (hfield LimpWords.now).trans hnow⟩, hkeep⟩
  · have h : t.m.limp.causeHist = _ := hfield fun w => w.limp.causeHist
    rw [h, ← hhist]
    exact getLsbD_causeHist _ _ hi
  · exact (hfield fun w => w.limp.entryCnt).trans (congrArg inc16 hcount)
  · have h : t.m.thm.holds = (x.limpWords.stop || x.limpWords.holds) := hfield LimpWords.holds
    rw [h, hstop, hs, Bool.true_or]
  · have h : t.m.cmt.pend = if x.limpWords.governed && !granted then none else x.limpWords.pend := hfield LimpWords.pend
    rw [h, hgov, hg, hpend]
    cases granted <;> rfl
  · have h : t.m.limp.wdgRun = ((x.limpWords.limp.wdgRun && !x.limpWords.governed) && !x.limpWords.frz) := hfield fun w => w.limp.wdgRun
    rw [h, hgov, hg, Bool.not_true, Bool.and_false, Bool.false_and]
  · have h : t.m.limp.entryTime = if x.limpWords.governed then x.limpWords.time else x.limpWords.limp.entryTime :=
      hfield fun w => w.limp.entryTime
    rw [h, hgov, hg, htime]
    rfl
  · obtain ⟨hsteady, hidle⟩ := hmaps (hx.governed.trans hg) l (by rw [Noted.leaders hx.frame]; exact hl)
      (by rw [Noted.stopHeld hx.frame]; exact hfree) (by rw [Mach.ch_of_chans (Noted.chans hx.frame)]; exact hthr) hno
    rw [Noted.stAt hx.frame] at hsteady hidle
    exact ⟨hsteady, hidle⟩

end

/-! ## The watchdog (R34, R296 to R298, R354) -/

/-- A command that changes the machine to `m` apart from settling and reports. -/
theorem Reported.settlesTo {s : State} {f : Mach → Mach} {m : Mach} (hm : (f s.m).calm = m.calm) (he : evtKept s.m (f s.m))
    (hc : ∀ n, ((f s.m).ch n).sig.cap = (s.m.ch n).sig.cap) : settlesTo s (s.ctl f) m := by
  obtain ⟨h1, h2, h3, h4⟩ := State.ctl_settlesTo f s he (capsWithin_of_eq hc)
  exact ⟨h1.trans hm, h2, h3, h4⟩

/-- The limp-home words without the watchdog's run. -/
def Limp.stopped (x : Limp) : Limp := { x with wdgRun := false }

/-- The watchdog's end sets the port master's grant and its event where the page asks for it. -/
structure WdgEnded (m m' : Mach) : Prop where
  triggers : Triggers m m'
  run   : m'.limp.wdgRun = false
  same  : m'.limp.stopped = m.limp.stopped
  grant : bit (m.cfg 0x1109) 12 = true → m.dev.part.isX = true → m'.mst.wdgGrant = true ∧ (m'.evtWord 0x11).getLsbD 3 = true

section
variable {m m' : Mach} (h : WdgEnded m m')
include h

theorem WdgEnded.lh : m'.limp.lh = m.limp.lh := (congrArg Limp.lh h.same : m'.limp.stopped.lh = m.limp.stopped.lh)
theorem WdgEnded.lhAssert : m'.limp.lhAssert = m.limp.lhAssert :=
  (congrArg Limp.lhAssert h.same : m'.limp.stopped.lhAssert = m.limp.stopped.lhAssert)
theorem WdgEnded.wdgBad : m'.limp.wdgBad = m.limp.wdgBad :=
  (congrArg Limp.wdgBad h.same : m'.limp.stopped.wdgBad = m.limp.stopped.wdgBad)

end

theorem headerPage_master {p : Part} (h : p.isX = true) : headerPage p 0x11 = true := by
  cases p with
  | krp0848 | krp1648 | krp2448 => cases h
  | krp2448x => rfl

theorem Mach.wdgEnd_ended (m : Mach) : WdgEnded m m.wdgEnd := by
  have hstop (y : Mach) : Triggers y { y with limp := { y.limp with wdgRun := false } } := ⟨.hidden rfl rfl rfl, rfl, rfl, rfl, rfl⟩
  have hgrant (y : Mach) : Triggers y { y with mst := { y.mst with wdgGrant := true } } := ⟨.hidden rfl rfl rfl, rfl, rfl, rfl, rfl⟩
  have hevent (y : Mach) : Triggers y (y.event 0x11 0x0008) :=
    ⟨Reported.noted (Reported.event _ _ y), by rw [Mach.event_limp], by rw [Mach.event_limp], by rw [Mach.event_cmt],
      by rw [Mach.event_dev]⟩
  unfold Mach.wdgEnd
  dsimp only
  split
  · next h =>
    have hx := (Bool.and_eq_true_iff.mp h).2
    refine ⟨((hstop m).trans' (hgrant _)).trans' (hevent _), ?_, ?_, fun _ _ => ⟨?_, ?_⟩⟩
    · rw [Mach.event_limp]
    · rw [Mach.event_limp]; rfl
    · rw [Mach.event_mst]
    · exact Mach.event_latches (headerPage_master hx) (by decide)
  · next h => exact ⟨hstop m, rfl, rfl, fun hb hx => absurd (Bool.and_eq_true_iff.mpr ⟨hb, hx⟩) h⟩

theorem watchdogExpiry_holds (granted : Bool) (s : State) (hrun : s.m.limp.wdgRun = true) (hp : s.m.dev.phase = .running) :
    (s.m.clk.lfOk = true →
      ∃ t, exec (.watchdogExpiry granted) s = .next t ∧ t.m.limp.wdgRun = false ∧
        (bit (s.m.cfg 0x1109) 12 = true → s.m.dev.part.isX = true → t.m.mst.wdgGrant = true ∧ t.latched 0x11 3) ∧
        entersLimp [6] granted s t) ∧
    (s.m.clk.lfOk = false → ∃ t, exec (.watchdogExpiry granted) s = .next t ∧ settlesTo s t s.m) := by
  refine ⟨fun hlf => ?_, fun hlf => ?_⟩
  · obtain ⟨htr, hoff, -, hgrant⟩ := s.m.wdgEnd_ended
    let f : Mach → Mach := fun m => m.wdgEnd.limpTrigger [6] granted
    have hdue : s.m.wdgDue = true := by rw [Mach.wdgDue, hrun, hlf]; rfl
    have hex : exec (.watchdogExpiry granted) s = .next (s.ctl f) :=
      congrArg Host.Outcome.next (State.ctl_congr ((if_pos hdue).trans (if_pos hrun)))
    have hent := State.ctl_entersLimp (f := f) rfl htr hp
    have hleft := State.ctl_entered (f := f) rfl htr hp
    exact ⟨_, hex, hleft.wdgRun hoff, fun hb hx => ⟨hleft.grant.trans (hgrant hb hx).1, hleft.evt _ _ (hgrant hb hx).2⟩, hent⟩
  · have hdue : s.m.wdgDue = false := by rw [Mach.wdgDue, hlf, Bool.and_false]
    exact ⟨_, rfl, ctl_unchanged (if_neg (Bool.eq_false_iff.mp hdue))⟩

/-- A kick that is not valid is counted and reported (R297). -/
def Mach.badKick (m : Mach) : Mach := ({ m with limp := { m.limp with wdgBad := inc16 m.limp.wdgBad } }).event 0x0B 0x0004

theorem Mach.cmdKick_eq (key : Word) (m : Mach) : m.cmdKick key =
    if m.limp.wdgRun then
      if m.kickValid key then { m with limp := { m.limp with wdgNext := !m.limp.wdgNext, wdgAt := m.lf } }
      else if bit (m.badKick.cfg 0x0B08) 1 then m.badKick.wdgExpire false else m.badKick
    else m := rfl

theorem Mach.badKick_triggers (m : Mach) : Triggers m m.badKick := by
  have hcount : Triggers m { m with limp := { m.limp with wdgBad := inc16 m.limp.wdgBad } } :=
    ⟨.hidden rfl rfl rfl, rfl, rfl, rfl, rfl⟩
  have hevent (y : Mach) : Triggers y (y.event 0x0B 0x0004) :=
    ⟨Reported.noted (Reported.event _ _ y), by rw [Mach.event_limp], by rw [Mach.event_limp], by rw [Mach.event_cmt],
      by rw [Mach.event_dev]⟩
  exact hcount.trans' (hevent _)

theorem Mach.badKick_limp (m : Mach) : m.badKick.limp = { m.limp with wdgBad := inc16 m.limp.wdgBad } := Mach.event_limp _ _ _

theorem Mach.badKick_event (m : Mach) : (m.badKick.evtWord 0x0B).getLsbD 2 = true :=
  Mach.event_latches (headerPage_limp _) (by decide)

theorem watchdogKick_holds (key : Word) (s : State) (hrun : s.m.limp.wdgRun = true) :
    (s.m.kickValid key = true →
      ∃ t, exec (.watchdogKick key) s = .next t ∧
        settlesTo s t { s.m with limp := { s.m.limp with wdgNext := !s.m.limp.wdgNext, wdgAt := s.m.lf } }) ∧
    (s.m.kickValid key = false → bit (s.m.cfg 0x0B08) 1 = false →
      ∃ t, exec (.watchdogKick key) s = .next t ∧ t.latched 0x0B 2 ∧
        settlesTo s t { s.m with limp := { s.m.limp with wdgBad := inc16 s.m.limp.wdgBad } }) ∧
    (s.m.kickValid key = false → bit (s.m.cfg 0x0B08) 1 = true → s.m.dev.phase = .running →
      ∃ t, exec (.watchdogKick key) s = .next t ∧ t.latched 0x0B 2 ∧ t.m.limp.wdgBad = inc16 s.m.limp.wdgBad ∧
        entersLimp [6] false s t) := by
  have hkick : s.m.cmdKick key = _ := (Mach.cmdKick_eq key s.m).trans (if_pos hrun)
  have hcfg : s.m.badKick.cfg 0x0B08 = s.m.cfg 0x0B08 := Mach.cfg_of_active (Mach.event_active _ _ _) _
  have hbad := s.m.badKick_triggers
  rw [hcfg] at hkick
  refine ⟨fun hv => ?_, fun hv hfast => ?_, fun hv hfast hp => ?_⟩
  · have hm := hkick.trans (if_pos hv)
    refine ⟨_, rfl, Reported.settlesTo (congrArg Mach.calm hm) ?_ fun n => ?_⟩
    · rw [hm]; exact evtKept_of_evt rfl
    · rw [hm]; rfl
  · have hm := (hkick.trans (if_neg (Bool.eq_false_iff.mp hv))).trans (if_neg (Bool.eq_false_iff.mp hfast))
    have hset := (State.settle_rel (s.on (Mach.cmdKick key))).evt
    refine ⟨_, rfl, hset _ _ ?_, Reported.settlesTo ?_ ?_ fun n => ?_⟩
    · rw [State.on_m, hm]; exact s.m.badKick_event
    · rw [hm]; exact Mach.calm_event _ _ _
    · rw [hm]; exact hbad.frame.evt
    · rw [hm]; exact hbad.frame.caps n
  · have hm := (hkick.trans (if_neg (Bool.eq_false_iff.mp hv))).trans (if_pos hfast)
    have hend := s.m.badKick.wdgEnd_ended
    have htr := hend.triggers
    have hf : s.m.cmdKick key = s.m.badKick.wdgEnd.limpTrigger [6] false :=
      hm.trans (if_pos (by rw [Mach.badKick_limp]; exact hrun))
    have hleft := State.ctl_entered hf (hbad.trans' htr) hp
    have hcount : s.m.badKick.wdgEnd.limp.wdgBad = inc16 s.m.limp.wdgBad :=
      hend.wdgBad.trans (congrArg Limp.wdgBad s.m.badKick_limp)
    exact ⟨_, rfl, hleft.evt _ _ (htr.frame.evt _ _ s.m.badKick_event), hleft.wdgBad.trans hcount,
      State.ctl_entersLimp hf (hbad.trans' htr) hp⟩

theorem watchdog_holds : watchdog := by
  refine ⟨watchdogExpiry_holds, watchdogKick_holds, fun key s hrun => ?_⟩
  exact ⟨_, rfl, ctl_unchanged (if_neg (Bool.eq_false_iff.mp hrun))⟩

/-! ## The LH inputs (R285, R287, R298) -/

/-- The LH inputs that a mask names have been high for their debounce time. -/
def Mach.inputsHeld (mask : BitVec 8) (m : Mach) : Mach :=
  onlyIf (mask.getLsbD 5) (Mach.lhHeld 1) (onlyIf (mask.getLsbD 4) (Mach.lhHeld 0) m)

theorem roundTriggers_eq (mask : BitVec 8) (s : State) : s.m.roundTriggers mask =
    (onlyIf ((acting mask s).contains 6) Mach.wdgEnd (s.m.inputsHeld mask), acting mask s) := by
  have hcodes : (s.m.roundTriggers mask).2 = acting mask s := by
    simp [Mach.roundTriggers, acting, Mach.lhTriggers, Mach.wdgDue]
  rw [← hcodes]
  rfl

theorem Triggers.onlyIf {m m' : Mach} (h : Triggers m m') (b : Bool) {f : Mach → Mach} (hf : Triggers m' (f m')) :
    Triggers m (Machine.onlyIf b f m') := by
  cases b
  · exact h
  · exact h.trans' hf

theorem Triggers.lhHeld (i : Fin 2) (m : Mach) : Triggers m (m.lhHeld i) := ⟨.hidden rfl rfl rfl, rfl, rfl, rfl, rfl⟩

theorem Triggers.inputsHeld (mask : BitVec 8) (m : Mach) : Triggers m (m.inputsHeld mask) :=
  ((Triggers.rfl' m).onlyIf _ (Triggers.lhHeld 0 _)).onlyIf _ (Triggers.lhHeld 1 _)

/-- An input held shows high, and is asserted where it is enabled. -/
theorem Mach.lhHeld_at (i : Fin 2) (m : Mach) : (m.lhHeld i).limp.lh[i] = true ∧ (m.lhHeld i).limp.lhAssert[i] = m.lhEnabled i := by
  simp [Mach.lhHeld]

/-- The other input, held, leaves input 0 as it is. -/
theorem Mach.onlyHeld1_at (b : Bool) (m : Mach) : (onlyIf b (Mach.lhHeld 1) m).limp.lh[0] = m.limp.lh[0] ∧
    (onlyIf b (Mach.lhHeld 1) m).limp.lhAssert[0] = m.limp.lhAssert[0] := by
  cases b <;> simp [onlyIf, Mach.lhHeld]

/-- An input the mask names is held. -/
theorem Mach.inputsHeld_at {mask : BitVec 8} {i : Fin 2} (hi : mask.getLsbD (4 + i.val) = true) (m : Mach) :
    (m.inputsHeld mask).limp.lh[i] = true ∧ (m.inputsHeld mask).limp.lhAssert[i] = m.lhEnabled i := by
  unfold Mach.inputsHeld
  match i with
  | 0 =>
    have h4 : mask.getLsbD 4 = true := hi
    obtain ⟨hlh, has⟩ := Mach.onlyHeld1_at (mask.getLsbD 5) (m.lhHeld 0)
    rw [h4]
    exact ⟨hlh.trans (m.lhHeld_at 0).1, has.trans (m.lhHeld_at 0).2⟩
  | 1 =>
    have h5 : mask.getLsbD 5 = true := hi
    have hen : (onlyIf (mask.getLsbD 4) (Mach.lhHeld 0) m).lhEnabled 1 = m.lhEnabled 1 := by cases mask.getLsbD 4 <;> rfl
    rw [h5]
    exact ⟨(Mach.lhHeld_at 1 _).1, (Mach.lhHeld_at 1 _).2.trans hen⟩

/-- The watchdog's end leaves the inputs. -/
theorem Mach.onlyWdgEnd_inputs (b : Bool) (m : Mach) :
    (onlyIf b Mach.wdgEnd m).limp.lh = m.limp.lh ∧ (onlyIf b Mach.wdgEnd m).limp.lhAssert = m.limp.lhAssert := by
  cases b
  · exact ⟨rfl, rfl⟩
  · exact ⟨m.wdgEnd_ended.lh, m.wdgEnd_ended.lhAssert⟩

/-- An input that is not enabled, or asserted already, does not act alone. -/
theorem acting_alone (i : Fin 2) (s : State) (ha : s.m.lhEnabled i = false ∨ s.m.limp.lhAssert[i] = true) :
    acting (0 ||| BitVec.ofNat 8 (2 ^ (4 + i.val))) s = [] := by
  have h : ¬ (s.m.lhEnabled i = true ∧ s.m.limp.lhAssert[i] = false) := by
    rintro ⟨he, hn⟩
    rcases ha with ha | ha
    exacts [Bool.false_ne_true (ha.symm.trans he), Bool.false_ne_true (hn.symm.trans ha)]
  unfold acting
  match i, h with
  | 0, h =>
    rw [if_neg fun x => h x.2, if_neg fun x => absurd x.1 (by decide), if_neg fun x => absurd x.1 (by decide)]
    rfl
  | 1, h =>
    rw [if_neg fun x => absurd x.1 (by decide), if_neg fun x => h x.2, if_neg fun x => absurd x.1 (by decide)]
    rfl

section
variable (i : Fin 2) (granted : Bool) (s : State) (hv : s.m.pwr.vddOk = true)
include hv

theorem exec_lhAssert_held (also : BitVec 8) (hp : s.m.dev.phase = .running) : exec (.lhAssert i true also granted) s =
    .next (s.ctl fun m => (m.roundTriggers (also ||| BitVec.ofNat 8 (2 ^ (4 + i.val)))).1.limpTrigger
      (m.roundTriggers (also ||| BitVec.ofNat 8 (2 ^ (4 + i.val)))).2 granted) :=
  congrArg Host.Outcome.next (State.ctl_congr ((if_neg (by simp [hv, hp])).trans (if_neg (by simp [hp]))))

theorem lhAssert_triggers (also : BitVec 8) (hp : s.m.dev.phase = .running)
    (ha : acting (also ||| BitVec.ofNat 8 (2 ^ (4 + i.val))) s ≠ []) :
    ∃ t, exec (.lhAssert i true also granted) s = .next t ∧ t.m.limp.lh[i] = true ∧
      t.m.limp.lhAssert[i] = s.m.lhEnabled i ∧
      entersLimp (acting (also ||| BitVec.ofNat 8 (2 ^ (4 + i.val))) s) granted s t := by
  rw [exec_lhAssert_held i granted s hv also hp]
  have hi : (also ||| BitVec.ofNat 8 (2 ^ (4 + i.val))).getLsbD (4 + i.val) = true := by
    have hlt : 4 + i.val < 8 := by omega
    rw [BitVec.getLsbD_or, BitVec.getLsbD_ofNat, Nat.testBit_two_pow_self, decide_eq_true hlt, Bool.and_true, Bool.or_true]
  generalize also ||| BitVec.ofNat 8 (2 ^ (4 + i.val)) = mask at ha hi ⊢
  have hround := roundTriggers_eq mask s
  obtain ⟨cause, codes, hcodes⟩ := List.exists_cons_of_ne_nil ha
  have htr : Triggers s.m (s.m.roundTriggers mask).1 := by
    rw [hround]
    exact (Triggers.inputsHeld mask s.m).onlyIf _ (Mach.wdgEnd_ended _).triggers
  obtain ⟨hlh, has⟩ := Mach.onlyWdgEnd_inputs ((acting mask s).contains 6) (s.m.inputsHeld mask)
  obtain ⟨hilh, hias⟩ := Mach.inputsHeld_at hi s.m
  let f : Mach → Mach := fun m => (m.roundTriggers mask).1.limpTrigger (m.roundTriggers mask).2 granted
  have hf : f s.m = (s.m.roundTriggers mask).1.limpTrigger (cause :: codes) granted := by
    unfold f
    rw [hround, hcodes]
  have hleft := State.ctl_entered hf htr hp
  refine ⟨_, rfl, ?_, ?_, ?_⟩
  · rw [show (s.ctl f).m.limp.lh = _ from hleft.lh, hround, hlh]; exact hilh
  · rw [show (s.ctl f).m.limp.lhAssert = _ from hleft.lhAssert, hround, has]; exact hias
  · rw [hcodes]; exact State.ctl_entersLimp hf htr hp

/-- An input that is not enabled, or asserted already, brings nothing. -/
theorem lhAssert_shows (hp : s.m.dev.phase = .running) (ha : s.m.lhEnabled i = false ∨ s.m.limp.lhAssert[i] = true) :
    ∃ t, exec (.lhAssert i true 0 granted) s = .next t ∧
      settlesTo s t { s.m with limp := { s.m.limp with lh := s.m.limp.lh.set i true,
                                                       lhAssert := s.m.limp.lhAssert.set i (s.m.lhEnabled i) } } := by
  rw [exec_lhAssert_held i granted s hv 0 hp]
  have hround : s.m.roundTriggers (0 ||| BitVec.ofNat 8 (2 ^ (4 + i.val))) = (s.m.lhHeld i, []) := by
    rw [roundTriggers_eq, acting_alone i s ha]
    match i with
    | 0 => rfl
    | 1 => rfl
  exact ⟨_, rfl, Reported.settlesTo (by rw [hround]; rfl) (by rw [hround]; exact evtKept_of_evt rfl) fun n => by rw [hround]; rfl⟩

theorem lhAssert_early (also : BitVec 8) (hp : s.m.dev.phase ≠ .powerOff) :
    ∃ t, exec (.lhAssert i false also granted) s = .next t ∧
      settlesTo s t { s.m with limp := { s.m.limp with lh := s.m.limp.lh.set i true } } := by
  have hex : exec (.lhAssert i false also granted) s =
      .next (s.ctl fun m => { m with limp := { m.limp with lh := m.limp.lh.set i true } }) :=
    congrArg Host.Outcome.next (State.ctl_congr ((if_neg (by simp [hv, hp])).trans (if_pos rfl)))
  exact ⟨_, hex, Reported.settlesTo rfl (evtKept_of_evt rfl) fun _ => rfl⟩

theorem lhRelease_shows (hp : s.m.dev.phase ≠ .powerOff) :
    ∃ t, exec (.lhRelease i) s = .next t ∧
      settlesTo s t { s.m with limp := { s.m.limp with lh := s.m.limp.lh.set i false,
                                                       lhAssert := s.m.limp.lhAssert.set i false } } := by
  have hex : exec (.lhRelease i) s = .next (s.ctl fun m =>
      { m with limp := { m.limp with lh := m.limp.lh.set i false, lhAssert := m.limp.lhAssert.set i false } }) :=
    congrArg Host.Outcome.next (State.ctl_congr (if_neg (by simp [hv, hp])))
  exact ⟨_, hex, Reported.settlesTo rfl (evtKept_of_evt rfl) fun _ => rfl⟩

end

theorem lhInputs_hold : lhInputs :=
  ⟨fun i also granted s hv hp => ⟨lhAssert_triggers i granted s hv also hp, lhAssert_shows i granted s hv hp⟩,
    fun i also granted s hv hp => ⟨lhAssert_early i granted s hv also hp, lhRelease_shows i s hv hp⟩⟩

end Sys2Proof.Machine

section
open Sys2Proof.Machine

/-- Settles O41: the words of the triggers, the passage from governed mode, the pass of `toLimpMap` over the leaders, each a
frame of its own; the inputs and the watchdog bring no more than their words to it. -/
theorem limpHomeTriggers : Obligations.LimpHomeTriggers := ⟨lhInputs_hold, watchdog_holds⟩

end

end

-- Proofs of the statements of 02_registers_and_commits.md: forms, commits, frames, ring commands.
section
/-! SUPPORT and PROOF of O5 and O6: the forms of the SRAM and of the non-volatile store at reset, and what every command
keeps of them. -/

namespace Sys2Proof.Machine
open Claim

/-! ## Operands the hardware cannot produce -/

theorem guardWf_illFormed {c : Instr} (o : Out) (h : c.WellFormed = false) : guardWf c o = .refused .illFormed :=
  if_neg (by rw [h]; decide)

/-- Only commands that guard their operands have ill-formed ones, and those are refused. -/
theorem exec_illFormed (c : Instr) (s : State) (h : c.WellFormed = false) : exec c s = .refused .illFormed := by
  cases c with
  | startupComplete | protEstimateUpdate | converterSample | clrE | powerFeedDelivery | thallusUpdate | longOpEnd | read
  | readFast | readDual | readDualIo | readQuad | readQuadIo | beaconReceive | pinnaReceive => exact guardWf_illFormed _ h
  | _ => exact absurd (h : true = false) nofun

/-- A command that is next has operands the hardware can produce. -/
theorem wellFormed_of_next {c : Instr} {s t : State} (h : exec c s = .next t) : c.WellFormed = true := by
  by_contra hw
  rw [exec_illFormed c s (Bool.not_eq_true _ ▸ hw)] at h
  cases h

/-! ## What every command keeps -/

/-- Every command but those that change the store completes, with the queue, the store and the form of the SRAM kept. -/
theorem exec_tame (c : Instr) (s : State) (h : storeCommand c = false) (hw : c.WellFormed = true) :
    ∃ t, exec c s = .next t ∧ Tame s t := by
  cases c with
  | porRelease => exact execPorRelease_tame s
  | startupComplete diode ntc => exact execStartupComplete_tame diode ntc s hw
  | vddReturn => exact execVddReturn_tame s
  | vbbUndervoltage also => exact execVbbUndervoltage_tame also s
  | undervoltageRestart => exact execUndervoltageRestart_tame s
  | vbbLow below => exact execVbbLow_tame below s
  | vbbOvervoltage above => exact execVbbOvervoltage_tame above s
  | vcpReady => exact execVcpReady_tame s
  | refclkPresent external => exact execRefclkPresent_tame external s
  | tbRestart => exact execTbRestart_tame s
  | limpResume => exact execLimpResume_tame s
  | lfoscLoss => exact execLfoscLoss_tame s
  | lfoscReturn => exact execLfoscReturn_tame s
  | gateDriveFault f also => exact execGateDriveFault_tame f also s
  | edgeEnd ch => exact execEdgeEnd_tame ch s
  | clampStart ch => exact execClampStart_tame ch s
  | clampEnd ch => exact execClampEnd_tame ch s
  | reverseCurrent ch above filtered also => exact execReverseCurrent_tame ch above filtered also s
  | backstopTrip ch also => exact execBackstopTrip_tame ch also s
  | fastTrip ch also => exact execFastTrip_tame ch also s
  | clRegStart ch => exact execClRegStart_tame ch s
  | clRegEnd ch => exact execClRegEnd_tame ch s
  | clTimeout ch also => exact execClTimeout_tame ch also s
  | protEstimateUpdate dtNs est msq vds => exact execProtEstimateUpdate_tame dtNs est msq vds s hw
  | openLoadOn ch below => exact execOpenLoadOn_tame ch below s
  | svbbCheckWindow ch p => exact execSvbbCheckWindow_tame ch p s
  | openLoadOff ch above => exact execOpenLoadOff_tame ch above s
  | svbbPwmOff ch also => exact execSvbbPwmOff_tame ch also s
  | tripInputAssert j high filtered => exact execTripInputAssert_tame j high filtered s
  | cycleLimitAssert ch above => exact execCycleLimitAssert_tame ch above s
  | blankingEnd o => exact execBlankingEnd_tame o s
  | faultClear ch => exact execFaultClear_tame ch s
  | historyClear ch => exact execHistoryClear_tame ch s
  | faultHistoryClear ch => exact execFaultHistoryClear_tame ch s
  | protClrCnt ch => exact execProtClrCnt_tame ch s
  | clrClamp ch => exact execClrClamp_tame ch s
  | inrushPhaseEnd ch => exact execInrushPhaseEnd_tame ch s
  | inrushCurrentEnd ch => exact execInrushCurrentEnd_tame ch s
  | inrushVoltageEnd ch gap => exact execInrushVoltageEnd_tame ch gap s
  | chopPeriod ch opens => exact execChopPeriod_tame ch opens s
  | heaterQueueRelease => exact execHeaterQueueRelease_tame s
  | retryDue ch => exact execRetryDue_tame ch s
  | bucketRefill ch => exact execBucketRefill_tame ch s
  | goodRun ch => exact execGoodRun_tame ch s
  | retryCountClear ch => exact execRetryCountClear_tame ch s
  | bucketFill ch => exact execBucketFill_tame ch s
  | retryCountClearFill ch => exact execRetryCountClearFill_tame ch s
  | converterSample x => exact execConverterSample_tame x s hw
  | powerFeedDelivery prods => exact execPowerFeedDelivery_tame prods s hw
  | clrPeak ch => exact execClrPeak_tame ch s
  | clrE ch also => exact execClrE_tame ch also s hw
  | clrSig ch => exact execClrSig_tame ch s
  | sigCaptureComplete ch => exact execSigCaptureComplete_tame ch s
  | tbZero k => exact execTbZero_tame k s
  | tbHalfPeriod k => exact execTbHalfPeriod_tame k s
  | tbPeriodEvent k => exact execTbPeriodEvent_tame k s
  | compareEdge o => exact execCompareEdge_tame o s
  | tbStop k => exact execTbStop_tame k s
  | ulockTimeout k => exact execUlockTimeout_tame k s
  | dlMeasure elem16 => exact execDlMeasure_tame elem16 s
  | tachEdge j rising => exact execTachEdge_tame j rising s
  | tachArmed j => exact execTachArmed_tame j s
  | tachLoss j => exact execTachLoss_tame j s
  | aswpClear pair => exact execAswpClear_tame pair s
  | ilvRebalance => exact execIlvRebalance_tame s
  | thallusUpdate dtNs diode ntc => exact execThallusUpdate_tame dtNs diode ntc s hw
  | orderlyClassStart => exact execOrderlyClassStart_tame s
  | stepRelease b => exact execStepRelease_tame b s
  | deviceStepUp => exact execDeviceStepUp_tame s
  | deviceStepDown => exact execDeviceStepDown_tame s
  | ownLimitRelease ch => exact execOwnLimitRelease_tame ch s
  | modelDiverge x => exact execModelDiverge_tame x s
  | divergeEnd x => exact execDivergeEnd_tame x s
  | sensorOk x => exact execSensorOk_tame x s
  | analogThermalTrip b => exact execAnalogThermalTrip_tame b s
  | analogThermalRelease b => exact execAnalogThermalRelease_tame b s
  | thermalStopExit => exact execThermalStopExit_tame s
  | resync b => exact execResync_tame b s
  | resyncBp => exact execResyncBp_tame s
  | clrLog => exact execClrLog_tame s
  | thClear ch => exact execThClear_tame ch s
  | lhAssert j held also granted => exact execLhAssert_tame j held also granted s
  | watchdogExpiry granted => exact execWatchdogExpiry_tame granted s
  | watchdogKick key => exact execWatchdogKick_tame key s
  | limpPeriod ch cycle => exact execLimpPeriod_tame ch cycle s
  | limpClrHist => exact execLimpClrHist_tame s
  | freeze => exact execFreeze_tame s
  | release => exact execRelease_tame s
  | freezeTimeout => exact execFreezeTimeout_tame s
  | commitRequest tag => exact execCommitRequest_tame tag s
  | commitApply => exact execCommitApply_tame s
  | abort => exact execAbort_tame s
  | discard => exact execDiscard_tame s
  | takeControlArm => exact execTakeControlArm_tame s
  | takeControlDisarm => exact execTakeControlDisarm_tame s
  | tset => exact execTset_tame s
  | clrLost => exact execClrLost_tame s
  | clkClrCnt => exact execClkClrCnt_tame s
  | pwrClr => exact execPwrClr_tame s
  | hspClrCnt => exact execHspClrCnt_tame s
  | registerWrite addr data => exact execRegisterWrite_tame addr data s
  | rwMultiwordWrite addr data => exact execRwMultiwordWrite_tame addr data s
  | pgEvtClear page bits same => exact execPgEvtClear_tame page bits same s
  | pgEvtenWrite page bits => exact execPgEvtenWrite_tame page bits s
  | read f => exact execRead_tame f s hw
  | readFast f => exact execReadFast_tame f s hw
  | readDual f => exact execReadDual_tame f s hw
  | readDualIo f => exact execReadDualIo_tame f s hw
  | readQuad f => exact execReadQuad_tame f s hw
  | readQuadIo f => exact execReadQuadIo_tame f s hw
  | write f => exact execWrite_tame f s
  | writeDual f => exact execWriteDual_tame f s
  | writeQuad f => exact execWriteQuad_tame f s
  | status words stage => exact execStatus_tame words stage s
  | id words stage => exact execId_tame words stage s
  | doorbell f w => exact execDoorbell_tame f w s
  | resetEn f => exact execResetEn_tame f s
  | nopReadback x => exact execNopReadback_tame x s
  | chainWrite x => exact execChainWrite_tame x s
  | chainRead x => exact execChainRead_tame x s
  | chainEnumerate x => exact execChainEnumerate_tame x s
  | ringDbWrite w => exact execRingDbWrite_tame w s
  | ringEnable w => exact execRingEnable_tame w s
  | ringClearDone r => exact execRingClearDone_tame r s
  | ringClrLost => exact execRingClrLost_tame s
  | descriptorFetch r => exact execDescriptorFetch_tame r s
  | ringWrite tag => exact execRingWrite_tame tag s
  | ringCommit tag => exact execRingCommit_tame tag s
  | suspend tag => exact execSuspend_tame tag s
  | resume tag => exact execResume_tame tag s
  | opStatus tag => exact execOpStatus_tame tag s
  | otpProgram tag => exact execOtpProgram_tame tag s
  | otpVerify tag => exact execOtpVerify_tame tag s
  | jnlCompact tag => exact execJnlCompact_tame tag s
  | dlRecal tag => exact execDlRecal_tame tag s
  | thmSweep tag => exact execThmSweep_tame tag s
  | sigLearn tag => exact execSigLearn_tame tag s
  | measSnap tag => exact execMeasSnap_tame tag s
  | slJoin tag => exact execSlJoin_tame tag s
  | slSend tag => exact execSlSend_tame tag s
  | mstXfer tag => exact execMstXfer_tame tag s
  | chainEnum tag => exact execChainEnum_tame tag s
  | longOpStart k => exact execLongOpStart_tame k s
  | longOpEnd k e => exact execLongOpEnd_tame k e s hw
  | cqPost => exact execCqPost_tame s
  | eqPost => exact execEqPost_tame s
  | mstTransactionStart => exact execMstTransactionStart_tame s
  | mstTransactionEnd status words crcOk => exact execMstTransactionEnd_tame status words crcOk s
  | mstChainReadback status addr data crcOk => exact execMstChainReadback_tame status addr data crcOk s
  | masterCollision cmdDone status clocked => exact execMasterCollision_tame cmdDone status clocked s
  | watchdogGrantEnd => exact execWatchdogGrantEnd_tame s
  | mstGrant => exact execMstGrant_tame s
  | mstRevoke => exact execMstRevoke_tame s
  | mstClearHalt => exact execMstClearHalt_tame s
  | zcEdge => exact execZcEdge_tame s
  | zcAcquireTimeout => exact execZcAcquireTimeout_tame s
  | zcHoldover => exact execZcHoldover_tame s
  | zcUnlock => exact execZcUnlock_tame s
  | zcClrCnt => exact execZcClrCnt_tame s
  | freezePoint => exact execFreezePoint_tame s
  | beaconTransmit => exact execBeaconTransmit_tame s
  | pinnaTransmit => exact execPinnaTransmit_tame s
  | beaconReceive f => exact execBeaconReceive_tame f s hw
  | pinnaReceive j bytes erased => exact execPinnaReceive_tame j bytes erased s hw
  | beaconLost => exact execBeaconLost_tame s
  | standbyTakeover => exact execStandbyTakeover_tame s
  | joinListenEnd => exact execJoinListenEnd_tame s
  | joinTimeout => exact execJoinTimeout_tame s
  | publish => exact execPublish_tame s
  | leave => exact execLeave_tame s
  | handover => exact execHandover_tame s
  | siteClrCnt => exact execSiteClrCnt_tame s
  | shedEvaluation restoring => exact execShedEvaluation_tame restoring s
  | budgetFeedStale => exact execBudgetFeedStale_tame s
  | clrDrift => exact execClrDrift_tame s
  | jnlScan => exact execJnlScan_tame s
  | energySnapshot => exact execEnergySnapshot_tame s
  | snap => exact execSnap_tame s
  | jnlRelease => exact execJnlRelease_tame s
  | jnlClrCnt => exact execJnlClrCnt_tame s
  | unlock => exact execUnlock_tame s
  | unlockCompare => exact execUnlockCompare_tame s
  | lock => exact execLock_tame s
  | attest => exact execAttest_tame s
  | attestDone => exact execAttestDone_tame s
  | backoffEnd => exact execBackoffEnd_tame s
  | rstnRelease => exact execRstnRelease_tame s
  | senseSequencerDone io3 => exact execSenseSequencerDone_tame io3 s
  | lhRelease j => exact execLhRelease_tame j s
  | vbbUndervoltageRising => exact execVbbUndervoltageRising_tame s
  | tachSlow j => exact execTachSlow_tame j s
  | programmingWindowMet => exact execProgrammingWindowMet_tame s
  | _ => exact absurd (h : true = false) nofun

/-- What a command keeps of the queue and of the forms. -/
structure FormsKept (s t : State) : Prop where
  pending : t.pending = s.pending
  sram    : Memory.wf s.sram → Memory.wf t.sram
  store   : s.nv.wf → t.nv.wf

theorem Held.formsKept {s t : State} (h : Held s t) : FormsKept s t := ⟨h.pending, h.wf, h.store⟩

theorem execOtpRefresh_formsKept (flip0 flip1 flip2 : BitVec 72) (s : State) :
    ∃ t, execOtpRefresh flip0 flip1 flip2 s = .next t ∧ FormsKept s t := by
  obtain ⟨t, ht, hpend, hsram, hnv, -⟩ := execOtpRefresh_keeps flip0 flip1 flip2 s
  exact ⟨t, ht, hpend, fun h => hsram ▸ h, hnv⟩

/-- The commands that change the store keep the queue and both forms. -/
theorem exec_store_formsKept (c : Instr) (s : State) (h : storeCommand c = true) : ∃ t, exec c s = .next t ∧ FormsKept s t := by
  have of_held {o : Out} : (∃ t, o = .next t ∧ Held s t) → ∃ t, o = .next t ∧ FormsKept s t :=
    Exists.imp fun _ ht => ⟨ht.1, ht.2.formsKept⟩
  cases c with
  | rstnReset => exact of_held (execRstnReset_held s)
  | vddLoss also granted => exact of_held (execVddLoss_held also granted s)
  | refclkLoss => exact of_held (execRefclkLoss_held s)
  | reset f => exact of_held (execReset_held f s)
  | cancel tag => exact of_held (execCancel_held tag s)
  | otpBitProgram set => exact of_held (execOtpBitProgram_held set s)
  | otpWindowViolation c => exact of_held (execOtpWindowViolation_held c s)
  | otpRefresh flip0 flip1 flip2 => exact execOtpRefresh_formsKept flip0 flip1 flip2 s
  | jnlRecordWrite => exact of_held (execJnlRecordWrite_held s)
  | jnlCopyDone verified => exact of_held (execJnlCopyDone_held verified s)
  | corePor => exact of_held (execCorePor_held s)
  | vppPresence mv => exact of_held (execVppPresence_held mv s)
  | _ => exact absurd (h : false = true) nofun

/-- A command with operands the hardware can produce completes, and keeps the queue and both forms. -/
theorem exec_formsKept (c : Instr) (s : State) (hw : c.WellFormed = true) : ∃ t, exec c s = .next t ∧ FormsKept s t := by
  cases h : storeCommand c with
  | false => exact (exec_tame c s h hw).imp fun _ ht => ⟨ht.1, ht.2.held.formsKept⟩
  | true => exact exec_store_formsKept c s h

/-- Every step keeps both forms: an idle step lets time pass alone, any other is its command's. -/
theorem step_keeps_forms {s t : State} (h : step s = .next t) :
    (Memory.wf s.sram → Memory.wf t.sram) ∧ (s.nv.wf → t.nv.wf) := by
  unfold step at h
  split at h
  · cases h
    exact ⟨id, id⟩
  · next c rest _ =>
    obtain ⟨u, hu, hk⟩ := exec_formsKept c { s with pending := rest } (wellFormed_of_next h)
    obtain rfl : u = t := Host.Outcome.next.inj (hu.symm.trans h)
    exact ⟨hk.sram, hk.store⟩

end Sys2Proof.Machine

open Sys2Proof.Machine

/-- Settles O5: at reset no SRAM byte is listed, and of the store one lifecycle word over sealed factory regions. -/
theorem formsHoldAtReset : Obligations.FormsHoldAtReset := by
  unfold Obligations.FormsHoldAtReset
  decide

/-- Settles O6: an idle step leaves the SRAM as it is, and every command keeps its form. -/
theorem sramFormKeptByEveryStep : Obligations.SramFormKeptByEveryStep := fun _ _ hwf h => (step_keeps_forms h).1 hwf

end

section
/-! SUPPORT and PROOF of O42 and O44: how a commit ends without being applied, the checks of a request, and the commands of
the commit engine. -/

namespace Sys2Proof.Machine
open Claim

/-! ## The report of a commit that ends (R67, R340) -/

/-- The words of the LR group (R67). -/
def Mach.withLr (seq tag reason : Word) (mask : BitVec 24) (m : Mach) : Mach :=
  { m with cmt := { m.cmt with lrSeq := seq, lrTag := tag, lrReason := reason, lrChmask := mask } }

theorem evtKept_eventOwn (p : Nat) (w : Word) (e : EqEv) (m : Mach) : evtKept m (m.eventOwn p w e) :=
  (Reported.eventOwn p w e m).evt

theorem Mach.eventOwn_latches {i : Nat} {w : Word} (p : Nat) (e : EqEv) (m : Mach) (hi : w.getLsbD i = true) :
    ((m.eventOwn p w e).evtWord p).getLsbD i = true := by
  have hb : ((m.latchEvt p w).evtWord p).getLsbD i = true := by
    rw [Mach.evtWord_latchEvt, if_pos rfl, BitVec.getLsbD_or, hi, Bool.or_true]
  unfold Mach.eventOwn
  dsimp only
  split
  · exact evtKept_collect _ _ _ _ hb
  · exact hb

theorem Mach.endCommitTag_of_executing {t : Tag} {i : Infl} {m : Mach} (h : m.executing t 0x03 = some i) (status : Nat)
    (seq reason : Word) : m.endCommitTag (some t) status seq reason = m.complete i status seq reason := by
  unfold Mach.endCommitTag
  dsimp only
  rw [h]

/-- The end of a COMMIT command forms its completion at most. -/
theorem Mach.endCommitTag_eq (t : Option Tag) (status : Nat) (seq reason : Word) (m : Mach) :
    ∃ l, m.endCommitTag t status seq reason = { m with rings := { m.rings with compl := l } } := by
  unfold Mach.endCommitTag
  split
  · split
    · exact ⟨_, rfl⟩
    · exact ⟨_, rfl⟩
  · exact ⟨_, rfl⟩

theorem Mach.quiet_endCommitTag {m m' : Mach} (h : m.quiet = m'.quiet) (t : Option Tag) (status : Nat) (seq reason : Word) :
    (m.endCommitTag t status seq reason).quiet = (m'.endCommitTag t status seq reason).quiet := by
  have hq (x : Mach) : (x.endCommitTag t status seq reason).quiet = (x.quiet.endCommitTag t status seq reason).quiet := by
    unfold Mach.endCommitTag
    cases t with
    | none => rfl
    | some t =>
      have hx : x.quiet.executing t 0x03 = x.executing t 0x03 := rfl
      dsimp only
      rw [hx]
      cases x.executing t 0x03 <;> rfl
  rw [hq m, hq m', h]

/-- Beside events, a refusal writes the LR group and completes the COMMIT command of its tag. -/
theorem Mach.quiet_recordLr (bits seq tag reason : Word) (mask : BitVec 24) (t : Option Tag) (m : Mach) :
    (m.recordLr bits seq tag reason mask t).quiet =
      ((m.withLr seq tag reason mask).endCommitTag t stRefused seq reason).quiet :=
  Mach.quiet_endCommitTag (Mach.quiet_eventOwn _ _ _ (m.withLr seq tag reason mask)) t stRefused seq reason

theorem SigStep.of_quiet {m m' : Mach} (h : m'.quiet = m.quiet) (he : evtKept m m') : SigStep m m' := by
  let G (x : Mach) : Mach :=
    { x with chans := vmap x.chans fun _ c => { c with sig := .reset, flt := .reset }, ops := [], opLast := [], rings := .reset }
  exact ⟨(congrArg G h : G m'.quiet = G m.quiet), he⟩

theorem SigStep.endCommitTag (t : Option Tag) (status : Nat) (seq reason : Word) (m : Mach) :
    SigStep m (m.endCommitTag t status seq reason) := by
  obtain ⟨l, hl⟩ := m.endCommitTag_eq t status seq reason
  rw [hl]
  exact SigStep.ops rfl rfl

theorem SigStep.recordLr (bits seq tag reason : Word) (mask : BitVec 24) (t : Option Tag) (m : Mach) :
    SigStep (m.withLr seq tag reason mask) (m.recordLr bits seq tag reason mask t) :=
  (SigStep.of_quiet (Mach.quiet_eventOwn _ _ _ _) (evtKept_eventOwn _ _ _ _)).trans' (SigStep.endCommitTag _ _ _ _ _)

theorem Mach.recordLr_latches {bits : Word} {i : Nat} (hi : bits.getLsbD i = true) (seq tag reason : Word) (mask : BitVec 24)
    (t : Option Tag) (m : Mach) : ((m.recordLr bits seq tag reason mask t).evtWord 0x05).getLsbD i = true :=
  (SigStep.endCommitTag t stRefused seq reason _).evt _ _ (Mach.eventOwn_latches _ _ _ hi)

/-! ## What neither a report nor settling changes -/

/-- `m'` is as `m` in the configuration, the staging, the time, the modes, the commit engine, and every gate and state. -/
structure Unmoved (m m' : Mach) : Prop where
  active : m'.active = m.active
  staged : m'.staged = m.staged
  time   : m'.time = m.time
  now    : m'.now = m.now
  dev    : m'.dev = m.dev
  cmt    : m'.cmt = m.cmt
  stage  : Keeps Chan.stage m m'
  st     : ∀ n, m'.st n = m.st n

theorem SigStep.unmoved {m m' : Mach} (h : SigStep m m') : Unmoved m m' where
  active := SigStep.field h Mach.active
  staged := SigStep.field h Mach.staged
  time := SigStep.field h Mach.time
  now := SigStep.field h Mach.now
  dev := SigStep.field h Mach.dev
  cmt := SigStep.field h Mach.cmt
  stage := SigStep.keeps h Chan.stage
  st n := by
    have hst : Keeps Chan.st m m' := SigStep.keeps h Chan.st
    have hotp : m'.otp = m.otp := SigStep.field h Mach.otp
    have hpart : m'.dev.part = m.dev.part := SigStep.field h fun x => x.dev.part
    unfold Mach.st
    rw [Mach.leader_of hotp hpart, hst]

theorem Unmoved.trans' {a b c : Mach} (h : Unmoved a b) (k : Unmoved b c) : Unmoved a c where
  active := k.active.trans h.active
  staged := k.staged.trans h.staged
  time := k.time.trans h.time
  now := k.now.trans h.now
  dev := k.dev.trans h.dev
  cmt := k.cmt.trans h.cmt
  stage := h.stage.trans' k.stage
  st n := (k.st n).trans (h.st n)

theorem Unmoved.settle (s : State) : Unmoved s.m s.settle.m := by
  have h := (State.settle_rel s).calm
  exact ⟨calm_active h, calm_staged h, calm_time h, calm_now h, calm_dev h, calm_cmt h, .of_calm h, calm_st h⟩

/-- A step of reports that follows a change `m` of the commit engine alone, as it shows through settling. -/
theorem Unmoved.ctl {f : Mach → Mach} {s : State} {c : Cmt} (h : SigStep { s.m with cmt := c } (f s.m)) :
    (s.ctl f).m.cmt = c ∧ sameConfig s (s.ctl f) ∧ (s.ctl f).m.dev = s.m.dev ∧
      (∀ n, ((s.ctl f).m.ch n).stage = (s.m.ch n).stage ∧ (s.ctl f).m.st n = s.m.st n) ∧ sameStore s (s.ctl f) := by
  have hu : Unmoved { s.m with cmt := c } (s.ctl f).m := (SigStep.unmoved h).trans' (Unmoved.settle (s.on f))
  exact ⟨hu.cmt, ⟨fun _ => Mach.cfg_of_active hu.active _, hu.staged, hu.time, hu.now⟩, hu.dev,
    fun n => ⟨hu.stage n, hu.st n⟩, (State.settle_rel (s.on f)).keep⟩

theorem State.ctl_latches {f : Mach → Mach} {s : State} {p i : Nat} (h : ((f s.m).evtWord p).getLsbD i = true) :
    (s.ctl f).latched p i := (State.settle_rel (s.on f)).evt _ _ h

/-! ## A pending commit is dropped (R64, R67) -/

/-- The machine without its pending commit. -/
def Mach.noPending (m : Mach) : Mach := { m with cmt := { m.cmt with pend := none } }

/-- The commit engine after a pending commit was dropped. -/
def Cmt.dropped (p : Pending) (reason : Word) (c : Cmt) : Cmt :=
  { c with pend := none, lrSeq := p.seq, lrTag := p.tag, lrReason := reason, lrChmask := 0 }

theorem Mach.dropPending_eq {p : Pending} {m : Mach} (reason : Word) (h : m.cmt.pend = some p) : m.dropPending reason =
    m.noPending.recordLr (if reason = 0x03 then 0x0002 else 0x0004) p.seq p.tag
      reason 0 p.ringTag := by
  unfold Mach.dropPending
  rw [h]
  rfl

theorem Mach.dropPending_none {m : Mach} (reason : Word) (h : m.cmt.pend = none) : m.dropPending reason = m := by
  unfold Mach.dropPending
  rw [h]

theorem SigStep.dropPending {p : Pending} {m : Mach} (reason : Word) (h : m.cmt.pend = some p) :
    SigStep { m with cmt := m.cmt.dropped p reason } (m.dropPending reason) := by
  rw [Mach.dropPending_eq reason h]
  exact SigStep.recordLr _ p.seq p.tag reason 0 p.ringTag m.noPending

theorem Mach.dropPending_latches {p : Pending} {m : Mach} (reason : Word) (h : m.cmt.pend = some p) :
    ((m.dropPending reason).evtWord 0x05).getLsbD (if reason = 0x03 then 1 else 2) = true := by
  rw [Mach.dropPending_eq reason h]
  split
  · exact Mach.recordLr_latches (by decide) _ _ _ _ _ _
  · exact Mach.recordLr_latches (by decide) _ _ _ _ _ _

/-! ## ABORT and TAKE_CONTROL (R64, R69) -/

theorem exec_abort (s : State) : exec .abort s = .next (s.ctl Mach.cmdAbort) := rfl

theorem abort_cancels (s : State) (p : Pending) (hp : s.m.cmt.pend = some p) :
    ∃ t, exec .abort s = .next t ∧ t.m.cmt.pend = none ∧ t.m.cmt.lrReason = 0x0E ∧ t.m.cmt.lrSeq = p.seq ∧
      t.m.cmt.lrTag = p.tag ∧ t.latched 0x05 2 ∧ sameConfig s t ∧ t.m.dev = s.m.dev ∧
      (∀ n, (t.m.ch n).stage = (s.m.ch n).stage ∧ t.m.st n = s.m.st n) ∧ sameStore s t := by
  obtain ⟨hcmt, hcfg, hdev, hst, hstore⟩ := Unmoved.ctl (f := Mach.cmdAbort) (SigStep.dropPending 0x0E hp)
  refine ⟨_, exec_abort s, ?_, ?_, ?_, ?_, State.ctl_latches (Mach.dropPending_latches 0x0E hp), hcfg, hdev, hst, hstore⟩
  all_goals rw [hcmt]; rfl

theorem abort_idle (s : State) (hp : s.m.cmt.pend = none) : ∃ t, exec .abort s = .next t ∧ settlesTo s t s.m :=
  ⟨_, exec_abort s, ctl_unchanged (Mach.dropPending_none _ hp)⟩

/-- Arming or disarming changes the commit engine alone. -/
theorem State.ctl_setTake (b : Bool) {f : Mach → Mach} {s : State}
    (h : f s.m = { s.m with cmt := { s.m.cmt with takeArmed := b } }) :
    settlesTo s (s.ctl f) { s.m with cmt := { s.m.cmt with takeArmed := b } } := by
  have hs := State.ctl_settlesTo f s (by rw [h]; exact evtKept_of_evt rfl) (by rw [h]; exact capsWithin_of_eq fun _ => rfl)
  rwa [h] at hs

theorem takeControlArm_arms (s : State) (hr : s.m.dev.phase = .running) (hg : s.m.dev.governed = false) :
    ∃ t, exec .takeControlArm s = .next t ∧ settlesTo s t { s.m with cmt := { s.m.cmt with takeArmed := true } } :=
  ⟨_, rfl, State.ctl_setTake true (if_pos (by rw [hr, hg]; rfl))⟩

theorem takeControlArm_governed (s : State) (hg : s.m.dev.governed = true) :
    ∃ t, exec .takeControlArm s = .next t ∧ settlesTo s t s.m :=
  ⟨_, rfl, ctl_unchanged (if_neg (by rw [hg, Bool.not_true, Bool.and_false]; decide))⟩

theorem takeControlDisarm_disarms (s : State) : ∃ t, exec .takeControlDisarm s = .next t ∧
    settlesTo s t { s.m with cmt := { s.m.cmt with takeArmed := false } } :=
  ⟨_, rfl, State.ctl_setTake false rfl⟩

end Sys2Proof.Machine

open Sys2Proof.Machine

/-- Settles O44: an abort drops the pending commit, a discard filters the staging, and arming needs limp-home. -/
theorem commitCommands : Obligations.CommitCommands :=
  ⟨abort_cancels, abort_idle, fun _ => rfl, takeControlArm_arms, takeControlArm_governed, takeControlDisarm_disarms⟩

end

section
namespace Sys2Proof.Machine
open Claim

/-! ## Word maps by key -/

theorem WMap.get?_filter (l : WMap) (p : Nat → Bool) (a : Nat) :
    WMap.get? (l.filter fun x => p x.1) a = if p a = true then l.get? a else none := by
  induction l with
  | nil => simp [WMap.get?]
  | cons x t ih =>
    obtain ⟨k, w⟩ := x
    by_cases hk : k = a
    · subst hk
      by_cases hp : p k = true
      · simp [WMap.get?, hp]
      · simp [hp, ih]
    · by_cases hp : p k = true
      · simp [WMap.get?, hp, hk, ih]
      · simp [WMap.get?, hp, hk, ih]

/-! ## The course of a request (R60, R61, R65 to R67) -/

/-- What a write of CMT.COMMIT requests. -/
def Mach.hostRequest (tag : Word) (m : Mach) : CommitReq :=
  { mask := m.maskReg, ctl := m.cfg 0x050C, tick := m.tickReg, tag := tag, ringTag := none }

/-- The configuration a request would give. -/
def Mach.resulting (q : CommitReq) (m : Mach) : Mach := (seqAdvanced m).overlay (m.stagedOf (maskPages q.mask))

/-- The machine once the switching rate and the current of that configuration are known (R66). -/
def Mach.summed (q : CommitReq) (m : Mach) : Mach :=
  { seqAdvanced m with cmt := { (seqAdvanced m).cmt with
      pulseRate := wd (min 0xFFFF (roundHalfUp ((m.resulting q).rateSum / 10)).toNat), curSum := sat16 (m.resulting q).curSum } }

/-- The check of that configuration. -/
def Mach.resultCheck (q : CommitReq) (m : Mach) : Option Refused :=
  (seqAdvanced m).checkResult (m.resulting q) (m.stagedOf (maskPages q.mask)) (maskPages q.mask)

theorem Mach.request_eq (q : CommitReq) (m : Mach) : m.request q =
    match (seqAdvanced m).checkRequest q with
    | some x => (seqAdvanced m).refuse q x
    | none =>
      match m.resultCheck q with
      | some x => (m.summed q).refuse q x
      | none => (m.summed q).capture q (m.stagedOf (maskPages q.mask)) ((m.summed q).placeAll (m.resulting q)) := rfl

theorem Mach.request_refused {q : CommitReq} {x : Refused} {m : Mach} (h : (seqAdvanced m).checkRequest q = some x) :
    m.request q = (seqAdvanced m).refuse q x := by
  rw [Mach.request_eq, h]

theorem Mach.request_resultRefused {q : CommitReq} {x : Refused} {m : Mach} (h : (seqAdvanced m).checkRequest q = none)
    (hx : m.resultCheck q = some x) : m.request q = (m.summed q).refuse q x := by
  rw [Mach.request_eq, h, hx]

theorem Mach.request_captured {q : CommitReq} {m : Mach} (h : (seqAdvanced m).checkRequest q = none)
    (hx : m.resultCheck q = none) : m.request q =
      (m.summed q).capture q (m.stagedOf (maskPages q.mask)) ((m.summed q).placeAll (m.resulting q)) := by
  rw [Mach.request_eq, h, hx]

/-! ## Fault 0xF (R67, R68) -/

theorem SigStep.commitFault (n : Nat) (m : Mach) : SigStep m (m.commitFault n) := by
  unfold Mach.commitFault Mach.writeCode Mach.addHist
  split
  · exact (SigStep.modCh n m).trans' (SigStep.event _ _ _)
  · exact SigStep.modCh n m

theorem SigStep.forList {α : Type} (l : List α) (f : α → Mach → Mach) (h : ∀ a ∈ l, ∀ m, SigStep m (f a m)) (m : Mach) :
    SigStep m (forList l f m) :=
  forList_rel SigStep l f SigStep.rfl' (fun _ _ _ => SigStep.trans') h m

/-- A code after a refused commit: 0xF where it names the channel and no code stood. -/
def faultF (named : Bool) (code : Nat) : Nat := if named = true ∧ code = 0 then 0xF else code

theorem Mach.code_commitFault (k n : Nat) (m : Mach) (hn : n < 24) :
    ((m.commitFault k).ch n).flt.code = faultF (k == n) (m.ch n).flt.code := by
  by_cases hk : k = n
  · subst hk
    unfold Mach.commitFault Mach.writeCode Mach.addHist faultF
    split
    · next h0 => rw [Mach.ch_of_chans (Mach.event_chans _ _ _), Mach.ch_modCh_self _ _ _ hn]; simp [h0]
    · next h0 => rw [Mach.ch_modCh_self _ _ _ hn]; simp [h0]
  · have hne : n ≠ k := fun h => hk h.symm
    unfold Mach.commitFault Mach.writeCode Mach.addHist faultF
    split
    · rw [Mach.ch_of_chans (Mach.event_chans _ _ _), Mach.ch_modCh_ne _ _ _ _ hne]; simp [hk]
    · rw [Mach.ch_modCh_ne _ _ _ _ hne]; simp [hk]

theorem Mach.code_commitFaults (l : List Nat) (n : Nat) (hn : n < 24) : ∀ m : Mach,
    ((forList l Mach.commitFault m).ch n).flt.code = faultF (l.contains n) (m.ch n).flt.code := by
  induction l with
  | nil => intro m; simp [faultF]
  | cons k t ih =>
    intro m
    rw [forList_cons, ih, Mach.code_commitFault k n m hn]
    unfold faultF
    by_cases hk : k = n
    · subst hk
      by_cases h0 : (m.ch k).flt.code = 0 <;> simp [h0]
    · have hne : (k == n) = false := beq_false_of_ne hk
      have hnk : ¬ n = k := fun h => hk h.symm
      simp [hne, hnk]

/-! ## A refused request (R67) -/

/-- The commit engine after a refusal. -/
def Cmt.refused (q : CommitReq) (x : Refused) (c : Cmt) : Cmt :=
  { c with lrSeq := c.seq, lrTag := q.tag, lrReason := wd (x.page * 256 + x.reason), lrChmask := chMask x.chs }

theorem Mach.commitFaults_cmt (l : List Nat) (m : Mach) : (forList l Mach.commitFault m).cmt = m.cmt :=
  SigStep.field (SigStep.forList l _ (fun _ _ => SigStep.commitFault _) m) Mach.cmt

theorem SigStep.withLr {m m' : Mach} (h : SigStep m m') (seq tag reason : Word) (mask : BitVec 24) :
    SigStep (m.withLr seq tag reason mask) (m'.withLr seq tag reason mask) := by
  have hu (x : Mach) : (x.withLr seq tag reason mask).unjudged = x.unjudged.withLr seq tag reason mask := rfl
  exact ⟨by rw [hu, hu, h.view], h.evt⟩

theorem SigStep.refuse (q : CommitReq) (x : Refused) (m : Mach) :
    SigStep { m with cmt := m.cmt.refused q x } (m.refuse q x) := by
  have h : SigStep m (Sys2Proof.Machine.forList x.chs Mach.commitFault m) :=
    SigStep.forList x.chs _ (fun _ _ => SigStep.commitFault _) m
  exact (SigStep.withLr h m.cmt.seq q.tag (wd (x.page * 256 + x.reason)) (chMask x.chs)).trans' (SigStep.recordLr _ _ _ _ _ _ _)

theorem Mach.refuse_latches (q : CommitReq) (x : Refused) (m : Mach) : ((m.refuse q x).evtWord 0x05).getLsbD 1 = true :=
  Mach.recordLr_latches (by decide) _ _ _ _ _ _

theorem Mach.chans_recordLr (bits seq tag reason : Word) (mask : BitVec 24) (t : Option Tag) (m : Mach) :
    (m.recordLr bits seq tag reason mask t).chans = m.chans := by
  have hq := Mach.quiet_recordLr bits seq tag reason mask t m
  obtain ⟨l, hl⟩ := (m.withLr seq tag reason mask).endCommitTag_eq t stRefused seq reason
  rw [hl] at hq
  exact (congrArg Mach.chans hq : (m.recordLr bits seq tag reason mask t).quiet.chans = _)

theorem Mach.code_refuse (q : CommitReq) (x : Refused) (m : Mach) {n : Nat} (hn : n < 24) :
    ((m.refuse q x).ch n).flt.code = faultF (x.chs.contains n) (m.ch n).flt.code := by
  unfold Mach.refuse
  rw [Mach.ch_of_chans (Mach.chans_recordLr _ _ _ _ _ _ _), Mach.code_commitFaults _ _ hn]

theorem exec_commitRequest (tag : Word) (s : State) (h : s.m.dev.phase = .running) :
    exec (.commitRequest tag) s = .next (s.ctl (Mach.request (s.m.hostRequest tag))) := by
  have hc : s.ctl (Mach.cmdCommit tag) = s.ctl (Mach.request (s.m.hostRequest tag)) :=
    State.ctl_congr (if_pos (by rw [h]; rfl))
  exact congrArg Host.Outcome.next hc

/-- A request that ends in a refusal, whatever sums it has left. -/
theorem requestRefused_of_refuse {tag : Word} {x : Refused} {s : State} {m : Mach} (c : Cmt)
    (hm : m = { s.m with cmt := c }) (hseq : c.seq = (seqAdvanced s.m).cmt.seq) (hpend : c.pend = s.m.cmt.pend)
    (hr : s.m.request (s.m.hostRequest tag) = m.refuse (s.m.hostRequest tag) x) :
    requestRefused tag x.reason x.page s (s.ctl (Mach.request (s.m.hostRequest tag))) ∧
      ∀ n, n < s.m.nch → ((s.ctl (Mach.request (s.m.hostRequest tag))).m.ch n).flt.code =
        faultF (x.chs.contains n) (s.m.ch n).flt.code := by
  subst hm
  have hstep := SigStep.refuse (s.m.hostRequest tag) x { s.m with cmt := c }
  rw [← hr] at hstep
  obtain ⟨hcmt, hcfg, -, hst, hstore⟩ := Unmoved.ctl (f := Mach.request (s.m.hostRequest tag)) hstep
  have hlatch : (s.ctl (Mach.request (s.m.hostRequest tag))).latched 0x05 1 :=
    State.ctl_latches (by rw [hr]; exact Mach.refuse_latches _ _ _)
  refine ⟨⟨?_, ?_, ?_, ?_, hlatch, ?_, hcfg, hst, hstore⟩, fun n hn => ?_⟩
  · rw [hcmt]; rfl
  · rw [hcmt]; exact hseq
  · rw [hcmt]; rfl
  · rw [hcmt]; exact hseq
  · rw [hcmt]; exact hpend
  · have hflt : Keeps Chan.flt (s.m.request (s.m.hostRequest tag)) (s.ctl (Mach.request (s.m.hostRequest tag))).m :=
      .of_calm (State.settle_rel (s.on (Mach.request (s.m.hostRequest tag)))).calm
    have hle := s.m.nch_le
    rw [hflt n, hr, Mach.code_refuse _ _ _ (by omega)]
    rfl

/-- A request refused by the checks of R65. -/
theorem requestRefused_of_checkRequest {tag : Word} {reason page : Nat} {chs : List Nat} {s : State}
    (hp : s.m.dev.phase = .running)
    (h : (seqAdvanced s.m).checkRequest (s.m.hostRequest tag) = some ⟨reason, page, chs⟩) :
    ∃ t, exec (.commitRequest tag) s = .next t ∧ requestRefused tag reason page s t :=
  ⟨_, exec_commitRequest tag s hp,
    (requestRefused_of_refuse (seqAdvanced s.m).cmt rfl rfl rfl (Mach.request_refused h)).1⟩

end Sys2Proof.Machine
end

section
namespace Sys2Proof.Machine
open Claim

/-! ## The checks of a request, in the order of R65 -/

/-- The checks of the apply point: reasons 5 to 8. -/
def Mach.pointCheck (q : CommitReq) (m : Mach) : Option Refused :=
  let tb := refTbOf q.ctl
  let ahead := (q.tick - m.time).toNat
  if atReload q.ctl && !(m.tb tb).counting then some ⟨0x05, 0, []⟩
  else if atReload q.ctl && !(m.mismatched (maskPages q.mask) tb).isEmpty then
    some ⟨0x06, (((m.mismatched (maskPages q.mask) tb).filter (· < 24)).head?.map chPage).getD 0,
      (m.mismatched (maskPages q.mask) tb).filter (· < 24)⟩
  else if applyOf q.ctl = 3 && (ahead = 0 || decide (2 ^ 47 ≤ ahead)) then some ⟨0x07, 0, []⟩
  else if applyOf q.ctl = 3 && decide (2 ^ 31 < ahead) then some ⟨0x08, 0, []⟩
  else none

/-- The checks of the state, then those of the apply point: reasons 2 to 8. -/
def Mach.stateCheck (q : CommitReq) (m : Mach) : Option Refused :=
  if m.cmt.pend.isSome then some ⟨0x02, 0, []⟩
  else if m.devState = 4 || m.devState = 5 || !m.clk.refOk then some ⟨0x03, 0, []⟩
  else if m.cmt.takeArmed && m.takeBlock then some ⟨0x04, 0, []⟩
  else m.pointCheck q

theorem Mach.checkRequest_eq (q : CommitReq) (m : Mach) : (seqAdvanced m).checkRequest q =
    if (maskPages q.mask).isEmpty then some ⟨0x01, 0, []⟩
    else if !(m.badPages (maskPages q.mask)).isEmpty then some ⟨0x01, nth (m.badPages (maskPages q.mask)) 0 0, []⟩
    else m.stateCheck q := rfl

section
variable {m : Mach}

theorem Mach.badPages_of_good (h : pagesGood m) : m.badPages (maskPages m.maskReg) = [] :=
  List.filter_eq_nil_iff.mpr fun p hp => by
    obtain ⟨hm, hh⟩ := h.2 p hp
    simp [hm, hh]

theorem Mach.checkRequest_good (h : pagesGood m) (tag : Word) :
    (seqAdvanced m).checkRequest (m.hostRequest tag) = m.stateCheck (m.hostRequest tag) := by
  have hne : (maskPages m.maskReg).isEmpty = false := by rw [List.isEmpty_eq_false_iff]; exact h.1
  rw [Mach.checkRequest_eq]
  change (if (maskPages m.maskReg).isEmpty = true then _
    else if (!(m.badPages (maskPages m.maskReg)).isEmpty) = true then _ else _) = _
  rw [hne, Mach.badPages_of_good h]
  rfl

theorem Mach.checkRequest_noPages (h : maskPages m.maskReg = []) (tag : Word) :
    (seqAdvanced m).checkRequest (m.hostRequest tag) = some ⟨0x01, 0, []⟩ := by
  rw [Mach.checkRequest_eq]
  exact if_pos (by rw [show maskPages (m.hostRequest tag).mask = [] from h]; rfl)

theorem Mach.checkRequest_badPage {p : Nat}
    (h : (maskPages m.maskReg).find? (fun p => !(maskPage p && headerPage m.dev.part p)) = some p) (tag : Word) :
    (seqAdvanced m).checkRequest (m.hostRequest tag) = some ⟨0x01, p, []⟩ := by
  have hhead : (m.badPages (maskPages m.maskReg)).head? = some p := by
    rw [← h]
    exact List.head?_filter
  obtain ⟨rest, hbad⟩ : ∃ rest, m.badPages (maskPages m.maskReg) = p :: rest := List.head?_eq_some_iff.mp hhead
  have hne : (maskPages m.maskReg).isEmpty = false := by
    rw [List.isEmpty_eq_false_iff]
    intro he
    rw [he] at h
    cases h
  rw [Mach.checkRequest_eq]
  change (if (maskPages m.maskReg).isEmpty = true then _ else if (!(m.badPages (maskPages m.maskReg)).isEmpty) = true then
    some (Refused.mk 0x01 (nth (m.badPages (maskPages m.maskReg)) 0 0) []) else _) = _
  rw [hne, hbad]
  rfl

theorem Mach.stateCheck_pend (q : CommitReq) (h : m.cmt.pend.isSome = true) : m.stateCheck q = some ⟨0x02, 0, []⟩ := if_pos h

theorem Mach.stateCheck_state (q : CommitReq) (hp : m.cmt.pend = none)
    (h : m.devState = 4 ∨ m.devState = 5 ∨ m.clk.refOk = false) : m.stateCheck q = some ⟨0x03, 0, []⟩ := by
  unfold Mach.stateCheck
  rw [hp, if_neg (by decide), if_pos]
  rcases h with h | h | h <;> simp [h]

theorem Mach.stateCheck_take (q : CommitReq) (hp : m.cmt.pend = none) (h4 : m.devState ≠ 4) (h5 : m.devState ≠ 5)
    (hr : m.clk.refOk = true) (ha : m.cmt.takeArmed = true) (hb : m.takeBlock = true) : m.stateCheck q = some ⟨0x04, 0, []⟩ := by
  unfold Mach.stateCheck
  rw [hp, if_neg (by decide), if_neg (by simp [h4, h5, hr]), if_pos (by rw [ha, hb]; rfl)]

theorem Mach.stateCheck_allowed (q : CommitReq) (hp : m.cmt.pend = none) (h4 : m.devState ≠ 4) (h5 : m.devState ≠ 5)
    (hr : m.clk.refOk = true) (ht : m.cmt.takeArmed = true → m.takeBlock = false) : m.stateCheck q = m.pointCheck q := by
  unfold Mach.stateCheck
  rw [hp, if_neg (by decide), if_neg (by simp [h4, h5, hr]), if_neg]
  simpa using ht

theorem Mach.checkRequest_allowed (h : stateAllows m) (tag : Word) :
    (seqAdvanced m).checkRequest (m.hostRequest tag) = m.pointCheck (m.hostRequest tag) := by
  obtain ⟨hgood, hp, h4, h5, hr, ht⟩ := h
  rw [Mach.checkRequest_good hgood, Mach.stateCheck_allowed _ hp h4 h5 hr ht]

/-! ### The apply point -/

theorem applyOf_not_atReload {ctl : Word} (h : applyOf ctl = 3) : atReload ctl = false := by
  simp [atReload, h]

theorem Mach.pointCheck_stopped (tag : Word) (ha : atReload (m.cfg 0x050C) = true)
    (hc : (m.tb (refTbOf (m.cfg 0x050C))).counting = false) : m.pointCheck (m.hostRequest tag) = some ⟨0x05, 0, []⟩ :=
  if_pos (by rw [show atReload (m.hostRequest tag).ctl = true from ha,
    show (m.tb (refTbOf (m.hostRequest tag).ctl)).counting = false from hc]; rfl)

theorem Mach.pointCheck_mismatched (tag : Word) (ha : atReload (m.cfg 0x050C) = true)
    (hc : (m.tb (refTbOf (m.cfg 0x050C))).counting = true)
    (hm : m.mismatched (maskPages m.maskReg) (refTbOf (m.cfg 0x050C)) ≠ []) : m.pointCheck (m.hostRequest tag) =
      some ⟨0x06, (((m.mismatched (maskPages m.maskReg) (refTbOf (m.cfg 0x050C))).filter (· < 24)).head?.map chPage).getD 0,
        (m.mismatched (maskPages m.maskReg) (refTbOf (m.cfg 0x050C))).filter (· < 24)⟩ := by
  have hne : (m.mismatched (maskPages m.maskReg) (refTbOf (m.cfg 0x050C))).isEmpty = false := by
    rw [List.isEmpty_eq_false_iff]; exact hm
  unfold Mach.pointCheck Mach.hostRequest
  dsimp only
  rw [if_neg (by rw [hc]; simp), if_pos (by rw [ha, hne]; rfl)]

theorem Mach.pointCheck_past (tag : Word) (ha : applyOf (m.cfg 0x050C) = 3)
    (ht : (m.tickReg - m.time).toNat = 0 ∨ 2 ^ 47 ≤ (m.tickReg - m.time).toNat) :
    m.pointCheck (m.hostRequest tag) = some ⟨0x07, 0, []⟩ := by
  have hr := applyOf_not_atReload ha
  unfold Mach.pointCheck Mach.hostRequest
  dsimp only
  generalize (m.tickReg - m.time).toNat = ahead at ht ⊢
  rw [hr, Bool.false_and, Bool.false_and, if_neg (by decide), if_neg (by decide), if_pos (by simp [ha]; omega)]

theorem Mach.pointCheck_far (tag : Word) (ha : applyOf (m.cfg 0x050C) = 3) (hlo : 2 ^ 31 < (m.tickReg - m.time).toNat)
    (hhi : (m.tickReg - m.time).toNat < 2 ^ 47) : m.pointCheck (m.hostRequest tag) = some ⟨0x08, 0, []⟩ := by
  have hr := applyOf_not_atReload ha
  unfold Mach.pointCheck Mach.hostRequest
  dsimp only
  generalize (m.tickReg - m.time).toNat = ahead at hlo hhi ⊢
  rw [hr, Bool.false_and, Bool.false_and, if_neg (by decide), if_neg (by decide), if_neg (by simp [ha]; omega),
    if_pos (by simp [ha]; omega)]

/-- No enabled output of the named pages runs on another timebase. -/
theorem Mach.mismatched_eq_nil {pages : List Nat} {k : Nat} (h : ∀ o, o ∈ m.allOuts →
    pages.contains (if o < 24 then chPage o else 0x07) = true → m.outEnabled o = true → (m.tbSel o).1 = k) :
    m.mismatched pages k = [] :=
  List.filter_eq_nil_iff.mpr fun o ho hb => by
    rw [Bool.and_eq_true, Bool.and_eq_true] at hb
    obtain ⟨⟨hp, he⟩, hk⟩ := hb
    exact absurd (h o ho hp he) (by simpa using hk)

theorem Mach.checkRequest_passes (hg : pagesGood m) (h : requestAllowed m) (tag : Word) :
    (seqAdvanced m).checkRequest (m.hostRequest tag) = none := by
  obtain ⟨hp, h4, h5, hr, ht, hreload, htick⟩ := h
  rw [Mach.checkRequest_allowed ⟨hg, hp, h4, h5, hr, ht⟩]
  unfold Mach.pointCheck Mach.hostRequest
  dsimp only
  have h56 : ¬((atReload (m.cfg 0x050C) && !(m.tb (refTbOf (m.cfg 0x050C))).counting) = true) ∧
      ¬((atReload (m.cfg 0x050C) && !(m.mismatched (maskPages m.maskReg) (refTbOf (m.cfg 0x050C))).isEmpty) = true) := by
    by_cases ha : atReload (m.cfg 0x050C) = true
    · obtain ⟨hc, ho⟩ := hreload ha
      rw [hc, Mach.mismatched_eq_nil ho]
      simp
    · rw [Bool.not_eq_true] at ha
      simp [ha]
  rw [if_neg h56.1, if_neg h56.2]
  by_cases ha : applyOf (m.cfg 0x050C) = 3
  · obtain ⟨h0, hmax⟩ := htick ha
    generalize (m.tickReg - m.time).toNat = ahead at h0 hmax ⊢
    rw [if_neg (by simp [ha]; omega), if_neg (by simp [ha]; omega)]
  · rw [if_neg (by simp [ha]), if_neg (by simp [ha])]

end

/-! ## The capture (R61) -/

theorem exec_commitRequest_captured {tag : Word} {s : State} (hrun : s.m.dev.phase = .running) (hg : pagesGood s.m)
    (ha : requestAllowed s.m) (hx : resultRefusal s.m = none) :
    ∃ t, exec (.commitRequest tag) s = .next t ∧
      t.m.cmt.pend.isSome = true ∧
      (∀ p, t.m.cmt.pend = some p → p.mask = s.m.maskReg ∧ p.ctl = s.m.cfg 0x050C ∧ p.tick = s.m.tickReg ∧
        p.tag = tag ∧ p.seq = (seqAdvanced s.m).cmt.seq ∧ p.capAt = s.m.now ∧ p.held = false ∧
        (∀ a, p.words.get? a =
          if (maskPages s.m.maskReg).contains (pageOf a) = true then s.m.staged.get? a else none)) ∧
      (∀ a, t.m.staged.get? a =
        if (maskPages s.m.maskReg).contains (pageOf a) = true then none else s.m.staged.get? a) ∧
      t.m.cmt.seq = (seqAdvanced s.m).cmt.seq ∧ (∀ a, t.m.cfg a = s.m.cfg a) ∧
      settlesTo s t { s.m with staged := t.m.staged, cmt := t.m.cmt } := by
  have hreq := Mach.request_captured (q := s.m.hostRequest tag) (Mach.checkRequest_passes hg ha tag) hx
  have hs := State.ctl_settlesTo (Mach.request (s.m.hostRequest tag)) s (by rw [hreq]; exact evtKept_of_evt rfl)
    (by rw [hreq]; exact capsWithin_of_eq fun _ => rfl)
  obtain ⟨hcalm, hrest⟩ := hs
  rw [hreq] at hcalm
  refine ⟨_, exec_commitRequest tag s hrun, ?_⟩
  have hcmt := calm_cmt hcalm
  have hstaged := calm_staged hcalm
  have hactive := calm_active hcalm
  refine ⟨by rw [hcmt]; rfl, fun p hp => ?_, fun a => ?_, by rw [hcmt]; rfl, fun a => Mach.cfg_of_active hactive a, ?_, hrest⟩
  · rw [hcmt] at hp
    obtain rfl := Option.some.inj hp
    exact ⟨rfl, rfl, rfl, rfl, rfl, rfl, rfl, fun a =>
      WMap.get?_filter s.m.staged (fun k => (maskPages s.m.maskReg).contains (pageOf k)) a⟩
  · rw [hstaged]
    refine (WMap.get?_filter s.m.staged (fun k => !(maskPages s.m.maskReg).contains (pageOf k)) a).trans ?_
    cases (maskPages s.m.maskReg).contains (pageOf a) <;> rfl
  · rw [hcalm, hcmt, hstaged]
    rfl

/-- A request refused by the check of the resulting configuration. -/
theorem exec_commitRequest_resultRefused {tag : Word} {s : State} (hrun : s.m.dev.phase = .running) (hg : pagesGood s.m)
    (ha : requestAllowed s.m) (x : Refused) (hx : resultRefusal s.m = some x) :
    ∃ t, exec (.commitRequest tag) s = .next t ∧ requestRefused tag x.reason x.page s t ∧
      ∀ n, n < s.m.nch → (t.m.ch n).flt.code =
        if x.chs.contains n = true ∧ (s.m.ch n).flt.code = 0 then 0xF else (s.m.ch n).flt.code :=
  ⟨_, exec_commitRequest tag s hrun, requestRefused_of_refuse (s.m.summed (s.m.hostRequest tag)).cmt rfl rfl rfl
    (Mach.request_resultRefused (Mach.checkRequest_passes hg ha tag) hx)⟩

end Sys2Proof.Machine

open Sys2Proof.Machine

/-- Settles O42: the checks run in the order of R65, each refusal follows from the checks before it having passed, and the
capture keeps the staged words of the named pages. -/
theorem commitRequestsAreChecked : Obligations.CommitRequestsAreChecked := fun tag _ hrun =>
  ⟨exec_commitRequest_captured hrun,
    fun h => requestRefused_of_checkRequest hrun (Mach.checkRequest_noPages h tag),
    fun _ h => requestRefused_of_checkRequest hrun (Mach.checkRequest_badPage h tag),
    fun hg hp =>
      requestRefused_of_checkRequest hrun ((Mach.checkRequest_good hg tag).trans (Mach.stateCheck_pend _ hp)),
    fun hg hp h =>
      requestRefused_of_checkRequest hrun ((Mach.checkRequest_good hg tag).trans (Mach.stateCheck_state _ hp h)),
    fun hg hp h4 h5 hr ha hb =>
      requestRefused_of_checkRequest hrun ((Mach.checkRequest_good hg tag).trans (Mach.stateCheck_take _ hp h4 h5 hr ha hb)),
    fun h ha hc =>
      requestRefused_of_checkRequest hrun ((Mach.checkRequest_allowed h tag).trans (Mach.pointCheck_stopped tag ha hc)),
    fun h ha hc hm =>
      requestRefused_of_checkRequest hrun ((Mach.checkRequest_allowed h tag).trans (Mach.pointCheck_mismatched tag ha hc hm)),
    fun h ha ht =>
      requestRefused_of_checkRequest hrun ((Mach.checkRequest_allowed h tag).trans (Mach.pointCheck_past tag ha ht)),
    fun h ha hlo hhi =>
      requestRefused_of_checkRequest hrun ((Mach.checkRequest_allowed h tag).trans (Mach.pointCheck_far tag ha hlo hhi)),
    exec_commitRequest_resultRefused hrun⟩

end

section
/-! SUPPORT and REFUTATION of O47: a frame's falling CSN ends the watchdog grant, so a read of the port master's PG_STAT does
not return the value before the frame. -/

namespace Sys2Proof.Machine
open Claim

/-! ## A read of PG_STAT under a watchdog grant (R47, R306, R354, R357) -/

/-- A running device whose port master holds a watchdog grant, between frames. -/
def grantedState : State :=
  { State.reset with m := { State.reset.m with
      dev := { State.reset.m.dev with phase := .running }, mst := { State.reset.m.mst with wdgGrant := true } } }

/-- A READ of one word, PG_STAT of the port master's page: its PAGE field shows WDG_GRANT in bit 1. -/
def grantRead : ReadFrame := ⟨0x1102, 1, false, false, [], none, none, ⟨0, 0, 0, 0, false, false⟩⟩

/-- What the read returns: the frame has ended the grant before its word is read. -/
theorem exec_grantRead : ∃ t, exec (.read grantRead) grantedState = .next t ∧
    t.m.port.tx = [(grantedState.on Mach.beginFrame).value 0x11 0x02] := by
  refine ⟨_, exec_read (by decide) (by decide) rfl rfl, ?_⟩
  rw [State.readWords_tx rfl rfl]
  rfl

theorem grantedState_value : (grantedState.on Mach.beginFrame).value 0x11 0x02 ≠ grantedState.value 0x11 0x02 := by decide

end Sys2Proof.Machine

open Sys2Proof.Machine

/-- Refutes O47: READ of 0x1102 under a watchdog grant returns the word with WDG_GRANT 0, not the value before the frame. -/
theorem not_framesMoveWords : ¬ Obligations.FramesMoveWords := by
  unfold Obligations.FramesMoveWords
  rintro ⟨⟨hread, -⟩, -⟩
  obtain ⟨-, -, -, -, -, hwhole⟩ := hread grantRead grantedState rfl
  obtain ⟨u, hu, -, -, -, -, -, -, -, -, -, -, hone, -⟩ := hwhole (by decide) (by decide) rfl rfl
  obtain ⟨t, ht, htx⟩ := exec_grantRead
  obtain rfl : t = u := Host.Outcome.next.inj (ht.symm.trans hu)
  have hvalue := hone rfl rfl rfl (by decide) (by decide) (by decide) (by decide)
  rw [htx] at hvalue
  exact grantedState_value (List.head_eq_of_cons_eq hvalue)

end

section
/-! SUPPORT and PROOF of O51: fetches and the ring commands that end at once. -/

namespace Sys2Proof.Machine
open Claim

/-! ## Runs of SRAM words (R45, R46) -/

theorem State.sramReads_clean (n : Nat) : ∀ (w : Nat) {s : State}, s.eccBad = [] →
    s.sramReads w n = ((List.range n).map fun k => s.sramWord (w + k), false, s) := by
  induction n with
  | zero => intro w s _; rfl
  | succ n ih =>
    intro w s h
    unfold State.sramReads
    rw [State.sramRead_clean w h]
    dsimp only
    rw [ih (w + 1) h, List.range_succ_eq_map]
    simp [Function.comp_def, Nat.add_assoc, Nat.add_comm 1]

theorem State.sramRead_other {a w : Nat} {b : Bool} {s : State} (h : s.eccBad = [(a, b)]) (hw : a ≠ w) :
    s.sramRead w = (s.sramWord w, false, s) := by
  unfold State.sramRead
  rw [h, List.find?_cons_of_neg (by simpa using hw)]
  rfl

theorem State.sramRead_double {a : Nat} {s : State} (h : s.eccBad = [(a, true)]) :
    s.sramRead a = (0, true, s.on (Mach.event 0x00 0x0002)) := by
  unfold State.sramRead
  rw [h, List.find?_cons_of_pos (by simp)]

/-- Words that leave out the uncorrectable one. -/
theorem State.sramReads_other {a : Nat} (n : Nat) : ∀ (w : Nat) {s : State}, s.eccBad = [(a, true)] →
    a < w ∨ w + n ≤ a → ∃ vs, s.sramReads w n = (vs, false, s) := by
  induction n with
  | zero => exact fun w s _ _ => ⟨[], rfl⟩
  | succ n ih =>
    intro w s h ha
    obtain ⟨vs, hvs⟩ := ih (w + 1) h (by omega)
    unfold State.sramReads
    rw [State.sramRead_other h (by omega)]
    dsimp only
    rw [hvs]
    exact ⟨_, rfl⟩

/-- Words among which one is uncorrectable: it is reported once. -/
theorem State.sramReads_double {a : Nat} (n : Nat) : ∀ (w : Nat) {s : State}, s.eccBad = [(a, true)] →
    w ≤ a → a < w + n → ∃ vs, s.sramReads w n = (vs, true, s.on (Mach.event 0x00 0x0002)) := by
  induction n with
  | zero => intro w s _ _ _; omega
  | succ n ih =>
    intro w s h hlo hhi
    unfold State.sramReads
    by_cases hw : a = w
    · subst hw
      obtain ⟨vs, hvs⟩ := State.sramReads_other n (a + 1) (s := s.on (Mach.event 0x00 0x0002)) h (by omega)
      rw [State.sramRead_double h]
      dsimp only
      rw [hvs]
      exact ⟨_, rfl⟩
    · obtain ⟨vs, hvs⟩ := ih (w + 1) h (by omega) (by omega)
      rw [State.sramRead_other h hw]
      dsimp only
      rw [hvs]
      exact ⟨_, rfl⟩

/-- A run of words reads back as it was stored. -/
theorem State.sramWord_sramSetList (vs : List Word) : ∀ (w k : Nat) {v : Word} (s : State), vs[k]? = some v →
    (s.sramSetList w vs).sramWord (w + k) = v := by
  induction vs with
  | nil => intro w k v s h; simp at h
  | cons u t ih =>
    intro w k v s h
    cases k with
    | zero =>
      obtain rfl : u = v := by simpa using h
      have hkeep : ((s.sramSet w u).sramSetList (w + 1) t).sramWord w = (s.sramSet w u).sramWord w := by
        unfold State.sramWord
        rw [State.read_sramSetList_ne _ _ _ _ (by omega), State.read_sramSetList_ne _ _ _ _ (by omega)]
      exact hkeep.trans (State.sramWord_sramSet w u s)
    | succ k =>
      have hk := ih (w + 1) k (s.sramSet w u) (by simpa using h)
      rwa [Nat.add_right_comm, Nat.add_assoc] at hk

/-! ## Fetches (R336 to R338, R342 to R344) -/

/-- The machine once ring `r` has given up its head `idx`: HEAD advances, and the data-plane engine turns to its other
ring. -/
def Mach.pastHead (r idx : Nat) (m : Mach) : Mach :=
  (m.setHead r (idx + 1)).modRings fun x => { x with dpTurn := if dpRing r then r == 2 else x.dpTurn }

/-- The machine with a command in flight. -/
def Mach.flying (i : Infl) (m : Mach) : Mach := m.modRings fun x => { x with infl := x.infl ++ [i] }

/-- Advancing HEAD changes the rings alone. -/
theorem Mach.pastHead_eq (r : Fin 6) (idx : Nat) (m : Mach) : m.pastHead r idx =
    { m with rings := { m.rings with head := m.rings.head.set r.val ((idx + 1) % 256) (by omega),
                                     dpTurn := if dpRing r then r.val == 2 else m.rings.dpTurn } } := by
  unfold Mach.pastHead Mach.setHead
  rw [dif_pos (by omega)]
  rfl

theorem Mach.ringHead_pastHead (r : Fin 6) (idx k : Nat) (m : Mach) :
    (m.pastHead r idx).ringHead k = if k = r.val then (idx + 1) % 256 else m.ringHead k := by
  rw [Mach.pastHead_eq]
  unfold Mach.ringHead
  by_cases hk : k = r.val
  · subst hk
    simp [show r.val < 8 by omega]
  · simp [hk, Ne.symm hk]

theorem State.fetch_clean (r : Fin 6) {s : State} (h : s.eccBad = []) :
    s.fetch r = s.on fun m => (m.pastHead r (s.m.ringHead r)).takeIn (headDescriptor r s) false := by
  unfold State.fetch
  dsimp only
  rw [State.sramReads_clean 8 _ h]
  rfl

theorem State.fetch_double (r : Fin 6) (k : Fin 8) {s : State}
    (h : s.eccBad = [(s.m.slotWord r (s.m.ringHead r) + k, true)]) :
    ∃ i, s.fetch r = s.on fun m => ((m.event 0x00 0x0002).pastHead r (s.m.ringHead r)).takeIn i true := by
  obtain ⟨vs, hvs⟩ := State.sramReads_double 8 (s.m.slotWord r (s.m.ringHead r)) h (by omega) (by omega)
  unfold State.fetch
  dsimp only
  rw [hvs]
  exact ⟨_, rfl⟩

/-! ### What becomes of a fetched command -/

theorem Mach.takeIn_busy {i : Infl} {m : Mach} (h : m.tagBusy i.tag = true) :
    m.takeIn i false = m.addCompl i false stTagBusy 6 0 0 := if_pos h

theorem Mach.takeIn_accepted {i : Infl} {m : Mach} (h : m.tagBusy i.tag = false) (he : m.fetchError i = none) :
    m.takeIn i false = m.flying i := by
  have he' : (m.flying i).fetchError i = none := he
  refine (if_neg (by rw [if_neg (by decide), h]; decide)).trans ?_
  change (match (m.flying i).fetchError i with | some st => _ | none => m.flying i) = _
  rw [he']

theorem Mach.takeIn_refused {i : Infl} {st : Nat} {m : Mach} (h : m.tagBusy i.tag = false) (he : m.fetchError i = some st) :
    m.takeIn i false = (m.flying i).complete i st 0 0 := by
  have he' : (m.flying i).fetchError i = some st := he
  refine (if_neg (by rw [if_neg (by decide), h]; decide)).trans ?_
  change (match (m.flying i).fetchError i with | some st => (m.flying i).complete i st 0 0 | none => m.flying i) = _
  rw [he']

/-- The completions after a fetch of readable words: a busy tag and a descriptor that is not executed complete at once. -/
def Mach.fetchEnds (i : Infl) (m : Mach) : List Compl :=
  if m.tagBusy i.tag then (m.addCompl i false stTagBusy 6 0 0).rings.compl
  else match m.fetchError i with
  | some st => (m.addCompl i true st 6 0 0).rings.compl
  | none => m.rings.compl

/-- The commands in flight after such a fetch. -/
def Mach.fetchFlies (i : Infl) (m : Mach) : List Infl := if m.tagBusy i.tag then m.rings.infl else m.rings.infl ++ [i]

theorem Mach.fetchError_ne_ok {i : Infl} {st : Nat} {m : Mach} (h : m.fetchError i = some st) : st ≠ stOk := by
  unfold Mach.fetchError at h
  rintro rfl
  split at h
  · cases h
  · split at h
    · cases h
    · split at h <;> cases h

/-- A fetch of readable words changes the head, the turn, the commands in flight and the completions. -/
theorem Mach.takeIn_clean (i : Infl) (m : Mach) : m.takeIn i false =
    { m with rings := { m.rings with infl := m.fetchFlies i, compl := m.fetchEnds i } } := by
  unfold Mach.fetchFlies Mach.fetchEnds
  by_cases hb : m.tagBusy i.tag = true
  · rw [Mach.takeIn_busy hb, if_pos hb, if_pos hb]
    rfl
  · rw [if_neg hb, if_neg hb]
    rw [Bool.not_eq_true] at hb
    cases he : m.fetchError i with
    | none => exact Mach.takeIn_accepted hb he
    | some st =>
      rw [Mach.takeIn_refused hb he]
      unfold Mach.complete
      rw [if_neg (Mach.fetchError_ne_ok he)]
      rfl

theorem Mach.fetched_eq (r : Fin 6) (idx : Nat) (i : Infl) (m : Mach) : (m.pastHead r idx).takeIn i false =
    { m with rings := { (m.pastHead r idx).rings with infl := m.fetchFlies i, compl := m.fetchEnds i } } := by
  rw [Mach.takeIn_clean, Mach.pastHead_eq]
  rfl

section
variable {i : Infl} {m : Mach}

theorem Mach.fetchError_acceptable (h : acceptable i m) : m.fetchError i = none := by
  obtain ⟨hop, htag, hx⟩ := h
  unfold Mach.fetchError
  rw [hop, htag, if_neg (by decide), if_neg (by decide), if_neg]
  intro hb
  rw [Bool.and_eq_true] at hb
  have hpart := hx hb.2
  simp [hpart] at hb

theorem Mach.fetchError_badOpcode (h : opcodeOn i.ring i.opcode = false) : m.fetchError i = some stBadOpcode :=
  if_pos (by rw [h]; rfl)

theorem Mach.fetchError_badTag (hop : opcodeOn i.ring i.opcode = true) (h : tagOn i.ring i.tag = false) :
    m.fetchError i = some stBadParam := by
  unfold Mach.fetchError
  rw [hop, h, if_neg (by decide), if_pos (by decide)]

theorem Mach.fetchError_absent (hop : opcodeOn i.ring i.opcode = true) (htag : tagOn i.ring i.tag = true)
    (hx : opcodeX i.opcode = true) (hp : m.dev.part.isX = false) : m.fetchError i = some stAbsent := by
  unfold Mach.fetchError
  rw [hop, htag, hx, hp, if_neg (by decide), if_neg (by decide), if_pos (by decide)]

theorem Mach.fetchEnds_busy (h : m.tagBusy i.tag = true) :
    m.fetchEnds i = (answered i false 3 6 0 0 m).rings.compl := if_pos h

theorem Mach.fetchEnds_accepted (h : m.tagBusy i.tag = false) (he : m.fetchError i = none) :
    m.fetchEnds i = m.rings.compl := by
  unfold Mach.fetchEnds
  rw [if_neg (by rw [h]; decide), he]

theorem Mach.fetchEnds_refused {st : Nat} (h : m.tagBusy i.tag = false) (he : m.fetchError i = some st) :
    m.fetchEnds i = (answered i true st 6 0 0 m).rings.compl := by
  unfold Mach.fetchEnds
  rw [if_neg (by rw [h]; decide), he]
  rfl

end

/-- With an uncorrectable word the command completes DESC_ECC, whether its tag is free or busy. -/
theorem Mach.takeIn_bad (i : Infl) (m : Mach) : ∃ own fl, m.takeIn i true =
    ((m.event 0x04 0x0020).modRings fun x => { x with infl := fl }).addCompl i own stDescEcc 6 0 0 := by
  cases h : (m.event 0x04 0x0020).tagBusy i.tag with
  | true => exact ⟨false, (m.event 0x04 0x0020).rings.infl, if_pos h⟩
  | false => exact ⟨true, (m.event 0x04 0x0020).rings.infl ++ [i], if_neg (by rw [if_pos rfl, h]; decide)⟩

/-! ### The row -/

theorem exec_descriptorFetch {r : Fin 6} {s : State} (h : s.fetchTurn r = true) :
    exec (.descriptorFetch r) s = .next (s.fetch r) := congrArg Host.Outcome.next (if_pos h)

/-- A change of the rings shows in the rings alone, whatever was reported. -/
theorem quiet_withRings {m m' : Mach} (h : m'.quiet = m.quiet) (x : Rings) :
    ({ m' with rings := x } : Mach).quiet = ({ m with rings := x } : Mach).quiet :=
  calc ({ m' with rings := x } : Mach).quiet = ({ m'.quiet with rings := x } : Mach).quiet := rfl
    _ = ({ m.quiet with rings := x } : Mach).quiet := by rw [h]
    _ = ({ m with rings := x } : Mach).quiet := rfl

theorem quiet_compl {m m' : Mach} (h : m'.quiet = m.quiet) : m'.rings.compl = m.rings.compl :=
  (congrArg (fun x : Mach => x.rings.compl) h : m'.quiet.rings.compl = m.quiet.rings.compl)

theorem fetch_clean_rings (r : Fin 6) {s : State} (h : s.fetchTurn r = true) (hecc : s.eccBad = []) :
    ∃ t, exec (.descriptorFetch r) s = .next t ∧ t.m.ringHead r = (s.m.ringHead r + 1) % 256 ∧
      (∀ k, k ≠ r.val → t.m.ringHead k = s.m.ringHead k) ∧ t.m.rings.infl = s.m.fetchFlies (headDescriptor r s) ∧
      t.m.rings.compl = s.m.fetchEnds (headDescriptor r s) ∧ ringsOnly s t := by
  have hm : s.fetch r = { s with m := (s.m.pastHead r (s.m.ringHead r)).takeIn (headDescriptor r s) false } :=
    State.fetch_clean r hecc
  rw [Mach.fetched_eq] at hm
  have hhead (k : Nat) : (s.fetch r).m.ringHead k = (s.m.pastHead r (s.m.ringHead r)).ringHead k := by rw [hm]; rfl
  refine ⟨_, exec_descriptorFetch h, ?_, fun k hk => ?_, ?_, ?_, ?_⟩
  · rw [hhead, Mach.ringHead_pastHead, if_pos rfl]
  · rw [hhead, Mach.ringHead_pastHead, if_neg hk]
  · rw [hm]
  · rw [hm]
  · rw [hm]
    exact becomes_withM s rfl (evtKept_of_evt rfl)

/-- The machine after the fetch of a descriptor with an uncorrectable word. -/
def Mach.fetchedBad (r : Fin 6) (idx : Nat) (i : Infl) (m : Mach) : Mach :=
  ((m.event 0x00 0x0002).pastHead r idx).takeIn i true

theorem Mach.fetchedBad_spec (r : Fin 6) (idx : Nat) (i : Infl) (m : Mach) :
    ((m.fetchedBad r idx i).rings.compl.map fun c => (c.status, c.state)) =
        (m.rings.compl.map fun c => (c.status, c.state)) ++ [(0x0D, 6)] ∧
      ((m.fetchedBad r idx i).evtWord 0x04).getLsbD 5 = true ∧ ((m.fetchedBad r idx i).evtWord 0x00).getLsbD 1 = true ∧
      (m.fetchedBad r idx i).quiet = ({ m with rings := (m.fetchedBad r idx i).rings } : Mach).quiet ∧
      evtKept m (m.fetchedBad r idx i) := by
  obtain ⟨own, fl, hbad⟩ := Mach.takeIn_bad i ((m.event 0x00 0x0002).pastHead r idx)
  have hpast := Mach.pastHead_eq r idx (m.event 0x00 0x0002)
  have hq : (((m.event 0x00 0x0002).pastHead r idx).event 0x04 0x0020).quiet = ((m.event 0x00 0x0002).pastHead r idx).quiet :=
    Mach.quiet_event _ _ _
  have hq0 : (m.event 0x00 0x0002).quiet = m.quiet := Mach.quiet_event _ _ _
  have hecc : ((m.event 0x00 0x0002).evtWord 0x00).getLsbD 1 = true := Mach.event_latches rfl (by decide)
  have hdesc : ((((m.event 0x00 0x0002).pastHead r idx).event 0x04 0x0020).evtWord 0x04).getLsbD 5 = true :=
    Mach.event_latches rfl (by decide)
  have hkept : evtKept (m.event 0x00 0x0002) (((m.event 0x00 0x0002).pastHead r idx).event 0x04 0x0020) :=
    (evtKept_of_evt (by rw [hpast])).trans' (evtKept_event _ _ _)
  have hkept0 : evtKept m (m.event 0x00 0x0002) := evtKept_event _ _ _
  unfold Mach.fetchedBad
  rw [hbad]
  rw [hpast] at hq hdesc hkept ⊢
  generalize m.event 0x00 0x0002 = m₀ at hq0 hecc hq hdesc hkept hkept0 ⊢
  generalize Mach.event 0x04 0x0020 _ = m₁ at hq hdesc hkept ⊢
  have hlast : evtKept m₁ ((m₁.modRings fun x => { x with infl := fl }).addCompl i own stDescEcc 6 0 0) := evtKept_of_evt rfl
  refine ⟨?_, hlast _ _ hdesc, hlast _ _ (hkept _ _ hecc), ?_, (hkept0.trans' hkept).trans' hlast⟩
  · have hcompl : m₁.rings.compl = m.rings.compl := (quiet_compl hq).trans (show m₀.rings.compl = _ from quiet_compl hq0)
    exact (List.map_append).trans (by rw [← hcompl]; rfl)
  · exact (quiet_withRings hq _).trans (quiet_withRings hq0 _)

theorem fetches_hold : fetches := by
  refine ⟨fun r s h hecc => ?_, fun r k s h hecc => ?_, fun r s h hr => ?_, fun s hrun h0 h6 hne hfree hp => ?_⟩
  · obtain ⟨t, hx, hhead, hother, hinfl, hcompl, honly⟩ := fetch_clean_rings r h hecc
    refine ⟨t, hx, hhead, hother, fun hb => ⟨?_, ?_⟩, fun hb => ?_, fun hb ha => ?_, fun hb hop => ?_, fun hb hop ht => ?_,
      fun hb hop ht hxo hpart => ?_, honly⟩
    · rw [hinfl]; exact if_pos hb
    · rw [hcompl]; exact Mach.fetchEnds_busy hb
    · rw [hinfl]; exact if_neg (by rw [hb]; decide)
    · rw [hcompl]; exact Mach.fetchEnds_accepted hb (Mach.fetchError_acceptable ha)
    · rw [hcompl]; exact Mach.fetchEnds_refused hb (Mach.fetchError_badOpcode hop)
    · rw [hcompl]; exact Mach.fetchEnds_refused hb (Mach.fetchError_badTag hop ht)
    · rw [hcompl]; exact Mach.fetchEnds_refused hb (Mach.fetchError_absent hop ht hxo hpart)
  · obtain ⟨i, hi⟩ := State.fetch_double r k hecc
    obtain ⟨hcompl, h4, h0, hq, hev⟩ := s.m.fetchedBad_spec r (s.m.ringHead r) i
    refine ⟨_, exec_descriptorFetch h, ?_⟩
    rw [hi]
    exact ⟨hcompl, h4, h0, hq, hev, rfl, rfl, rfl, rfl⟩
  · have hx : exec (.descriptorFetch r) s = .next (if r = 5 then s.peekSq5 else s) :=
      congrArg Host.Outcome.next (if_neg (by rw [h]; decide))
    rw [hx]
    rcases hr with hr | hr
    · rw [if_neg hr]
    · have hpeek : s.peekSq5 = s := by
        unfold State.peekSq5
        rw [State.sramRead_clean _ hr, ite_self]
      rw [hpeek, ite_self]
  · have hw : s.cmtWaits 0 = false := by
      unfold State.cmtWaits
      rw [hp]
      rfl
    unfold State.fetchTurn State.fetchable Mach.cqFree
    simp [hrun, h0, h6, hne, hw]
    omega

end Sys2Proof.Machine
end

section
namespace Sys2Proof.Machine
open Claim

/-! ## Commands that name a tag (R338) -/

theorem State.withCmd_none {tag : Tag} {op : Nat} {s : State} (h : s.m.executing tag op = none) (f : Infl → State → State) :
    s.withCmd tag op f = s := by
  unfold State.withCmd
  rw [h]

theorem State.withCmd_some {tag : Tag} {op : Nat} {i : Infl} {s : State} (h : s.m.executing tag op = some i)
    (f : Infl → State → State) : s.withCmd tag op f = f i s := by
  unfold State.withCmd
  rw [h]

/-- A row that runs its meaning on the command under a tag needs that command. -/
theorem needsTag_of_withCmd {op : Nat} {mk : Tag → Instr} (f : Tag → Infl → State → State)
    (h : ∀ tag s, exec (mk tag) s = .next (s.withCmd tag op (f tag))) : needsTag op mk := fun tag s hn => by
  rw [h, State.withCmd_none hn]

/-- So does a row that looks the command up in the machine. -/
theorem needsTag_of_on {op : Nat} {mk : Tag → Instr} (f : Infl → Mach → Mach)
    (h : ∀ tag s, exec (mk tag) s = .next (s.on fun m => match m.executing tag op with | some i => f i m | none => m)) :
    needsTag op mk := fun tag s hn => by
  rw [h]
  unfold State.on
  dsimp only
  rw [hn]

theorem needTags_hold : needTags :=
  ⟨needsTag_of_withCmd _ fun _ _ => rfl, needsTag_of_withCmd _ fun _ _ => rfl, needsTag_of_withCmd _ fun _ _ => rfl,
    needsTag_of_withCmd _ fun _ _ => rfl, needsTag_of_withCmd _ fun _ _ => rfl, needsTag_of_withCmd _ fun _ _ => rfl,
    needsTag_of_on _ fun _ _ => rfl, needsTag_of_on _ fun _ _ => rfl, needsTag_of_on _ fun _ _ => rfl,
    needsTag_of_withCmd _ fun _ _ => rfl, needsTag_of_withCmd _ fun _ _ => rfl, needsTag_of_withCmd _ fun _ _ => rfl,
    needsTag_of_withCmd _ fun _ _ => rfl, needsTag_of_withCmd _ fun _ _ => rfl, needsTag_of_withCmd _ fun _ _ => rfl,
    needsTag_of_withCmd _ fun _ _ => rfl, needsTag_of_withCmd _ fun _ _ => rfl⟩

/-! ## WRITE (R338) -/

theorem exec_ringWrite {tag : Tag} {i : Infl} {s : State} (h : s.m.executing tag 0x01 = some i) :
    exec (.ringWrite tag) s = .next (s.ringWrite i) := congrArg Host.Outcome.next (State.withCmd_some h _)

theorem ringWrites_hold : ringWrites := by
  refine fun tag s i h => ⟨fun hlo hhi => ⟨_, exec_ringWrite h, if_neg (by omega)⟩, fun hbad => ?_⟩
  rw [exec_ringWrite h]
  exact congrArg Host.Outcome.next (if_pos hbad)

/-! ## MEAS_SNAP (R338) -/

theorem exec_measSnap {tag : Tag} {i : Infl} {s : State} (h : s.m.executing tag 0x51 = some i) :
    exec (.measSnap tag) s = .next (s.measSnap i) := congrArg Host.Outcome.next (State.withCmd_some h _)

/-- The parameters of a MEAS_SNAP are out of range. -/
def Infl.snapBad (i : Infl) (m : Mach) : Bool :=
  (i.snapChs.any fun n => decide (m.nch ≤ n)) || 256 < fld (i.word 4) 8 8 + i.snapChs.length

theorem Infl.snapBad_false {i : Infl} {m : Mach} (hn : ∀ n, n ∈ i.snapChs → n < m.nch)
    (hl : fld (i.word 4) 8 8 + i.snapChs.length ≤ 256) : i.snapBad m = false := by
  unfold Infl.snapBad
  rw [Bool.or_eq_false_iff, List.any_eq_false, decide_eq_false_iff_not]
  exact ⟨fun n h => by have := hn n h; simpa using this, by omega⟩

theorem Infl.snapBad_true {i : Infl} {m : Mach}
    (h : 256 < fld (i.word 4) 8 8 + i.snapChs.length ∨ ∃ n, n < 24 ∧ i.snapChs.contains n = true ∧ m.nch ≤ n) :
    i.snapBad m = true := by
  unfold Infl.snapBad
  rw [Bool.or_eq_true, List.any_eq_true, decide_eq_true_eq]
  rcases h with h | ⟨n, -, hc, hn⟩
  · exact .inr h
  · exact .inl ⟨n, List.contains_iff_mem.mp hc, decide_eq_true hn⟩

theorem State.measSnap_bad {i : Infl} {s : State} (h : i.snapBad s.m = true) :
    s.measSnap i = onlyM s (answered i true 2 6 0 0 s.m) := if_pos h

theorem State.measSnap_waits {i : Infl} {s : State} (h : i.snapBad s.m = false)
    (hx : (s.m.rings.snaps.find? fun x => x.tag == i.tag) = none) : s.measSnap i = s := by
  refine (if_neg (by rw [← Infl.snapBad, h]; decide)).trans ?_
  rw [hx]

/-- The sample a MEAS_SNAP waited for is stored and answered. -/
theorem State.measSnap_stored {i : Infl} {x : MeasSnap} {s : State} (h : i.snapBad s.m = false)
    (hx : (s.m.rings.snaps.find? fun x => x.tag == i.tag) = some x) : s.measSnap i =
      { s.sramSetList (sramIndex (fld (i.word 4) 0 6) (fld (i.word 4) 8 8)) (i.snapChs.map fun n => satS16 (nth x.i n 0)) with
        m := answeredAt x.time i true 0 5 (wd i.snapChs.length) 0
          { s.m with rings := { s.m.rings with snaps := s.m.rings.snaps.filter fun y => y.tag != i.tag } } } := by
  refine (if_neg (by rw [← Infl.snapBad, h]; decide)).trans ?_
  rw [hx]
  dsimp only [State.on]
  rw [State.sramSetList_m]
  rfl

theorem measSnaps_hold : measSnaps := by
  refine fun tag s i h => ⟨fun hn hl hx => ?_, fun hn hl x hx => ?_, fun hbad => ?_⟩
  · rw [exec_measSnap h, State.measSnap_waits (Infl.snapBad_false hn hl) hx]
  · refine ⟨_, exec_measSnap h, ?_⟩
    rw [State.measSnap_stored (Infl.snapBad_false hn hl) hx]
    refine ⟨rfl, fun k n hk => ?_, fun a ha => ?_, ?_, ?_⟩
    · exact State.sramWord_sramSetList _ _ k s (by rw [List.getElem?_map, hk]; rfl)
    · exact State.read_sramSetList_ne _ _ s a (by simpa [sramIndex] using ha)
    · exact State.sramSetList_nv _ _ s
    · exact State.sramSetList_pending _ _ s
  · rw [exec_measSnap h, State.measSnap_bad (Infl.snapBad_true hbad)]

/-! ## COMMIT (R60, R67, R338) -/

/-- The request of a COMMIT command. -/
def Mach.ringRequest (tag : Tag) (i : Infl) (m : Mach) : CommitReq :=
  { mask := i.word 5 ++ i.word 4 ++ i.word 3 ++ i.word 2, ctl := i.word 6, tick := m.tickReg, tag := i.word 7,
    ringTag := some tag }

/-- A COMMIT whose request has been raised waits for its commit. -/
theorem ringCommit_waits (tag : Tag) (s : State) (h : (s.m.cmt.pend.bind (·.ringTag)) = some tag) :
    ∃ t, exec (.ringCommit tag) s = .next t ∧ settlesTo s t s.m := by
  cases hx : s.m.executing tag 0x03 with
  | none =>
    exact ⟨s, congrArg Host.Outcome.next (State.withCmd_none hx _), rfl, evtKept.rfl' s.m, fun _ _ => rfl, rfl, rfl⟩
  | some i =>
    exact ⟨_, congrArg Host.Outcome.next (State.withCmd_some hx _), ctl_unchanged (if_neg (by rw [h]; simp))⟩

theorem exec_ringCommit {tag : Tag} {i : Infl} {s : State} (hx : s.m.executing tag 0x03 = some i)
    (hrun : s.m.dev.phase = .running) (h : (s.m.cmt.pend.bind (·.ringTag)) ≠ some tag) :
    exec (.ringCommit tag) s = .next (s.ctl (Mach.request (s.m.ringRequest tag i))) := by
  refine congrArg Host.Outcome.next ((State.withCmd_some hx _).trans (State.ctl_congr (if_pos ?_)))
  simp [hrun, h]

/-! ### How its request ends -/

/-- A machine without its channels and what is reported. -/
def Mach.unchanneled (m : Mach) : Mach := { m.quiet with chans := vmap m.chans fun _ _ => .reset }

theorem Mach.unchanneled_modCh (n : Nat) (f : Chan → Chan) (m : Mach) : (m.modCh n f).unchanneled = m.unchanneled := by
  unfold Mach.modCh
  split <;> rfl

theorem Mach.unchanneled_of_quiet {m m' : Mach} (h : m'.quiet = m.quiet) : m'.unchanneled = m.unchanneled :=
  (congrArg (fun x : Mach => { x with chans := vmap x.chans fun _ _ => .reset }) h :
    { m'.quiet with chans := vmap m'.quiet.chans fun _ _ => .reset } =
      { m.quiet with chans := vmap m.quiet.chans fun _ _ => .reset })

theorem Mach.unchanneled_commitFault (n : Nat) (m : Mach) : (m.commitFault n).unchanneled = m.unchanneled := by
  unfold Mach.commitFault Mach.writeCode Mach.addHist
  split
  · exact (Mach.unchanneled_of_quiet (Mach.quiet_event _ _ _)).trans (Mach.unchanneled_modCh _ _ _)
  · exact Mach.unchanneled_modCh _ _ _

theorem Mach.unchanneled_commitFaults (l : List Nat) (m : Mach) :
    (forList l Mach.commitFault m).unchanneled = m.unchanneled :=
  forList_keeps Mach.unchanneled l _ (fun n _ m => Mach.unchanneled_commitFault n m) m

theorem Mach.unchanneled_withLr {m m' : Mach} (h : m'.unchanneled = m.unchanneled) (seq tag reason : Word) (mask : BitVec 24) :
    (m'.withLr seq tag reason mask).unchanneled = (m.withLr seq tag reason mask).unchanneled := by
  have hu (x : Mach) : (x.withLr seq tag reason mask).unchanneled = x.unchanneled.withLr seq tag reason mask := rfl
  rw [hu, hu, h]

/-- Neither the channels nor a change of the commit engine beside the pending commit bear on what is executed. -/
theorem Mach.executing_of_unchanneled {m m' : Mach} {c : Cmt} (h : m'.unchanneled = ({ m with cmt := c } : Mach).unchanneled)
    (hp : c.pend = m.cmt.pend) (tag : Tag) (op : Nat) : m'.executing tag op = m.executing tag op := by
  have h' : m'.executing tag op = ({ m with cmt := c } : Mach).executing tag op :=
    (congrArg (fun x : Mach => x.executing tag op) h :
      m'.unchanneled.executing tag op = ({ m with cmt := c } : Mach).unchanneled.executing tag op)
  rw [h']
  have hc : c = { c with pend := m.cmt.pend } := by rw [← hp]
  rw [hc]
  rfl

/-- A refused COMMIT completes REFUSED with the number and the reason. -/
theorem Mach.refuse_compl {tag : Tag} {i : Infl} {m : Mach} {c : Cmt} (hx : m.executing tag 0x03 = some i)
    (hp : c.pend = m.cmt.pend) (q : CommitReq) (hq : q.ringTag = some tag) (x : Refused) :
    (Mach.refuse q x { m with cmt := c }).rings.compl =
      (answered i true 8 6 c.seq (wd (x.page * 256 + x.reason)) m).rings.compl := by
  have hu := Mach.unchanneled_withLr (Mach.unchanneled_commitFaults x.chs { m with cmt := c }) c.seq q.tag
    (wd (x.page * 256 + x.reason)) (chMask x.chs)
  have hexec := (Mach.executing_of_unchanneled (m := m) hu hp tag 0x03).trans hx
  unfold Mach.refuse
  rw [hq, quiet_compl (Mach.quiet_recordLr _ _ _ _ _ _ _), Mach.endCommitTag_of_executing hexec]
  generalize Mach.withLr _ _ _ _ _ = m' at hu ⊢
  have hcompl : m'.rings.compl = m.rings.compl :=
    (congrArg (fun y : Mach => y.rings.compl) hu : m'.unchanneled.rings.compl = _)
  have htime : m'.time = m.time := (congrArg Mach.time hu : m'.unchanneled.time = _)
  unfold Mach.complete Mach.addCompl Mach.addComplAt
  dsimp only
  rw [hcompl, htime]
  rfl

/-- A request is captured while no commit waits, or refused. -/
theorem Mach.request_cases (q : CommitReq) (m : Mach) :
    (∃ x c, c.seq = (seqAdvanced m).cmt.seq ∧ c.pend = m.cmt.pend ∧ m.request q = Mach.refuse q x { m with cmt := c }) ∨
    (m.cmt.pend = none ∧ ∃ ws slots, m.request q = (m.summed q).capture q ws slots) := by
  cases hc : (seqAdvanced m).checkRequest q with
  | some x => exact .inl ⟨x, (seqAdvanced m).cmt, rfl, rfl, Mach.request_refused hc⟩
  | none =>
    cases hx : m.resultCheck q with
    | some x => exact .inl ⟨x, (m.summed q).cmt, rfl, rfl, Mach.request_resultRefused hc hx⟩
    | none =>
      refine .inr ⟨?_, _, _, Mach.request_captured hc hx⟩
      by_contra hp
      rw [Mach.checkRequest_eq, Mach.stateCheck_pend q (Option.isSome_iff_ne_none.mpr hp)] at hc
      split at hc
      · cases hc
      · split at hc <;> cases hc

theorem calm_compl {m m' : Mach} (h : m.calm = m'.calm) : m.rings.compl = m'.rings.compl :=
  (congrArg (fun x : Mach => x.rings.compl) h : m.calm.rings.compl = m'.calm.rings.compl)

theorem ringCommit_ends {tag : Tag} {i : Infl} {s : State} (hx : s.m.executing tag 0x03 = some i)
    (hrun : s.m.dev.phase = .running) (hp : (s.m.cmt.pend.bind (·.ringTag)) ≠ some tag) :
    ∃ t, exec (.ringCommit tag) s = .next t ∧ (∀ a, t.m.cfg a = s.m.cfg a) ∧
      t.m.cmt.seq = (if s.m.cmt.seq = 0xFFFF then 1 else s.m.cmt.seq + 1) ∧
      (s.m.cmt.pend.isSome = true → t.m.cmt.pend = s.m.cmt.pend) ∧
      (s.m.cmt.pend = none → ∀ p, t.m.cmt.pend = some p →
        p.mask = i.word 5 ++ i.word 4 ++ i.word 3 ++ i.word 2 ∧ p.ctl = i.word 6 ∧
        p.tag = i.word 7 ∧ p.ringTag = some tag ∧ p.seq = t.m.cmt.seq ∧ t.m.rings.compl = s.m.rings.compl) ∧
      (s.m.cmt.pend.isSome = true ∨ t.m.cmt.pend = none →
        t.m.cmt.lrSeq = t.m.cmt.seq ∧ t.m.cmt.lrTag = i.word 7 ∧ t.latched 0x05 1 ∧
        t.m.rings.compl = (answered i true 8 6 t.m.cmt.lrSeq t.m.cmt.lrReason s.m).rings.compl ∧
        t.m.staged = s.m.staged) ∧
      sameStore s t := by
  have hex := exec_ringCommit hx hrun hp
  generalize hq : s.m.ringRequest tag i = q at hex
  have hcalm : (s.ctl (Mach.request q)).m.calm = (s.m.request q).calm := State.ctl_calm _ s
  have hcompl : (s.ctl (Mach.request q)).m.rings.compl = (s.m.request q).rings.compl := calm_compl hcalm
  rcases Mach.request_cases q s.m with ⟨x, c, hseq, hpend, hr⟩ | ⟨hnone, ws, slots, hr⟩
  · have hstep := SigStep.refuse q x { s.m with cmt := c }
    rw [← hr] at hstep
    obtain ⟨hcmt, ⟨hcfg, hstaged, -, -⟩, -, -, hstore⟩ := Unmoved.ctl (f := Mach.request q) hstep
    have hlatch : (s.ctl (Mach.request q)).latched 0x05 1 := State.ctl_latches (by rw [hr]; exact Mach.refuse_latches _ _ _)
    refine ⟨_, hex, hcfg, ?_, fun _ => ?_, fun hn p hs => ?_, fun _ => ⟨?_, ?_, hlatch, ?_, hstaged⟩, hstore⟩
    · rw [hcmt]; exact hseq
    · rw [hcmt]; exact hpend
    · rw [hcmt, show (c.refused q x).pend = c.pend from rfl, hpend, hn] at hs
      cases hs
    · rw [hcmt]; rfl
    · rw [hcmt, ← hq]; rfl
    · rw [hcompl, hr, Mach.refuse_compl hx hpend q (by rw [← hq]; rfl) x, hcmt]
      rfl
  · have hcmt := calm_cmt hcalm
    rw [hr] at hcmt hcompl
    have hactive : (s.ctl (Mach.request q)).m.active = s.m.active := by rw [calm_active hcalm, hr]; rfl
    refine ⟨_, hex, fun a => Mach.cfg_of_active hactive a, by rw [hcmt]; rfl, fun hs => ?_, fun _ p hs => ?_, fun hs => ?_,
      (State.settle_rel (s.on (Mach.request q))).keep⟩
    · rw [hnone] at hs; cases hs
    · rw [hcmt] at hs
      obtain rfl := Option.some.inj hs
      rw [← hq]
      exact ⟨rfl, rfl, rfl, rfl, by rw [hq, hcmt]; rfl, by rw [hq]; exact hcompl⟩
    · rw [hcmt, hnone] at hs
      rcases hs with hs | hs <;> cases hs

theorem ringCommits_hold : ringCommits :=
  ⟨ringCommit_waits, fun _ _ _ => ringCommit_ends⟩

end Sys2Proof.Machine

open Sys2Proof.Machine

/-- Settles O51: each row is run on the command its tag names. -/
theorem ringCommandsRun : Obligations.RingCommandsRun :=
  ⟨fetches_hold, needTags_hold, ringWrites_hold, ringCommits_hold, measSnaps_hold⟩

end

section
/-! SUPPORT of O43: what every step of a transfer leaves alone, one rule per operation. -/

namespace Sys2Proof.Machine
open Claim

/-! ## The frame of a transfer's steps (R62, R68) -/

/-- What a step leaves of a channel: its capture and its counts of energy and overcurrent; and it writes no code 0xF. -/
structure Chan.Spared (c c' : Chan) : Prop where
  cap    : c'.sig.cap = c.sig.cap
  energy : c'.meas.energy = c.meas.energy
  i2tX   : c'.prot.i2tX = c.prot.i2tX
  code   : c'.flt.code = 0xF → c.flt.code = 0xF

theorem Chan.Spared.rfl' (c : Chan) : c.Spared c := ⟨rfl, rfl, rfl, id⟩

theorem Chan.Spared.trans' {a b c : Chan} (h : a.Spared b) (k : b.Spared c) : a.Spared c :=
  ⟨k.cap.trans h.cap, k.energy.trans h.energy, k.i2tX.trans h.i2tX, fun hf => h.code (k.code hf)⟩

/-- What the steps of a transfer read and leave: the words, the times, the modes, the commit engine and the latches. -/
structure Core where
  active   : WMap
  staged   : WMap
  time     : Time
  now      : Nat
  part     : Part
  phase    : Phase
  governed : Bool
  cmt      : Cmt
  otp      : Otp

def Mach.core (m : Mach) : Core where
  active := m.active
  staged := m.staged
  time := m.time
  now := m.now
  part := m.dev.part
  phase := m.dev.phase
  governed := m.dev.governed
  cmt := m.cmt
  otp := m.otp

/-- No event is lost and every channel is spared. -/
structure Spared (m m' : Mach) : Prop where
  evt  : evtKept m m'
  chan : ∀ n, (m.ch n).Spared (m'.ch n)

/-- A step of a transfer: the core stays too. -/
structure Carried (m m' : Mach) : Prop extends Spared m m' where
  core : m'.core = m.core

theorem Spared.trans' {a b c : Mach} (h : Spared a b) (k : Spared b c) : Spared a c :=
  ⟨h.evt.trans' k.evt, fun n => Chan.Spared.trans' (h.chan n) (k.chan n)⟩

theorem Carried.rfl' (m : Mach) : Carried m m := ⟨⟨evtKept.rfl' m, fun _ => Chan.Spared.rfl' _⟩, rfl⟩

theorem Carried.trans' {a b c : Mach} (h : Carried a b) (k : Carried b c) : Carried a c :=
  ⟨h.toSpared.trans' k.toSpared, k.core.trans h.core⟩

theorem Carried.ite {m a b : Mach} {p : Prop} [Decidable p] (ha : Carried m a) (hb : Carried m b) :
    Carried m (if p then a else b) := by
  split
  · exact ha
  · exact hb

theorem Carried.forList {α : Type} (l : List α) (f : α → Mach → Mach) (h : ∀ a ∈ l, ∀ m, Carried m (f a m)) (m : Mach) :
    Carried m (forList l f m) :=
  forList_rel Carried l f Carried.rfl' (fun _ _ _ => Carried.trans') h m

/-- A step beside the channels. -/
theorem Carried.of_chans {m m' : Mach} (hc : m'.chans = m.chans) (hv : m'.core = m.core) (he : evtKept m m') : Carried m m' :=
  ⟨⟨he, fun n => by rw [Mach.ch_of_chans hc]; exact Chan.Spared.rfl' _⟩, hv⟩

theorem Carried.hidden {m m' : Mach} (hc : m'.chans = m.chans := by rfl) (hv : m'.core = m.core := by rfl)
    (he : m'.evt = m.evt := by rfl) : Carried m m' := .of_chans hc hv (evtKept_of_evt he)

theorem Carried.modCh (n : Nat) {f : Chan → Chan} (m : Mach)
    (hf : ∀ c : Chan, c.Spared (f c) := by exact fun _ => ⟨rfl, rfl, rfl, id⟩) :
    Carried m (m.modCh n f) := by
  refine ⟨⟨evtKept_of_evt (Mach.modCh_evt _ _ _), fun k => ?_⟩, ?_⟩
  · by_cases hn : n < 24
    · rw [Mach.ch_modCh _ _ _ _ hn]
      split
      · exact hf _
      · exact Chan.Spared.rfl' _
    · rw [show m.modCh n f = m from dif_neg hn]
      exact Chan.Spared.rfl' _
  · unfold Mach.modCh
    split <;> rfl

theorem Carried.modOut (o : Nat) (f : OutUnit → OutUnit) (m : Mach) : Carried m (m.modOut o f) :=
  .hidden (Mach.modOut_chans o f m) (by unfold Mach.modOut; split <;> rfl) (Mach.modOut_evt o f m)
theorem Carried.modTb (k : Nat) (f : Timebase → Timebase) (m : Mach) : Carried m (m.modTb k f) :=
  .hidden (Mach.modTb_chans k f m) (by unfold Mach.modTb; split <;> rfl) (Mach.modTb_evt k f m)
theorem Carried.modPair (k : Nat) (f : Pair → Pair) (m : Mach) : Carried m (m.modPair k f) :=
  .hidden (Mach.modPair_chans k f m) (by unfold Mach.modPair; split <;> rfl) (Mach.modPair_evt k f m)
theorem Carried.modTach (i : Nat) (f : Tach → Tach) (m : Mach) : Carried m (m.modTach i f) :=
  .hidden (Mach.modTach_chans i f m) (by unfold Mach.modTach; split <;> rfl) (Mach.modTach_evt i f m)

theorem Carried.of_worked {m m' : Mach} (h : Worked m m') : Carried m m' :=
  .of_chans (Worked.field Mach.chans h) (Worked.field Mach.core h) h.evt

theorem Carried.event (p : Nat) (w : Word) (m : Mach) : Carried m (m.event p w) := .of_worked (Worked.event p w m)

theorem Carried.eventOwn (p : Nat) (w : Word) (e : EqEv) (m : Mach) : Carried m (m.eventOwn p w e) :=
  .of_worked (.of_quiet (Mach.quiet_eventOwn p w e m) (evtKept_eventOwn p w e m))

/-! ## Gates, states and codes -/

theorem Carried.gateOn (n : Nat) (m : Mach) : Carried m (m.gateOn n) :=
  .forList _ _ (fun k _ m => .ite (.rfl' m) ((Carried.modCh k m).trans' (.modOut _ _ _))) m

theorem Carried.gateOff (kind : TurnOff) (n : Nat) (m : Mach) : Carried m (m.gateOff kind n) :=
  .forList _ _ (fun k _ m => .ite ((Carried.modCh k m).trans' (.modOut _ _ _)) (.ite (.modCh k m) (.rfl' m))) m

theorem Carried.setSt (n : Nat) (st : ChSt) (m : Mach) : Carried m (m.setSt n st) := by
  have hst : Carried m (m.modCh (m.leader n) fun c =>
      { c with st := st,
               prot := if st.follows then c.prot else { c.prot with escCnt := 0 },
               rty := { c.rty with
                 goodRun := if st.steady then (c.rty.goodRun || !(m.ch (m.leader n)).st.steady) else false },
               limp := if st.follows then c.limp
                       else { c.limp with run := false, lvl := false, cut := false, hadCut := false } }) := by
    refine .modCh _ m fun c => ?_
    cases st.follows <;> exact ⟨rfl, rfl, rfl, id⟩
  exact .ite hst (hst.trans' (.forList _ _ (fun k _ x => .modOut k _ x) _))

theorem Carried.endInrush (n cause : Nat) (m : Mach) : Carried m (m.endInrush n cause) := .ite (.modCh _ m) (.rfl' m)

theorem Carried.addHist (k : Nat) (bits : BitVec 16) (m : Mach) : Carried m (m.addHist k bits) := .modCh k m

theorem Carried.writeCode {code : Nat} (k detail : Nat) (m : Mach) (hc : code ≠ 0xF) : Carried m (m.writeCode k code detail) := by
  refine Carried.trans' ?_ (.event _ _ _)
  exact .modCh k m fun _ => ⟨rfl, rfl, rfl, fun h => absurd h hc⟩

theorem Carried.clearCode (k : Nat) (m : Mach) : Carried m (m.clearCode k) :=
  .modCh k m fun _ => ⟨rfl, rfl, rfl, fun h => nomatch h⟩

theorem Carried.clearIf (k : Nat) (codes : List Nat) (m : Mach) : Carried m (m.clearIf k codes) :=
  .ite (.clearCode k m) (.rfl' m)

theorem Carried.frPush (it : FrItem) (m : Mach) : Carried m (m.frPush it) := by
  have hlost : Carried m { m with dev := { m.dev with frLost := inc16 m.dev.frLost } } := .hidden
  exact .ite (.rfl' m) (.ite (hlost.trans' (.event _ _ _)) .hidden)

theorem Carried.recordFault (k code detail : Nat) (first : Bool) (m : Mach) : Carried m (m.recordFault k code detail first) := by
  have hs (x : Nat) : Carried m (m.setSupp k x) := .hidden
  have hp : Carried m (m.passFault k code detail first) := by
    unfold Mach.passFault
    exact (Carried.ite (.ite (hs _) (hs _)) (.rfl' m)).trans' (.frPush _ _)
  exact .ite (hp.trans' (.modCh _ _)) hp

/-! ## Turn-off faults -/

theorem Carried.latch (l : Nat) (m : Mach) : Carried m (m.latch l) := (Carried.setSt l _ m).trans' (.modCh _ _)

theorem Carried.retryAct (l code detail : Nat) (m : Mach) : Carried m (m.retryAct l code detail).1 := by
  unfold Mach.retryAct
  dsimp only
  split
  · exact .latch l m
  · split
    · exact .latch l m
    · exact (Carried.setSt l _ m).trans' (.modCh _ _)

theorem Carried.faultAct (l code detail : Nat) (st : ChSt) (conducts : Bool) (m : Mach) :
    Carried m (m.faultAct l code detail st conducts).1 := by
  unfold Mach.faultAct
  split
  · split
    · exact (Carried.setSt l _ m).trans' (.modCh _ _)
    · exact .retryAct l code detail m
  · split
    · exact .latch l m
    · split
      · exact .latch l m
      · split
        · exact .modCh _ m
        · exact .rfl' m

theorem Carried.discharge (k : Nat) (m : Mach) : Carried m (m.discharge k) := (Carried.gateOff _ k m).trans' (.modCh k _)

theorem Carried.holdBack (k code detail : Nat) (bits : BitVec 16) (m : Mach) : Carried m (m.holdBack k code detail bits) := by
  have h : Carried m (m.modCh k fun c =>
      { c with flt := { c.flt with late := c.flt.late ++ [⟨code, detail, bits, c.prot.est⟩] } }) := .modCh k m
  exact .ite h (h.trans' (.modCh _ _))

section
variable {code : Nat} (hc : code ≠ 0xF)
include hc

theorem Carried.noteFault (k detail : Nat) (bits : BitVec 16) (st : ChSt) (m : Mach) :
    Carried m (m.noteFault k code detail bits st) := by
  have h : Carried m ((m.addHist k bits).writeCode k code detail) := (Carried.addHist k bits m).trans' (.writeCode k detail _ hc)
  exact .ite h (h.trans' ((Carried.addHist _ _ _).trans' (.writeCode _ detail _ hc)))

omit hc in
theorem Carried.reportFault (k l code detail : Nat) (first exhausted : Bool) (m : Mach) :
    Carried m (m.reportFault k l code detail first exhausted) := by
  have h : Carried m (m.recordFault k code detail first) := .recordFault k code detail first m
  exact .ite (h.trans' (((Carried.writeCode l 0 _ (by decide)).trans' (.event _ _ _)).trans' (.recordFault _ _ _ _ _))) h

theorem Carried.faultRecorded (k detail : Nat) (bits : BitVec 16) (st : ChSt) (conducts first : Bool) (m : Mach) :
    Carried m (m.faultRecorded k code detail bits st conducts first) :=
  (((Carried.noteFault hc k detail bits st m).trans' (.endInrush _ 4 _)).trans' (.faultAct _ _ _ _ _ _)).trans'
    (.reportFault _ _ _ _ _ _ _)

/-- A turn-off fault found alone. -/
theorem Carried.turnOffFault (k detail : Nat) (m : Mach) : Carried m (m.turnOffFault k code detail 0) := by
  rw [Mach.turnOffFault_eq]
  dsimp only
  rw [Mach.firstFound_none]
  exact .ite ((Carried.discharge k m).trans' (.holdBack _ _ _ _ _))
    ((Carried.discharge k m).trans' (.faultRecorded hc _ _ _ _ _ _ _))

end

/-! ## Cuts and starts -/

theorem Carried.holdCutCh (n : Nat) (m : Mach) : Carried m (m.holdCutCh n) := by
  have h : Carried m (if m.pwmRules (m.leader n) then m.modOut (m.leader n) fun u => { u with cut := true }
      else m.modCh (m.leader n) fun c => { c with limp := { c.limp with cut := true } }) := .ite (.modOut _ _ m) (.modCh _ m)
  exact .ite (h.trans' (.gateOff _ _ _)) h

theorem Carried.countEsc (l : Nat) (m : Mach) : Carried m (m.countEsc l) := by
  have h : Carried m (m.modCh l fun c =>
      { c with prot := { c.prot with escCnt := min 255 ((m.ch l).prot.escCnt + 1) } }) := .modCh l m
  exact .ite (h.trans' (.turnOffFault (by decide) _ _ _)) h

theorem Carried.countedCut (l : Nat) (m : Mach) : Carried m (m.countedCut l) :=
  (Carried.ite (.modOut _ _ m) (.modCh _ m)).trans' (.modCh l _)

theorem Carried.countCutCh (n : Nat) (m : Mach) : Carried m (m.countCutCh n) := by
  rw [Mach.countCutCh_eq]
  exact .ite (.rfl' m) ((Carried.countedCut _ m).trans' (.countEsc _ _))

theorem Carried.cutCh (n : Nat) (m : Mach) : Carried m (m.cutCh n) := by
  have h : Carried m (m.holdCuts n) := (Carried.holdCutCh n m).trans' (.ite (.holdCutCh _ _) (.rfl' _))
  rw [Mach.cutCh_eq]
  exact .ite (h.trans' (.countCutCh n _)) (.rfl' m)

theorem Carried.enterFollowing (l : Nat) (st : ChSt) (m : Mach) : Carried m (m.enterFollowing l st) :=
  .ite ((Carried.setSt l st m).trans' (.cutCh l _)) (.setSt l st m)

theorem Carried.startInrush (l profile : Nat) (retry : Bool) (m : Mach) : Carried m (m.startInrush l profile retry) := by
  obtain ⟨r, -, he⟩ := Mach.startInrush_eq (l := l) profile retry m
  have h : Carried m (m.inrushWith l r) :=
    ((Carried.setSt l .inrush m).trans' (.modCh l _)).trans' (.forList _ _ (fun k _ x => .ite (.rfl' x) (.modCh k x)) _)
  rw [he]
  exact .ite (h.trans' (.gateOn l _)) (h.trans' (.gateOff _ l _))

theorem Carried.uvFault (l : Nat) (m : Mach) : Carried m (m.uvFault l []) :=
  .ite (.forList _ _ (fun _ _ _ => .turnOffFault (by decide) _ _ _) m) (.rfl' m)

theorem Carried.off (l : Nat) (m : Mach) : Carried m ((m.gateOff .programmed l).setSt l .off) :=
  (Carried.gateOff _ l m).trans' (.setSt l _ _)

theorem Carried.turnedOn (l : Nat) (m : Mach) : Carried m ((m.setSt l .on).gateOn l) :=
  (Carried.setSt l _ m).trans' (.gateOn l _)

theorem Carried.startFromOff (l : Nat) (retry : Bool) (m : Mach) : Carried m (m.startFromOff l retry) := by
  have harm (x : Mach) : Carried x (x.armSig l) := .modCh l x
  have h0 : Carried m (m.modCh l fun c =>
      { c with limp := { c.limp with safeFlt := false }, rty := { c.rty with elapsed := false } }) := .modCh l m
  have hfollow (x : Mach) : Carried x
      ((if x.dev.governed || l % 8 != 0 then x.gateOff .programmed l else x).enterFollowing l .pwm) :=
    (Carried.ite (.gateOff _ l x) (.rfl' x)).trans' (.enterFollowing l .pwm _)
  unfold Mach.startFromOff
  exact .ite (h0.trans' (.off l _)) (((h0.trans' (harm _)).trans' (.ite (.startInrush l _ retry _)
    (.ite (.turnedOn l _) (hfollow _)))).trans' (.uvFault l _))

theorem Carried.runRetry (l : Nat) (m : Mach) : Carried m (m.runRetry l) :=
  .ite ((Carried.modCh l m).trans' (.setSt l .off _)) ((Carried.modCh l m).trans' (.startFromOff l true _))

/-! ## Holds and modes -/

theorem Carried.safeDrive (l : Nat) (m : Mach) : Carried m (m.safeDrive l) := .ite (.gateOn l m) (.gateOff _ l m)

theorem Carried.applyHold {code : Nat} (hc : code ≠ 0xF) (l : Nat) (m : Mach) : Carried m (m.applyHold l code) := by
  have hcode (first : Bool) (x : Mach) : Carried x ((x.writeCode l code 0).recordFault l code 0 first) :=
    (Carried.writeCode l 0 x hc).trans' (.recordFault _ _ _ _ _)
  have hcount (x : Mach) : Carried x (x.modCh l fun c =>
      if code = 0x7 then { c with thm := { c.thm with thCnt := inc16 c.thm.thCnt } }
      else if code = 0xE then { c with limp := { c.limp with shedCnt := inc16 c.limp.shedCnt } } else c) := by
    refine .modCh l x fun c => ?_
    split_ifs <;> exact ⟨rfl, rfl, rfl, id⟩
  have hshed : Carried m (((m.endInrush l 5).gateOff .programmed l).setSt l .shed) :=
    ((Carried.endInrush l 5 m).trans' (.gateOff _ l _)).trans' (.setSt l _ _)
  unfold Mach.applyHold
  exact .ite ((hshed.trans' (hcode _ _)).trans' (hcount _)) (.ite (hcode _ m)
    (.ite (((hcode _ m).trans' (.safeDrive l _)).trans' (hcount _)) (.rfl' m)))

theorem Mach.holdCode_ne (m : Mach) (l : Nat) : m.holdCode l ≠ 0xF := by
  unfold Mach.holdCode
  split_ifs <;> decide

theorem Carried.releaseHold (l : Nat) (m : Mach) : Carried m (m.releaseHold l) := by
  have hopen (p : Prop) [Decidable p] : Carried m (if p then m else m.clearIf l [0x7, 0x8]) := .ite (.rfl' m) (.clearIf l _ m)
  unfold Mach.releaseHold
  split
  · exact .ite (.ite (.rfl' m) (.ite (.writeCode l 0 m (m.holdCode_ne l)) (.rfl' m)))
      ((Carried.clearIf l _ m).trans' (.startFromOff l false _))
  · exact (hopen _).trans' (.safeDrive l _)
  · exact .ite ((hopen _).trans' (.startFromOff l false _)) (hopen _)
  · exact .ite (.runRetry l m) (.rfl' m)
  · exact .rfl' m

theorem Carried.judgeThrottle (l : Nat) (m : Mach) : Carried m (m.judgeThrottle l) := by
  have h : Carried m (m.modCh l fun c => { c with limp := { c.limp with thrSeen := m.throttleHold l } }) := .modCh l m
  exact .ite (h.trans' (.applyHold (by decide) l _)) (.ite (h.trans' (.releaseHold l _)) h)

theorem Carried.judgeAll (m : Mach) : Carried m m.judgeAll :=
  (Carried.forList _ _ (fun l _ x => .judgeThrottle l x) m).trans' (.forList _ _ (fun l _ x => .judgeThrottle l x) _)

theorem Carried.endSafe (m : Mach) : Carried m m.endSafe :=
  .ite (.rfl' m) (.forList _ _ (fun l _ x => .ite (.startFromOff l false x) (.rfl' x)) m)

theorem Carried.followMode (l : Nat) (st : ChSt) (m : Mach) : Carried m (m.enterFollowing l st) ∧
    Carried m ((m.enterFollowing l st).joinAtCmp l) :=
  ⟨.enterFollowing l st m, (Carried.enterFollowing l st m).trans' (.modOut l _ _)⟩

theorem Carried.applyMode (l old : Nat) (m : Mach) : Carried m (m.applyMode l old) := by
  obtain ⟨hf, hj⟩ := Carried.followMode l (if m.mode l = 2 then .pwm else .hold) m
  have hrun : Carried m (if m.mode l = 0 then (m.gateOff .programmed l).setSt l .off
      else if m.mode l = 1 then (m.setSt l .on).gateOn l
      else if !(m.ch l).st.follows then (m.enterFollowing l (if m.mode l = 2 then .pwm else .hold)).joinAtCmp l
      else m.enterFollowing l (if m.mode l = 2 then .pwm else .hold)) :=
    .ite (.off l m) (.ite (.turnedOn l m) (.ite hj hf))
  unfold Mach.applyMode
  split
  · exact .ite (.startFromOff l false m) (.rfl' m)
  · exact .ite ((Carried.endInrush l 5 m).trans' (.off l _)) (.rfl' m)
  · exact hrun
  · exact hrun
  · exact hrun
  · exact .rfl' m

/-- A channel whose limp generator has stopped and whose outputs await a compare (R295). -/
def Mach.offGen (l : Nat) (m : Mach) : Mach :=
  let m := m.modCh l fun c => { c with limp := { c.limp with run := false, lvl := false, cut := false, hadCut := false } }
  forList (m.members l) (fun k m => m.modOut k fun u => { u with joined := false, atCmp := true }) m

theorem Carried.offGen (l : Nat) (m : Mach) : Carried m (m.offGen l) :=
  (Carried.modCh l m).trans' (.forList _ _ (fun k _ x => .modOut k _ x) _)

theorem Carried.limpLeave (l : Nat) (m : Mach) : Carried m (m.limpLeave l) := by
  unfold Mach.limpLeave
  refine Carried.trans' (.offGen l m) ?_
  dsimp only
  split
  · exact .ite (.startFromOff l false _) (.rfl' _)
  · exact .applyMode l _ _

end Sys2Proof.Machine
end

section
/-! PROOF of O43: the parts of a transfer, and what a commit that applies leaves. -/

namespace Sys2Proof.Machine
open Claim

theorem Carried.part {m m' : Mach} (h : Carried m m') : m'.dev.part = m.dev.part := congrArg Core.part h.core

/-! ## Levels, pairs and loads -/

theorem Carried.edgeEvents (o : Nat) (rising : Bool) (m : Mach) : Carried m (m.edgeEvents o rising) := by
  have h (k type : Nat) : Carried m (m.deliver k type) := .ite (.eventOwn _ _ _ m) (.rfl' m)
  exact .ite (h _ _) (.rfl' m)

theorem Carried.setUnit (o : Nat) (m : Mach) : Carried m (m.setUnit o) := by
  have h : Carried m ((m.modOut o fun u => { u with level := m.unitLevel o }).edgeEvents o (m.unitLevel o)) :=
    (Carried.modOut o _ m).trans' (.edgeEvents o _ _)
  exact .ite (.rfl' m) (.ite (h.trans' (.modPair _ _ _)) h)

theorem Carried.driveOut (o : Nat) (m : Mach) : Carried m (m.driveOut o) := by
  have h : Carried m (m.modOut o fun u =>
      { u with drive := m.stageLevel o, joined := u.joined || m.stageLevel o != (m.out o).drive }) := .modOut o _ m
  exact .ite (.ite (.ite (h.trans' (.gateOn o _)) (h.trans' (.gateOff _ o _))) h) (.ite (h.trans' (.modOut o _ _)) h)

theorem Carried.drivePair (o : Nat) (m : Mach) : Carried m (m.drivePair o) :=
  .ite ((Carried.driveOut _ m).trans' (.driveOut _ _)) ((Carried.driveOut _ m).trans' (.driveOut _ _))

theorem Carried.judgeDt (k : Nat) (m : Mach) : Carried m (m.judgeDt k) := .modPair k _ m

theorem Carried.noteClamp (o : Nat) (m : Mach) : Carried m (m.noteClamp o) := by
  have h : Carried m (m.modOut o fun u => { u with incons := true, clampRun := true, loaded := false }) := .modOut o _ m
  exact .ite (.modOut o _ m) (.ite (h.trans' (.event _ _ _)) (h.trans' (.event _ _ _)))

theorem Carried.judgeClamp (o : Nat) (m : Mach) : Carried m (m.judgeClamp o) :=
  ((Carried.ite (.noteClamp o m) (.rfl' m)).trans' (.modOut o _ _)).trans' (.judgeDt _ _)

theorem Carried.loadCmp (o : Nat) (m : Mach) : Carried m (m.loadCmp o) := by
  unfold Mach.loadCmp
  split
  · exact (Carried.modOut o _ m).trans' (.modOut o _ _)
  · exact .rfl' m

theorem Carried.loadSlot (o : Nat) (m : Mach) : Carried m (m.loadSlot o) := .modOut o _ m

theorem Carried.loadNow (o : Nat) (m : Mach) : Carried m (m.loadNow o) :=
  .ite (.rfl' m) ((((Carried.loadCmp o m).trans' (.judgeClamp o _)).trans' (.setUnit o _)).trans' (.drivePair o _))

theorem Carried.judgeDith (o : Nat) (m : Mach) : Carried m (m.judgeDith o) :=
  .ite ((Carried.modOut o _ m).trans' (.event _ _ _)) (.modOut o _ m)

theorem Carried.setSwap (k : Nat) (sw asw : Bool) (m : Mach) : Carried m (m.setSwap k sw asw) := by
  have h : Carried m (m.modPair k fun q => { q with eff := sw != asw, swapIn := sw, aswpIn := asw }) := .modPair k _ m
  refine .ite (h.trans' ?_) h
  exact (Carried.forList _ _ (fun i _ x => .ite (.modTach i _ x) (.rfl' x)) _).trans'
    (.forList _ _ (fun o _ x => (Carried.modOut o _ x).trans' (.judgeDith o _)) _)

/-! ## The parts of a transfer (R62) -/

theorem Carried.applyTb (old : Mach) (p : Pending) (k : Nat) (m : Mach) : Carried m (Mach.applyTb old p k m) := by
  have hrun : Carried m (Mach.applyRun old p k m) := .ite (.modTb k _ m) (.ite (.modTb k _ m) (.rfl' m))
  have hper (x : Mach) : Carried x (x.applyPeriod p k) := .modTb k _ x
  have hhold (x : Mach) : Carried x (x.applyHoldOn p k) := .ite (.rfl' x) (.ite (.modTb k _ x) (.modTb k _ x))
  exact .ite (hrun.trans' (hper _)) (hrun.trans' (hhold _))

theorem Carried.applyCmp (p : Pending) (o : Nat) (m : Mach) : Carried m (m.applyCmp p o) := .ite (.modOut o _ m) (.rfl' m)

theorem Carried.applySlot (p : Pending) (x : Nat × Nat) (m : Mach) : Carried m (m.applySlot p x) :=
  .ite (.modOut _ _ m) (.ite ((Carried.modOut _ _ m).trans' (.loadSlot _ _)) (.modOut _ _ m))

theorem Carried.applyLoad (old : Mach) (p : Pending) (o : Nat) (m : Mach) : Carried m (Mach.applyLoad old p o m) :=
  .ite ((Carried.modOut o _ m).trans' (.loadNow o _)) (.modOut o _ m)

theorem Carried.only (b : Bool) {f : Mach → Mach} {m : Mach} (h : Carried m (f m)) : Carried m (onlyIf b f m) := by
  unfold onlyIf
  exact .ite h (.rfl' m)

/-- A change of SWAP of pair `k` awaits a zero, or takes effect where the timebase is stopped (R220). -/
def Mach.applySwap (old : Mach) (p : Pending) (k : Nat) (m : Mach) : Mach :=
  let tb := (m.tbSel (2 * k)).1
  let sw := bit (m.pairWord k) 2
  if sw != bit (old.pairWord k) 2 then
    let m := m.modPair k fun q => { q with swapAt := m.now, pendNow := p.bound tb }
    if m.stopped tb then ((m.modPair k fun q => { q with pendNow := false }).setSwap k sw (m.pair k).aswpIn).drivePair (2 * k)
    else m
  else m

/-- The units of pair `k` take their levels, those of `a` and `b` anew. -/
def Mach.redrive (k : Nat) (a b : Bool) (m : Mach) : Mach :=
  ((((onlyIf a (Mach.setUnit (2 * k))) m) |> onlyIf b (Mach.setUnit (2 * k + 1))).judgeDt k).drivePair (2 * k)

theorem Mach.applyPair_eq (old : Mach) (p : Pending) (k : Nat) (m : Mach) : Mach.applyPair old p k m =
    let m := Mach.applySwap old p k m
    let moved (o : Nat) : Bool := m.tbSel o != old.tbSel o
    if m.pairWord k != old.pairWord k || moved (2 * k) || moved (2 * k + 1) then m.redrive k (moved (2 * k)) (moved (2 * k + 1))
    else m := rfl

theorem Carried.applySwap (old : Mach) (p : Pending) (k : Nat) (m : Mach) : Carried m (Mach.applySwap old p k m) := by
  have h : Carried m (m.modPair k fun q => { q with swapAt := m.now, pendNow := p.bound (m.tbSel (2 * k)).1 }) := .modPair k _ m
  exact .ite (.ite (((h.trans' (.modPair k _ _)).trans' (.setSwap k _ _ _)).trans' (.drivePair _ _)) h) (.rfl' m)

theorem Carried.redrive (k : Nat) (a b : Bool) (m : Mach) : Carried m (m.redrive k a b) :=
  (((Carried.only a (.setUnit _ m)).trans' (.only b (.setUnit _ _))).trans' (.judgeDt k _)).trans' (.drivePair _ _)

theorem Carried.applyPair (old : Mach) (p : Pending) (k : Nat) (m : Mach) : Carried m (Mach.applyPair old p k m) := by
  rw [Mach.applyPair_eq]
  exact .ite ((Carried.applySwap old p k m).trans' (.redrive k _ _ _)) (.applySwap old p k m)

theorem Carried.applyTrips (m : Mach) : Carried m m.applyTrips := by
  have htrips (t : Vector TripIn 4) : Carried m { m with trips := t } := .hidden
  have hlim (n : Nat) (x : Mach) : Carried x (x.modCh n fun c => { c with prot := { c.prot with clim := false } }) := .modCh n x
  have hrises {l : List (Fin 4)} (x : Mach) : Carried x (Machine.forList l (fun j m => m.event 0x08 (wd (2 ^ j.val))) x) :=
    .forList _ _ (fun _ _ y => .event _ _ y) x
  exact (((htrips _).trans' (hrises _)).trans' (.forList _ _ (fun n _ x => .ite (hlim n x) (.rfl' x)) _)).trans'
    (.forList _ _ (fun o _ x => .judgeDith o x) _)

theorem Carried.startWdg (m : Mach) : Carried m m.startWdg := .hidden

theorem Carried.applyBucket (l : Nat) (m : Mach) : Carried m (m.applyBucket l) := .modCh l m

theorem Carried.applyNamed (pages : List Nat) (n : Nat) (m : Mach) : Carried m (m.applyNamed pages n) :=
  .ite ((Carried.modCh n m).trans' (.forList _ _ (fun k _ x => .clearIf k _ x) _)) (.rfl' m)

theorem Carried.siteReport (m : Mach) : Carried m m.siteReport := by
  have hev (p : Prop) [Decidable p] (w : Word) (x : Mach) : Carried x (if p then x else x.event 0x0F w) :=
    .ite (.rfl' x) (.event _ w x)
  exact (((Carried.of_worked (Worked.modSite _ m)).trans' (hev _ _ _)).trans' (hev _ _ _)).trans' (hev _ _ _)

theorem Carried.siteChanged (m : Mach) : Carried m m.siteChanged := by
  have hfix (x : Mach) : Carried x x.fixCycles := .ite (.of_worked (Worked.modSite _ x)) (.rfl' x)
  exact ((Carried.of_worked (Worked.siteLeave m)).trans' (hfix _)).trans' (.of_worked (Worked.autoJoin _))

theorem Carried.edgePins (old m : Mach) : Carried m (Mach.edgePins old m) := .forList _ _ (fun _ _ x => .modOut _ _ x) m

theorem Carried.cutOut (o : Nat) (m : Mach) : Carried m (m.cutOut o) := by
  have hold (o : Nat) (x : Mach) : Carried x (x.holdCut o) := .ite (.holdCutCh o x) (.modOut o _ x)
  have hcount (x : Mach) : Carried x (x.countCut o) :=
    .ite (.countCutCh o x) (.ite (.rfl' x) ((Carried.modOut o _ x).trans' (.event _ _ _)))
  exact .ite (.cutCh o m) (.ite (((hold o m).trans' (.ite (hold _ _) (.rfl' _))).trans' (hcount _)) (.rfl' m))

theorem Carried.actCuts (m : Mach) : Carried m m.actCuts := .forList _ _ (fun o _ x => .ite (.cutOut o x) (.rfl' x)) m

theorem Carried.tachSettle (m : Mach) : Carried m m.tachSettle :=
  .forList _ _ (fun i _ x => .ite (.modTach i _ x) (.rfl' x)) m

theorem Carried.learnCheck (m : Mach) : Carried m m.learnCheck := by
  unfold Mach.learnCheck
  split
  · exact .ite (.rfl' m) ((Carried.of_worked (Worked.failOp _ _ m)).trans' (.of_worked (Worked.nextFree _)))
  · exact .rfl' m

theorem Carried.judgeSlow (i : Nat) (m : Mach) : Carried m (m.judgeSlow i) := (Carried.modTach i _ m).trans' (.modTach i _ _)

theorem Carried.noteState (m : Mach) : Carried m m.noteState := by
  have h (x : Nat) : Carried m { m with dev := { m.dev with seenState := x } } := .hidden
  exact .ite (.rfl' m) ((h _).trans' (.event _ _ _))

/-! ## The words, and the codes they clear (R62, R68) -/

/-- The machine with the captured words active and no commit pending. -/
def Mach.committed (p : Pending) (m : Mach) : Mach :=
  forList p.words (fun x m => m.setCfg x.1 x.2) { m with cmt := { m.cmt with pend := none } }

theorem Mach.cfg_forList_setCfg (a : Nat) (ws : WMap) : ∀ m : Mach, (forList ws (fun x m => m.setCfg x.1 x.2) m).cfg a =
    ((ws.reverse.find? fun x => x.1 == a).map (·.2)).getD (m.cfg a) := by
  induction ws with
  | nil => exact fun _ => rfl
  | cons x t ih =>
    intro m
    rw [forList_cons, ih, List.reverse_cons, List.find?_append, Mach.cfg_setCfg]
    cases t.reverse.find? fun y => y.1 == a with
    | some y => rfl
    | none =>
      by_cases hx : x.1 = a
      · simp [hx]
      · simp [hx, Ne.symm hx]

theorem Mach.committed_keeps {β : Type} (g : Mach → β) (p : Pending) (m : Mach)
    (hg : ∀ a w m, g (Mach.setCfg a w m) = g m := by intros; rfl) :
    g (m.committed p) = g { m with cmt := { m.cmt with pend := none } } :=
  forList_keeps g p.words _ (fun x _ m => hg x.1 x.2 m) _

theorem Spared.committed (p : Pending) (m : Mach) : Spared m (m.committed p) where
  evt := evtKept_of_evt (Mach.committed_keeps Mach.evt p m)
  chan n := by
    rw [Mach.ch_of_chans (a := m) (Mach.committed_keeps Mach.chans p m)]
    exact Chan.Spared.rfl' _

theorem Mach.committed_core (p : Pending) (m : Mach) : (m.committed p).core =
    { m.core with active := (m.committed p).active, cmt := { m.cmt with pend := none } } :=
  Mach.committed_keeps (fun x => { x.core with active := (m.committed p).active }) p m

/-- A pass over a list that holds `n` establishes what the step on `n` does and the others keep. -/
theorem forList_establishes {α σ : Type} (P : σ → Prop) {n : α} (f : α → σ → σ) (hn : ∀ s, P (f n s))
    (hk : ∀ a s, P s → P (f a s)) {l : List α} (h : n ∈ l) (s : σ) : P (forList l f s) := by
  obtain ⟨u, t, rfl⟩ := List.append_of_mem h
  clear h
  induction u generalizing s with
  | nil => exact forList_inv P t f (fun a _ => hk a) _ (hn s)
  | cons a u ih => exact ih _

/-- Channel `n` does not have code 0xF. -/
def Mach.noF (n : Nat) (m : Mach) : Prop := (m.ch n).flt.code ≠ 0xF

theorem Spared.noF {m m' : Mach} (h : Spared m m') {n : Nat} (hn : m.noF n) : m'.noF n := fun hf => hn ((h.chan n).code hf)

theorem Mach.noF_clearIf {n : Nat} (m : Mach) (hn : n < 24) : (m.clearIf n [0xF]).noF n := by
  unfold Mach.noF Mach.clearIf
  split
  · unfold Mach.clearCode
    rw [Mach.ch_modCh_self _ _ _ hn]
    exact nofun
  · next h => simpa using h

/-- A named page clears the code of its channel (R68). -/
theorem Mach.noF_applyNamed {pages : List Nat} {n : Nat} (m : Mach) (hn : n < 24) (hp : pages.contains (chPage n) = true) :
    (m.applyNamed pages n).noF n := by
  have hpass {l : List Nat} (h : n ∈ l) (x : Mach) : (forList l (fun k m => m.clearIf k [0xF]) x).noF n :=
    forList_establishes (Mach.noF n) (fun k m => m.clearIf k [0xF]) (fun y => y.noF_clearIf hn)
      (fun k y hy => (Carried.clearIf k [0xF] y).toSpared.noF hy) h x
  unfold Mach.applyNamed
  rw [if_pos hp]
  refine hpass ?_ _
  split
  · exact Mach.self_mem _ n
  · exact List.mem_singleton_self n

theorem Mach.noF_applyNamedAll {pages : List Nat} {n : Nat} {l : List Nat} (m : Mach) (hn : n < 24) (hl : n ∈ l)
    (hp : pages.contains (chPage n) = true) : (forList l (Mach.applyNamed pages) m).noF n :=
  forList_establishes (Mach.noF n) _ (fun x => x.noF_applyNamed hn hp)
    (fun k x hx => (Carried.applyNamed pages k x).toSpared.noF hx) hl m

/-! ## Modes and report (R62, R63, R295) -/

theorem Carried.released (m : Mach) : Carried m (if m.dev.governed && (m.clk.refSafe || m.clk.epwmSafe) then
    ({ m with clk := { m.clk with refSafe := false, epwmSafe := false } }).endSafe else m) := by
  have h : Carried m { m with clk := { m.clk with refSafe := false, epwmSafe := false } } := .hidden
  exact .ite (h.trans' (.endSafe _)) (.rfl' m)

/-- Without TAKE_CONTROL the modes of the core stay. -/
theorem Carried.applyModes (old m : Mach) : Carried m (Mach.applyModes old false m) := by
  have h : Carried m (if m.dev.governed then
      Machine.forList m.leaders (fun l m => if m.mode l != old.mode l then m.applyMode l (old.mode l) else m) m else m) :=
    .ite (.forList _ _ (fun l _ x => .ite (.applyMode l _ x) (.rfl' x)) m) (.rfl' m)
  exact h.trans' (.released _)

/-- TAKE_CONTROL makes the device governed and disarms. -/
theorem Mach.takeControl_spared (m : Mach) : Spared m m.takeControl ∧
    m.takeControl.core = { m.core with governed := true, cmt := { m.cmt with takeArmed := false } } := by
  let x : Mach := { m with dev := { m.dev with governed := true }, cmt := { m.cmt with takeArmed := false },
                           limp := { m.limp with lastDur := min 0xFFFF ((m.lf - m.limp.entryAt) / 100000) } }
  have h : Carried x m.takeControl := (Carried.startWdg x).trans' (.event _ _ _)
  have hx : Spared m x := ⟨evtKept_of_evt rfl, fun _ => Chan.Spared.rfl' _⟩
  exact ⟨hx.trans' h.toSpared, h.core⟩

theorem Mach.applyModes_take (old m : Mach) : Spared m (Mach.applyModes old true m) ∧
    (Mach.applyModes old true m).core = { m.core with governed := true, cmt := { m.cmt with takeArmed := false } } := by
  obtain ⟨hs, hc⟩ := m.takeControl_spared
  have h : Carried m.takeControl (Mach.applyModes old true m) :=
    (Carried.forList _ _ (fun l _ x => .limpLeave l x) _).trans' (.released _)
  exact ⟨hs.trans' h.toSpared, h.core.trans hc⟩

/-- The LA group of a commit that applies (R63). -/
def Mach.withLa (p : Pending) (m : Mach) : Mach :=
  let pc := (m.tb (refTbOf p.ctl)).pcnt
  let la := if applyOf p.ctl = 1 then pc + 1 else pc
  { m with cmt := { m.cmt with laSeq := p.seq, laTag := p.tag, laPcnt := la,
                               laTick := if applyOf p.ctl = 3 then p.tick else m.time } }

theorem Carried.endCommitTag (t : Option Tag) (status : Nat) (seq reason : Word) (m : Mach) :
    Carried m (m.endCommitTag t status seq reason) := by
  obtain ⟨l, hl⟩ := m.endCommitTag_eq t status seq reason
  rw [hl]
  exact .hidden

/-- The report changes the LA group, and APPLIED is latched. -/
theorem Mach.applyReport_carried (p : Pending) (m : Mach) : Carried (m.withLa p) (m.applyReport p) ∧
    ((m.applyReport p).evtWord 0x05).getLsbD 0 = true := by
  have h (y : Mach) (e : EqEv) : Carried (y.eventOwn 0x05 0x0001 e)
      (((y.eventOwn 0x05 0x0001 e).endCommitTag p.ringTag stOk p.seq 0).noteState) :=
    (Carried.endCommitTag _ _ _ _ _).trans' (.noteState _)
  exact ⟨(Carried.eventOwn _ _ _ _).trans' (h _ _), (h _ _).evt _ _ (Mach.eventOwn_latches _ _ _ (by decide))⟩

/-! ## The transfer (R62, R63, R68, R295) -/

/-- The timebases, compares, slots, pairs and trips follow the new words. -/
def Mach.arrange (p : Pending) (old m : Mach) : Mach :=
  let m := forList (List.range 8) (Mach.applyTb old p) m
  let m := forList m.units (Mach.applyCmp p) m
  let m := forList p.slots (Mach.applySlot p) m
  let m := forList (List.range 16) (Mach.applyPair old p) m
  m.applyTrips

/-- The watchdog and the retry buckets follow the words that `changed` names. -/
def Mach.refill (changed : Nat → Bool) (m : Mach) : Mach :=
  let m := if m.dev.governed && (changed 0x0B08 || changed 0x0B09) then m.startWdg else m
  forList m.leaders (fun l m =>
    if changed (adr (chPage l) 0x33) || changed (adr (chPage l) 0x30) then m.applyBucket l else m) m

/-- The loads, the holds, the site link, the cuts, the tach inputs and the learning follow. -/
def Mach.conclude (changed : Nat → Bool) (p : Pending) (old m : Mach) : Mach :=
  let m := forList m.units (Mach.applyLoad old p) m
  let m := m.judgeAll
  let m := if changed 0x0F08 || changed 0x0F09 || changed 0x0F0A then m.siteChanged
    else if changed 0x0F0B || changed 0x0F0C then m.siteReport else m
  let m := (((Mach.edgePins old m).actCuts).tachSettle).learnCheck
  forList ((List.range 4).filter fun i => (m.tach i).armed) Mach.judgeSlow m

/-- The words that the transfer changes. -/
def Mach.changedBy (p : Pending) (old : Mach) (a : Nat) : Bool := (Mach.arrange p old (old.committed p)).cfg a != old.cfg a

/-- The machine once units, watchdog and buckets follow the captured words. -/
def Mach.rearranged (p : Pending) (old : Mach) : Mach := (Mach.arrange p old (old.committed p)).refill (Mach.changedBy p old)

/-- The machine in which the modes are about to follow. -/
def Mach.readied (p : Pending) (old : Mach) : Mach :=
  forList (Mach.rearranged p old).allCh (Mach.applyNamed (maskPages p.mask)) (Mach.rearranged p old)

theorem Mach.transfer_eq (p : Pending) (old : Mach) : Mach.transfer p old =
    (Mach.conclude (Mach.changedBy p old) p old
      (Mach.applyModes old (old.cmt.takeArmed && !old.dev.governed) (Mach.readied p old))).applyReport p := by
  unfold Mach.transfer Mach.conclude Mach.readied Mach.rearranged Mach.refill Mach.changedBy Mach.arrange Mach.committed
  with_reducible rfl

theorem Carried.arrange (p : Pending) (old m : Mach) : Carried m (Mach.arrange p old m) :=
  ((((Carried.forList _ _ (fun k _ x => .applyTb old p k x) m).trans' (.forList _ _ (fun o _ x => .applyCmp p o x) _)).trans'
    (.forList _ _ (fun z _ x => .applySlot p z x) _)).trans' (.forList _ _ (fun k _ x => .applyPair old p k x) _)).trans'
    (.applyTrips _)

theorem Carried.refill (changed : Nat → Bool) (m : Mach) : Carried m (m.refill changed) :=
  (Carried.ite (.startWdg m) (.rfl' m)).trans' (.forList _ _ (fun l _ x => .ite (.applyBucket l x) (.rfl' x)) _)

theorem Carried.conclude (changed : Nat → Bool) (p : Pending) (old m : Mach) : Carried m (Mach.conclude changed p old m) := by
  have hsite (x : Mach) : Carried x (if changed 0x0F08 || changed 0x0F09 || changed 0x0F0A then x.siteChanged
      else if changed 0x0F0B || changed 0x0F0C then x.siteReport else x) := .ite (.siteChanged x) (.ite (.siteReport x) (.rfl' x))
  have hcut (x : Mach) : Carried x ((((Mach.edgePins old x).actCuts).tachSettle).learnCheck) :=
    (((Carried.edgePins old x).trans' (.actCuts _)).trans' (.tachSettle _)).trans' (.learnCheck _)
  exact ((((Carried.forList _ _ (fun o _ x => .applyLoad old p o x) m).trans' (.judgeAll _)).trans' (hsite _)).trans'
    (hcut _)).trans' (.forList _ _ (fun i _ x => .judgeSlow i x) _)

/-- What precedes the modes: the captured words are active, no commit is pending, and a named page has cleared its code. -/
theorem Mach.readied_spec (p : Pending) (old : Mach) : Spared old (Mach.readied p old) ∧
    (Mach.readied p old).core =
      { old.core with active := (old.committed p).active, cmt := { old.cmt with pend := none } } ∧
    ∀ n, n < old.nch → (maskPages p.mask).contains (chPage n) = true → (Mach.readied p old).noF n := by
  have hrest : Carried (old.committed p) (Mach.rearranged p old) := (Carried.arrange p old _).trans' (.refill _ _)
  have hnamed : Carried (Mach.rearranged p old) (Mach.readied p old) := Carried.forList _ _ (fun n _ x => .applyNamed _ n x) _
  have hall := hrest.trans' hnamed
  refine ⟨(Spared.committed p old).trans' hall.toSpared, hall.core.trans (Mach.committed_core p old), fun n hn hp => ?_⟩
  have hle := old.nch_le
  have hpart : (Mach.rearranged p old).dev.part = old.dev.part :=
    hrest.part.trans (Mach.committed_keeps (fun x => x.dev.part) p old)
  have hnch : (Mach.rearranged p old).nch = old.nch := by unfold Mach.nch; rw [hpart]
  exact Mach.noF_applyNamedAll _ (by omega) (List.mem_range.mpr (by omega)) hp

/-- The modes follow, and TAKE_CONTROL with them where it is armed. -/
theorem Mach.applyModes_spec (old m : Mach) (take : Bool) : Spared m (Mach.applyModes old take m) ∧
    (Mach.applyModes old take m).core =
      { m.core with governed := m.core.governed || take,
                    cmt := { m.core.cmt with takeArmed := m.core.cmt.takeArmed && !take } } := by
  cases take with
  | true =>
    obtain ⟨hs, hc⟩ := Mach.applyModes_take old m
    refine ⟨hs, hc.trans ?_⟩
    rw [Bool.or_true, Bool.not_true, Bool.and_false]
    rfl
  | false =>
    have h := Carried.applyModes old m
    refine ⟨h.toSpared, h.core.trans ?_⟩
    rw [Bool.or_false, Bool.not_false, Bool.and_true]

theorem Mach.withLa_core (p : Pending) (m : Mach) : ∃ la, (m.withLa p).core =
    { m.core with cmt := { m.core.cmt with
        laSeq := p.seq, laTag := p.tag, laPcnt := la,
        laTick := if applyOf p.ctl = 3 then p.tick else m.core.time } } := ⟨_, rfl⟩

/-- The core after the commit `p` has applied, with the period count `la` (R62, R63, R295). -/
def Core.applied (p : Pending) (la : BitVec 32) (active : WMap) (c : Core) : Core :=
  { c with active := active, governed := c.governed || c.cmt.takeArmed,
           cmt := { c.cmt with pend := none, takeArmed := c.cmt.takeArmed && c.governed, laSeq := p.seq, laTag := p.tag,
                               laPcnt := la, laTick := if applyOf p.ctl = 3 then p.tick else c.time } }

theorem Mach.transfer_core (p : Pending) (old : Mach) :
    ∃ la, (Mach.transfer p old).core = old.core.applied p la (old.committed p).active := by
  obtain ⟨-, hready, -⟩ := Mach.readied_spec p old
  obtain ⟨-, hmodes⟩ := Mach.applyModes_spec old (Mach.readied p old) (old.cmt.takeArmed && !old.dev.governed)
  have hconc := (Carried.conclude (Mach.changedBy p old) p old
    (Mach.applyModes old (old.cmt.takeArmed && !old.dev.governed) (Mach.readied p old))).core
  obtain ⟨la, hla⟩ := Mach.withLa_core p (Mach.conclude (Mach.changedBy p old) p old
    (Mach.applyModes old (old.cmt.takeArmed && !old.dev.governed) (Mach.readied p old)))
  have hgov : (old.dev.governed || (old.cmt.takeArmed && !old.dev.governed)) = (old.dev.governed || old.cmt.takeArmed) := by
    cases old.dev.governed <;> simp
  have htake : (old.cmt.takeArmed && !(old.cmt.takeArmed && !old.dev.governed)) = (old.cmt.takeArmed && old.dev.governed) := by
    cases old.cmt.takeArmed <;> simp
  refine ⟨la, ?_⟩
  rw [Mach.transfer_eq, (Mach.applyReport_carried p _).1.core, hla, hconc, hmodes, hready]
  unfold Core.applied
  exact congrArg₂ (fun g t => Core.mk (old.committed p).active old.staged old.time old.now old.dev.part old.dev.phase g
    { old.cmt with pend := none, takeArmed := t, laSeq := p.seq, laTag := p.tag, laPcnt := la,
                   laTick := if applyOf p.ctl = 3 then p.tick else old.time } old.otp) hgov htake

/-- What a transfer leaves: every channel and every event, and no named page with code 0xF; APPLIED is latched. -/
theorem Mach.transfer_spares (p : Pending) (old : Mach) : Spared old (Mach.transfer p old) ∧
    (∀ n, n < old.nch → (maskPages p.mask).contains (chPage n) = true → (Mach.transfer p old).noF n) ∧
    ((Mach.transfer p old).evtWord 0x05).getLsbD 0 = true := by
  obtain ⟨hready, -, hnoF⟩ := Mach.readied_spec p old
  obtain ⟨hmodes, -⟩ := Mach.applyModes_spec old (Mach.readied p old) (old.cmt.takeArmed && !old.dev.governed)
  rw [Mach.transfer_eq]
  have hconc := (Carried.conclude (Mach.changedBy p old) p old
    (Mach.applyModes old (old.cmt.takeArmed && !old.dev.governed) (Mach.readied p old))).toSpared
  generalize Mach.conclude _ p old _ = m at hconc ⊢
  obtain ⟨hrep, hlatch⟩ := Mach.applyReport_carried p m
  have hla : Spared m (m.withLa p) := ⟨evtKept_of_evt rfl, fun _ => Chan.Spared.rfl' _⟩
  have hend := (hmodes.trans' hconc).trans' (hla.trans' hrep.toSpared)
  exact ⟨hready.trans' hend, fun n hn hp => hend.noF (hnoF n hn hp), hlatch⟩

/-! ## The row COMMIT_APPLY -/

theorem exec_commitApply (s : State) : exec .commitApply s = .next (s.ctl Mach.applyPending) := rfl

section
variable {s : State} {p : Pending} (hp : s.m.cmt.pend = some p)
include hp

theorem Mach.applyPending_due (hh : p.held = false) (hd : s.m.applyDue p = true) : s.m.applyPending = Mach.transfer p s.m := by
  unfold Mach.applyPending
  rw [hp]
  dsimp only
  rw [if_neg (by rw [hh]; decide), if_pos hd]

theorem Mach.applyPending_held (hh : p.held = true) : s.m.applyPending = s.m.dropPending 0x03 := by
  unfold Mach.applyPending
  rw [hp]
  exact if_pos hh

theorem Mach.applyPending_waits (hh : p.held = false) (hd : s.m.applyDue p = false) : s.m.applyPending = s.m := by
  unfold Mach.applyPending
  rw [hp]
  dsimp only
  rw [if_neg (by rw [hh]; decide), if_neg (by rw [hd]; decide)]

theorem commit_applies (hh : p.held = false) (hd : s.m.applyDue p = true) :
    ∃ t, exec .commitApply s = .next t ∧ t.m.cmt.pend = none ∧
      (∀ a, t.m.cfg a = ((p.words.reverse.find? fun x => x.1 == a).map (·.2)).getD (s.m.cfg a)) ∧
      t.m.cmt.laSeq = p.seq ∧ t.m.cmt.laTag = p.tag ∧
      t.m.cmt.laTick = (if applyOf p.ctl = 3 then p.tick else s.m.time) ∧ t.latched 0x05 0 ∧
      t.m.dev.governed = (s.m.dev.governed || s.m.cmt.takeArmed) ∧ t.m.staged = s.m.staged ∧ t.m.time = s.m.time ∧
      t.m.now = s.m.now ∧ t.m.dev.phase = s.m.dev.phase ∧
      (∀ n, n < s.m.nch → (maskPages p.mask).contains (chPage n) = true →
        (s.m.ch n).flt.code = 0xF → (t.m.ch n).flt.code ≠ 0xF) ∧
      (∀ n, (t.m.ch n).meas.energy = (s.m.ch n).meas.energy ∧ (t.m.ch n).prot.i2tX = (s.m.ch n).prot.i2tX) ∧
      evtKept s.m t.m ∧ sramApartFromCaptures s t ∧ sameStore s t := by
  have ht := Mach.applyPending_due hp hh hd
  obtain ⟨la, hcore⟩ := Mach.transfer_core p s.m
  obtain ⟨hspared, hnoF, hlatch⟩ := Mach.transfer_spares p s.m
  rw [← ht] at hcore hspared hnoF hlatch
  obtain ⟨hcalm, hevt, hsram, hstore⟩ := State.ctl_settlesTo Mach.applyPending s hspared.evt
    (capsWithin_of_eq fun n => (hspared.chan n).cap)
  have hlatched : (s.ctl Mach.applyPending).latched 0x05 0 := State.ctl_latches hlatch
  have hex := exec_commitApply s
  generalize s.ctl Mach.applyPending = t at hcalm hevt hsram hstore hlatched hex
  generalize s.m.applyPending = m at hcalm hcore hspared hnoF
  have hend : t.m.core = s.m.core.applied p la (s.m.committed p).active := (congrArg Mach.core hcalm).trans hcore
  have hflt : Keeps Chan.flt m t.m := .of_calm hcalm
  have hmeas : Keeps Chan.meas m t.m := .of_calm hcalm
  have hprot : Keeps Chan.prot m t.m := .of_calm hcalm
  refine ⟨t, hex, congrArg (fun c => c.cmt.pend) hend, fun a => ?_, congrArg (fun c => c.cmt.laSeq) hend,
    congrArg (fun c => c.cmt.laTag) hend, congrArg (fun c => c.cmt.laTick) hend, hlatched,
    congrArg Core.governed hend, congrArg Core.staged hend, congrArg Core.time hend, congrArg Core.now hend,
    congrArg Core.phase hend, fun n hn hpage _ => ?_, fun n => ?_, hevt, hsram, hstore⟩
  · have hactive : t.m.active = (s.m.committed p).active := congrArg Core.active hend
    rw [Mach.cfg_of_active hactive]
    exact Mach.cfg_forList_setCfg a p.words _
  · rw [hflt n]
    exact hnoF n hn hpage
  · rw [hmeas n, hprot n]
    exact ⟨(hspared.chan n).energy, (hspared.chan n).i2tX⟩

theorem commit_heldBack (hh : p.held = true) :
    ∃ t, exec .commitApply s = .next t ∧ t.m.cmt.pend = none ∧ t.m.cmt.lrReason = 3 ∧ t.m.cmt.lrSeq = p.seq ∧
      t.m.cmt.lrTag = p.tag ∧ t.latched 0x05 1 ∧ sameConfig s t ∧ t.m.dev.governed = s.m.dev.governed ∧
      (∀ n, (t.m.ch n).stage = (s.m.ch n).stage ∧ t.m.st n = s.m.st n) ∧ sameStore s t := by
  have ht := Mach.applyPending_held hp hh
  have hstep := SigStep.dropPending 0x03 hp
  have hlatch := Mach.dropPending_latches 0x03 hp
  rw [← ht] at hstep hlatch
  obtain ⟨hcmt, hcfg, hdev, hst, hstore⟩ := Unmoved.ctl (f := Mach.applyPending) hstep
  refine ⟨_, exec_commitApply s, ?_, ?_, ?_, ?_, State.ctl_latches hlatch, hcfg, by rw [hdev], hst, hstore⟩
  all_goals rw [hcmt]; rfl

end

theorem commit_waits (s : State) (h : ∀ p, s.m.cmt.pend = some p → p.held = false ∧ s.m.applyDue p = false) :
    ∃ t, exec .commitApply s = .next t ∧ settlesTo s t s.m := by
  refine ⟨_, exec_commitApply s, ctl_unchanged ?_⟩
  cases hp : s.m.cmt.pend with
  | none =>
    unfold Mach.applyPending
    rw [hp]
  | some p =>
    obtain ⟨hh, hd⟩ := h p hp
    exact Mach.applyPending_waits hp hh hd

end Sys2Proof.Machine

open Sys2Proof.Machine

/-- Settles O43: every part of a transfer leaves the core of the machine and spares the channels, and no part after the
pages' own writes code 0xF. -/
theorem commitsApplyWhole : Obligations.CommitsApplyWhole :=
  ⟨fun _ _ => commit_applies, fun _ _ => commit_heldBack, commit_waits⟩

end

section
set_option Elab.async false
/-! PROOF of O23: the events of the power stage that turn no channel off change one channel, and report. -/

namespace Sys2Proof.Machine
open Claim

/-! ## An effect on one channel (R84, R86, R102, R111, R135) -/

/-- An effect that changes one channel, apart from its capture, settles to that change. -/
theorem settlesTo_modCh {n : Nat} {f : Mach → Mach} {g : Chan → Chan} {s : State} (h : f s.m = s.m.modCh n g)
    (hg : ∀ c, (g c).sig.cap = c.sig.cap := by intro _; rfl) : settlesTo s (s.ctl f) (s.m.modCh n g) := by
  rw [← h]
  refine State.ctl_settlesTo f s ?_ (capsWithin_of_eq fun k => ?_) <;> rw [h]
  · exact evtKept_of_evt (Mach.modCh_evt _ _ _)
  · exact Mach.ch_modCh_view (fun c => c.sig.cap) n k g s.m hg

/-- The same with an event of the channel's page: it is latched. -/
theorem settlesTo_modCh_event {n i : Nat} {w : Word} {f : Mach → Mach} {g : Chan → Chan} {s : State} (hn : n < s.m.nch)
    (h : f s.m = (s.m.modCh n g).event (chPage n) w) (hi : w.getLsbD i = true)
    (hg : ∀ c, (g c).sig.cap = c.sig.cap := by intro _; rfl) :
    (s.ctl f).latched (chPage n) i ∧ settlesTo s (s.ctl f) (s.m.modCh n g) := by
  have hpage : headerPage (s.m.modCh n g).dev.part (chPage n) = true := by
    rw [Mach.modCh_dev]
    exact headerPage_chPage hn (lt_of_lt_of_le hn s.m.nch_le)
  have hevt : evtKept s.m (f s.m) := by
    rw [h]
    exact (evtKept_of_evt (Mach.modCh_evt _ _ _)).trans' (evtKept_event _ _ _)
  have hcaps : capsWithin s.m (f s.m) := capsWithin_of_eq fun k => by
    rw [h, Mach.ch_of_chans (Mach.event_chans _ _ _)]
    exact Mach.ch_modCh_view (fun c => c.sig.cap) n k g s.m hg
  obtain ⟨hcalm, hrest⟩ := State.ctl_settlesTo f s hevt hcaps
  rw [h, Mach.calm_event] at hcalm
  exact ⟨State.ctl_latches (h ▸ Mach.event_latches hpage hi), hcalm, hrest⟩

/-- Two changes of one channel are one. -/
theorem Mach.modCh_modCh (n : Nat) (f g : Chan → Chan) (m : Mach) : (m.modCh n f).modCh n g = m.modCh n fun c => g (f c) := by
  unfold Mach.modCh
  split
  · simp [vmod]
  · rfl

/-! ## Edges and the clamp (R78, R79, R84, R102, R172) -/

/-- What the end of an edge at tick `now` leaves of its channel. -/
def Chan.edgeEnded (e : Edge) (now : Nat) (c : Chan) : Chan :=
  if e.rising then { c with stage := { c.stage with edge := none, vgsOk := true }, meas := c.meas.endHeat now }
  else { c with stage := { c.stage with edge := none }, meas := { c.meas.endHeat now with offAt := now },
                prot := { c.prot with scCmp := false, bsCmp := false } }

/-- Noting the edges of a thermal stop changes nothing while none is due. -/
theorem Mach.noteStopEdges_thm (m : Mach) (hd : m.thm.edgesDue = false) (hj : m.thm.jnlHold = false) :
    m.noteStopEdges.thm = m.thm := by
  unfold Mach.noteStopEdges
  simp only [hd, hj, Bool.false_and, Bool.false_eq_true, if_false]
  exact (congrArg₂ (fun due hold => ({ m.thm with edgesDue := due, jnlHold := hold } : Thallus)) hd hj).symm

/-- The record of a thermal stop and the journal's hold are all it changes. -/
theorem Mach.noteStopEdges_shape (m : Mach) : m.noteStopEdges.thm =
    { m.thm with log := { m.thm.log with last := m.noteStopEdges.thm.log.last }, edgesDue := m.noteStopEdges.thm.edgesDue,
                 jnlHold := m.noteStopEdges.thm.jnlHold } := by
  unfold Mach.noteStopEdges
  dsimp only
  split <;> rfl

theorem Mach.modCh_withThm (n : Nat) (f : Chan → Chan) (x : Thallus) (m : Mach) :
    { m with thm := x }.modCh n f = { m.modCh n f with thm := x } := by
  unfold Mach.modCh
  split <;> rfl

theorem exec_edgeEnd {ch : Ch} {s : State} (hch : ch.val < s.m.nch) {e : Edge} (he : (s.m.ch ch).stage.edge = some e) :
    exec (.edgeEnd ch) s = .next (s.ctl fun m => (m.modCh ch (Chan.edgeEnded e m.now)).noteStopEdges) := by
  refine (ctlCh_of_lt _ hch).trans (congrArg _ (State.ctl_congr ?_))
  dsimp only
  rw [he]
  refine congrArg (fun g => (s.m.modCh ch g).noteStopEdges) (funext fun c => ?_)
  unfold Chan.edgeEnded
  cases e.rising <;> rfl

theorem edgeEnd_holds (ch : Ch) (s : State) (hch : ch.val < s.m.nch) (e : Edge) (he : (s.m.ch ch).stage.edge = some e) :
    ∃ t, exec (.edgeEnd ch) s = .next t ∧
      t.m.thm = { s.m.thm with log := { s.m.thm.log with last := t.m.thm.log.last }, edgesDue := t.m.thm.edgesDue,
                               jnlHold := t.m.thm.jnlHold } ∧
      (s.m.thm.edgesDue = false → s.m.thm.jnlHold = false → t.m.thm = s.m.thm) ∧
      settlesTo s t ({ s.m with thm := t.m.thm }.modCh ch (Chan.edgeEnded e s.m.now)) := by
  refine ⟨_, exec_edgeEnd hch he, ?_⟩
  have hcap : ∀ c, (Chan.edgeEnded e s.m.now c).sig.cap = c.sig.cap := fun c => by
    unfold Chan.edgeEnded
    cases e.rising <;> rfl
  have hs := State.ctl_settlesTo (fun m => (m.modCh ch (Chan.edgeEnded e m.now)).noteStopEdges) s
    (evtKept_of_evt (Mach.modCh_evt _ _ _)) (capsWithin_of_eq fun k => Mach.ch_modCh_view (fun c => c.sig.cap) ch k _ s.m hcap)
  have hthm := calm_thm (State.ctl_calm (fun m => (m.modCh ch (Chan.edgeEnded e m.now)).noteStopEdges) s)
  generalize (s.ctl fun m => (m.modCh ch (Chan.edgeEnded e m.now)).noteStopEdges) = t at hs hthm
  have hm1 : (s.m.modCh ch (Chan.edgeEnded e s.m.now)).thm = s.m.thm := Mach.modCh_thm _ _ _
  refine ⟨?_, fun hd hj => ?_, ?_⟩
  · rw [hthm, ← hm1]
    exact Mach.noteStopEdges_shape _
  · rw [hthm, ← hm1]
    exact Mach.noteStopEdges_thm _ (hm1.symm ▸ hd) (hm1.symm ▸ hj)
  · rw [Mach.modCh_withThm, hthm]
    exact hs

theorem clampStart_holds (ch : Ch) (s : State) (hch : ch.val < s.m.nch) (hg : (s.m.ch ch).stage.gateOn = false) :
    ∃ t, exec (.clampStart ch) s = .next t ∧
      settlesTo s t (s.m.modCh ch fun c => { c with stage := { c.stage with clamp := true },
                                                    meas := c.meas.endHeat s.m.now }) :=
  ⟨_, ctlCh_of_lt _ hch, settlesTo_modCh (if_neg (by simp [hg]))⟩

theorem clampEnd_holds (ch : Ch) (s : State) (hch : ch.val < s.m.nch) (hc : (s.m.ch ch).stage.clamp = true) :
    ∃ t, exec (.clampEnd ch) s = .next t ∧
      settlesTo s t (s.m.modCh ch fun c => { c with stage := { c.stage with
        clamp := false, clampSeen := true,
        clampCnt := if c.stage.clampSeen then c.stage.clampCnt else inc16 c.stage.clampCnt } }) :=
  ⟨_, ctlCh_of_lt _ hch, settlesTo_modCh (if_pos hc)⟩

theorem edgeEvents_hold : edgeEvents :=
  ⟨edgeEnd_holds, clampStart_holds, clampEnd_holds, fun _ _ hch => ⟨_, ctlCh_of_lt _ hch, settlesTo_modCh rfl⟩⟩

/-! ## Regulation and reverse current (R86, R111, R135, R144) -/

/-- What the begin of a regulation episode leaves of its channel, in state `st` and under a leader that chops or not. -/
def Chan.regulates (st : ChSt) (chops : Bool) (now : Nat) (c : Chan) : Chan :=
  { c with prot := { c.prot with clReg := true, epStart := now, epEnergy := 0, eacc := 0,
                                 clCnt := if st = .inrush then c.prot.clCnt else inc16 c.prot.clCnt },
           inr := if st = .inrush then
               { c.inr with clSeen := true,
                            clper := if chops = true ∧ c.inr.clSeen = false then min 255 (c.inr.clper + 1) else c.inr.clper }
             else c.inr }

/-- In an inrush sequence the episode is counted by CLPER alone. -/
theorem Mach.countChop_eq (n : Nat) (p : Prot → Prot) (m : Mach) : (m.modProt n p).countChop n true = m.modCh n fun c =>
    { c with prot := p c.prot,
             inr := { c.inr with clSeen := true,
                                 clper := if (m.ch (m.leader n)).inr.chopping = true ∧ c.inr.clSeen = false
                                   then min 255 (c.inr.clper + 1) else c.inr.clper } } := by
  have hch : ((m.modProt n p).ch ((m.modProt n p).leader n)).inr.chopping = (m.ch (m.leader n)).inr.chopping := by
    rw [Mach.modProt, Mach.leader_modCh]
    exact congrArg Inr.chopping (Mach.ch_modCh_view Chan.inr n _ _ m fun _ => rfl)
  unfold Mach.countChop
  rw [hch, Mach.modProt, Mach.modCh_modCh]
  congr 1
  funext c
  simp

theorem clRegStart_holds (ch : Ch) (s : State) (hch : ch.val < s.m.nch) (hc : (s.m.ch ch).stage.conducting = true)
    (hr : (s.m.ch ch).prot.clReg = false) :
    ∃ t, exec (.clRegStart ch) s = .next t ∧ (s.m.st ch ≠ .inrush → t.latched (chPage ch) 4) ∧
      settlesTo s t (s.m.modCh ch (Chan.regulates (s.m.st ch) (s.m.ch (s.m.leader ch)).inr.chopping s.m.now)) := by
  let p (q : Prot) : Prot := { q with clReg := true, epStart := s.m.now, epEnergy := 0, eacc := 0 }
  have hst : (s.m.modProt ch p).st ch = s.m.st ch := by
    unfold Mach.st
    rw [Mach.modProt, Mach.leader_modCh]
    exact Mach.ch_modCh_view Chan.st ch _ _ s.m fun _ => rfl
  have hcap (st : ChSt) (chops : Bool) (c : Chan) : (Chan.regulates st chops s.m.now c).sig.cap = c.sig.cap := rfl
  refine ⟨_, ctlCh_of_lt _ hch, ?_⟩
  rw [State.ctl_of_true (p := fun m => (m.ch ch).stage.conducting && !(m.ch ch).prot.clReg) (by simp [hc, hr])]
  by_cases hi : s.m.st ch = .inrush
  · refine ⟨fun h => absurd hi h, settlesTo_modCh ((if_pos (beq_iff_eq.mpr (hst.trans hi))).trans ?_) (hcap _ _)⟩
    rw [hi]
    exact Mach.countChop_eq ch p s.m
  · refine And.imp_left (fun h _ => h) ?_
    refine settlesTo_modCh_event (w := 0x0010) hch ((if_neg fun h => hi (hst.symm.trans (beq_iff_eq.mp h))).trans ?_) (by decide) (hcap _ _)
    unfold Chan.regulates
    simp only [if_neg hi]
    exact congrArg (fun m => Mach.event (chPage ch) 0x0010 m) (Mach.modCh_modCh _ _ _ _)

theorem reverseCurrent_report (ch : Ch) (also : BitVec 16) (s : State) (hch : ch.val < s.m.nch)
    (hr : bit (s.m.lw ch 0x0B) 6 = false ∨ (s.m.st ch).running = false) :
    ∃ t, exec (.reverseCurrent ch true true also) s = .next t ∧ t.latched (chPage ch) 11 ∧
      settlesTo s t (s.m.modCh ch fun c => { c with stage := { c.stage with rev := true } }) := by
  have hj : Judged s.m (s.m.modCh ch fun c => { c with stage := { c.stage with rev := true } }) := .modCh ch s.m
  refine ⟨_, ctlCh_of_lt _ hch, settlesTo_modCh_event (w := 0x0800) hch ?_ (by decide)⟩
  refine (if_pos rfl).trans (if_neg ?_)
  rw [hj.case.st, hj.case.rules.lw, Bool.and_eq_true]
  rcases hr with hr | hr <;> simp [hr]

theorem regulationEvents_hold : regulationEvents :=
  ⟨clRegStart_holds, fun _ _ hch => ⟨_, ctlCh_of_lt _ hch, settlesTo_modCh rfl⟩,
    fun _ _ _ _ hch => ⟨_, ctlCh_of_lt _ hch, settlesTo_modCh rfl⟩,
    fun _ also _ hch => ⟨⟨_, ctlCh_of_lt _ hch, settlesTo_modCh rfl⟩, reverseCurrent_report _ also _ hch⟩,
    fun _ _ hch => ⟨_, ctlCh_of_lt _ hch, settlesTo_modCh rfl⟩⟩

end Sys2Proof.Machine

open Sys2Proof.Machine

/-- Settles O23: each command of the power stage changes one channel and reports it; the end of an edge closes, beside, the
record of a thermal stop whose turn-off it ends. -/
theorem stageEvents : Obligations.StageEvents := ⟨edgeEvents_hold, regulationEvents_hold⟩

end

section
set_option Elab.async false
/-! SUPPORT and REFUTATION of O21 and O29: a start into PWM that meets an active cut source holds off the other output of an
INVERT pair too (R234), which is no member of the group that starts. -/

namespace Sys2Proof.Machine
open Claim

/-! ## A start that cuts an INVERT pair (R90, R233, R234) -/

/-- A restart of the channels `ks` leaves the output of every other channel. -/
theorem restarts_out {ks : List Nat} {s t : State} {m : Mach} {o : Nat} (h : restarts ks s t m) (ho : o ∉ ks) :
    t.m.out o = m.out o := by
  have hread (x : Mach) : (x.besideUncut ks).out o = x.out o := by
    by_cases h32 : o < 32
    · simp [Mach.out, Mach.besideUncut, Mach.uncut, Mach.beside, vmap, h32, ho]
    · simp [Mach.out, h32]
  rw [← hread, ← hread m]
  exact congrArg (fun x : Mach => x.out o) h.1

/-- Outputs pass through settling. -/
theorem State.ctl_out (f : Mach → Mach) (s : State) (o : Nat) : (s.ctl f).m.out o = (f s.m).out o := by
  unfold Mach.out
  rw [calm_outs (State.ctl_calm f s)]

/-- A governed device whose channels 0 and 1 are an INVERT pair, each its own group. Channel 0, of mode PWM, is in `st`;
channel 1 runs in PWM; the asserted TRIP input 0 cuts channel 0. -/
def invertedPair (st : ChSt) : State :=
  let z := State.reset.m
  let m : Mach := { z with
    dev := { z.dev with phase := .running, governed := true }
    active := [(0x0810, 0x0001), (0x2008, 0x0002), (0x205A, 0x0001)]
    trips := vmod z.trips 0 fun t => { t with asserted := true } }
  { State.reset with m := (m.modCh 0 fun c => { c with st := st }).modCh 1 fun c => { c with st := .pwm } }

/-- Channel 1 is in no group of channel 0, and is not cut. -/
theorem invertedPair_apart : ∀ st ∈ [ChSt.latched, .retryWait],
    let m := (invertedPair st).m
    0 < m.nch ∧ m.leader 0 = 0 ∧ m.st 0 = st ∧ m.inverts 0 = true ∧ m.tripOn 0 = true ∧ m.tripOn 1 = false ∧
      1 ∉ m.members 0 ∧ (m.out 1).cut = false := by decide +kernel

/-- The clear of channel 0's fault starts it, and the start cuts both outputs. -/
theorem cmdFaultClear_cuts_other : (((invertedPair .latched).m.cmdFaultClear 0).out 1).cut = true := by decide +kernel

/-- So does the retry of channel 0. -/
theorem retryDue_cuts_other : (((invertedPair .retryWait).m.retryDue 0).out 1).cut = true := by decide +kernel

/-- Nothing keeps the retry of channel 0, which is no undervoltage's wait. -/
theorem invertedPair_retries : let m := (invertedPair .retryWait).m
    (m.ch 0).rty.cause ≠ 0xA ∧ m.gateOpen 0 = true ∧ m.held? 0 = false ∧ m.mode 0 ≠ 0 := by decide +kernel

theorem ctlLead_of_leader {n : Nat} (f : Mach → Mach) {s : State} (h : n < s.m.nch) (hl : s.m.leader n = n) :
    ctlLead n f s = .next (s.ctl f) := congrArg Host.Outcome.next (if_pos ⟨h, hl⟩)

/-- What cuts channel 1 as well is no restart of channel 0's group from a machine in which channel 1 is not cut. -/
theorem invertedPair_not_restarts {st : ChSt} (hst : st ∈ [ChSt.latched, .retryWait]) {f : Mach → Mach} {m : Mach}
    (hf : ((f (invertedPair st).m).out 1).cut = true) (hm : m.outs = (invertedPair st).m.outs) :
    ¬ restarts ((invertedPair st).m.members 0) (invertedPair st) ((invertedPair st).ctl f) m := by
  obtain ⟨-, -, -, -, -, -, hother, hcut⟩ := invertedPair_apart st hst
  intro h
  have hkept : ((invertedPair st).ctl f).m.out 1 = (invertedPair st).m.out 1 := by
    rw [restarts_out h hother]
    unfold Mach.out
    rw [hm]
  rw [← State.ctl_out f, hkept, hcut] at hf
  exact Bool.false_ne_true hf

end Sys2Proof.Machine

open Sys2Proof.Machine Claim

/-- Refutes O21: a fault clear starts channel 0 into PWM under an active TRIP input; the cut holds off channel 1 too, its
partner in an INVERT pair (R234) but no member of its group, where the statement lets the group alone change. -/
theorem not_faultClearCommands : ¬ Obligations.FaultClearCommands := by
  unfold Obligations.FaultClearCommands
  rintro ⟨hlead, -⟩
  obtain ⟨hn, hl, -⟩ := invertedPair_apart .latched (by decide)
  obtain ⟨⟨t, ht, -, -, hframe⟩, -⟩ := hlead 0 (invertedPair .latched) hn hl
  obtain rfl := Host.Outcome.next.inj ((ctlLead_of_leader (Mach.cmdFaultClear 0) hn hl).symm.trans ht)
  exact invertedPair_not_restarts (by decide) cmdFaultClear_cuts_other rfl hframe

/-- Refutes O29: the retry of channel 0 starts it into PWM under an active TRIP input; the cut holds off channel 1 too, its
partner in an INVERT pair (R234) but no member of its group, where the statement lets the group alone change. -/
theorem not_retries : ¬ Obligations.Retries := by
  unfold Obligations.Retries retryStarts
  rintro ⟨⟨hstart, -⟩, -⟩
  obtain ⟨hn, hl, hst, -⟩ := invertedPair_apart .retryWait (by decide)
  obtain ⟨hcause, hgate, hheld, hmode⟩ := invertedPair_retries
  obtain ⟨t, ht, -, -, hframe⟩ := hstart 0 (invertedPair .retryWait) hn hl hst hcause hgate hheld
  obtain rfl := Host.Outcome.next.inj ((ctlLead_of_leader (Mach.retryDue 0) hn hl).symm.trans ht)
  exact invertedPair_not_restarts (by decide) retryDue_cuts_other ((congrArg Mach.outs (if_neg hmode)).trans (Mach.modCh_outs _ _ _))
    hframe

end

section
set_option Elab.async false
/-! SUPPORT of O18: VCP ready, and the thresholds that are reported alone. -/

namespace Sys2Proof.Machine
open Claim

/-! ## The thresholds that are reported alone (R77, R440) -/

theorem headerPage_pwr (p : Part) : headerPage p 0x02 = true := by cases p <;> rfl

theorem vbbOvervoltage_holds (s : State) (hv : s.m.pwr.vbbOv = false) :
    ∃ t, exec (.vbbOvervoltage true) s = .next t ∧ t.latched 0x02 5 ∧
      becomes s t { s.m with pwr := { s.m.pwr with vbbOv := true, ovCnt := inc16 s.m.pwr.ovCnt } } := by
  let m1 : Mach := { s.m with pwr := { s.m.pwr with vbbOv := true, ovCnt := inc16 s.m.pwr.ovCnt } }
  have hex : exec (.vbbOvervoltage true) s = .next { s with m := m1.event 0x02 0x0020 } :=
    congrArg (fun x : Mach => (Host.Outcome.next { s with m := x } : Out)) (if_pos (by simp [hv]))
  exact ⟨_, hex, Mach.event_latches (m := m1) (headerPage_pwr _) (by decide),
    becomes_withM s (Mach.quiet_event _ _ m1) ((evtKept_of_evt rfl).trans' (evtKept_event _ _ m1))⟩

/-! ## VCP is ready (R444) -/

/-- What of a channel and of its output says whether its state commands it on. -/
def Chan.aim (c : Chan) : ChSt × Flt × Inr × Bool × Bool × Bool × Bool :=
  (c.st, c.flt, c.inr, c.limp.lvl, c.limp.cut, c.limp.uvHeld, c.limp.safeFlt)
def OutUnit.aim (u : OutUnit) : Bool × Bool × Bool := (u.joined, u.drive, u.cut)

theorem Mach.aim_modOut (k o : Nat) (f : OutUnit → OutUnit) (m : Mach) (hf : ∀ u, (f u).aim = u.aim := by intro _; rfl) :
    ((m.modOut k f).out o).aim = (m.out o).aim := Mach.out_modOut_view OutUnit.aim k o f m hf

/-- Gates turn on at most, and what the states command stays. -/
structure Lit (m m' : Mach) : Prop where
  rules   : SameRules m m'
  pwr     : m'.pwr = m.pwr
  latched : m'.dev.latched = m.dev.latched
  chans   : Keeps Chan.aim m m'
  outs    : ∀ o, (m'.out o).aim = (m.out o).aim
  on      : ∀ k, (m.ch k).stage.gateOn = true → (m'.ch k).stage.gateOn = true

theorem Lit.rfl' (m : Mach) : Lit m m := ⟨.rfl' m, rfl, rfl, .rfl' _ m, fun _ => rfl, fun _ h => h⟩

theorem Lit.trans' {a b c : Mach} (h : Lit a b) (k : Lit b c) : Lit a c :=
  ⟨h.rules.trans' k.rules, k.pwr.trans h.pwr, k.latched.trans h.latched, h.chans.trans' k.chans,
    fun o => (k.outs o).trans (h.outs o), fun n hn => k.on n (h.on n hn)⟩

theorem Lit.gateOn1 (k : Nat) (m : Mach) : Lit m (m.gateOn1 k) := by
  have hsw := Switched.gateOn1 m (List.mem_singleton_self k)
  refine ⟨Switched.rules hsw, Restarted.field Mach.pwr hsw.restarted,
    Restarted.field (fun x => x.dev.latched) hsw.restarted, ?_, fun o => ?_, fun n hn => ?_⟩
  all_goals unfold Mach.gateOn1; dsimp only
  · exact .ite (.rfl' _ m) ((Keeps.modCh k m).trans' (.modOut _ _ _))
  · split
    · rfl
    · refine (Mach.aim_modOut k o _ _).trans ?_
      unfold Mach.out
      rw [Mach.modCh_outs]
  · split
    · exact hn
    · rw [Mach.ch_of_chans (Mach.modOut_chans _ _ _)]
      by_cases hnk : n = k
      · subst hnk
        by_cases h24 : n < 24
        · rw [Mach.ch_modCh_self _ _ _ h24]
        · simp [Mach.modCh, h24, hn]
      · rw [Mach.ch_modCh_ne _ _ _ _ hnk]
        exact hn

theorem Lit.gateOn (l : Nat) (m : Mach) : Lit m (m.gateOn l) :=
  forList_rel Lit _ _ Lit.rfl' (fun _ _ _ => Lit.trans') (fun k _ m => .gateOn1 k m) m

theorem Lit.bank {m m' : Mach} (h : Lit m m') (b : Nat) : m'.bank b = m.bank b := by
  unfold Mach.bank
  rw [h.rules.thm]

/-- Turning gates on changes no state's command. -/
theorem Lit.wantsOn {m m' : Mach} (h : Lit m m') (l : Nat) : m'.wantsOn l = m.wantsOn l := by
  have hst : (m'.ch l).st = (m.ch l).st := h.chans.map Prod.fst l
  have hinr : (m'.ch l).inr = (m.ch l).inr := h.chans.map (fun x => x.2.2.1) l
  have hlvl : (m'.ch l).limp.lvl = (m.ch l).limp.lvl := h.chans.map (fun x => x.2.2.2.1) l
  have hcut : (m'.ch l).limp.cut = (m.ch l).limp.cut := h.chans.map (fun x => x.2.2.2.2.1) l
  have huv : (m'.ch l).limp.uvHeld = (m.ch l).limp.uvHeld := h.chans.map (fun x => x.2.2.2.2.2.1) l
  have hflt : (m'.ch l).limp.safeFlt = (m.ch l).limp.safeFlt := h.chans.map (fun x => x.2.2.2.2.2.2) l
  have hj : (m'.out l).joined = (m.out l).joined := congrArg Prod.fst (h.outs l)
  have hd : (m'.out l).drive = (m.out l).drive := congrArg (fun x => x.2.1) (h.outs l)
  have hc : (m'.out l).cut = (m.out l).cut := congrArg (fun x => x.2.2) (h.outs l)
  unfold Mach.wantsOn Mach.safeWants Mach.safeOn
  simp only [hst, hinr, hlvl, hcut, huv, hflt, hj, hd, hc, h.latched, h.rules.governed, h.rules.leader, h.rules.entryFld,
    h.rules.throttleHold, h.rules.stopHeld]

/-- With VCP ready, and no analog comparator holding it, the gate of channel `k` is on. -/
def Mach.powered (k : Nat) (m : Mach) : Prop :=
  m.pwr.vcpOk = true → (m.bank (k / 4)).analog = false → (m.ch k).stage.gateOn = true

theorem Lit.powered {k : Nat} {m m' : Mach} (h : Lit m m') (hp : m.powered k) : m'.powered k := fun hv ha =>
  h.on k (hp (h.pwr ▸ hv) (h.bank _ ▸ ha))

theorem Mach.powered_gateOn1 {k : Nat} (hk : k < 24) (m : Mach) : (m.gateOn1 k).powered k := fun hv ha => by
  have hlit := Lit.gateOn1 k m
  rw [hlit.pwr] at hv
  rw [hlit.bank] at ha
  unfold Mach.gateOn1
  dsimp only
  cases hon : (m.ch k).stage.gateOn with
  | true => simp [hon]
  | false => simp [hv, ha, hk, Mach.ch_of_chans (Mach.modOut_chans _ _ _)]

/-- A group commanded on is powered. -/
theorem Mach.powered_gateOn {l k : Nat} {m : Mach} (hk : k ∈ m.members l) (hk24 : k < 24) : (m.gateOn l).powered k :=
  forList_establishes (Mach.powered k) Mach.gateOn1 (Mach.powered_gateOn1 hk24) (fun a x => (Lit.gateOn1 a x).powered) hk m

/-- The step of VCP_READY on one leader. -/
def Mach.lightUp (l : Nat) (m : Mach) : Mach := if m.wantsOn l then m.gateOn l else m

theorem Lit.lightUp (l : Nat) (m : Mach) : Lit m (m.lightUp l) := by
  unfold Mach.lightUp
  split
  · exact .gateOn l m
  · exact .rfl' m

theorem Switched.lightUp {l : Nat} (hl : l < 24) (m : Mach) : Switched everyChannel [] m (m.lightUp l) :=
  .ite (Switched.gateOn m (Mach.members_everyChannel hl)) (.rfl' _ _ m)

/-- Each group that its state commands on is powered by the pass. -/
theorem Mach.powered_lightUp {m : Mach} {l k : Nat} (hl : l ∈ m.leaders) (hw : m.wantsOn l = true) (hk : k ∈ m.members l) :
    (forList m.leaders Mach.lightUp m).powered k := by
  have hk24 : k < 24 := Mach.members_lt (Mach.leaders_lt hl) k hk
  let P (x : Mach) : Prop := x.wantsOn l = true → k ∈ x.members l → x.powered k
  have hpass : Lit m (forList m.leaders Mach.lightUp m) :=
    forList_rel Lit _ _ Lit.rfl' (fun _ _ _ => Lit.trans') (fun a _ x => .lightUp a x) m
  refine forList_establishes P Mach.lightUp (n := l) (fun x hx hkx => ?_) (fun a x hx hw' hk' => ?_) hl m ?_ ?_
  · rw [(Lit.lightUp l x).wantsOn] at hx
    rw [(Lit.lightUp l x).rules.members] at hkx
    rw [Mach.lightUp, if_pos hx]
    exact Mach.powered_gateOn hkx hk24
  · rw [(Lit.lightUp a x).wantsOn] at hw'
    rw [(Lit.lightUp a x).rules.members] at hk'
    exact (Lit.lightUp a x).powered (hx hw' hk')
  · rw [hpass.wantsOn]; exact hw
  · rw [hpass.rules.members]; exact hk

theorem vcpReady_holds (s : State) (hu : s.m.pwr.vbbUv = false) (hp : s.m.dev.phase ≠ .powerOff) :
    ∃ t, exec .vcpReady s = .next t ∧
      (∀ l, l ∈ s.m.leaders → s.m.wantsOn l = true → ∀ k, k ∈ s.m.members l → (s.m.bank (k / 4)).analog = false →
        (t.m.ch k).stage.gateOn = true) ∧
      (∀ n, t.m.st n = s.m.st n ∧ (t.m.ch n).flt = (s.m.ch n).flt) ∧
      switches everyChannel s t
        { s.m with pwr := { s.m.pwr with vcpOk := true }, clk := { s.m.clk with cpOk := true } } := by
  let f (m : Mach) : Mach :=
    let m := (m.modPwr fun p => { p with vcpOk := true }).modClk fun c => { c with cpOk := true }
    forList m.leaders Mach.lightUp m
  have hex : exec .vcpReady s = .next (s.ctl f) := congrArg Host.Outcome.next (State.ctl_congr (if_neg (by simp [hu, hp])))
  let m1 : Mach := { s.m with pwr := { s.m.pwr with vcpOk := true }, clk := { s.m.clk with cpOk := true } }
  have hlit : Lit m1 (f s.m) := forList_rel Lit _ _ Lit.rfl' (fun _ _ _ => Lit.trans') (fun a _ x => .lightUp a x) m1
  have hsw : Switched everyChannel [] m1 (f s.m) :=
    Moved.forList _ _ (fun l hl x => Switched.lightUp (Mach.leaders_lt hl) x) m1
  have hcalm := State.ctl_calm f s
  have hstage : Keeps Chan.stage (f s.m) (s.ctl f).m := .of_calm hcalm
  have hflt : Keeps Chan.flt (f s.m) (s.ctl f).m := .of_calm hcalm
  refine ⟨_, hex, fun l hl hw k hk ha => ?_, fun n => ⟨?_, ?_⟩, Switched.switches (evtKept_of_evt rfl) (fun _ => rfl) hsw⟩
  · rw [hstage k]
    exact Mach.powered_lightUp (m := m1) hl hw hk (congrArg Pwr.vcpOk hlit.pwr) ((congrArg BankT.analog (hlit.bank _)).trans ha)
  · rw [State.ctl_st]
    unfold Mach.st
    rw [hlit.rules.leader]
    exact hlit.chans.map Prod.fst _
  · exact (hflt n).trans (hlit.chans.map (fun x => x.2.1) n)

theorem thresholdEvents_hold : thresholdEvents :=
  ⟨fun _ _ => rfl, vbbOvervoltage_holds, fun _ => rfl, vcpReady_holds⟩

end Sys2Proof.Machine
end

section
set_option Elab.async false
/-! SUPPORT of O18: what a turn-off fault writes on every channel, and what an undervoltage does to a group that runs. -/

namespace Sys2Proof.Machine
open Claim

/-! ## What a step writes as codes (R96, R125 to R131) -/

/-- The code and the time of a channel's record. -/
def Chan.entry (c : Chan) : Nat × Time := (c.flt.code, c.flt.time)

/-- Every code a step writes is one that `ok` allows, with the time of the instant. -/
structure Writes (ok : Nat → Prop) (m m' : Mach) : Prop where
  time : m'.time = m.time
  code : ∀ n, (m'.ch n).entry = (m.ch n).entry ∨ ok (m'.ch n).flt.code ∧ (m'.ch n).flt.time = m.time

section
variable {ok : Nat → Prop} {m m' : Mach}

theorem Writes.trans' {a b c : Mach} (h : Writes ok a b) (k : Writes ok b c) : Writes ok a c := by
  refine ⟨k.time.trans h.time, fun n => ?_⟩
  rcases k.code n with hk | ⟨hk, ht⟩
  · have hcode : (c.ch n).flt.code = (b.ch n).flt.code := congrArg Prod.fst hk
    have htime : (c.ch n).flt.time = (b.ch n).flt.time := congrArg Prod.snd hk
    rw [hk, hcode, htime]
    exact h.code n
  · exact .inr ⟨hk, ht.trans h.time⟩

theorem Writes.ite {p : Prop} [Decidable p] {a b : Mach} (ha : Writes ok m a) (hb : Writes ok m b) :
    Writes ok m (if p then a else b) := by
  split
  · exact ha
  · exact hb

/-- A step that keeps every record. -/
theorem Writes.of_keeps (ht : m'.time = m.time) (hk : Keeps Chan.entry m m') : Writes ok m m' := ⟨ht, fun n => .inl (hk n)⟩

theorem Writes.modCh (k : Nat) {f : Chan → Chan} (m : Mach) (hf : ∀ c, (f c).entry = c.entry := by intro _; rfl) :
    Writes ok m (m.modCh k f) := .of_keeps (Mach.modCh_time _ _ _) (.modCh k m hf)

theorem Writes.event (p : Nat) (w : Word) (m : Mach) : Writes ok m (m.event p w) :=
  .of_keeps (Mach.event_time p w m) (.event p w m)

theorem Writes.of_switched {ks js : List Nat} (h : Switched ks js m m') (hk : Keeps Chan.flt m m') : Writes ok m m' :=
  .of_keeps h.time (hk.map fun f => (f.code, f.time))

theorem Writes.writeCode {code : Nat} (hok : ok code) (k detail : Nat) (m : Mach) : Writes ok m (m.writeCode k code detail) := by
  refine ⟨(Switched.writeCode code detail m (List.mem_singleton_self k)).time, fun n => ?_⟩
  by_cases hn : n = k
  · subst hn
    unfold Mach.writeCode
    rw [Mach.ch_of_chans (Mach.event_chans _ _ _)]
    by_cases h24 : n < 24
    · rw [Mach.ch_modCh_self _ _ _ h24]
      exact .inr ⟨hok, rfl⟩
    · exact .inl (by simp [Mach.modCh, h24])
  · exact .inl (by rw [Mach.writeCode_ne _ _ _ hn])

theorem Writes.recordFault (k code detail : Nat) (first : Bool) (m : Mach) : Writes ok m (m.recordFault k code detail first) :=
  .of_keeps (Switched.recordFault code detail first m (List.mem_singleton_self k)).time
    ((Keeps.recordFault k code detail first m).map fun x => (x.2.code, x.2.time))

theorem Writes.noteFault {code : Nat} (hok : ok code) (k detail : Nat) (bits : BitVec 16) (st : ChSt) (m : Mach) :
    Writes ok m (m.noteFault k code detail bits st) := by
  have h : Writes ok m ((m.addHist k bits).writeCode k code detail) := (Writes.modCh k m).trans' (.writeCode hok _ _ _)
  exact .ite h (h.trans' ((Writes.modCh _ _).trans' (.writeCode hok _ _ _)))

theorem Writes.holdBack (k code detail : Nat) (bits : BitVec 16) (m : Mach) : Writes ok m (m.holdBack k code detail bits) := by
  have h : Writes ok m (m.modCh k fun c =>
      { c with flt := { c.flt with late := c.flt.late ++ [⟨code, detail, bits, c.prot.est⟩] } }) := .modCh k m
  exact .ite h (h.trans' (.modCh _ _))

theorem Writes.reportFault (k l code detail : Nat) (first exhausted : Bool) (m : Mach) (hx : exhausted = true → ok 0xD) :
    Writes ok m (m.reportFault k l code detail first exhausted) := by
  have h : Writes ok m (m.recordFault k code detail first) := .recordFault k code detail first m
  unfold Mach.reportFault
  dsimp only
  split
  · next he => exact h.trans' (((Writes.writeCode (hx he) l 0 _).trans' (.event _ _ _)).trans' (.recordFault _ _ _ _ _))
  · exact h

/-- An undervoltage finds no retries used up (R129). -/
theorem Mach.faultAct_uv (l detail : Nat) (st : ChSt) (conducts : Bool) (m : Mach) :
    (m.faultAct l 0xA detail st conducts).2 = false := by
  unfold Mach.faultAct
  cases st.running <;> simp

/-- A turn-off fault writes its own code, and 0xD where its retries are used up. -/
theorem Writes.turnOffFault {k : Nat} (code detail : Nat) (also : BitVec 16) (m : Mach) (hk : k < 24)
    (hok : ok (m.firstFound k code detail also).1) (hx : (m.firstFound k code detail also).1 ≠ 0xA → ok 0xD) :
    Writes ok m (m.turnOffFault k code detail also) := by
  have hd : Writes ok m (m.discharge k) :=
    .of_switched (Switched.discharge m fun _ h => h) ((Keeps.discharge k m).map fun x => x.2.1)
  rw [Mach.turnOffFault_eq]
  dsimp only
  generalize m.firstFound k code detail also = x at hok hx ⊢
  refine .ite (hd.trans' (.holdBack _ _ _ _ _)) (hd.trans' ?_)
  have hm := Mach.members_everyChannel (m := m.discharge k) hk
  generalize m.discharge k = d at hm ⊢
  have hend : Writes ok (d.noteFault k x.1 x.2 (foundBits code also) (m.st k)) (d.written k x.1 x.2 (foundBits code also) (m.st k)) :=
    .of_switched (Switched.endInrush (ks := everyChannel) (n := d.leader k) 4 _ fun j hj => by
      rw [(Switched.rules (Switched.noteFault (ks := everyChannel) x.1 x.2 _ _ d hm)).members, Mach.members_leader] at hj
      exact hm j hj) ((Keeps.endInrush _ 4 _).map fun x => x.1.2)
  have hact := Writes.of_switched (ok := ok) (Switched.acted x.1 x.2 (foundBits code also) (m.st k)
    (m.ch k).stage.conducting hm) ((Keeps.faultAct _ _ _ _ _ _).map Prod.snd)
  rw [Mach.faultRecorded_eq]
  refine ((((Writes.noteFault hok k _ _ _ d).trans' hend).trans' hact).trans' (.reportFault _ _ _ _ _ _ _ fun he => hx fun hA => ?_))
  rw [Mach.acted, hA, Mach.faultAct_uv] at he
  exact Bool.false_ne_true he

end

/-! ## The course of an undervoltage's fault (R123, R125) -/

/-- The first in the order of R125 stays where nothing found with it precedes it. -/
theorem foldl_protRank {b : Nat × Nat} (L : List (Nat × Nat)) (h : ∀ x ∈ L, ¬ protRank x < protRank b) :
    L.foldl (fun best x => if protRank x < protRank best then x else best) b = b := by
  induction L with
  | nil => rfl
  | cons x t ih =>
    rw [List.foldl_cons, if_neg (h x List.mem_cons_self)]
    exact ih fun y hy => h y (List.mem_cons_of_mem _ hy)

/-- The trips alone precede an undervoltage (R125). -/
theorem protRank_uv {x : Nat × Nat} (h : x.1 ≠ 1) : ¬ protRank x < protRank (0xA, 0) := by
  obtain ⟨c, d⟩ := x
  unfold protRank
  split <;> simp_all

/-- The undervoltage is the round's first code where no trip is found with it. -/
theorem Mach.firstFound_uv {also : BitVec 16} (m : Mach) (k : Nat) (h0 : also.getLsbD 0 = false) (h1 : also.getLsbD 1 = false) :
    m.firstFound k 0xA 0 also = (0xA, 0) := by
  refine foldl_protRank _ fun x hx => protRank_uv fun hc => ?_
  unfold Mach.alsoFound at hx
  dsimp only at hx
  rw [h0, if_neg Bool.false_ne_true, List.nil_append, List.mem_map] at hx
  obtain ⟨c, hmem, rfl⟩ := hx
  have hbit := (List.mem_filter.mp hmem).2
  rw [show c = 1 from hc, h1] at hbit
  exact Bool.false_ne_true hbit

theorem foundBits_trip {also : BitVec 16} (h : also.getLsbD 0 = true ∨ also.getLsbD 1 = true) :
    (foundBits 0xA also).getLsbD 1 = true := by
  unfold foundBits
  rw [BitVec.getLsbD_or, BitVec.getLsbD_and, BitVec.getLsbD_or]
  rcases h with h | h <;> simp [h]

/-- A fault of an undervoltage leaves a channel that waits in its wait. -/
theorem Keeps.turnOffFault_uv {k : Nat} {also : BitVec 16} {m : Mach} (hw : m.st k = .retryWait)
    (hf : (m.firstFound k 0xA 0 also).1 = 0xA) : Keeps (fun c => (c.st, c.rty)) m (m.turnOffFault k 0xA 0 also) := by
  have hd : Keeps (fun c => (c.st, c.rty)) m (m.discharge k) := (Keeps.discharge k m).map fun x => (x.1, x.2.2.1)
  have hact (l detail : Nat) (conducts : Bool) (x : Mach) : (x.faultAct l 0xA detail .retryWait conducts).1 = x := by
    simp [Mach.faultAct, ChSt.running]
  rw [Mach.turnOffFault_eq]
  dsimp only
  rw [hf, hw]
  refine .ite (hd.trans' ((Keeps.holdBack _ _ _ _ _).map Prod.snd)) (hd.trans' ?_)
  rw [Mach.faultRecorded_eq, Mach.acted, hact]
  exact (Keeps.written _ _ _ _).trans' ((Keeps.reportFault _ _ _ _ _ _ _).map Prod.snd)

/-- Leader `l` waits for the return of VBB. -/
def Mach.uvWaits (l : Nat) (m : Mach) : Prop := (m.ch l).st = .retryWait ∧ (m.ch l).rty.cause = 0xA

/-- The fault of an undervoltage that no trip precedes, on a member of a group that runs or waits already. -/
theorem Mach.turnOffFault_uvWaits {k l : Nat} {also : BitVec 16} {m : Mach} (hk : k < m.nch) (hl : m.leader k = l)
    (hf : m.firstFound k 0xA 0 also = (0xA, 0)) (hs : (m.ch l).st.running = true ∨ m.uvWaits l) :
    (m.turnOffFault k 0xA 0 also).uvWaits l ∧ ((m.turnOffFault k 0xA 0 also).ch k).flt.code = 0xA ∧
      ∀ n, (m.ch n).flt.code = 0xA → ((m.turnOffFault k 0xA 0 also).ch n).flt.code = 0xA := by
  have hst : m.st k = (m.ch l).st := by unfold Mach.st; rw [hl]
  have ht := Mach.turnOffFault_turnsOff 0xA 0 also m.alone hk
  have hfound : found k 0xA 0 also m.alone = (0xA, 0) := hf
  have hlate : m.recordsLate k = false := by
    rw [Bool.eq_false_iff, ne_eq, Mach.recordsLate_iff, hst]
    rintro ⟨h, -⟩
    rcases hs with hr | ⟨hw, -⟩
    · rw [h] at hr; cases hr
    · rw [h] at hw; cases hw
  obtain ⟨-, -, -, -, hcode, -, -, huv, -⟩ := ht
  rw [hfound] at hcode huv
  have hwrites : Writes (· = 0xA) m (m.turnOffFault k 0xA 0 also) :=
    .turnOffFault 0xA 0 also m (lt_of_lt_of_le hk m.nch_le) (by rw [hf]) fun h => absurd (congrArg Prod.fst hf) h
  refine ⟨?_, congrArg Prod.fst (hcode hlate fun h => h.1 rfl), fun n hn => ?_⟩
  · rcases hs with hr | hw
    · obtain ⟨hwait, hcause, -⟩ := huv (hst ▸ hr) rfl
      have hwait' : (m.turnOffFault k 0xA 0 also).st k = .retryWait := hwait
      rw [Mach.st_turnOffFault, hl] at hwait'
      have hcause' : ((m.turnOffFault k 0xA 0 also).ch (m.leader k)).rty.cause = 0xA := hcause
      rw [hl] at hcause'
      exact ⟨hwait', hcause'⟩
    · have hkeep := Keeps.turnOffFault_uv (hst.trans hw.1) (congrArg Prod.fst hf)
      exact ⟨(hkeep.map Prod.fst l).trans hw.1, (hkeep.map (fun x => x.2.cause) l).trans hw.2⟩
  · rcases hwrites.code n with h | ⟨h, -⟩
    · exact (congrArg Prod.fst h).trans hn
    · exact h

/-- The faults of an undervoltage on the channels `L`, each with what its round found beside. -/
def Mach.uvFaults (also : List (BitVec 16)) (L : List Nat) (m : Mach) : Mach :=
  forList L (fun k m => m.turnOffFault k 0xA 0 (nth also k 0)) m

/-- A group none of whose members trips waits, and each member shows code 0xA. -/
theorem Mach.uvFaults_wait {m0 : Mach} {l : Nat} (also : List (BitVec 16)) (L : List Nat)
    (hL : ∀ k ∈ L, k < m0.nch ∧ m0.leader k = l ∧ uvFirst also k) : ∀ m, SameRules m0 m →
    (m.ch l).st.running = true ∨ m.uvWaits l →
    ((m.uvWaits l ∨ L ≠ []) → (m.uvFaults also L).uvWaits l) ∧
      ∀ k, (k ∈ L ∨ (m.ch k).flt.code = 0xA) → ((m.uvFaults also L).ch k).flt.code = 0xA := by
  induction L with
  | nil => exact fun m _ _ => ⟨fun h => h.resolve_right fun hne => hne rfl, fun k h => h.resolve_left List.not_mem_nil⟩
  | cons j t ih =>
    intro m hm hs
    obtain ⟨hj, hjl, hj0, hj1⟩ := hL j List.mem_cons_self
    have hj' : j < m.nch := hm.nch.symm ▸ hj
    obtain ⟨hw, hcj, hkept⟩ := Mach.turnOffFault_uvWaits hj' ((hm.leader j).trans hjl) (Mach.firstFound_uv m j hj0 hj1) hs
    have hr := Switched.rules (Switched.turnOffFault (ks := m.members j) 0xA 0 (nth also j 0) m fun _ h => h)
    obtain ⟨hwt, hct⟩ := ih (fun k hk => hL k (List.mem_cons_of_mem _ hk)) _ (hm.trans' hr) (.inr hw)
    refine ⟨fun _ => hwt (.inl hw), fun k hk => hct k ?_⟩
    rcases hk with hk | hk
    · rcases List.mem_cons.mp hk with rfl | hk
      · exact .inr hcj
      · exact .inl hk
    · exact .inr (hkept k hk)

/-- Channel `k` has met an undervoltage: it is reported, does not run, and holds the time and its trips of the round. -/
structure UvMet (also : List (BitVec 16)) (k : Nat) (time : Time) (m : Mach) : Prop where
  evt  : (m.evtWord (chPage k)).getLsbD 0 = true
  stop : (m.st k).running = false
  time : (m.ch k).flt.time = time
  trip : (nth also k 0).getLsbD 0 = true ∨ (nth also k 0).getLsbD 1 = true → (m.ch k).flt.hist.getLsbD 1 = true

/-- Further faults of the instant leave that. -/
theorem UvMet.later {also : List (BitVec 16)} {k : Nat} {m m' : Mach} (h : UvMet also k m.time m) (hf : Faulted m m')
    (hw : Writes (fun _ => True) m m') : UvMet also k m.time m' where
  evt := hf.frame.evt _ _ h.evt
  stop := by rcases hf.st k with hs | hs | hs <;> rw [hs]; exacts [h.stop, rfl, rfl]
  time := by
    rcases hw.code k with hc | ⟨-, ht⟩
    · exact (congrArg Prod.snd hc).trans h.time
    · exact ht
  trip ht := hf.hist k _ (h.trip ht)

theorem UvMet.of_turnsOff {also : List (BitVec 16)} {k : Nat} {s t : State} (h : turnsOff k 0xA 0 (nth also k 0) s t)
    (hl : s.m.recordsLate k = false) : UvMet also k s.m.time t.m := by
  have hst := turnsOff_st h
  obtain ⟨-, -, hr, -⟩ := h
  obtain ⟨ht, he, hh⟩ := hr hl
  refine ⟨he, ?_, ht, fun hx => hh 1 (foundBits_trip hx)⟩
  rcases hst with h | h | ⟨hn, h⟩ <;> rw [h]
  exacts [rfl, rfl, hn]

/-- The faults of an undervoltage reach each of their channels. -/
theorem Mach.uvFaults_met (also : List (BitVec 16)) (L : List Nat) : ∀ m : Mach,
    (∀ k ∈ L, k < m.nch ∧ m.recordsLate k = false) →
    Faulted m (m.uvFaults also L) ∧ Writes (fun _ => True) m (m.uvFaults also L) ∧
      ∀ k ∈ L, UvMet also k m.time (m.uvFaults also L) := by
  induction L with
  | nil => exact fun m _ => ⟨.rfl' m, .of_keeps rfl (.rfl' _ m), fun _ hk => absurd hk List.not_mem_nil⟩
  | cons j t ih =>
    intro m hL
    obtain ⟨hj, hlate⟩ := hL j List.mem_cons_self
    have hf := Faulted.turnOffFault 0xA 0 (nth also j 0) m.alone hj
    have hw : Writes (fun _ => True) m (m.turnOffFault j 0xA 0 (nth also j 0)) :=
      .turnOffFault 0xA 0 _ m (lt_of_lt_of_le hj m.nch_le) trivial fun _ => trivial
    have hmet := UvMet.of_turnsOff (Mach.turnOffFault_turnsOff 0xA 0 (nth also j 0) m.alone hj) hlate
    obtain ⟨hft, hwt, hmt⟩ := ih (m.turnOffFault j 0xA 0 (nth also j 0)) fun k hk => by
      obtain ⟨hkn, hkl⟩ := hL k (List.mem_cons_of_mem _ hk)
      exact ⟨hf.frame.rules.nch.symm ▸ hkn, hf.recordsLate hkl⟩
    refine ⟨hf.trans' hft, hw.trans' hwt, fun k hk => ?_⟩
    have htime : (m.turnOffFault j 0xA 0 (nth also j 0)).time = m.time := hw.time
    rw [← htime]
    rcases List.mem_cons.mp hk with rfl | hk
    · exact (htime ▸ hmet : UvMet also k (m.turnOffFault k 0xA 0 (nth also k 0)).time _).later hft hwt
    · exact hmt k hk

/-! ## One group in a pass over the leaders -/

/-- In a pass every element meets the state the others' steps lead to, and theirs follow its own. -/
theorem forList_own_step {α σ : Type} {R : σ → σ → Prop} (hrfl : ∀ s, R s s) (htr : ∀ a b c, R a b → R b c → R a c)
    (f : α → σ → σ) {L : List α} (hL : L.Nodup) {b : α} (hb : b ∈ L) (h : ∀ a ∈ L, a ≠ b → ∀ s, R s (f a s)) (s : σ) :
    ∃ x, R s x ∧ R (f b x) (forList L f s) := by
  obtain ⟨u, t, rfl⟩ := List.append_of_mem hb
  obtain ⟨-, ht, hdis⟩ := List.nodup_append.mp hL
  have hu (a : α) (ha : a ∈ u) : a ≠ b := hdis a ha b List.mem_cons_self
  have ht (a : α) (ha : a ∈ t) : a ≠ b := fun he => (List.nodup_cons.mp ht).1 (he ▸ ha)
  refine ⟨forList u f s, forList_rel R u f hrfl htr (fun a ha => h a (by simp [ha]) (hu a ha)) s, ?_⟩
  have happ : forList (u ++ b :: t) f s = forList t f (f b (forList u f s)) := List.foldl_append
  rw [happ]
  exact forList_rel R t f hrfl htr (fun a ha => h a (by simp [ha]) (ht a ha)) _

/-- What of a channel says whether and why it waits. -/
def Chan.wait (c : Chan) : ChSt × Flt × Nat × Bool := (c.st, c.flt, c.rty.cause, c.limp.uvHeld)

/-- A step elsewhere than on the channels `ks`. -/
structure Elsewhere (ks : List Nat) (m m' : Mach) : Prop where
  rules : SameRules m m'
  time  : m'.time = m.time
  evt   : evtKept m m'
  chans : ∀ k ∈ ks, (m'.ch k).wait = (m.ch k).wait

theorem Elsewhere.rfl' (ks : List Nat) (m : Mach) : Elsewhere ks m m := ⟨.rfl' m, rfl, evtKept.rfl' m, fun _ _ => rfl⟩
theorem Elsewhere.trans' {ks : List Nat} {a b c : Mach} (h : Elsewhere ks a b) (k : Elsewhere ks b c) : Elsewhere ks a c :=
  ⟨h.rules.trans' k.rules, k.time.trans h.time, h.evt.trans' k.evt, fun n hn => (k.chans n hn).trans (h.chans n hn)⟩

section
variable {ks : List Nat} {m m' : Mach} (h : Elsewhere ks m m') {k : Nat} (hk : k ∈ ks)
include h hk

theorem Elsewhere.st : (m'.ch k).st = (m.ch k).st := congrArg Prod.fst (h.chans k hk)
theorem Elsewhere.flt : (m'.ch k).flt = (m.ch k).flt := congrArg (fun x => x.2.1) (h.chans k hk)
theorem Elsewhere.cause : (m'.ch k).rty.cause = (m.ch k).rty.cause := congrArg (fun x => x.2.2.1) (h.chans k hk)
theorem Elsewhere.uvHeld : (m'.ch k).limp.uvHeld = (m.ch k).limp.uvHeld := congrArg (fun x => x.2.2.2) (h.chans k hk)

end

/-- Switching shows all but the signature words of the channels it does not switch. -/
theorem Switched.apart {β : Type} {g : Chan → β} {ks js : List Nat} {m m' : Mach} {n : Nat} (h : Switched ks js m m')
    (hn : n ∉ ks) (hg : ∀ c, g { c with sig := Sig.reset } = g c := by intro _; rfl) : g (m'.ch n) = g (m.ch n) := by
  by_cases h24 : n < 24
  · have hread (x : Mach) : (x.beside ks).ch n = { x.ch n with sig := Sig.reset } := by
      simp [Mach.beside, Mach.calm, Mach.quiet, Mach.ch, vmap, h24, hn]
    rw [← hg (m'.ch n), ← hg (m.ch n), ← hread, ← hread m]
    exact congrArg (fun x : Mach => g (x.ch n)) h.view
  · simp [Mach.ch, h24]

/-- Two groups share no channel. -/
theorem Mach.members_apart {m : Mach} {a b k : Nat} (ha : a ∈ m.leaders) (hb : b ∈ m.leaders) (hab : a ≠ b)
    (hk : k ∈ m.members b) : k ∉ m.members a := fun hka => hab <| by
  rw [← (Mach.mem_leaders.mp ha).2, ← (Mach.mem_leaders.mp hb).2, ← Mach.leader_of_mem hka, Mach.leader_of_mem hk]

/-- In a pass over the leaders each group meets the state it had, and keeps what its own step makes of it. -/
theorem Mach.forList_leaders {m0 : Mach} {b : Nat} (hb : b ∈ m0.leaders) (f : Nat → Mach → Mach)
    (hr : ∀ x, SameRules m0 x → SameRules x (f b x))
    (h : ∀ a ∈ m0.leaders, a ≠ b → ∀ x, SameRules m0 x → Elsewhere (m0.members b) x (f a x)) :
    ∃ x, Elsewhere (m0.members b) m0 x ∧ Elsewhere (m0.members b) (f b x) (forList m0.leaders f m0) := by
  let R (x y : Mach) : Prop := SameRules m0 x → Elsewhere (m0.members b) x y
  obtain ⟨x, hx, hrest⟩ := forList_own_step (R := R) (fun s _ => .rfl' _ s)
    (fun _ _ _ h k hm => (h hm).trans' (k (hm.trans' (h hm).rules))) f m0.leaders_nodup hb h m0
  have hx := hx (.rfl' m0)
  exact ⟨x, hx, hrest (hx.rules.trans' (hr x hx.rules))⟩

/-! ## The undervoltage's pass (R123) -/

section
variable (also : List (BitVec 16)) {m : Mach} {l : Nat}

theorem Switched.uvFault_group (hs : m.leader l = l) : Switched (m.members l) [l] m (m.uvFault l also) := by
  refine .ite (Moved.forList_rules Switched.rules _ _ (fun k hk x hx => ?_) m (.rfl' m)) (.rfl' _ _ m)
  have h := Switched.turnOffFault (ks := m.members l) 0xA 0 (nth also k 0) x fun j hj => by
    rwa [hx.members, Mach.members_of_mem hk] at hj
  rwa [hx.leader, Mach.leader_of_mem hk, hs] at h

/-- A group that does not run meets no fault. -/
theorem Mach.uvFault_idle (hr : (m.ch l).st.running = false) : m.uvFault l also = m := by
  unfold Mach.uvFault
  rw [hr]
  rfl

/-- A group that runs records the undervoltage on every member. -/
theorem Mach.uvFault_runs (hr : (m.ch l).st.running = true) (hv : m.pwr.vbbUv = true) :
    m.uvFault l also = m.uvFaults also (m.members l) := by
  unfold Mach.uvFault
  rw [hr, hv]
  rfl

variable (hl : l < m.nch) (hs : m.leader l = l)
include hl hs

theorem Mach.uvFault_met (hr : (m.ch l).st.running = true) (hv : m.pwr.vbbUv = true) :
    Faulted m (m.uvFault l also) ∧ ∀ n ∈ m.members l, UvMet also n m.time (m.uvFault l also) ∧
      ((∀ k ∈ m.members l, uvFirst also k) → (m.uvFault l also).uvWaits l ∧ ((m.uvFault l also).ch n).flt.code = 0xA) := by
  rw [Mach.uvFault_runs also hr hv]
  obtain ⟨hf, -, hmet⟩ := Mach.uvFaults_met also (m.members l) m fun k hk => by
    refine ⟨Mach.mem_lt hk hl, ?_⟩
    rw [Bool.eq_false_iff, ne_eq, Mach.recordsLate_iff]
    rintro ⟨hsafe, -⟩
    rw [Mach.st, Mach.leader_of_mem hk, hs] at hsafe
    rw [hsafe] at hr
    cases hr
  refine ⟨hf, fun n hn => ⟨hmet n hn, fun hfirst => ?_⟩⟩
  obtain ⟨hw, hc⟩ := Mach.uvFaults_wait also (m.members l)
    (fun k hk => ⟨Mach.mem_lt hk hl, (Mach.leader_of_mem hk).trans hs, hfirst k hk⟩) m (.rfl' m) (.inl hr)
  exact ⟨hw (.inr (List.ne_nil_of_mem hn)), hc n (.inl hn)⟩

theorem Faulted.uvFault : Faulted m (m.uvFault l also) := by
  by_cases h : (m.ch l).st.running = true ∧ m.pwr.vbbUv = true
  · exact (Mach.uvFault_met also hl hs h.1 h.2).1
  · rw [Mach.uvFault, if_neg fun hx => h (Bool.and_eq_true_iff.mp hx)]
    exact .rfl' m

end

section
variable (also : List (BitVec 16)) (m : Mach)

/-- The pass of an undervoltage over the leaders. -/
def Mach.uvPass : Mach := forList m.leaders (fun l m => m.uvFault l also) m

theorem Faulted.uvPass : Faulted m (m.uvPass also) := by
  let R (x y : Mach) : Prop := SameRules m x → Faulted x y
  refine forList_rel R _ _ (fun x _ => .rfl' x) (fun _ _ _ h k hx => (h hx).trans' (k (hx.trans' (h hx).frame.rules)))
    (fun l hl x hx => ?_) m (.rfl' m)
  obtain ⟨hlt, hlead⟩ := Mach.mem_leaders.mp hl
  exact .uvFault also (hx.nch.symm ▸ hlt) ((hx.leader l).trans hlead)

/-- One group in the pass: its own step on the state it had. -/
theorem Mach.uvPass_own {l : Nat} (hl : l ∈ m.leaders) :
    ∃ x, Elsewhere (m.members l) m x ∧ Elsewhere (m.members l) (x.uvFault l also) (m.uvPass also) := by
  have hown {a : Nat} (ha : a ∈ m.leaders) {x : Mach} (hx : SameRules m x) : a < x.nch ∧ x.leader a = a :=
    ⟨hx.nch.symm ▸ (Mach.mem_leaders.mp ha).1, (hx.leader a).trans (Mach.mem_leaders.mp ha).2⟩
  refine Mach.forList_leaders hl (fun l m => m.uvFault l also) (fun x hx => (Faulted.uvFault also (hown hl hx).1 (hown hl hx).2).frame.rules)
    fun a ha hab x hx => ?_
  have hsw := Switched.uvFault_group also (hown ha hx).2
  refine ⟨Switched.rules hsw, hsw.time, hsw.evt, fun k hk => ?_⟩
  have hka : k ∉ x.members a := by
    rw [hx.members]
    exact Mach.members_apart ha hl hab hk
  exact hsw.apart hka

/-- A group that runs has met the undervoltage after the pass, and waits unless one of its members trips in the round. -/
theorem Mach.uvPass_met {l n : Nat} (hl : l ∈ m.leaders) (hr : (m.ch l).st.running = true) (hv : m.pwr.vbbUv = true)
    (hn : n ∈ m.members l) : UvMet also n m.time (m.uvPass also) ∧
      ((∀ k ∈ m.members l, uvFirst also k) → (m.uvPass also).uvWaits l ∧ ((m.uvPass also).ch n).flt.code = 0xA) := by
  obtain ⟨hlt, hlead⟩ := Mach.mem_leaders.mp hl
  have hll : l ∈ m.members l := m.self_mem l
  obtain ⟨x, hx, hrest⟩ := m.uvPass_own also hl
  obtain ⟨-, hmet⟩ := Mach.uvFault_met also (hx.rules.nch.symm ▸ hlt) ((hx.rules.leader l).trans hlead)
    (by rw [hx.st hll]; exact hr) (hx.rules.vbbUv.trans hv)
  rw [hx.rules.members, hx.time] at hmet
  obtain ⟨⟨hevt, hstop, htime, htrip⟩, hwaits⟩ := hmet n hn
  have hflt := hrest.flt hn
  have hlead' : (x.uvFault l also).leader n = l ∧ (m.uvPass also).leader n = l := by
    have hx1 := Faulted.uvFault also (hx.rules.nch.symm ▸ hlt) ((hx.rules.leader l).trans hlead)
    have h1 : (x.uvFault l also).leader n = l :=
      (hx1.frame.rules.leader n).trans ((hx.rules.leader n).trans ((Mach.leader_of_mem hn).trans hlead))
    exact ⟨h1, (hrest.rules.leader n).trans h1⟩
  refine ⟨⟨hrest.evt _ _ hevt, ?_, hflt ▸ htime, fun h => hflt ▸ htrip h⟩, fun hfirst => ?_⟩
  · unfold Mach.st at hstop ⊢
    rw [hlead'.1] at hstop
    rw [hlead'.2, hrest.st hll]
    exact hstop
  · obtain ⟨⟨hw, hc⟩, hcode⟩ := hwaits hfirst
    exact ⟨⟨(hrest.st hll).trans hw, (hrest.cause hll).trans hc⟩, hflt ▸ hcode⟩

/-- A group that does not run keeps its state. -/
theorem Mach.uvPass_idle {l : Nat} (hl : l ∈ m.leaders) (hr : (m.ch l).st.running = false) :
    ((m.uvPass also).ch l).st = (m.ch l).st := by
  have hll : l ∈ m.members l := m.self_mem l
  obtain ⟨x, hx, hrest⟩ := m.uvPass_own also hl
  rw [hrest.st hll, Mach.uvFault_idle also (by rw [hx.st hll]; exact hr), hx.st hll]

end

/-! ## VBB_UNDERVOLTAGE (R123, R125, R444) -/

/-- Every conducting channel discharges: the gates are off, and no state or record moves. -/
theorem Mach.dischargeAll_gates (m : Mach) : Switched everyChannel [] m m.dischargeAll ∧ Keeps Chan.case m m.dischargeAll ∧
    ∀ n, n < m.nch → (m.dischargeAll.ch n).stage.gateOn = false := by
  have hlt : ∀ k ∈ m.allCh.filter fun k => (m.ch k).stage.conducting, k < 24 := fun k hk => by
    have hk := (List.mem_filter.mp hk).1
    exact lt_of_lt_of_le (by simpa [Mach.allCh] using hk) m.nch_le
  refine ⟨Moved.forList _ _ (fun k hk x => Switched.gateOff1 .discharge x (mem_everyChannel.mpr (hlt k hk))) m,
    .forList _ _ (fun k _ x => .gateOff1 .discharge k x) m, fun n hn => ?_⟩
  unfold Mach.dischargeAll
  rw [Mach.stage_gateOffList _ hlt n m]
  split
  · exact Stage.discharged_gateOn _ _
  · next h =>
    have hc : (m.ch n).stage.conducting = false := by simpa [Mach.allCh, hn] using h
    exact (Bool.or_eq_false_iff.mp hc).1

/-- SAFE channels are held off (R123). -/
def Mach.uvHold (m : Mach) : Mach := forList m.leaders (fun l m =>
  if (m.ch l).st == .safe then m.modCh l fun c => { c with limp := { c.limp with uvHeld := true } } else m) m

theorem Switched.uvHold (m : Mach) : Switched everyChannel [] m m.uvHold :=
  Moved.forList _ _ (fun l hl x => .ite (Switched.modCh x (m.leaders_everyChannel hl)) (.rfl' _ _ x)) m

theorem Keeps.uvHold (m : Mach) : Keeps (fun c => (c.stage, c.case)) m m.uvHold :=
  .forList _ _ (fun l _ x => .ite (.modCh l x) (.rfl' _ x)) m

/-- The machine with VBB low. -/
def Mach.vbbDown (m : Mach) : Mach :=
  { m with pwr := { m.pwr with vbbUv := true, vcpOk := false, uvCnt := inc16 m.pwr.uvCnt } }

/-- Every gate is off and the groups have not met the undervoltage yet. -/
def Mach.uvOff (m : Mach) : Mach := (m.vbbDown.event 0x02 0x0004).dischargeAll

theorem Switched.uvOff (m : Mach) : Switched everyChannel [] m.vbbDown m.uvOff :=
  (Switched.event everyChannel 0x02 0x0004 m.vbbDown).trans' (Mach.dischargeAll_gates _).1

theorem Keeps.uvOff (m : Mach) : Keeps Chan.case m m.uvOff := by
  have h : Keeps Chan.case m m.vbbDown := .of_chans rfl
  exact (h.trans' (.event 0x02 0x0004 _)).trans' (Mach.dischargeAll_gates _).2.1

/-- What the command does where VBB was not low before. -/
def Mach.underVolt (also : List (BitVec 16)) (m : Mach) : Mach := (m.uvOff.uvPass also).uvHold

theorem Switched.underVolt (also : List (BitVec 16)) (m : Mach) :
    Switched everyChannel everyChannel m.vbbDown (m.underVolt also) :=
  (((Switched.uvOff m).any _).trans' (Faulted.uvPass also m.uvOff).frame).trans' ((Switched.uvHold _).any _)

theorem exec_vbbUndervoltage (also : List (BitVec 16)) {s : State} (hv : s.m.pwr.vbbUv = false)
    (hp : s.m.dev.phase ≠ .powerOff) : exec (.vbbUndervoltage also) s = .next (s.ctl (Mach.underVolt also)) :=
  congrArg Host.Outcome.next (State.ctl_congr (if_neg (by simp [hv, hp])))

section
variable (also : List (BitVec 16)) (s : State)

theorem vbbUndervoltage_latched : (s.ctl (Mach.underVolt also)).latched 0x02 2 := by
  have hevt : ((s.m.vbbDown.event 0x02 0x0004).evtWord 0x02).getLsbD 2 = true :=
    Mach.event_latches (headerPage_pwr _) (by decide)
  refine State.ctl_latches ?_
  exact (((Mach.dischargeAll_gates _).1.evt.trans' (Faulted.uvPass also s.m.uvOff).frame.evt).trans' (Switched.uvHold _).evt)
    _ _ hevt

theorem vbbUndervoltage_gates {n : Nat} (hn : n < s.m.nch) :
    ((s.ctl (Mach.underVolt also)).m.ch n).stage.gateOn = false := by
  have hcalm : Keeps Chan.stage (s.m.underVolt also) (s.ctl (Mach.underVolt also)).m := .of_calm (State.ctl_calm _ s)
  have hhold := (Keeps.uvHold (s.m.uvOff.uvPass also)).map Prod.fst n
  have hnch : (s.m.vbbDown.event 0x02 0x0004).nch = s.m.nch :=
    (Switched.rules (Switched.event everyChannel 0x02 0x0004 s.m.vbbDown)).nch
  have hoff := (Mach.dischargeAll_gates (s.m.vbbDown.event 0x02 0x0004)).2.2 n (hnch.symm ▸ hn)
  rw [hcalm n]
  exact (congrArg Stage.gateOn hhold).trans ((Faulted.uvPass also s.m.uvOff).off n hoff)

/-- What a channel's record shows at the end is what the pass left. -/
theorem vbbUndervoltage_case (n : Nat) :
    ((s.ctl (Mach.underVolt also)).m.ch n).case = ((s.m.uvOff.uvPass also).ch n).case := by
  have hcalm : Keeps Chan.case (s.m.underVolt also) (s.ctl (Mach.underVolt also)).m := .of_calm (State.ctl_calm _ s)
  exact (hcalm n).trans ((Keeps.uvHold _).map Prod.snd n)

theorem vbbUndervoltage_leader (n : Nat) : (s.ctl (Mach.underVolt also)).m.leader n = s.m.leader n := by
  rw [Mach.leader_of (calm_otp (State.ctl_calm _ s)) (congrArg Dev.part (calm_dev (State.ctl_calm _ s)))]
  exact (Switched.rules (Switched.underVolt also s.m)).leader n

theorem vbbUndervoltage_st (n : Nat) :
    (s.ctl (Mach.underVolt also)).m.st n = ((s.m.uvOff.uvPass also).ch (s.m.leader n)).st := by
  unfold Mach.st
  rw [vbbUndervoltage_leader]
  exact congrArg Prod.fst (vbbUndervoltage_case also s _)

/-- A channel that runs. -/
theorem vbbUndervoltage_runs {n : Nat} (hn : n < s.m.nch) (hr : (s.m.st n).running = true) :
    let t := s.ctl (Mach.underVolt also)
    t.latched (chPage n) 0 ∧ (t.m.st n).running = false ∧ (t.m.ch n).flt.time = s.m.time ∧
      ((nth also n 0).getLsbD 0 = true ∨ (nth also n 0).getLsbD 1 = true → (t.m.ch n).flt.hist.getLsbD 1 = true) ∧
      ((∀ k, k ∈ s.m.members n → uvFirst also k) →
        t.m.st n = .retryWait ∧ (t.m.ch n).flt.code = 0xA ∧ (t.m.ch (s.m.leader n)).rty.cause = 0xA) := by
  have hrules := Switched.rules (Switched.uvOff s.m)
  have hl : s.m.leader n ∈ s.m.uvOff.leaders := hrules.leaders.symm ▸ Mach.leader_mem_leaders hn
  have hmem : s.m.uvOff.members (s.m.leader n) = s.m.members n := (hrules.members _).trans (s.m.members_leader n)
  have hrun : (s.m.uvOff.ch (s.m.leader n)).st.running = true :=
    (congrArg ChSt.running ((Keeps.uvOff s.m).map Prod.fst _)).trans hr
  obtain ⟨⟨hevt, hstop, htime, htrip⟩, hwaits⟩ := s.m.uvOff.uvPass_met also hl hrun hrules.vbbUv
    (hmem.symm ▸ s.m.self_mem n)
  have hflt : ((s.ctl (Mach.underVolt also)).m.ch n).flt = ((s.m.uvOff.uvPass also).ch n).flt :=
    congrArg (fun x => x.2.1) (vbbUndervoltage_case also s n)
  have hcause : ((s.ctl (Mach.underVolt also)).m.ch (s.m.leader n)).rty.cause = _ :=
    congrArg (fun x => x.2.2.1.cause) (vbbUndervoltage_case also s (s.m.leader n))
  have hst := vbbUndervoltage_st also s n
  have hlead : (s.m.uvOff.uvPass also).leader n = s.m.leader n :=
    ((Faulted.uvPass also s.m.uvOff).frame.rules.leader n).trans (hrules.leader n)
  rw [Mach.st, hlead] at hstop
  dsimp only
  rw [hst, hflt, hcause]
  refine ⟨State.ctl_latches ((Switched.uvHold _).evt _ _ hevt), hstop, htime.trans (Switched.uvOff s.m).time, htrip, fun h => ?_⟩
  obtain ⟨⟨hw, hc⟩, hcode⟩ := hwaits (hmem.symm ▸ h)
  exact ⟨hw, hcode, hc⟩

/-- A channel that does not run keeps its state. -/
theorem vbbUndervoltage_idle {n : Nat} (hn : n < s.m.nch) (hr : (s.m.st n).running = false) :
    (s.ctl (Mach.underVolt also)).m.st n = s.m.st n := by
  have hl : s.m.leader n ∈ s.m.uvOff.leaders :=
    (Switched.rules (Switched.uvOff s.m)).leaders.symm ▸ Mach.leader_mem_leaders hn
  have hst : (s.m.uvOff.ch (s.m.leader n)).st = s.m.st n := (Keeps.uvOff s.m).map Prod.fst _
  rw [vbbUndervoltage_st, Mach.uvPass_idle also s.m.uvOff hl (hst ▸ hr), hst]

end

theorem vbbUndervoltage_holds (also : List (BitVec 16)) (s : State) (hv : s.m.pwr.vbbUv = false)
    (hp : s.m.dev.phase ≠ .powerOff) :
    ∃ t, exec (.vbbUndervoltage also) s = .next t ∧ t.latched 0x02 2 ∧
      (∀ n, n < s.m.nch → (t.m.ch n).stage.gateOn = false) ∧
      (∀ n, n < s.m.nch → (s.m.st n).running = true → t.latched (chPage n) 0 ∧ (t.m.st n).running = false ∧
        (t.m.ch n).flt.time = s.m.time ∧
        ((nth also n 0).getLsbD 0 = true ∨ (nth also n 0).getLsbD 1 = true → (t.m.ch n).flt.hist.getLsbD 1 = true) ∧
        ((∀ k, k ∈ s.m.members n → uvFirst also k) →
          t.m.st n = .retryWait ∧ (t.m.ch n).flt.code = 0xA ∧ (t.m.ch (s.m.leader n)).rty.cause = 0xA)) ∧
      (∀ n, n < s.m.nch → (s.m.st n).running = false → t.m.st n = s.m.st n) ∧
      switches everyChannel s t s.m.vbbDown :=
  ⟨_, exec_vbbUndervoltage also hv hp, vbbUndervoltage_latched also s, fun _ => vbbUndervoltage_gates also s,
    fun _ => vbbUndervoltage_runs also s, fun _ => vbbUndervoltage_idle also s,
    Switched.switches (evtKept_of_evt rfl) (fun _ => rfl) (Switched.underVolt also s.m)⟩

end Sys2Proof.Machine
end

section
set_option Elab.async false
/-! PROOF of O18: the restart once VBB is back. -/

namespace Sys2Proof.Machine
open Claim

/-! ## What a start writes (R90, R124, R233) -/

/-- What of a channel only a fault or a command clears. -/
def Chan.lasting (c : Chan) : Flt × Nat × Bool := (c.flt, c.rty.cause, c.limp.uvHeld)

/-- A step that keeps the rules and what lasts of every channel. -/
structure Steady (m m' : Mach) : Prop where
  rules : SameRules m m'
  keep  : Keeps Chan.lasting m m'

theorem Steady.rfl' (m : Mach) : Steady m m := ⟨.rfl' m, .rfl' _ m⟩
theorem Steady.trans' {a b c : Mach} (h : Steady a b) (k : Steady b c) : Steady a c :=
  ⟨h.rules.trans' k.rules, h.keep.trans' k.keep⟩

theorem Steady.ite {m a b : Mach} {p : Prop} [Decidable p] (ha : Steady m a) (hb : Steady m b) : Steady m (if p then a else b) := by
  split
  · exact ha
  · exact hb

theorem Steady.modCh (n : Nat) {f : Chan → Chan} (m : Mach) (hf : ∀ c, (f c).lasting = c.lasting := by intro _; rfl)
    (hr : ∀ c, (f c).rules = c.rules := by intro _; rfl) : Steady m (m.modCh n f) :=
  ⟨⟨by simp, by simp, by simp, by simp, by simp, by simp, by simp, by simp, (Keeps.modCh n m hr : Keeps Chan.rules m _)⟩,
    .modCh n m hf⟩

theorem Steady.modOut (o : Nat) (f : OutUnit → OutUnit) (m : Mach) : Steady m (m.modOut o f) :=
  ⟨⟨by simp, by simp, by simp, by simp, by simp, by simp, by simp, by simp, (Keeps.modOut o f m : Keeps Chan.rules m _)⟩,
    .modOut o f m⟩

theorem Steady.forList {α : Type} (l : List α) (f : α → Mach → Mach) (h : ∀ a ∈ l, ∀ m, Steady m (f a m)) (m : Mach) :
    Steady m (forList l f m) :=
  forList_rel Steady l f Steady.rfl' (fun _ _ _ => Steady.trans') h m

theorem Steady.gateOn (n : Nat) (m : Mach) : Steady m (m.gateOn n) :=
  .forList _ _ (fun k _ m => .ite (.rfl' m) ((Steady.modCh k m).trans' (.modOut _ _ _))) m

theorem Steady.gateOff (kind : TurnOff) (n : Nat) (m : Mach) : Steady m (m.gateOff kind n) :=
  .forList _ _ (fun k _ m => .ite ((Steady.modCh k m).trans' (.modOut _ _ _)) (.ite (.modCh k m) (.rfl' m))) m

theorem Steady.setSt (n : Nat) (st : ChSt) (m : Mach) : Steady m (m.setSt n st) := by
  have hst : Steady m (m.modCh (m.leader n) fun c =>
      { c with st := st,
               prot := if st.follows then c.prot else { c.prot with escCnt := 0 },
               rty := { c.rty with
                 goodRun := if st.steady then (c.rty.goodRun || !(m.ch (m.leader n)).st.steady) else false },
               limp := if st.follows then c.limp
                       else { c.limp with run := false, lvl := false, cut := false, hadCut := false } }) := by
    refine .modCh _ m (fun c => ?_) fun c => ?_ <;> cases st.follows <;> rfl
  exact .ite hst (hst.trans' (.forList _ _ (fun k _ x => .modOut k _ x) _))

theorem Steady.holdCutCh (n : Nat) (m : Mach) : Steady m (m.holdCutCh n) := by
  have h : Steady m (if m.pwmRules (m.leader n) then m.modOut (m.leader n) fun u => { u with cut := true }
      else m.modCh (m.leader n) fun c => { c with limp := { c.limp with cut := true } }) := .ite (.modOut _ _ m) (.modCh _ m)
  exact .ite (h.trans' (.gateOff _ _ _)) h

theorem Steady.holdCuts (n : Nat) (m : Mach) : Steady m (m.holdCuts n) :=
  (Steady.holdCutCh n m).trans' (.ite (.holdCutCh _ _) (.rfl' _))

theorem Steady.countedCut (l : Nat) (m : Mach) : Steady m (m.countedCut l) :=
  (Steady.ite (.modOut _ _ m) (.modCh _ m)).trans' (.modCh l _)

theorem Steady.startInrush (l profile : Nat) (retry : Bool) (m : Mach) : Steady m (m.startInrush l profile retry) := by
  obtain ⟨r, -, he⟩ := Mach.startInrush_eq (l := l) profile retry m
  have h : Steady m (m.inrushWith l r) :=
    ((Steady.setSt l .inrush m).trans' (.modCh l _)).trans' (.forList _ _ (fun k _ x => .ite (.rfl' x) (.modCh k x)) _)
  rw [he]
  exact .ite (h.trans' (.gateOn l _)) (h.trans' (.gateOff _ l _))

/-- A step after which a leader may meet the fault to which a cut escalates, code 0x2, and nothing follows it. -/
def Escalated (l : Nat) (m m' : Mach) : Prop := ∃ x, Steady m x ∧ (m' = x ∨ ∃ detail, m' = x.turnOffFault l 0x2 detail 0)

section
variable {l : Nat} {m : Mach}

theorem Steady.escalated {m' : Mach} (h : Steady m m') : Escalated l m m' := ⟨m', h, .inl rfl⟩

theorem Escalated.after {a b : Mach} (h : Steady m a) (k : Escalated l a b) : Escalated l m b := by
  obtain ⟨x, hx, hb⟩ := k
  exact ⟨x, h.trans' hx, hb⟩

theorem Escalated.ite {a b : Mach} {p : Prop} [Decidable p] (ha : Escalated l m a) (hb : Escalated l m b) :
    Escalated l m (if p then a else b) := by
  split
  · exact ha
  · exact hb

theorem Escalated.countEsc : Escalated l m (m.countEsc l) := by
  have h : Steady m (m.modCh l fun c => { c with prot := { c.prot with escCnt := min 255 ((m.ch l).prot.escCnt + 1) } }) :=
    .modCh l m
  exact .ite ⟨_, h, .inr ⟨_, rfl⟩⟩ h.escalated

theorem Escalated.cutCh (hs : m.leader l = l) : Escalated l m (m.cutCh l) := by
  have h := Steady.holdCuts l m
  rw [Mach.cutCh_eq, Mach.countCutCh_eq, (h.rules.leader l).trans hs]
  exact .ite (.after h (.ite (Steady.rfl' _).escalated (.after (.countedCut l _) .countEsc))) (Steady.rfl' m).escalated

theorem Escalated.enterFollowing (st : ChSt) (hs : m.leader l = l) : Escalated l m (m.enterFollowing l st) := by
  have h := Steady.setSt l st m
  exact .ite (.after h (.cutCh ((h.rules.leader l).trans hs))) h.escalated

theorem Escalated.rules {m' : Mach} (h : Escalated l m m') : SameRules m m' := by
  obtain ⟨x, ⟨hx, -⟩, rfl | ⟨detail, rfl⟩⟩ := h
  · exact hx
  · exact hx.trans' (Switched.rules (Switched.turnOffFault (ks := x.members l) 0x2 detail 0 x fun _ h => h))

/-- Without an undervoltage a start as from OFF meets no other fault. -/
theorem Escalated.startFromOff (retry : Bool) (hs : m.leader l = l) (hv : m.pwr.vbbUv = false) :
    Escalated l m (m.startFromOff l retry) := by
  have huv {x : Mach} (h : Escalated l m x) : Escalated l m (x.uvFault l []) := by
    rwa [Mach.uvFault, h.rules.vbbUv, hv, Bool.and_false, if_neg Bool.false_ne_true]
  unfold Mach.startFromOff
  dsimp only
  have h0 : Steady m (m.modCh l fun c => { c with limp := { c.limp with safeFlt := false }, rty := { c.rty with elapsed := false } }) :=
    .modCh l m
  generalize (m.modCh l fun c => { c with limp := { c.limp with safeFlt := false }, rty := { c.rty with elapsed := false } }) = m0 at h0 ⊢
  have h1 : Steady m (m0.armSig l) := h0.trans' (.modCh l m0)
  generalize m0.armSig l = m1 at h1 ⊢
  have hfollow {x : Mach} (h : Steady m1 x) : Escalated l m (x.enterFollowing l .pwm) :=
    .after (h1.trans' h) (.enterFollowing .pwm (((h1.trans' h).rules.leader l).trans hs))
  refine .ite (h0.trans' ((Steady.gateOff _ l m0).trans' (.setSt l .off _))).escalated (huv (.ite ?_ (.ite ?_ (hfollow ?_))))
  · exact (h1.trans' (.startInrush l _ retry m1)).escalated
  · exact (h1.trans' ((Steady.setSt l .on m1).trans' (.gateOn l _))).escalated
  · exact .ite (.gateOff _ l m1) (.rfl' m1)

end

/-- The escalation of a start writes neither code 0xA nor anything outside its group. -/
theorem Escalated.writes {l : Nat} {m m' : Mach} (h : Escalated l m m') (hl : l < 24) :
    (∀ n, (m'.ch n).flt.code = 0xA → (m.ch n).flt.code = 0xA) ∧
    ∀ n, n ∉ m.members l → (m'.ch n).lasting = (m.ch n).lasting := by
  obtain ⟨x, ⟨hr, hk⟩, hx⟩ := h
  have hcode (n : Nat) : (x.ch n).flt.code = (m.ch n).flt.code := hk.map (fun v => v.1.code) n
  rcases hx with rfl | ⟨detail, rfl⟩
  · exact ⟨fun n hn => (hcode n).symm.trans hn, fun n _ => hk n⟩
  · have hw : Writes (· ≠ 0xA) x (x.turnOffFault l 0x2 detail 0) :=
      .turnOffFault 0x2 detail 0 x hl (by rw [Mach.firstFound_none]; exact (by decide : (2 : Nat) ≠ 0xA)) fun _ => by decide
    have hsw := Switched.turnOffFault (ks := x.members l) 0x2 detail 0 x fun _ h => h
    refine ⟨fun n hn => (hcode n).symm.trans ?_, fun n hn => ?_⟩
    · rcases hw.code n with hc | ⟨hc, -⟩
      · exact (congrArg Prod.fst hc).symm.trans hn
      · exact absurd hn hc
    · rw [← hk n]
      exact hsw.apart (hr.members l ▸ hn)

/-! ## A group released from its wait (R123) -/

/-- The code 0xA is cleared on every member and the cause of the wait with it. -/
def Mach.uvRelease (l : Nat) (m : Mach) : Mach :=
  (forList (m.members l) (fun k m => m.clearIf k [0xA]) m).modCh l fun c => { c with rty := { c.rty with cause := 0 } }

theorem Switched.uvRelease (l : Nat) (m : Mach) : Switched (m.members l) [] m (m.uvRelease l) :=
  (Moved.forList _ _ (fun _ hk x => Switched.clearIf _ x hk) m).trans' (Switched.modCh _ (m.self_mem l))

theorem Mach.clearIf_code {n : Nat} (codes : List Nat) (m : Mach) (hn : n < 24) (h0 : 0 ∉ codes) :
    ((m.clearIf n codes).ch n).flt.code ∉ codes := by
  unfold Mach.clearIf
  split
  · unfold Mach.clearCode
    rw [Mach.ch_modCh_self _ _ _ hn]
    exact h0
  · next h => simpa using h

/-- Clearing a code on a channel puts no other code on any. -/
theorem Mach.clearIf_ne (k n : Nat) (codes : List Nat) (m : Mach) (hn : (m.ch n).flt.code ≠ 0xA) :
    ((m.clearIf k codes).ch n).flt.code ≠ 0xA := by
  unfold Mach.clearIf Mach.clearCode
  split
  · by_cases hnk : n = k
    · subst hnk
      by_cases h24 : n < 24
      · rw [Mach.ch_modCh_self _ _ _ h24]
        exact (by decide : (0 : Nat) ≠ 0xA)
      · simpa [Mach.modCh, h24] using hn
    · rwa [Mach.ch_modCh_ne _ _ _ _ hnk]
  · exact hn

/-- A group that is released shows the undervoltage on no member. -/
theorem Mach.uvRelease_code {l n : Nat} (m : Mach) (hl : l < 24) (hn : n ∈ m.members l) :
    ((m.uvRelease l).ch n).flt.code ≠ 0xA := by
  have hn24 := Mach.members_lt hl n hn
  have h := forList_establishes (fun x : Mach => (x.ch n).flt.code ≠ 0xA) (fun k m => m.clearIf k [0xA])
    (fun x he => Mach.clearIf_code [0xA] x hn24 (by decide) (by simp [he])) (fun k x => Mach.clearIf_ne k n [0xA] x) hn m
  rw [Mach.uvRelease, Mach.ch_modCh_view (fun c => c.flt.code) l n]
  · exact h
  · exact fun _ => rfl

/-! ## One group at the restart (R123) -/

/-- The undervoltage holds the channel off no more. -/
def Mach.uvFree (l : Nat) (m : Mach) : Mach := m.modCh l fun c => { c with limp := { c.limp with uvHeld := false } }

/-- A group that waits for VBB starts as from OFF. -/
theorem Mach.uvRestart_waits {l : Nat} {m : Mach} (hw : m.uvWaits l) : m.uvRestart l = (m.uvRelease l).startFromOff l false := by
  unfold Mach.uvRestart
  rw [hw.1]
  exact if_pos hw.2

/-- A SAFE channel held off by the undervoltage resumes its safe state. -/
theorem Mach.uvRestart_safe {l : Nat} {m : Mach} (hs : (m.ch l).st = .safe) (hh : (m.ch l).limp.uvHeld = true) :
    m.uvRestart l = (m.uvFree l).safeDrive l := by
  unfold Mach.uvRestart
  rw [hs]
  exact if_pos hh

/-- Every other group stays. -/
theorem Mach.uvRestart_stays {l : Nat} {m : Mach} (hw : ¬ m.uvWaits l) (hs : ¬ ((m.ch l).st = .safe ∧ (m.ch l).limp.uvHeld = true)) :
    m.uvRestart l = m := by
  unfold Mach.uvRestart
  split
  · next h => exact if_neg fun hc => hw ⟨h, hc⟩
  · next h => exact if_neg fun hc => hs ⟨h, hc⟩
  · rfl

section
variable {l : Nat} {m : Mach} (hl : l < 24) (hs : m.leader l = l)
include hl hs

theorem Restarted.uvRestart : Restarted everyChannel [l] m (m.uvRestart l) := by
  have hle := mem_everyChannel.mpr hl
  by_cases hw : m.uvWaits l
  · have h : Switched everyChannel [] m (m.uvRelease l) :=
      (Moved.forList _ _ (fun k hk x => Switched.clearIf _ x (Mach.members_everyChannel hl k hk)) m).trans' (Switched.modCh _ hle)
    rw [Mach.uvRestart_waits hw]
    exact (h.any _).restarted.trans' (Restarted.startFromOff hl false _ (((Switched.rules h).leader l).trans hs))
  · by_cases hsafe : (m.ch l).st = .safe ∧ (m.ch l).limp.uvHeld = true
    · rw [Mach.uvRestart_safe hsafe.1 hsafe.2]
      exact ((Switched.modCh m hle).trans' (Switched.safeDrive hl _)).restarted.mono (List.nil_subset _)
    · rw [Mach.uvRestart_stays hw hsafe]
      exact .rfl' _ _ m

/-- A group that restarts leaves what lasts of every other channel. -/
theorem Mach.uvRestart_lasting (hv : m.pwr.vbbUv = false) {n : Nat} (hn : n ∉ m.members l) :
    ((m.uvRestart l).ch n).lasting = (m.ch n).lasting := by
  by_cases hw : m.uvWaits l
  · have h := Switched.uvRelease l m
    have hr := Switched.rules h
    have he : Escalated l (m.uvRelease l) ((m.uvRelease l).startFromOff l false) :=
      .startFromOff false ((hr.leader l).trans hs) (hr.vbbUv.trans hv)
    rw [Mach.uvRestart_waits hw, (he.writes hl).2 n ((hr.members l).symm ▸ hn)]
    exact h.apart hn
  · by_cases hsafe : (m.ch l).st = .safe ∧ (m.ch l).limp.uvHeld = true
    · have h : Steady _ ((m.uvFree l).safeDrive l) :=
        .ite (.gateOn l _) (.gateOff _ l _)
      have hne : n ≠ l := fun e => hn (e ▸ m.self_mem l)
      rw [Mach.uvRestart_safe hsafe.1 hsafe.2, h.keep n, Mach.uvFree, Mach.ch_modCh_ne _ _ _ _ hne]
    · rw [Mach.uvRestart_stays hw hsafe]

/-- A group that restarts from its wait. -/
theorem Mach.uvRestart_wakes (hlt : l < m.nch) (hv : m.pwr.vbbUv = false) (hw : m.uvWaits l) :
    m.startsTo l ((m.uvRestart l).ch l).st ∧ ∀ n ∈ m.members l, ((m.uvRestart l).ch n).flt.code ≠ 0xA := by
  have hr := Switched.rules (Switched.uvRelease l m)
  have hs' := (hr.leader l).trans hs
  rw [Mach.uvRestart_waits hw, ← hr.startsTo]
  refine ⟨Mach.startFromOff_startsTo hs' (hr.nch.symm ▸ hlt) false, fun n hn hc => ?_⟩
  exact Mach.uvRelease_code m hl hn (((Escalated.startFromOff false hs' (hr.vbbUv.trans hv)).writes hl).1 n hc)

omit hs in
/-- A SAFE channel that resumes stays in SAFE, and nothing holds it off. -/
theorem Mach.uvRestart_resumes (hsafe : (m.ch l).st = .safe) (hh : (m.ch l).limp.uvHeld = true) :
    ((m.uvRestart l).ch l).st = .safe ∧ ((m.uvRestart l).ch l).limp.uvHeld = false := by
  have hk : Steady _ ((m.uvFree l).safeDrive l) :=
    .ite (.gateOn l _) (.gateOff _ l _)
  rw [Mach.uvRestart_safe hsafe hh]
  have hfree : (m.uvFree l).ch l = { m.ch l with limp := { (m.ch l).limp with uvHeld := false } } := Mach.ch_modCh_self _ _ _ hl
  refine ⟨((Switched.safeDrive hl _).st l List.not_mem_nil).trans ?_, (hk.keep.map (fun v => v.2.2) l).trans ?_⟩
  · rw [hfree]
    exact hsafe
  · exact congrArg (fun c => c.limp.uvHeld) hfree

end

/-! ## UNDERVOLTAGE_RESTART (R123) -/

/-- The restart of the channels that wait, leader by leader. -/
def Mach.uvRestarts (m : Mach) : Mach := forList m.leaders Mach.uvRestart m

theorem Restarted.uvRestarts (m : Mach) : Restarted everyChannel everyChannel m m.uvRestarts :=
  Moved.forList_rules Restarted.rules _ _ (fun l hl x hx => by
    have h := Restarted.uvRestart (m := x) (Mach.leaders_lt hl) ((hx.leader l).trans (Mach.mem_leaders.mp hl).2)
    exact h.mono (fun a ha => m.leaders_everyChannel (List.mem_singleton.mp ha ▸ hl))) m (.rfl' m)

/-- One group in the pass: its own step on the state it had. -/
theorem Mach.uvRestarts_own {m : Mach} {l : Nat} (hl : l ∈ m.leaders) (hv : m.pwr.vbbUv = false) :
    ∃ x, Elsewhere (m.members l) m x ∧ Elsewhere (m.members l) (x.uvRestart l) m.uvRestarts := by
  have hlead {a : Nat} (ha : a ∈ m.leaders) {x : Mach} (hx : SameRules m x) : x.leader a = a :=
    (hx.leader a).trans (Mach.mem_leaders.mp ha).2
  refine Mach.forList_leaders hl Mach.uvRestart
    (fun x hx => Restarted.rules (Restarted.uvRestart (Mach.leaders_lt hl) (hlead hl hx))) fun a ha hab x hx => ?_
  have h := Restarted.uvRestart (Mach.leaders_lt ha) (hlead ha hx)
  refine ⟨Restarted.rules h, Restarted.field Mach.time h, h.evt, fun k hk => ?_⟩
  have hka : k ∉ x.members a := by
    rw [hx.members]
    exact Mach.members_apart ha hl hab hk
  have hst : ((x.uvRestart a).ch k).st = (x.ch k).st :=
    h.st k fun he => hka (List.mem_singleton.mp he ▸ x.self_mem a)
  exact congrArg₂ Prod.mk hst (Mach.uvRestart_lasting (Mach.leaders_lt ha) (hlead ha hx) (hx.vbbUv.trans hv) hka)

theorem exec_undervoltageRestart {s : State} (hv : s.m.pwr.vbbUv = false) :
    exec .undervoltageRestart s = .next (s.ctl Mach.uvRestarts) :=
  congrArg Host.Outcome.next (State.ctl_congr (if_neg (by simp [hv])))

theorem undervoltageRestart_holds (s : State) (hv : s.m.pwr.vbbUv = false) :
    ∃ t, exec .undervoltageRestart s = .next t ∧
      (∀ l, l ∈ s.m.leaders → s.m.st l = .retryWait → (s.m.ch l).rty.cause = 0xA →
        s.m.startsTo l (t.m.st l) ∧ ∀ k, k ∈ s.m.members l → (t.m.ch k).flt.code ≠ 0xA) ∧
      (∀ l, l ∈ s.m.leaders → s.m.st l = .safe → (s.m.ch l).limp.uvHeld = true →
        t.m.st l = .safe ∧ (t.m.ch l).limp.uvHeld = false) ∧
      (∀ l, l ∈ s.m.leaders → (s.m.st l = .retryWait → (s.m.ch l).rty.cause ≠ 0xA) → s.m.st l ≠ .safe →
        t.m.st l = s.m.st l) ∧
      restarts everyChannel s t s.m := by
  have hcase : Keeps Chan.wait s.m.uvRestarts (s.ctl Mach.uvRestarts).m := .of_calm (State.ctl_calm _ s)
  have hst {l : Nat} (hl : l ∈ s.m.leaders) : s.m.st l = (s.m.ch l).st ∧
      (s.ctl Mach.uvRestarts).m.st l = (s.m.uvRestarts.ch l).st := by
    have hlead := (Mach.mem_leaders.mp hl).2
    rw [State.ctl_st]
    unfold Mach.st
    rw [(Restarted.rules (Restarted.uvRestarts s.m)).leader, hlead]
    exact ⟨rfl, rfl⟩
  refine ⟨_, exec_undervoltageRestart hv, fun l hl hw hc => ?_, fun l hl hsafe hh => ?_, fun l hl hw hsafe => ?_,
    Restarted.restarts (evtKept.rfl' _) (fun _ => rfl) (Restarted.uvRestarts s.m)⟩
  all_goals
    have hll := s.m.self_mem l
    obtain ⟨hlt, hlead⟩ := Mach.mem_leaders.mp hl
    obtain ⟨x, hx, hrest⟩ := Mach.uvRestarts_own hl hv
    obtain ⟨hold, hnew⟩ := hst hl
    rw [hnew, hrest.st hll]
  · rw [hold] at hw
    obtain ⟨hto, hcode⟩ := Mach.uvRestart_wakes (Mach.leaders_lt hl) ((hx.rules.leader l).trans hlead) (hx.rules.nch.symm ▸ hlt)
      (hx.rules.vbbUv.trans hv) ⟨(hx.st hll).trans hw, (hx.cause hll).trans hc⟩
    rw [hx.rules.members] at hcode
    refine ⟨(hx.rules.startsTo l _).mp hto, fun k hk => ?_⟩
    have hflt : ((s.ctl Mach.uvRestarts).m.ch k).flt = (s.m.uvRestarts.ch k).flt := hcase.map (fun v => v.2.1) k
    rw [hflt, hrest.flt hk]
    exact hcode k hk
  · rw [hold] at hsafe
    obtain ⟨hstays, hfree⟩ := Mach.uvRestart_resumes (Mach.leaders_lt hl) ((hx.st hll).trans hsafe) ((hx.uvHeld hll).trans hh)
    have hheld : ((s.ctl Mach.uvRestarts).m.ch l).limp.uvHeld = (s.m.uvRestarts.ch l).limp.uvHeld := hcase.map (fun v => v.2.2.2) l
    exact ⟨hstays, hheld.trans ((hrest.uvHeld hll).trans hfree)⟩
  · rw [hold] at hw hsafe ⊢
    rw [Mach.uvRestart_stays (fun h => hw ((hx.st hll).symm.trans h.1) ((hx.cause hll).symm.trans h.2))
      fun h => hsafe ((hx.st hll).symm.trans h.1), hx.st hll]

theorem undervoltageEvents_hold : undervoltageEvents := ⟨vbbUndervoltage_holds, fun _ => rfl, undervoltageRestart_holds⟩

end Sys2Proof.Machine

open Sys2Proof.Machine

/-- Settles O18: an undervoltage meets each group of the pass over the leaders in the state it had, and the groups that follow
leave its record; so does the restart. -/
theorem supplyThresholds : Obligations.SupplyThresholds := ⟨undervoltageEvents_hold, thresholdEvents_hold⟩

end

section
/-! PROOF of O20: a comparison changes one channel's protection words, and its finding is a diagnostic code. -/

namespace Sys2Proof.Machine
open Claim

/-! ## A diagnostic code (R127, R131) -/

section
variable {k : Nat} (code detail : Nat)

theorem Switched.diagnose {ks : List Nat} (m : Mach) (hk : k ∈ ks) : Switched ks [] m (m.diagnose k code detail) := by
  unfold Mach.diagnose
  dsimp only
  exact Moved.trans' (.ite (Switched.writeCode _ _ m hk) (Switched.addHist _ m hk)) (Switched.recordFault _ _ _ _ hk)

theorem Keeps.diagnose (m : Mach) : Keeps Chan.course m (m.diagnose k code detail) := by
  unfold Mach.diagnose
  dsimp only
  exact Keeps.trans' (.ite (.writeCode _ _ _ m) (.modCh _ m)) ((Keeps.recordFault _ _ _ _ _).map Prod.fst)

/-- Over code 0x0 the code is written, with its time. -/
theorem Mach.diagnose_first {m : Mach} (hk : k < m.nch) (h : (m.ch k).flt.code = 0) :
    ((m.diagnose k code detail).ch k).flt.Holds code detail m.time (BitVec.ofNat 16 (2 ^ code)) ∧
      ((m.diagnose k code detail).evtWord (chPage k)).getLsbD 0 = true := by
  have hfirst : ((m.ch k).flt.code == 0) = true := beq_iff_eq.mpr h
  have hk24 : k < 24 := lt_of_lt_of_le hk m.nch_le
  unfold Mach.diagnose
  dsimp only
  rw [hfirst, if_pos rfl]
  refine ⟨Flt.Holds.noted ?_ ((Keeps.recordFault _ _ _ _ _).map Prod.snd k),
    (Switched.recordFault code detail true _ (List.mem_singleton_self k)).evt _ _ (Mach.writeCode_latches code detail hk)⟩
  have hw := Mach.writeCode_holds (bits := 0) (m := m) code detail hk24 (by simp)
  refine ⟨hw.code, hw.detail, hw.time, fun i hi => ?_⟩
  unfold Mach.writeCode
  rw [Mach.ch_of_chans (Mach.event_chans _ _ _), Mach.ch_modCh_self _ _ _ hk24, BitVec.getLsbD_or, hi, Bool.or_true]

/-- Over another code the history alone is written. -/
theorem Mach.diagnose_again {m : Mach} (hk : k < 24) (h : (m.ch k).flt.code ≠ 0) :
    ((m.diagnose k code detail).ch k).flt.Holds (m.ch k).flt.code (m.ch k).flt.detail (m.ch k).flt.time
      (BitVec.ofNat 16 (2 ^ code)) := by
  have hfirst : ((m.ch k).flt.code == 0) = false := beq_eq_false_iff_ne.mpr h
  unfold Mach.diagnose
  dsimp only
  rw [hfirst, if_neg Bool.false_ne_true]
  refine Flt.Holds.noted ?_ ((Keeps.recordFault _ _ _ _ _).map Prod.snd k)
  refine ⟨?_, ?_, ?_, Mach.hist_addHist _ m hk⟩ <;> rw [Mach.addHist, Mach.ch_modCh_self _ _ _ hk]

end

/-! ## What a comparison finds (R119, R121, R134) -/

section
variable (k : Nat) (bits : Word) (code detail : Nat) {m : Mach}

theorem Mach.find_new : m.find k false bits code detail = (m.event (chPage k) bits).diagnose k code detail := rfl

theorem Mach.find_cleared (h : (m.ch k).flt.code = 0) : m.find k true bits code detail = m.diagnose k code detail :=
  if_neg (by simp [h])

theorem Mach.find_known (h : (m.ch k).flt.code ≠ 0) : m.find k true bits code detail = m := if_pos (by simp [h])

end

section
variable {ch code bits : Nat} {w : Word} {p : Prot → Prot} {f : Mach → Mach} {s : State} (hch : ch < s.m.nch)
  (hcode : code < 16)
include hch hcode

/-- A diagnosis that follows a change of the channel's protection words, and events. -/
theorem diagnoses_ctl {detail : Nat} {x : Mach} (hx : Switched [ch] [] (s.m.modProt ch p) x)
    (hc : x.chans = (s.m.modProt ch p).chans) (hf : f s.m = x.diagnose ch code detail) :
    diagnoses ch code s (s.ctl f) (s.m.modProt ch p) := by
  have hch24 : ch < 24 := lt_of_lt_of_le hch s.m.nch_le
  have hbit : (BitVec.ofNat 16 (2 ^ code)).getLsbD code = true := by
    rw [BitVec.getLsbD_ofNat, Nat.testBit_two_pow_self, Bool.and_true]
    exact decide_eq_true hcode
  have hfull : Switched [ch] [] (s.m.modProt ch p) (f s.m) :=
    hf ▸ hx.trans' (Switched.diagnose code detail x (List.mem_singleton_self ch))
  have hcaps (n : Nat) : ((s.m.modProt ch p).ch n).sig.cap = (s.m.ch n).sig.cap :=
    (Keeps.modCh ch s.m : Keeps (fun c => c.sig.cap) _ _) n
  have hkeep : Keeps (fun c => (c.st, c.stage, c.flt)) s.m x := (Keeps.modCh ch s.m).trans' (.of_chans hc)
  have hcalm : (s.ctl f).m.calm = (x.diagnose ch code detail).calm := hf ▸ State.ctl_calm f s
  have hflt : ((s.ctl f).m.ch ch).flt = ((x.diagnose ch code detail).ch ch).flt := (Keeps.of_calm hcalm : Keeps Chan.flt _ _) ch
  have hcourse := (hkeep.map fun v => (v.1, v.2.1)).trans' (((Keeps.diagnose code detail x).map fun v => (v.2.1, v.1.1)).trans'
    (.of_calm hcalm))
  have hold : (x.ch ch).flt = (s.m.ch ch).flt := hkeep.map (fun v => v.2.2) ch
  have htime : x.time = s.m.time := hx.time.trans (Mach.modCh_time _ _ _)
  have hnch : ch < x.nch := by
    rw [hx.rules.nch, Mach.modProt]
    simpa [Mach.nch] using hch
  rw [diagnoses, hflt, ← hold, ← htime]
  refine ⟨?_, fun h => ?_, fun h => ?_, congrArg Prod.fst (hcourse ch), congrArg Prod.snd (hcourse ch),
    Switched.switches (evtKept_of_evt (Mach.modCh_evt _ _ _)) hcaps hfull⟩
  · by_cases h : (x.ch ch).flt.code = 0
    · exact (Mach.diagnose_first code detail hnch h).1.hist _ hbit
    · exact (Mach.diagnose_again code detail hch24 h).hist _ hbit
  · obtain ⟨hh, he⟩ := Mach.diagnose_first code detail hnch h
    exact ⟨hh.code, hh.time, State.ctl_latches (hf ▸ he)⟩
  · have hh := Mach.diagnose_again code detail hch24 h
    exact ⟨hh.code, hh.time⟩

/-- A comparison that finds its condition, as the model records it. -/
theorem finds_ctl {was : Bool} (hw : w.getLsbD bits = true) (hf : f s.m = (s.m.modProt ch p).find ch was w code 0) :
    finds ch code bits was s (s.ctl f) (s.m.modProt ch p) := by
  have hflt : ((s.m.modProt ch p).ch ch).flt = (s.m.ch ch).flt := (Keeps.modCh ch s.m : Keeps Chan.flt _ _) ch
  refine ⟨fun hwas => ?_, fun hwas h0 => ?_, fun hwas h0 => ?_⟩ <;> subst hwas
  · have hf' : f s.m = ((s.m.modProt ch p).event (chPage ch) w).diagnose ch code 0 := hf.trans (Mach.find_new _ _ _ _)
    have hpage : headerPage (s.m.modProt ch p).dev.part (chPage ch) = true := by
      rw [Mach.modProt, Mach.modCh_dev]
      exact headerPage_chPage hch (lt_of_lt_of_le hch s.m.nch_le)
    refine ⟨State.ctl_latches ?_, diagnoses_ctl hch hcode (.event _ _ _ _) (Mach.event_chans _ _ _) hf'⟩
    rw [hf']
    exact (Switched.diagnose code 0 _ (List.mem_singleton_self ch)).evt _ _ (Mach.event_latches hpage hw)
  · exact diagnoses_ctl hch hcode (.rfl' _ _ _) rfl (hf.trans (Mach.find_cleared _ _ _ _ (hflt ▸ h0)))
  · exact settlesTo_modCh (hf.trans (Mach.find_known _ _ _ _ (hflt ▸ h0)))

end

/-- A change of a channel's protection words that nothing here is judged by leaves where its off-state circuits work. -/
theorem SameCase.offDiag {m m' : Mach} (h : SameCase m m') (n : Nat) : m'.offDiag n = m.offDiag n := by
  unfold Mach.offDiag Mach.safeOn
  rw [h.rules.leader, h.st, h.rules.entryFld]

/-! ## The comparisons (R119 to R121) -/

theorem openLoadOn_holds (ch : Ch) (s : State) (hch : ch.val < s.m.nch) (hth : fld (s.m.lw ch 0x14) 0 5 ≠ 0)
    (hst : (s.m.st ch).steady = true) : ∃ t, exec (.openLoadOn ch true) s = .next t ∧
      finds ch 4 2 (s.m.ch ch).prot.olOn s t (s.m.modProt ch fun p => { p with olOn := true }) :=
  ⟨_, ctlCh_of_lt _ hch, finds_ctl hch (by decide) (w := 0x0004) (by decide)
    ((if_pos rfl).trans (if_pos (by simp [hth, hst])))⟩

theorem openLoadOff_holds (ch : Ch) (s : State) (hch : ch.val < s.m.nch) (hd : s.m.offDiag ch = true)
    (hen : bit (s.m.lw ch 0x14) 8 = true) (hwin : (s.m.ch ch).prot.check = false)
    (hlow : bit (s.m.lw ch 0x14) 9 = false ∨ (s.m.ch ch).prot.winLow = true) :
    ∃ t, exec (.openLoadOff ch true) s = .next t ∧
      finds ch 5 2 (s.m.ch ch).prot.olOff s t (s.m.modProt ch fun p => { p with olOff := true }) :=
  ⟨_, ctlCh_of_lt _ hch, finds_ctl hch (by decide) (w := 0x0004) (by decide)
    ((if_pos rfl).trans (if_pos (by simpa [hd, hen, hwin] using hlow)))⟩

/-- The end of a check window. -/
theorem exec_windowEnds {ch : Ch} {s : State} (above : Bool) (hch : ch.val < s.m.nch) (hd : s.m.offDiag ch = true)
    (hc : (s.m.ch ch).prot.check = true) : exec (.svbbCheckWindow ch (.ends above)) s = .next (s.ctl fun m =>
      if above then
        if min 2 ((m.ch ch).prot.winRun + 1) = 2 then
          (m.modProt ch fun p => { p with check := false, winRun := 2, winLow := false, svbb := true }).find ch
            (m.ch ch).prot.svbb 0x0008 0x6 0
        else m.modProt ch fun p => { p with check := false, winRun := 1, winLow := false }
      else m.modProt ch fun p => { p with check := false, winRun := 0, winLow := true, svbb := false }) := by
  have hj : Judged s.m (s.m.modProt ch fun p => { p with check := false }) := .modCh ch s.m
  have hch24 : ch.val < 24 := ch.isLt
  have hfuse (p : Prot → Prot) : (s.m.modProt ch fun p => { p with check := false }).modProt ch p =
      s.m.modProt ch fun q => p { q with check := false } := Mach.modCh_modCh _ _ _ _
  refine (ctlCh_of_lt _ hch).trans (congrArg _ (State.ctl_congr ?_))
  dsimp only
  rw [if_pos hc, hj.case.offDiag, hd, Bool.not_true, if_neg Bool.false_ne_true, hfuse, hfuse]
  have hprot : ((s.m.modProt ch fun p => { p with check := false }).ch ch).prot = { (s.m.ch ch).prot with check := false } := by
    rw [Mach.modProt, Mach.ch_modCh_self _ _ _ hch24]
  rw [hprot]
  split
  · dsimp only
    split
    · next h => simp [h]
    · next h =>
      have hone : min 2 ((s.m.ch ch).prot.winRun + 1) = 1 := by omega
      simp [hone]
  · rfl

theorem windowOpens_holds (ch : Ch) (s : State) (hch : ch.val < s.m.nch) (hd : s.m.offDiag ch = true)
    (hen : bit (s.m.lw ch 0x14) 9 = true) : ∃ t, exec (.svbbCheckWindow ch .opens) s = .next t ∧
      settlesTo s t (s.m.modProt ch fun p => { p with check := true }) :=
  ⟨_, ctlCh_of_lt _ hch, settlesTo_modCh (if_pos (by rw [hd, hen]; rfl))⟩

theorem windowAbove_first (ch : Ch) (s : State) (hch : ch.val < s.m.nch) (hd : s.m.offDiag ch = true)
    (hc : (s.m.ch ch).prot.check = true) (hrun : (s.m.ch ch).prot.winRun = 0) :
    ∃ t, exec (.svbbCheckWindow ch (.ends true)) s = .next t ∧
      settlesTo s t (s.m.modProt ch fun p => { p with check := false, winRun := 1, winLow := false }) :=
  ⟨_, exec_windowEnds true hch hd hc, settlesTo_modCh ((if_pos rfl).trans (if_neg (by omega)))⟩

theorem windowAbove_again (ch : Ch) (s : State) (hch : ch.val < s.m.nch) (hd : s.m.offDiag ch = true)
    (hc : (s.m.ch ch).prot.check = true) (hrun : (s.m.ch ch).prot.winRun ≠ 0) :
    ∃ t, exec (.svbbCheckWindow ch (.ends true)) s = .next t ∧
      finds ch 6 3 (s.m.ch ch).prot.svbb s t
        (s.m.modProt ch fun p => { p with check := false, winRun := 2, winLow := false, svbb := true }) :=
  ⟨_, exec_windowEnds true hch hd hc, finds_ctl hch (by decide) (w := 0x0008) (by decide)
    ((if_pos rfl).trans (if_pos (by omega)))⟩

theorem windowBelow_holds (ch : Ch) (s : State) (hch : ch.val < s.m.nch) (hd : s.m.offDiag ch = true)
    (hc : (s.m.ch ch).prot.check = true) : ∃ t, exec (.svbbCheckWindow ch (.ends false)) s = .next t ∧
      settlesTo s t (s.m.modProt ch fun p => { p with check := false, winRun := 0, winLow := true, svbb := false }) :=
  ⟨_, exec_windowEnds false hch hd hc, settlesTo_modCh (if_neg Bool.false_ne_true)⟩

end Sys2Proof.Machine

open Sys2Proof.Machine

/-- Settles O20: each comparison changes the protection words of its channel, and what it finds is a diagnosis that leaves the
stage and the state. -/
theorem diagnosesAreRecorded : Obligations.DiagnosesAreRecorded :=
  ⟨openLoadOn_holds, fun _ _ hch => ⟨_, ctlCh_of_lt _ hch, settlesTo_modCh (if_neg Bool.false_ne_true)⟩, windowOpens_holds,
    windowAbove_first, windowAbove_again, windowBelow_holds, openLoadOff_holds,
    fun _ _ hch => ⟨_, ctlCh_of_lt _ hch, settlesTo_modCh (if_neg Bool.false_ne_true)⟩⟩

end

section
/-! PROOF of O27: an update gives each channel its own protection words, and faults it finds turn channels off in turn. -/

namespace Sys2Proof.Machine
open Claim

/-! ## Views of the channels that a switching keeps -/

theorem Mach.still_beside (ks : List Nat) (m : Mach) (n : Nat) : ((m.beside ks).ch n).still = (m.ch n).still := by
  by_cases hn : n < 24
  · by_cases hk : n ∈ ks <;> simp [Mach.beside, Mach.calm, Mach.quiet, Mach.ch, vmap, hn, hk, Chan.still]
  · simp [Mach.ch, hn]

theorem Keeps.of_switched {β : Type} {g : Chan → β} {ks js : List Nat} {m m' : Mach} (h : Switched ks js m m')
    (hg : ∀ c, g c.still = g c := by intro _; rfl) : Keeps g m m' := fun n => by
  rw [← hg (m'.ch n), ← hg (m.ch n), ← Mach.still_beside ks m', h.view, Mach.still_beside]

/-- What a switching leaves beside is beside all channels and outputs. -/
theorem Switched.moved {js : List Nat} {m m' : Mach} (h : Switched everyChannel js m m') :
    Moved besideChannels js m m' :=
  ⟨congrArg (fun x : Mach => { x with chans := .replicate 24 .reset, outs := .replicate 32 .reset }) h.view, h.evt, h.caps,
    h.st⟩

/-- A step on channels and outputs alone leaves the rest through settling. -/
theorem Moved.channelsOnly {js : List Nat} {f : Mach → Mach} {s : State} (h : Moved besideChannels js s.m (f s.m)) :
    besideChannels (s.ctl f).m = besideChannels s.m ∧ evtKept s.m (s.ctl f).m ∧ sramApartFromCaptures s (s.ctl f) ∧
      sameStore s (s.ctl f) := by
  have hs := State.settle_rel (s.on f)
  have hview : besideChannels (s.ctl f).m = besideChannels (f s.m) :=
    congrArg (fun x : Mach => { x with chans := .replicate 24 .reset, outs := .replicate 32 .reset })
      (Mach.beside_of_calm everyChannel hs.calm)
  exact ⟨hview.trans h.view, h.evt.trans' hs.evt, fun a ha => hs.sram a fun n c hn => ha n c (h.caps n ▸ hn), hs.keep⟩

/-! ## The words an update gives a channel (R103, R112, R116) -/

/-- The protection words an update writes, but for the level's report. -/
def Prot.estimated (dt est msq vds nom : Nat) (tau : Rat) (p : Prot) : Prot :=
  let sec : Rat := (dt : Rat) / 1000000000
  let e := p.epEnergy + (est : Rat) / 4 * ((vds : Rat) / 100) * sec * 1000
  { p with est := est, epEnergy := if p.clReg then e else p.epEnergy, eacc := if p.clReg then e else p.eacc,
           i2tX := if nom = 0 then p.i2tX else p.i2tX + ((msq : Rat) / 16 - p.i2tX) * sec / tau }

/-- Channel `n` takes its estimate. -/
def Mach.estimated (n dt est msq vds : Nat) (m : Mach) : Mach :=
  m.modProt n (Prot.estimated dt est msq vds (fld (m.lw n 0x12) 0 9) (m.i2tTau n))

/-- The on-time mean of its output follows (R236). -/
def Mach.weighed (n dt est : Nat) (m : Mach) : Mach :=
  if (m.ch n).stage.gateOn then
    m.modOut n fun u => { u with weight := u.weight + ((est : Rat) - u.weight) * ((dt : Rat) / 1000000000) }
  else m

/-- The harness level is reported from 0x0CF6, until it is below 0x0C00 (R116). -/
def Mach.warned (n : Nat) (m : Mach) : Mach :=
  if 0x0CF6 ≤ m.i2tLevel n then
    if (m.ch n).prot.i2tWarn then m else (m.modProt n fun p => { p with i2tWarn := true }).event (chPage n) 0x0002
  else if m.i2tLevel n < 0x0C00 then m.modProt n fun p => { p with i2tWarn := false }
  else m

theorem Mach.weighed_chans (n dt est : Nat) (m : Mach) : (m.weighed n dt est).chans = m.chans := by
  unfold Mach.weighed
  split
  · exact Mach.modOut_chans _ _ _
  · rfl

theorem Mach.estimateCh_eq (n dt est msq vds : Nat) (m : Mach) :
    m.estimateCh n dt est msq vds = ((m.estimated n dt est msq vds).weighed n dt est).warned n := rfl

/-- A channel without the protection words an update writes. -/
def Chan.ungauged (c : Chan) : Chan :=
  { c with prot := { c.prot with est := 0, epEnergy := 0, eacc := 0, i2tX := 0, i2tWarn := false } }

/-- A step that writes estimates and outputs alone. -/
structure Gauged (m m' : Mach) : Prop where
  view  : besideChannels m' = besideChannels m
  evt   : evtKept m m'
  chans : Keeps Chan.ungauged m m'

section
variable {a b c m : Mach}

theorem Gauged.rfl' (m : Mach) : Gauged m m := ⟨rfl, evtKept.rfl' m, .rfl' _ m⟩
theorem Gauged.trans' (h : Gauged a b) (k : Gauged b c) : Gauged a c :=
  ⟨k.view.trans h.view, h.evt.trans' k.evt, h.chans.trans' k.chans⟩
theorem Gauged.ite {p : Prop} [Decidable p] (ha : Gauged m a) (hb : Gauged m b) : Gauged m (if p then a else b) := by
  split
  · exact ha
  · exact hb

theorem Gauged.modProt (n : Nat) {p : Prot → Prot} (m : Mach)
    (hp : ∀ c : Chan, { c with prot := p c.prot }.ungauged = c.ungauged := by intro _; rfl) : Gauged m (m.modProt n p) := by
  refine ⟨?_, evtKept_of_evt (Mach.modCh_evt _ _ _), .modCh n m hp⟩
  unfold Mach.modProt Mach.modCh
  split <;> rfl

theorem Gauged.modOut (n : Nat) (f : OutUnit → OutUnit) (m : Mach) : Gauged m (m.modOut n f) := by
  refine ⟨?_, evtKept_of_evt (Mach.modOut_evt _ _ _), .modOut n f m⟩
  unfold Mach.modOut
  split <;> rfl

theorem Gauged.event (p : Nat) (w : Word) (m : Mach) : Gauged m (m.event p w) :=
  ⟨(Switched.moved (Switched.event everyChannel p w m)).view, evtKept_event p w m, .event p w m⟩

theorem Gauged.estimated (n dt est msq vds : Nat) (m : Mach) : Gauged m (m.estimated n dt est msq vds) := .modProt n m

theorem Gauged.weighed (n dt est : Nat) (m : Mach) : Gauged m (m.weighed n dt est) := .ite (.modOut n _ m) (.rfl' m)

theorem Gauged.warned (n : Nat) (m : Mach) : Gauged m (m.warned n) :=
  .ite (.ite (.rfl' m) (.trans' (.modProt n m) (.event _ _ _))) (.ite (.modProt n m) (.rfl' m))

theorem Gauged.estimateCh (n dt est msq vds : Nat) (m : Mach) : Gauged m (m.estimateCh n dt est msq vds) :=
  ((Gauged.estimated n dt est msq vds m).trans' (.weighed n dt est _)).trans' (.warned n _)

theorem Gauged.moved (h : Gauged a b) : Moved besideChannels [] a b := by
  have hcaps : Keeps (fun c => c.sig.cap) a b := h.chans.map fun c => c.sig.cap
  have hst : Keeps Chan.st a b := h.chans.map Chan.st
  exact ⟨h.view, h.evt, hcaps, fun n _ => hst n⟩

/-- A view of what lies beside the channels is as before. -/
theorem Gauged.field {β : Type} (g : Mach → β) (h : Gauged a b) : g (besideChannels b) = g (besideChannels a) := congrArg g h.view

theorem Gauged.rules (h : Gauged a b) : SameRules a b where
  active := Gauged.field Mach.active h
  otp := Gauged.field Mach.otp h
  part := Gauged.field (fun x => x.dev.part) h
  governed := Gauged.field (fun x => x.dev.governed) h
  phase := Gauged.field (fun x => x.dev.phase) h
  thm := Gauged.field Mach.thm h
  trips := Gauged.field Mach.trips h
  vbbUv := Gauged.field (fun x => x.pwr.vbbUv) h
  rules := (h.chans.map Chan.rules : Keeps Chan.rules a b)

end

/-! ## What an update leaves in a channel -/

/-- The words of a channel that the estimate and the harness model show. -/
def Chan.gauge (c : Chan) : Nat × Bool × Rat × Rat × Bool :=
  (c.prot.est, c.prot.clReg, c.prot.epEnergy, c.prot.i2tX, c.prot.i2tWarn)

/-- Channel `n` of `m'` holds what an update makes of it in `m` (R103, R112, R116). -/
structure Estimated (n dt est msq vds : Nat) (m m' : Mach) : Prop where
  takes  : (m'.ch n).prot.est = est
  i2tX   : (m'.ch n).prot.i2tX = if fld (m.lw n 0x12) 0 9 = 0 then (m.ch n).prot.i2tX
    else (m.ch n).prot.i2tX + ((msq : Rat) / 16 - (m.ch n).prot.i2tX) * ((dt : Rat) / 1000000000) / m.i2tTau n
  energy : (m'.ch n).prot.epEnergy = if (m.ch n).prot.clReg = true then (m.ch n).prot.epEnergy +
    (est : Rat) / 4 * ((vds : Rat) / 100) * ((dt : Rat) / 1000000000) * 1000 else (m.ch n).prot.epEnergy
  clReg  : (m'.ch n).prot.clReg = (m.ch n).prot.clReg
  warns  : 0x0CF6 ≤ m'.i2tLevel n → (m'.ch n).prot.i2tWarn = true
  calms  : m'.i2tLevel n < 0x0C00 → (m'.ch n).prot.i2tWarn = false

theorem SameRules.i2tTau {m m' : Mach} (h : SameRules m m') (n : Nat) : m'.i2tTau n = m.i2tTau n := by
  unfold Mach.i2tTau
  rw [h.lw]

theorem SameRules.i2tLevel {m m' : Mach} (h : SameRules m m') {n : Nat} (hx : (m'.ch n).prot.i2tX = (m.ch n).prot.i2tX) :
    m'.i2tLevel n = m.i2tLevel n := by
  unfold Mach.i2tLevel
  rw [h.lw, hx]

section
variable {n dt est msq vds : Nat} {a b c : Mach}

/-- Steps before that leave the channel, and after that leave its estimates, leave what the update makes of it. -/
theorem Estimated.between {m : Mach} (hr : SameRules m a) (hc : a.ch n = m.ch n) (h : Estimated n dt est msq vds a b)
    (hr' : SameRules b c) (hg : (c.ch n).gauge = (b.ch n).gauge) : Estimated n dt est msq vds m c := by
  obtain ⟨hest, hx, he, hcl, hw, hcalm⟩ := h
  rw [hc] at hx he hcl
  rw [hr.lw, hr.i2tTau] at hx
  have hx' : (c.ch n).prot.i2tX = (b.ch n).prot.i2tX := congrArg (fun v => v.2.2.2.1) hg
  have hw' : (c.ch n).prot.i2tWarn = (b.ch n).prot.i2tWarn := congrArg (fun v => v.2.2.2.2) hg
  refine ⟨(congrArg Prod.fst hg).trans hest, hx'.trans hx, (congrArg (fun v => v.2.2.1) hg).trans he,
    (congrArg (fun v => v.2.1) hg).trans hcl, ?_, ?_⟩ <;> rw [hr'.i2tLevel hx', hw'] <;> assumption

/-- The report of the level sets the flag by it. -/
theorem Mach.warned_prot (m : Mach) (hn : n < 24) : ∃ w, ((m.warned n).ch n).prot = { (m.ch n).prot with i2tWarn := w } ∧
    (0x0CF6 ≤ m.i2tLevel n → w = true) ∧ (m.i2tLevel n < 0x0C00 → w = false) := by
  have hset (w : Bool) : ((m.modProt n fun p => { p with i2tWarn := w }).ch n).prot = { (m.ch n).prot with i2tWarn := w } := by
    rw [Mach.modProt, Mach.ch_modCh_self _ _ _ hn]
  unfold Mach.warned
  split
  · next hhigh =>
    refine ⟨true, ?_, fun _ => rfl, fun hlow => by omega⟩
    split
    · next hw => rw [← hw]
    · rw [Mach.ch_of_chans (Mach.event_chans _ _ _), hset]
  · next hhigh =>
    split
    · exact ⟨false, hset false, fun h => absurd h hhigh, fun _ => rfl⟩
    · next hlow => exact ⟨(m.ch n).prot.i2tWarn, rfl, fun h => absurd h hhigh, fun h => absurd h hlow⟩

theorem Mach.estimateCh_estimated (m : Mach) (hn : n < 24) : Estimated n dt est msq vds m (m.estimateCh n dt est msq vds) := by
  let b := (m.estimated n dt est msq vds).weighed n dt est
  have hb : (b.ch n).prot = Prot.estimated dt est msq vds (fld (m.lw n 0x12) 0 9) (m.i2tTau n) (m.ch n).prot := by
    rw [Mach.ch_of_chans (Mach.weighed_chans n dt est _), Mach.estimated, Mach.modProt, Mach.ch_modCh_self _ _ _ hn]
  obtain ⟨w, hprot, hhigh, hlow⟩ := b.warned_prot hn
  have hlvl : (b.warned n).i2tLevel n = b.i2tLevel n := (Gauged.warned n b).rules.i2tLevel (by rw [hprot])
  rw [Mach.estimateCh_eq]
  refine ⟨?_, ?_, ?_, ?_, ?_, ?_⟩
  case refine_5 | refine_6 => rw [hlvl, hprot]; assumption
  all_goals rw [hprot, hb]; rfl

/-- Another channel is not touched. -/
theorem Mach.estimateCh_ne {k : Nat} (m : Mach) (hk : n ≠ k) : (m.estimateCh k dt est msq vds).ch n = m.ch n := by
  have hset {p : Prot → Prot} (x : Mach) : (x.modProt k p).ch n = x.ch n := Mach.ch_modCh_ne _ _ _ _ hk
  have hwarn (x : Mach) : (x.warned k).ch n = x.ch n := by
    unfold Mach.warned
    split
    · split
      · rfl
      · rw [Mach.ch_of_chans (Mach.event_chans _ _ _), hset]
    · split
      · rw [hset]
      · rfl
  rw [Mach.estimateCh_eq, hwarn, Mach.ch_of_chans (Mach.weighed_chans _ _ _ _), Mach.estimated, hset]

end

/-! ## The passes of an update (R103, R144) -/

/-- The estimates of all channels. -/
def Mach.estimates (dt : Nat) (est msq vds : List Nat) (m : Mach) : Mach :=
  forList m.allCh (fun n m => m.estimateCh n dt (nth est n 0) (nth msq n 0) (nth vds n 0)) m

theorem Gauged.estimates (dt : Nat) (est msq vds : List Nat) (m : Mach) : Gauged m (m.estimates dt est msq vds) :=
  forList_rel Gauged _ _ Gauged.rfl' (fun _ _ _ => Gauged.trans') (fun _ _ _ => Gauged.estimateCh _ _ _ _ _ _) m

theorem Mach.estimates_estimated {n : Nat} (dt : Nat) (est msq vds : List Nat) {m : Mach} (hn : n < m.nch) :
    Estimated n dt (nth est n 0) (nth msq n 0) (nth vds n 0) m (m.estimates dt est msq vds) := by
  obtain ⟨x, ⟨hx, hxn⟩, hrest, hrestn⟩ := forList_own_step (R := fun x y : Mach => Gauged x y ∧ y.ch n = x.ch n)
    (fun m => ⟨.rfl' m, rfl⟩) (fun _ _ _ h k => ⟨h.1.trans' k.1, k.2.trans h.2⟩)
    (fun k m => m.estimateCh k dt (nth est k 0) (nth msq k 0) (nth vds k 0)) (L := m.allCh) List.nodup_range
    (List.mem_range.mpr hn) (fun k _ hk m => ⟨.estimateCh _ _ _ _ _ m, m.estimateCh_ne hk.symm⟩) m
  exact .between hx.rules hxn (Mach.estimateCh_estimated x (lt_of_lt_of_le hn m.nch_le)) hrest.rules (congrArg Chan.gauge hrestn)

/-- The milliseconds of the phases of all sequences. -/
def Mach.countsMs (m : Mach) : Mach := forList m.leaders Mach.countMs m

/-- A channel without its inrush words. -/
def Chan.uncounted (c : Chan) : Chan := { c with inr := .reset }

theorem Mach.countMs_frame {l : Nat} (m : Mach) (hl : l < 24) :
    Switched everyChannel [] m (m.countMs l) ∧ Keeps Chan.uncounted m (m.countMs l) := by
  unfold Mach.countMs
  dsimp only
  exact ⟨.ite ((Moved.forList _ _ (fun k hk x => Switched.modCh x (Mach.members_everyChannel hl k hk)) m).trans'
      (Switched.modCh _ (mem_everyChannel.mpr hl))) (.rfl' _ _ m),
    .ite ((Keeps.forList _ _ (fun k _ x => .modCh k x) m).trans' (.modCh _ _)) (.rfl' _ m)⟩

theorem Mach.countsMs_frame (m : Mach) : Switched everyChannel [] m m.countsMs ∧ Keeps Chan.uncounted m m.countsMs :=
  ⟨.forList _ _ (fun _ hl x => (Mach.countMs_frame x (Mach.leaders_lt hl)).1) m,
    .forList _ _ (fun _ hl x => (Mach.countMs_frame x (Mach.leaders_lt hl)).2) m⟩

/-! ## What an update finds (R112, R117) -/

/-- An episode of channel `n` has taken more than 3 J. -/
def Mach.overEnergy (n : Nat) (m : Mach) : Bool := (m.ch n).prot.clReg && decide (3000 < (m.ch n).prot.epEnergy)

/-- The harness model of channel `n` stands at its trip level. -/
def Mach.overHarness (n : Nat) (m : Mach) : Bool := fld (m.lw n 0x12) 0 9 != 0 && decide (0x1000 ≤ m.i2tLevel n)

/-- An update finds `code` on channel `n`. -/
def Mach.exceeds (n code : Nat) (m : Mach) : Prop := code = 2 ∧ m.overEnergy n = true ∨ code = 3 ∧ m.overHarness n = true

theorem Mach.exceeds_energy {n : Nat} {m : Mach} (hr : (m.ch n).prot.clReg = true) (he : 3000 < (m.ch n).prot.epEnergy) :
    m.exceeds n 2 := .inl ⟨rfl, by simp [Mach.overEnergy, hr, he]⟩

theorem Mach.exceeds_harness {n : Nat} {m : Mach} (hnom : fld (m.lw n 0x12) 0 9 ≠ 0) (hl : 0x1000 ≤ m.i2tLevel n) :
    m.exceeds n 3 := .inr ⟨rfl, by simp [Mach.overHarness, hnom, hl]⟩

theorem SameRules.exceeds {m m' : Mach} (h : SameRules m m') (hg : Keeps Chan.gauge m m') (n code : Nat) :
    m'.exceeds n code = m.exceeds n code := by
  have hcl : (m'.ch n).prot.clReg = (m.ch n).prot.clReg := hg.map (fun v => v.2.1) n
  have he : (m'.ch n).prot.epEnergy = (m.ch n).prot.epEnergy := hg.map (fun v => v.2.2.1) n
  have hx : (m'.ch n).prot.i2tX = (m.ch n).prot.i2tX := hg.map (fun v => v.2.2.2.1) n
  unfold Mach.exceeds Mach.overEnergy Mach.overHarness
  rw [hcl, he, h.lw, h.i2tLevel hx]

/-- Channel `n` is off, and holds `code` in its history unless its record is held back (R133). -/
structure TurnedOff (n code : Nat) (late : Bool) (m : Mach) : Prop where
  off  : (m.ch n).stage.gateOn = false
  hist : late = false → (m.ch n).flt.hist.getLsbD code = true

theorem Faulted.turnedOff {n code : Nat} {late : Bool} {m m' : Mach} (h : Faulted m m') (ht : TurnedOff n code late m) :
    TurnedOff n code late m' := ⟨h.off n ht.off, fun hl => h.hist n _ (ht.hist hl)⟩

theorem Mach.turnOffFault_turnedOff {n code detail c : Nat} {also : BitVec 16} {m : Mach} (hn : n < m.nch)
    (hc : (foundBits code also).getLsbD c = true) :
    TurnedOff n c (m.recordsLate n) (m.turnOffFault n code detail also) := by
  obtain ⟨hg, -, hr, -⟩ := Mach.turnOffFault_turnsOff code detail also m.alone hn
  exact ⟨(hg n (m.self_mem n)).1, fun hl => (hr hl).2.2 c hc⟩

/-- The energy limit precedes the harness trip, whose history bit it sets with its own (R125). -/
theorem Mach.estimateTrip_eq (n : Nat) (m : Mach) : m.estimateTrip n =
    if m.overEnergy n then
      m.turnOffFault n 0x2 (if decide (48 * clTimeUs (m.ilimEff n).2 < m.now - (m.ch n).prot.epStart) then 0 else 1)
        (if m.overHarness n then 0x0008 else 0)
    else if m.overHarness n then m.turnOffFault n 0x3 0 0
    else m := rfl

theorem Faulted.estimateTrip {n : Nat} {m : Mach} (hn : n < m.nch) : Faulted m (m.estimateTrip n) := by
  rw [Mach.estimateTrip_eq]
  split
  · exact .turnOffFault _ _ _ m.alone hn
  · split
    · exact .turnOffFault _ _ _ m.alone hn
    · exact .rfl' m

theorem Mach.estimateTrip_turnedOff {n code : Nat} {m : Mach} (hn : n < m.nch) (h : m.exceeds n code) :
    TurnedOff n code (m.recordsLate n) (m.estimateTrip n) := by
  rw [Mach.estimateTrip_eq]
  cases he : m.overEnergy n with
  | true =>
    rw [if_pos rfl]
    refine Mach.turnOffFault_turnedOff hn ?_
    rcases h with ⟨rfl, -⟩ | ⟨rfl, hh⟩
    · cases m.overHarness n <;> rfl
    · rw [hh]; rfl
  | false =>
    rcases h with ⟨-, h⟩ | ⟨rfl, hh⟩
    · rw [he] at h; cases h
    · rw [if_neg Bool.false_ne_true, if_pos hh]
      exact Mach.turnOffFault_turnedOff hn rfl

/-- Each fault of an update turns its channel off, whatever the others do. -/
theorem Mach.estimateTrips {m : Mach} {L : List Nat} (hL : L.Nodup) (hlt : ∀ n ∈ L, n < m.nch) :
    Faulted m (forList L Mach.estimateTrip m) ∧
      ∀ n ∈ L, ∀ code, m.exceeds n code → TurnedOff n code (m.recordsLate n) (forList L Mach.estimateTrip m) := by
  let R (x y : Mach) : Prop := x.nch = m.nch → Faulted x y
  have hrfl (x : Mach) : R x x := fun _ => .rfl' x
  have htr (a b c : Mach) (h : R a b) (k : R b c) : R a c := fun ha =>
    (h ha).trans' (k ((h ha).frame.rules.nch.trans ha))
  have hstep {n : Nat} (hn : n ∈ L) (x : Mach) : R x (x.estimateTrip n) := fun hx => .estimateTrip (hx ▸ hlt n hn)
  refine ⟨forList_rel R L _ hrfl htr (fun n hn x => hstep hn x) m rfl, fun n hn code hc => ?_⟩
  obtain ⟨x, hx, hrest⟩ := forList_own_step hrfl htr Mach.estimateTrip hL hn (fun k hk _ y => hstep hk y) m
  have hx := hx rfl
  have hnx : n < x.nch := hx.frame.rules.nch ▸ hlt n hn
  have hown := Mach.estimateTrip_turnedOff hnx ((hx.frame.rules.exceeds (.of_switched hx.frame) n code).symm ▸ hc)
  have hlast := hrest ((hstep hn x hx.frame.rules.nch).frame.rules.nch.trans hx.frame.rules.nch)
  exact hlast.turnedOff ⟨hown.off, fun hl => hown.hist (hx.recordsLate hl)⟩

/-! ## The update (R103, R112, R116, R117, R133) -/

/-- The machine in which an update looks for faults. -/
def Mach.gauged (dt : Nat) (est msq vds : List Nat) (m : Mach) : Mach := (m.estimates dt est msq vds).countsMs

/-- The faults of an update, channel by channel. -/
def Mach.tripAll (m : Mach) : Mach := forList (m.allCh.filter m.detects) Mach.estimateTrip m

theorem Mach.estimate_lost {m : Mach} (dt : Nat) (est msq vds : List Nat) (h : m.clk.lfOk = false) :
    m.estimate dt est msq vds = m := if_pos (by simp [h])

theorem Mach.estimate_eq {m : Mach} (dt : Nat) (est msq vds : List Nat) (h : m.clk.lfOk = true) :
    m.estimate dt est msq vds = (m.gauged dt est msq vds).tripAll := if_neg (by simp [h])

theorem exec_protEstimateUpdate {dt : Nat} {est msq vds : List Nat} (s : State)
    (hw : (Instr.protEstimateUpdate dt est msq vds).WellFormed = true) :
    exec (.protEstimateUpdate dt est msq vds) s = .next (s.ctl (Mach.estimate dt est msq vds)) := if_pos hw

/-- What of a channel neither an estimate nor the count of a sequence's milliseconds changes. -/
def Chan.driven (c : Chan) : ChSt × Stage × Flt × Thm × Bool := (c.st, c.stage, c.flt, c.thm, c.prot.tripped)

section
variable {dt : Nat} {est msq vds : List Nat} (m : Mach)

theorem Mach.gauged_driven : Keeps Chan.driven m (m.gauged dt est msq vds) :=
  ((Gauged.estimates dt est msq vds m).chans.map Chan.driven).trans' ((Mach.countsMs_frame _).2.map Chan.driven)

theorem Mach.gauged_rules : SameRules m (m.gauged dt est msq vds) :=
  (Gauged.estimates dt est msq vds m).rules.trans' (Switched.rules (Mach.countsMs_frame _).1)

theorem Mach.gauged_detects (n : Nat) : (m.gauged dt est msq vds).detects n = m.detects n := by
  have h := Mach.gauged_driven (dt := dt) (est := est) (msq := msq) (vds := vds) m n
  have hstage : ((m.gauged dt est msq vds).ch n).stage = (m.ch n).stage := congrArg (fun v => v.2.1) h
  have htrip : ((m.gauged dt est msq vds).ch n).prot.tripped = (m.ch n).prot.tripped := congrArg (fun v => v.2.2.2.2) h
  unfold Mach.detects
  rw [hstage, htrip]

theorem Mach.gauged_recordsLate (n : Nat) : (m.gauged dt est msq vds).recordsLate n = m.recordsLate n := by
  have hst : Keeps Chan.st m (m.gauged dt est msq vds) := (Mach.gauged_driven m).map Prod.fst
  unfold Mach.recordsLate Mach.st
  rw [(Mach.gauged_rules m).leader, hst, (Mach.gauged_rules m).phase]

theorem Mach.tripAll_faults : Faulted m m.tripAll ∧
    ∀ n, n < m.nch → m.detects n = true → ∀ code, m.exceeds n code → TurnedOff n code (m.recordsLate n) m.tripAll := by
  have hlt {n : Nat} (hn : n < m.nch) : n ∈ m.allCh := List.mem_range.mpr hn
  obtain ⟨hf, ht⟩ := Mach.estimateTrips (m := m) (L := m.allCh.filter m.detects) (List.nodup_range.filter _)
    fun n hn => List.mem_range.mp (List.mem_filter.mp hn).1
  exact ⟨hf, fun n hn hd => ht n (List.mem_filter.mpr ⟨hlt hn, hd⟩)⟩

end

section
variable (dt : Nat) (est msq vds : List Nat) {s : State} (hlf : s.m.clk.lfOk = true)
include hlf

/-- The faults of an update follow its passes. -/
theorem estimate_faults : Faulted (s.m.gauged dt est msq vds) (s.m.estimate dt est msq vds) := by
  rw [Mach.estimate_eq dt est msq vds hlf]
  exact (Mach.tripAll_faults _).1

/-- They, and settling, leave the rules and the estimates. -/
theorem estimate_settled : SameRules (s.m.gauged dt est msq vds) (s.ctl (Mach.estimate dt est msq vds)).m ∧
    Keeps Chan.gauge (s.m.gauged dt est msq vds) (s.ctl (Mach.estimate dt est msq vds)).m := by
  have hf := (estimate_faults dt est msq vds hlf).frame
  have hcalm : (s.ctl (Mach.estimate dt est msq vds)).m.calm = (s.m.estimate dt est msq vds).calm := State.ctl_calm _ s
  exact ⟨hf.rules.trans' (.of_calm hcalm), (Keeps.of_switched hf).trans' (.of_calm hcalm)⟩

theorem estimate_estimated {n : Nat} (hn : n < s.m.nch) :
    Estimated n dt (nth est n 0) (nth msq n 0) (nth vds n 0) s.m (s.ctl (Mach.estimate dt est msq vds)).m := by
  obtain ⟨hr, hg⟩ := estimate_settled dt est msq vds hlf
  obtain ⟨hcount, hkeep⟩ := Mach.countsMs_frame (s.m.estimates dt est msq vds)
  exact .between (.rfl' _) rfl (Mach.estimates_estimated dt est msq vds hn) ((Switched.rules hcount).trans' hr)
    (((hkeep.map Chan.gauge).trans' hg) n)

/-- A channel on which the update finds a code, by the estimates it leaves, is off and holds it. -/
theorem estimate_turnsOff {n code : Nat} (hn : n < s.m.nch) (hd : s.m.detects n = true)
    (hc : (s.ctl (Mach.estimate dt est msq vds)).m.exceeds n code) :
    TurnedOff n code (s.m.recordsLate n) (s.ctl (Mach.estimate dt est msq vds)).m := by
  obtain ⟨hr, hg⟩ := estimate_settled dt est msq vds hlf
  have hcalm : (s.ctl (Mach.estimate dt est msq vds)).m.calm = (s.m.estimate dt est msq vds).calm := State.ctl_calm _ s
  have hstage : Keeps Chan.stage _ _ := .of_calm hcalm
  have hflt : Keeps Chan.flt _ _ := .of_calm hcalm
  rw [hr.exceeds hg] at hc
  obtain ⟨hoff, hhist⟩ := (Mach.tripAll_faults (s.m.gauged dt est msq vds)).2 n
    (lt_of_lt_of_eq hn (Mach.gauged_rules s.m).nch.symm) ((Mach.gauged_detects s.m n).trans hd) code hc
  rw [← Mach.estimate_eq dt est msq vds hlf, Mach.gauged_recordsLate] at hhist
  rw [← Mach.estimate_eq dt est msq vds hlf] at hoff
  refine ⟨?_, fun hl => ?_⟩
  · rw [hstage]; exact hoff
  · rw [hflt]; exact hhist hl

theorem estimate_thm (n : Nat) : ((s.ctl (Mach.estimate dt est msq vds)).m.ch n).thm = (s.m.ch n).thm := by
  have hg : Keeps Chan.thm s.m (s.m.gauged dt est msq vds) := (Mach.gauged_driven s.m).map fun v => v.2.2.2.1
  exact ((hg.trans' (.of_switched (estimate_faults dt est msq vds hlf).frame)).trans' (.of_calm (State.ctl_calm _ s))) n

theorem estimate_channelsOnly : Moved besideChannels everyChannel s.m (s.m.estimate dt est msq vds) :=
  (((Gauged.estimates dt est msq vds s.m).moved.any _).trans'
    ((Switched.moved (Mach.countsMs_frame _).1).any _)).trans'
    (Switched.moved (estimate_faults dt est msq vds hlf).frame)

end

end Sys2Proof.Machine

open Sys2Proof.Machine

/-- Settles O27: the passes of an update write each channel's own words, and each fault it finds turns its channel off,
whichever others precede and follow it. -/
theorem protectionEstimatesUpdate : Obligations.ProtectionEstimatesUpdate := by
  refine ⟨fun dt est msq vds s hw hlf => ⟨_, exec_protEstimateUpdate s hw, ?_, ?_, ?_, estimate_thm dt est msq vds hlf,
    (estimate_channelsOnly dt est msq vds hlf).channelsOnly⟩,
    fun dt est msq vds s hw hlf => ⟨_, exec_protEstimateUpdate s hw, ctl_unchanged (Mach.estimate_lost dt est msq vds hlf)⟩⟩
  · intro n hn
    obtain ⟨hest, hx, he, -, hwarn, hcalm⟩ := estimate_estimated dt est msq vds hlf hn
    exact ⟨hest, hx, he, hwarn, hcalm⟩
  · intro n hn hd hl hnom
    have hlw := ((Mach.gauged_rules s.m).trans' (estimate_settled dt est msq vds hlf).1).lw n 0x12
    have hoff := estimate_turnsOff dt est msq vds hlf hn hd (Mach.exceeds_harness (by rwa [hlw]) hl)
    exact ⟨hoff.off, hoff.hist⟩
  · intro n hn hd hr he
    have hclr := (estimate_estimated dt est msq vds hlf hn).clReg.trans hr
    have hoff := estimate_turnsOff dt est msq vds hlf hn hd (Mach.exceeds_energy hclr he)
    exact ⟨hoff.off, hoff.hist⟩

end

section
set_option Elab.async false
/-! SUPPORT and REFUTATION of O28: a sequence that completes into PWM under an active cut source holds off the other output of
an INVERT pair too (R145, R233, R234), which is no member of the group whose sequence ends. -/

namespace Sys2Proof.Machine
open Claim

/-! ## A completion that cuts an INVERT pair (R140, R145, R233, R234) -/

/-- A change that cuts an output outside `ks` which was not cut is no restart of the channels `ks`. -/
theorem not_restarts_of_cut_apart {ks : List Nat} {s : State} {f : Mach → Mach} {m : Mach} {o : Nat} (ho : o ∉ ks)
    (hm : m.outs = s.m.outs) (hcut : (s.m.out o).cut = false) (hf : ((f s.m).out o).cut = true) :
    ¬ restarts ks s (s.ctl f) m := by
  intro h
  have hkept : (s.ctl f).m.out o = s.m.out o := by
    rw [restarts_out h ho]
    unfold Mach.out
    rw [hm]
  rw [← State.ctl_out f, hkept, hcut] at hf
  exact Bool.false_ne_true hf

/-- The governed INVERT pair of channels 0 and 1 under the asserted TRIP input 0, with channel 0 in the ramp of a LAMP
sequence. -/
def invertedRamp : State :=
  { invertedPair .inrush with
    m := (invertedPair .inrush).m.modCh 0 fun c => { c with inr := { c.inr with profile := 1, phase := .b } } }

/-- Channel 0 leads itself alone, and the time of its last phase may end; channel 1 is not cut. -/
theorem invertedRamp_ends : let m := invertedRamp.m
    0 < m.nch ∧ m.leader 0 = 0 ∧ m.st 0 = .inrush ∧ (m.ch 0).inr.phase = .b ∧ 1 ∉ m.members 0 ∧
      (m.out 1).cut = false := by decide +kernel

/-- The end of the ramp starts channel 0 into PWM, where the TRIP input cuts both outputs. -/
theorem phaseEnd_cuts_other : ((invertedRamp.m.phaseEnd 0).out 1).cut = true := by decide +kernel

end Sys2Proof.Machine

open Sys2Proof.Machine Claim

/-- Refutes O28: the sequence of channel 0 ends on its time (R140) into PWM under an active TRIP input; the cut holds off
channel 1 too, its partner in an INVERT pair (R234) but no member of its group, where the statement lets the group alone
change. -/
theorem not_inrushSequences : ¬ Obligations.InrushSequences := by
  unfold Obligations.InrushSequences inrushEnds
  rintro ⟨⟨-, htime, -⟩, -⟩
  obtain ⟨hn, hl, hst, hphase, hother, hcut⟩ := invertedRamp_ends
  obtain ⟨t, ht, -, -, -, -, -, -, hframe⟩ := htime 0 invertedRamp hn hl hst (.inl hphase)
  obtain rfl := Host.Outcome.next.inj ((ctlLead_of_leader (Mach.phaseEnd 0) hn hl).symm.trans ht)
  exact not_restarts_of_cut_apart hother (Mach.modCh_outs _ _ _) hcut phaseEnd_cuts_other hframe

end

-- Proofs of the statements of 06_measurement.md: converter samples, the power feed, long operations.
section
/-! SUPPORT and PROOF of O24: a converter sample gives each channel its own measurement, and writes measurements, captures
and events alone. -/

namespace Sys2Proof.Machine
open Claim

/-! ## What a sample leaves (R163, R170) -/

/-- What a sample leaves of a machine is a part of what settling leaves of it. -/
theorem unmeasured_of_calm {m m' : Mach} (h : m.calm = m'.calm) : unmeasured m = unmeasured m' :=
  congrArg (fun x : Mach =>
    { x with chans := vmap x.chans fun _ c => { c with meas := .reset }
             pwr := { x.pwr with vbb := 0, vbbMin := 0, vbbMax := 0, vbbWl := false, vbbWh := false }
             rings := { x.rings with snaps := [] } }) h

/-- A step of the converters on the machine: it writes measurements and events alone. -/
structure Measured (m m' : Mach) : Prop where
  view : unmeasured m' = unmeasured m
  evt  : evtKept m m'
  sigs : Keeps Chan.sig m m'

theorem Measured.rfl' (m : Mach) : Measured m m := ⟨rfl, evtKept.rfl' m, .rfl' _ m⟩
theorem Measured.trans' {a b c : Mach} (h : Measured a b) (k : Measured b c) : Measured a c :=
  ⟨k.view.trans h.view, h.evt.trans' k.evt, h.sigs.trans' k.sigs⟩
theorem Measured.ite {m a b : Mach} {p : Prop} [Decidable p] (ha : Measured m a) (hb : Measured m b) :
    Measured m (if p then a else b) := by
  split
  · exact ha
  · exact hb

theorem Measured.modMeas (n : Nat) (f : Meas → Meas) (m : Mach) : Measured m (m.modMeas n f) := by
  refine ⟨?_, evtKept_of_evt (Mach.modCh_evt _ _ _), .modCh n m⟩
  unfold Mach.modMeas Mach.modCh
  split
  · have hv : (vmap (vmap (vmod m.chans ⟨n, ‹_›⟩ fun c => { c with meas := f c.meas }) fun _ c => { c with sig := .reset })
        fun _ c => { c with meas := .reset }) = (unmeasured m).chans := by
      refine Vector.ext fun i hi => ?_
      simp only [unmeasured, Mach.calm, Mach.quiet, vmap, Vector.getElem_ofFn, Fin.getElem_fin, vmod_get]
      split <;> rfl
    exact congrArg (fun v => { unmeasured m with chans := v }) hv
  · rfl

theorem Measured.event (p : Nat) (w : Word) (m : Mach) : Measured m (m.event p w) :=
  ⟨unmeasured_of_calm (Mach.calm_event p w m), evtKept_event p w m, .event p w m⟩

theorem Measured.forList {α : Type} (l : List α) (f : α → Mach → Mach) (h : ∀ a ∈ l, ∀ m, Measured m (f a m)) (m : Mach) :
    Measured m (forList l f m) :=
  forList_rel Measured l f Measured.rfl' (fun _ _ _ => Measured.trans') h m

/-- The bus measurement is taken, before what it reports (R445). -/
def Mach.withVbb (v : Nat) (m : Mach) : Mach :=
  { m with pwr := { m.pwr with
      vbb := min 0xFFFF v, vbbMin := min m.pwr.vbbMin (min 0xFFFF v), vbbMax := max m.pwr.vbbMax (min 0xFFFF v)
      vbbWl := decide (min 0xFFFF v < 50 * clampNat 16 124 (fld (m.cfg 0x0208) 0 8))
      vbbWh := decide (min 0xFFFF v > 50 * clampNat 16 124 (fld (m.cfg 0x0208) 8 8)) } }

theorem Mach.sampleVbb_cases (v : Nat) (m : Mach) :
    m.sampleVbb v = m.withVbb v ∨ ∃ w, m.sampleVbb v = (m.withVbb v).event 0x02 w := by
  unfold Mach.sampleVbb
  dsimp only
  split
  · exact .inl rfl
  · exact .inr ⟨_, rfl⟩

theorem Measured.withVbb (v : Nat) (m : Mach) : Measured m (m.withVbb v) := ⟨rfl, evtKept_of_evt rfl, .of_chans rfl⟩

theorem Measured.sampleVbb (v : Nat) (m : Mach) : Measured m (m.sampleVbb v) := by
  obtain h | ⟨w, h⟩ := m.sampleVbb_cases v <;> rw [h]
  · exact .withVbb v m
  · exact (Measured.withVbb v m).trans' (.event _ _ _)

theorem Measured.sampleCh (n : Nat) (i vds : Int) (m : Mach) : Measured m (m.sampleCh n i vds) := by
  unfold Mach.sampleCh
  exact .modMeas n _ m

theorem Measured.sampleVout (n : Nat) (v : Int) (m : Mach) : Measured m (m.sampleVout n v) := by
  unfold Mach.sampleVout
  exact .modMeas n _ m

theorem Measured.takeSnaps (m : Mach) : Measured m m.takeSnaps := ⟨rfl, evtKept_of_evt rfl, .of_chans rfl⟩

section
variable {m m' : Mach} (h : Measured m m')
include h

/-- A view of what the converters leave is as before. -/
theorem Measured.field {β : Type} (g : Mach → β) : g (unmeasured m') = g (unmeasured m) := congrArg g h.view

theorem Measured.trimmed (conv n : Nat) (raw : Int) : m'.trimmed conv n raw = m.trimmed conv n raw := by
  have hotp : m'.otp = m.otp := h.field Mach.otp
  have hthm : m'.thm = m.thm := h.field Mach.thm
  unfold Mach.trimmed Mach.region Mach.gainTemp Sensor.temp Mach.sensor
  rw [hotp, hthm]

end

/-! ## The readings of one channel (R167, R168, R170, R171) -/

/-- What a sample gives of a channel's current and drain–source drop. -/
def Chan.reading (c : Chan) : Int × Nat × Bool × Int × Bool :=
  (c.meas.i, c.meas.iPeak, c.meas.iOvr, c.meas.vdsUv, c.meas.stale)

/-- The readings of a channel after a sample of `i` and `vds`. -/
def Mach.readings (n : Nat) (i vds : Int) (m : Mach) : Int × Nat × Bool × Int × Bool :=
  let x := (m.ch n).meas.nulled (m.trimmed 0 n i)
  (x, max (m.ch n).meas.iPeak x.natAbs, (m.ch n).meas.iOvr || iSat x, m.trimmed 2 n vds, false)

theorem Mach.sampleCh_self {n : Nat} (h : n < 24) (i vds : Int) (m : Mach) :
    ((m.sampleCh n i vds).ch n).reading = m.readings n i vds :=
  congrArg Chan.reading (Mach.ch_modCh_self n _ m h)

theorem Mach.sampleCh_ne {n k : Nat} (h : n ≠ k) (i vds : Int) (m : Mach) : (m.sampleCh k i vds).ch n = m.ch n :=
  Mach.ch_modCh_ne k n _ m h

theorem Measured.readings {m m' : Mach} (h : Measured m m') {n : Nat} (hn : m'.ch n = m.ch n) (i vds : Int) :
    m'.readings n i vds = m.readings n i vds := by
  unfold Mach.readings
  rw [hn, h.trimmed, h.trimmed]

/-! ## The grid sample (R163, R170) -/

/-- The current and drain–source samples of all channels. -/
def Mach.sampleChs (x : Sample) (m : Mach) : Mach :=
  forList m.allCh (fun n m => m.sampleCh n (nth x.i n 0) (nth x.vds n 0)) m

/-- The output-voltage samples, where the grid sample carries them. -/
def Mach.sampleVouts (x : Sample) (m : Mach) : Mach :=
  if x.vout.isEmpty then m else forList m.allCh (fun n m => m.sampleVout n (nth x.vout n 0)) m

/-- The grid sample, but for the captures it enters. -/
def Mach.gridSample (x : Sample) (m : Mach) : Mach := (((m.sampleVbb x.vbb).sampleChs x).sampleVouts x).takeSnaps

theorem sampleAll_eq {x : Sample} {s : State} (h : s.m.clk.refOk = true) :
    sampleAll x s = forList (s.m.gridSample x).leaders (fun n s => s.sigSample n (s.m.groupI n)) (s.on (Mach.gridSample x)) :=
  if_neg (by rw [h]; decide)

theorem Measured.sampleChs (x : Sample) (m : Mach) : Measured m (m.sampleChs x) :=
  .forList _ _ (fun _ _ m => .sampleCh _ _ _ m) m

theorem Measured.sampleVouts (x : Sample) (m : Mach) : Measured m (m.sampleVouts x) :=
  .ite (.rfl' m) (.forList _ _ (fun _ _ m => .sampleVout _ _ m) m)

theorem Measured.gridSample (x : Sample) (m : Mach) : Measured m (m.gridSample x) :=
  (((Measured.sampleVbb x.vbb m).trans' (.sampleChs x _)).trans' (.sampleVouts x _)).trans' (.takeSnaps _)

theorem Mach.sampleVbb_chans (v : Nat) (m : Mach) : (m.sampleVbb v).chans = m.chans := by
  obtain h | ⟨w, h⟩ := m.sampleVbb_cases v <;> rw [h]
  · rfl
  · exact Mach.event_chans _ _ _

theorem Mach.sampleChs_reading {n : Nat} {m : Mach} (h : n < m.nch) (x : Sample) :
    ((m.sampleChs x).ch n).reading = m.readings n (nth x.i n 0) (nth x.vds n 0) := by
  obtain ⟨y, ⟨hy, hyn⟩, -, hrest⟩ := forList_own_step (R := fun x y : Mach => Measured x y ∧ y.ch n = x.ch n)
    (fun m => ⟨.rfl' m, rfl⟩) (fun _ _ _ h k => ⟨h.1.trans' k.1, k.2.trans h.2⟩)
    (fun n m => m.sampleCh n (nth x.i n 0) (nth x.vds n 0)) List.nodup_range (List.mem_range.mpr h)
    (fun k _ hk m => ⟨.sampleCh _ _ _ m, m.sampleCh_ne hk.symm _ _⟩) m
  rw [Mach.sampleChs, Mach.allCh, hrest, Mach.sampleCh_self (lt_of_lt_of_le h m.nch_le), hy.readings hyn]

theorem Keeps.sampleVouts (x : Sample) (m : Mach) : Keeps Chan.reading m (m.sampleVouts x) :=
  .ite (.rfl' _ m) (.forList _ _ (fun n _ m => .modCh n m) m)

theorem Mach.gridSample_reading {n : Nat} {m : Mach} (h : n < m.nch) (x : Sample) :
    ((m.gridSample x).ch n).reading = m.readings n (nth x.i n 0) (nth x.vds n 0) := by
  have hvbb := Measured.sampleVbb x.vbb m
  have hn : n < (m.sampleVbb x.vbb).nch := by rw [Mach.nch, Mach.sampleVbb_dev]; exact h
  calc ((m.gridSample x).ch n).reading
      = (((m.sampleVbb x.vbb).sampleChs x).ch n).reading := Keeps.sampleVouts x _ n
    _ = (m.sampleVbb x.vbb).readings n (nth x.i n 0) (nth x.vds n 0) := Mach.sampleChs_reading hn x
    _ = m.readings n (nth x.i n 0) (nth x.vds n 0) := hvbb.readings (Mach.ch_of_chans (m.sampleVbb_chans _) n) _ _

/-! ## The bus voltage (R445) -/

theorem Mach.sampleVbb_pwr (v : Nat) (m : Mach) : (m.sampleVbb v).pwr = (m.withVbb v).pwr := by
  obtain h | ⟨w, h⟩ := m.sampleVbb_cases v <;> rw [h]
  exact Mach.event_pwr _ _ _

theorem Mach.sampleChs_pwr (x : Sample) (m : Mach) : (m.sampleChs x).pwr = m.pwr :=
  forList_keeps Mach.pwr _ _ (fun _ _ m => Mach.modCh_pwr _ _ m) m

theorem Mach.sampleVouts_pwr (x : Sample) (m : Mach) : (m.sampleVouts x).pwr = m.pwr := by
  unfold Mach.sampleVouts
  split
  · rfl
  · exact forList_keeps Mach.pwr _ _ (fun _ _ m => Mach.modCh_pwr _ _ m) m

theorem Mach.gridSample_pwr (x : Sample) (m : Mach) : (m.gridSample x).pwr = (m.withVbb x.vbb).pwr :=
  ((Mach.sampleVouts_pwr x _).trans (Mach.sampleChs_pwr x _)).trans (m.sampleVbb_pwr x.vbb)

/-! ## The samples of MEAS_SNAPs (R338) -/

theorem Mach.takeSnaps_any {m : Mach} {i : Infl} (hi : i ∈ m.rings.infl) (hop : i.opcode = 0x51)
    (hf : (m.inFlight i.tag).isSome = true) : (m.takeSnaps.rings.snaps.any fun q => q.tag == i.tag) = true := by
  unfold Mach.takeSnaps
  dsimp only
  rw [List.any_append, Bool.or_eq_true]
  by_cases hq : (m.rings.snaps.any fun q => q.tag == i.tag) = true
  · exact .inl hq
  · refine .inr (List.any_eq_true.mpr ⟨_, List.mem_map_of_mem (List.mem_filter.mpr ⟨hi, ?_⟩), beq_self_eq_true _⟩)
    simp [hop, hf, hq]

theorem Mach.gridSample_any {x : Sample} {m : Mach} {i : Infl} (hi : i ∈ m.rings.infl) (hop : i.opcode = 0x51)
    (hf : (m.inFlight i.tag).isSome = true) : ((m.gridSample x).rings.snaps.any fun q => q.tag == i.tag) = true := by
  have h := ((Measured.sampleVbb x.vbb m).trans' (.sampleChs x _)).trans' (.sampleVouts x _)
  have hinfl := h.field fun m => m.rings.infl
  have hcompl := h.field fun m => m.rings.compl
  refine Mach.takeSnaps_any (hinfl.symm ▸ hi) hop ?_
  have hsame := congrArg₂ (fun (a : List Infl) (b : List Compl) =>
    ({ m with rings := { m.rings with infl := a, compl := b } } : Mach).inFlight i.tag) hinfl hcompl
  exact (congrArg Option.isSome hsame).trans hf

/-! ## The captures (R176, R178) -/

/-- What a sample of the current can do to the capture of channel `n`: nothing, a step in its signature words, or a word of
its page written with such a step. -/
theorem State.sigSample_cases (n : Nat) (i : Int) (s : State) :
    s.sigSample n i = s ∨ (∃ f, s.sigSample n i = s.on (Mach.modSig n f)) ∨
      ∃ c v f, (s.m.ch n).sig.cap = some c ∧ c.k < 256 ∧
        s.sigSample n i = (s.sramSet (sramIndex c.page c.k) v).on (Mach.modSig n f) := by
  unfold State.sigSample
  dsimp only
  split
  · next c hc =>
    split
    · exact .inl rfl
    · next hk =>
      split
      · exact .inr (.inl ⟨_, rfl⟩)
      · exact .inr (.inr ⟨c, _, _, hc, by omega, rfl⟩)
  · split
    · exact .inr (.inl ⟨_, rfl⟩)
    · exact .inl rfl

/-- A step of the captures changes signature words alone; its pages are followed apart, by `sigSamples_read`. -/
structure Captured (s t : State) : Prop where
  calm : t.m.calm = s.m.calm
  evt  : evtKept s.m t.m

theorem Captured.rfl' (s : State) : Captured s s := ⟨rfl, evtKept.rfl' _⟩
theorem Captured.trans' {a b c : State} (h : Captured a b) (k : Captured b c) : Captured a c :=
  ⟨k.calm.trans h.calm, h.evt.trans' k.evt⟩

theorem Captured.modSig {s t : State} (ht : t.m = s.m) (n : Nat) (f : Sig → Sig) : Captured s (t.on (Mach.modSig n f)) := by
  refine ⟨?_, evtKept_of_evt ?_⟩
  · rw [State.on_m, Mach.calm_modSig, ht]
  · rw [State.on_m, Mach.modSig, Mach.modCh_evt, ht]

theorem Captured.sigSample (n : Nat) (i : Int) (s : State) : Captured s (s.sigSample n i) := by
  obtain h | ⟨f, h⟩ | ⟨c, v, f, -, -, h⟩ := s.sigSample_cases n i <;> rw [h]
  · exact .rfl' s
  · exact .modSig rfl n f
  · exact .modSig (s.sramSet_m _ _) n f

theorem State.sigSample_ch_ne {n k : Nat} (hk : k ≠ n) (i : Int) (s : State) : (s.sigSample n i).m.ch k = s.m.ch k := by
  obtain h | ⟨f, h⟩ | ⟨c, v, f, -, -, h⟩ := s.sigSample_cases n i <;> rw [h]
  all_goals exact Mach.ch_modCh_ne n k _ _ hk

/-- Outside the page of the capture of channel `n` its sample leaves the SRAM. -/
theorem State.sigSample_read {n a : Nat} {s : State} (ha : ∀ c, (s.m.ch n).sig.cap = some c → a / 512 ≠ c.page) (i : Int) :
    Memory.read (s.sigSample n i).sram a = Memory.read s.sram a := by
  obtain h | ⟨f, h⟩ | ⟨c, v, f, hc, hk, h⟩ := s.sigSample_cases n i <;> rw [h]
  · rfl
  · have hpage := ha c hc
    exact State.read_sramSet_ne _ _ _ _ (by unfold sramIndex; omega)

/-- Each channel's sample meets the captures of the others as they were, so the pages are those before the first. -/
theorem sigSamples_read (g : Nat → State → Int) {L : List Nat} (hL : L.Nodup) (a : Nat) :
    ∀ s : State, (∀ n ∈ L, ∀ c, (s.m.ch n).sig.cap = some c → a / 512 ≠ c.page) →
      Memory.read (forList L (fun n s => s.sigSample n (g n s)) s).sram a = Memory.read s.sram a := by
  induction L with
  | nil => exact fun _ _ => rfl
  | cons n t ih =>
    intro s ha
    obtain ⟨hnt, ht⟩ := List.nodup_cons.mp hL
    refine (ih ht _ fun k hk c hc => ha k (List.mem_cons_of_mem _ hk) c ?_).trans
      (State.sigSample_read (ha n List.mem_cons_self) _)
    rwa [State.sigSample_ch_ne fun h : k = n => hnt (h ▸ hk)] at hc

/-! ## The sample (R170) -/

theorem calm_snaps {m m' : Mach} (h : m.calm = m'.calm) : m.rings.snaps = m'.rings.snaps :=
  (congrArg (fun x : Mach => x.rings.snaps) h : m.calm.rings.snaps = m'.calm.rings.snaps)

theorem sampleAll_captured {x : Sample} {s : State} (h : s.m.clk.refOk = true) :
    Captured (s.on (Mach.gridSample x)) (sampleAll x s) := by
  rw [sampleAll_eq h]
  exact forList_rel Captured _ _ Captured.rfl' (fun _ _ _ => Captured.trans') (fun _ _ s => .sigSample _ _ s) _

theorem sampleAll_sram {x : Sample} {s : State} (h : s.m.clk.refOk = true) : sramApartFromCaptures s (sampleAll x s) := by
  intro a ha
  rw [sampleAll_eq h]
  refine sigSamples_read (fun n s => s.m.groupI n) (List.nodup_range.filter _) a _ fun n _ c hc => ha n c ?_
  rwa [State.on_m, (Measured.gridSample x s.m).sigs] at hc

theorem sampleAll_reading {x : Sample} {s : State} (h : s.m.clk.refOk = true) {n : Nat} (hn : n < s.m.nch) :
    ((sampleAll x s).m.ch n).reading = s.m.readings n (nth x.i n 0) (nth x.vds n 0) :=
  (congrArg Chan.reading (calm_ch (sampleAll_captured h).calm n)).trans (Mach.gridSample_reading hn x)

end Sys2Proof.Machine

open Sys2Proof.Machine Claim

/-- Settles O24: the converters write each channel's own measurement, then the captures take the samples, each on its own
page. -/
theorem converterSamplesAreRecorded : Obligations.ConverterSamplesAreRecorded := by
  refine ⟨fun x s hw href => ?_, fun x s hw href => ?_⟩
  · have hgrid := Measured.gridSample x s.m
    have hcap := sampleAll_captured (x := x) href
    have hpwr : (sampleAll x s).m.pwr = (s.m.withVbb x.vbb).pwr := (calm_pwr hcap.calm).trans (Mach.gridSample_pwr x s.m)
    have hsnaps : (sampleAll x s).m.rings.snaps = (s.m.gridSample x).rings.snaps :=
      calm_snaps hcap.calm
    have htame := sampleAll_tame x s
    refine ⟨_, exec_converterSample s hw, fun n hn => ?reading, fun i hi hop hf => ?snaps, ?_, ?_, ?_,
      (unmeasured_of_calm hcap.calm).trans hgrid.view, hgrid.evt.trans' hcap.evt, sampleAll_sram href,
      htame.nv, htame.pending⟩
    case reading =>
      have hread := sampleAll_reading (x := x) href hn
      simp only [Chan.reading, Mach.readings, Prod.mk.injEq] at hread
      obtain ⟨hi, hpeak, hovr, hvds, hstale⟩ := hread
      rw [← hi] at hpeak hovr
      exact ⟨hi, hpeak, hovr, hvds, hstale⟩
    case snaps => rw [hsnaps]; exact Mach.gridSample_any hi hop hf
    all_goals rw [hpwr]; rfl
  · exact (exec_converterSample s hw).trans (congrArg Host.Outcome.next (if_pos (by rw [href]; rfl)))

end

section
/-! SUPPORT and PROOF of O25: a delivery of the power feed gives each channel its own entry and touches nothing else. -/

namespace Sys2Proof.Machine
open Claim

/-! ## The entry of one channel (R172, R173) -/

/-- The power in mW that a window's entry holds, `iOpen` being the current of an edge that no sample has followed yet. -/
def Mach.feedPower (n : Nat) (prods : List Int) (iOpen : Int) (m : Mach) : Nat :=
  (inUnits ((m.ch n).meas.conduction m.now prods / 125 + 8 * (m.ch n).meas.edgeHeat iOpen)).toNat

/-- A channel that has taken the entry `mw`, valid or not. -/
def Chan.fed (mw : Nat) (valid : Bool) (c : Chan) : Chan :=
  { c with meas := { c.meas with pdiss := min 0xFFFF (inUnits ((mw : Rat) / 10)).toNat, pfInv := !valid,
                                 winBad := c.meas.stopped,
                                 heats := (c.meas.heats.filter fun h => h.till.isNone).map fun h => { h with fed := true } }
           thm := { c.thm with fresh := some (mw, valid) } }

/-- The current of an edge counts where no sample has given it yet alone. -/
theorem edgeHeat_of_edgesKnown {c : Chan} (h : edgesKnown c) (iOpen : Int) : c.meas.edgeHeat iOpen = c.meas.edgeHeat 0 := by
  unfold Meas.edgeHeat
  refine congrArg (List.foldl (· + ·) 0) (List.map_congr_left fun x hx => ?_)
  obtain ⟨hmem, hfed⟩ := List.mem_filter.mp hx
  obtain ⟨i, hi⟩ := Option.isSome_iff_exists.mp (h x hmem (by simpa using hfed))
  rw [hi]
  rfl

theorem Mach.feedPower_of_edgesKnown {n : Nat} {m : Mach} (h : edgesKnown (m.ch n)) (prods : List Int) (iOpen : Int) :
    m.feedPower n prods iOpen = (feedEntry m (m.ch n) prods).1 := by
  rw [Mach.feedPower, edgeHeat_of_edgesKnown h]
  rfl

/-- A channel takes its entry; the counter of free values moves where an edge's current is open (log entry 75). -/
theorem Mach.feedCh_eq (n : Nat) (prods : List Int) (m : Mach) :
    m.feedCh n prods =
      (if (m.ch n).meas.heats.any fun h => !h.fed && h.i.isNone then m.nextFree else m).modCh n
        (Chan.fed (m.feedPower n prods ((m.freeVal % 64001 : Nat) - 32000)) (feedEntry m (m.ch n) prods).2) := rfl

/-! ## A delivery -/

/-- A step that changes channels other than `n`, and the counter of free values, alone. -/
structure FedBeside (n : Nat) (m m' : Mach) : Prop where
  own  : m'.ch n = m.ch n
  rest : m' = { m with chans := m'.chans, free := m'.free }

theorem Mach.feedCh_rest (n : Nat) (prods : List Int) (m : Mach) :
    m.feedCh n prods = { m with chans := (m.feedCh n prods).chans, free := (m.feedCh n prods).free } := by
  rw [Mach.feedCh_eq]
  unfold Mach.modCh
  split <;> split <;> rfl

theorem Mach.feedCh_ne {n k : Nat} (h : n ≠ k) (prods : List Int) (m : Mach) : (m.feedCh k prods).ch n = m.ch n := by
  rw [Mach.feedCh_eq, Mach.ch_modCh_ne _ _ _ _ h]
  split <;> rfl

theorem Mach.feedCh_self {n : Nat} (h : n < 24) (prods : List Int) (m : Mach) : ∃ iOpen,
    (m.feedCh n prods).ch n = (m.ch n).fed (m.feedPower n prods iOpen) (feedEntry m (m.ch n) prods).2 := by
  refine ⟨(m.freeVal % 64001 : Nat) - 32000, ?_⟩
  rw [Mach.feedCh_eq, Mach.ch_modCh_self _ _ _ h]
  split <;> rfl

theorem FedBeside.rfl' (n : Nat) (m : Mach) : FedBeside n m m := ⟨rfl, rfl⟩
theorem FedBeside.trans' {n : Nat} {a b c : Mach} (h : FedBeside n a b) (k : FedBeside n b c) : FedBeside n a c :=
  ⟨k.own.trans h.own, by rw [k.rest, h.rest]⟩
theorem FedBeside.feedCh {n k : Nat} (h : k ≠ n) (prods : List Int) (m : Mach) : FedBeside n m (m.feedCh k prods) :=
  ⟨m.feedCh_ne h.symm prods, m.feedCh_rest k prods⟩

/-- What the entry of a channel depends on is as before. -/
theorem FedBeside.feedPower {n : Nat} {m m' : Mach} (h : FedBeside n m m') (prods : List Int) (iOpen : Int) :
    m'.feedPower n prods iOpen = m.feedPower n prods iOpen := by
  have hnow : m'.now = m.now := by rw [h.rest]
  rw [Mach.feedPower, Mach.feedPower, h.own, hnow]

theorem FedBeside.feedEntry {n : Nat} {m m' : Mach} (h : FedBeside n m m') (c : Chan) (prods : List Int) :
    feedEntry m' c prods = feedEntry m c prods := by rw [h.rest]; rfl

/-- The entries of all channels. -/
def Mach.feed (prods : List (List Int)) (m : Mach) : Mach :=
  forList m.allCh (fun n m => m.feedCh n (nth prods n [])) m

theorem Mach.feed_self {n : Nat} {m : Mach} (h : n < m.nch) (prods : List (List Int)) : ∃ iOpen,
    (m.feed prods).ch n =
      (m.ch n).fed (m.feedPower n (nth prods n []) iOpen) (feedEntry m (m.ch n) (nth prods n [])).2 := by
  obtain ⟨x, hx, hrest⟩ := forList_own_step (FedBeside.rfl' n) (fun _ _ _ => FedBeside.trans')
    (fun n m => m.feedCh n (nth prods n [])) List.nodup_range (List.mem_range.mpr h) (fun k _ hk m => .feedCh hk _ m) m
  obtain ⟨iOpen, hown⟩ := x.feedCh_self (lt_of_lt_of_le h m.nch_le) (nth prods n [])
  refine ⟨iOpen, hrest.own.trans ?_⟩
  rw [hown, hx.feedPower, hx.own, hx.feedEntry]

theorem Mach.feed_beside {n : Nat} {m : Mach} (h : m.nch ≤ n) (prods : List (List Int)) : FedBeside n m (m.feed prods) :=
  forList_rel (FedBeside n) _ _ (FedBeside.rfl' n) (fun _ _ _ => FedBeside.trans')
    (fun _ hk m => .feedCh (lt_of_lt_of_le (List.mem_range.mp hk) h).ne _ m) m

theorem exec_powerFeedDelivery {prods : List (List Int)} {s : State}
    (hw : (Instr.powerFeedDelivery prods).WellFormed = true) :
    exec (.powerFeedDelivery prods) s = .next (if s.m.clk.refOk = true then s.on (Mach.feed prods) else s) := by
  refine (if_pos hw).trans (congrArg Host.Outcome.next ?_)
  unfold State.on
  dsimp only
  split <;> rfl

end Sys2Proof.Machine

open Sys2Proof.Machine Claim

/-- Settles O25: every channel takes the entry that its own words and the time give, whatever the channels before it took. -/
theorem powerFeedTakesOneEntryPerChannel : Obligations.PowerFeedTakesOneEntryPerChannel := by
  refine ⟨fun prods s hw href => ⟨s.on (Mach.feed prods), ?runs, fun n hn hk => ?known, fun n hn => ?entry,
    fun n hn => (Mach.feed_beside hn prods).own, ?rest⟩, fun prods s hw href => ?stands⟩
  case runs => rw [exec_powerFeedDelivery hw, if_pos href]
  case known =>
    obtain ⟨iOpen, hch⟩ := Mach.feed_self hn prods
    rw [Mach.feedPower_of_edgesKnown hk] at hch
    rw [State.on_m, hch]
    exact ⟨rfl, rfl⟩
  case entry =>
    obtain ⟨iOpen, hch⟩ := Mach.feed_self hn prods
    rw [State.on_m, hch]
    exact ⟨rfl, rfl⟩
  case rest => exact congrArg (fun m => { s with m := m }) (Mach.feed_beside s.m.nch_le prods).rest
  case stands => rw [exec_powerFeedDelivery hw, if_neg (by rw [href]; exact Bool.false_ne_true)]

end

section
/-! SUPPORT and REFUTATION of O52: a start keeps the image each waiting operation has taken, where the statement gives every
operation under the tag the image of the oldest. -/

namespace Sys2Proof.Machine
open Claim

/-! ## Two programming operations under one tag (R346, R347, R415) -/

/-- A programming operation that waits under tag 5 with an image taken. -/
def waitingProgram (image : List Int) : LongOp := ⟨0, 5, .queued, 0, false, 0, [], 3, 0, false, image⟩

/-- A running device outside its programming window, no sensor having been read, on which two programming operations wait
under one tag, the later with an image taken. -/
def waitingTwice : State :=
  { State.reset with m := { State.reset.m with
      dev := { State.reset.m.dev with phase := .running }, ops := [waitingProgram [], waitingProgram [1]] } }

/-- The OTP controller is free for the older one, and the window is not met. -/
theorem waitingTwice_starts : waitingTwice.m.resourceFree 0 = true ∧
    waitingTwice.m.opQueued 0 = some (waitingProgram []) ∧ waitingTwice.m.winAll = false := by decide +kernel

/-- The start suspends both at once, and the later one keeps its image. -/
theorem exec_waitingTwice : ∃ t, exec (.longOpStart 0) waitingTwice = .next t ∧ t.m.ops.map LongOp.aux = [[], [1]] :=
  ⟨_, rfl, by decide +kernel⟩

/-- In the machine the statement names, both have the image of the older. -/
theorem opStarted_waitingTwice :
    (opMoved (waitingProgram []) .suspended 2 (opStarted (waitingProgram []) [] waitingTwice.m)).ops.map LongOp.aux =
      [[], []] := by decide +kernel

end Sys2Proof.Machine

open Sys2Proof.Machine Claim

/-- Refutes O52: LONG_OP_START of the older of two programming operations under one tag leaves the later one's image, where
`starts` gives it the older's. No command submits an operation under the tag of a live one (`Mach.executing`); the statement
is over all states, and asks nothing of their tags. -/
theorem not_longOperations : ¬ Obligations.LongOperations := by
  unfold Obligations.LongOperations starts
  rintro ⟨-, -, ⟨-, hstarts⟩, -⟩
  obtain ⟨hfree, hqueued, hwindow⟩ := waitingTwice_starts
  obtain ⟨-, -, -, -, -, -, -, -, -, -, -, houtside, -⟩ := hstarts 0 waitingTwice rfl hfree _ hqueued
  obtain ⟨t, ht, -, -, hquiet, -⟩ := houtside rfl hwindow
  obtain ⟨u, hu, hkept⟩ := exec_waitingTwice
  obtain rfl : u = t := Host.Outcome.next.inj (hu.symm.trans ht)
  have hops := congrArg (fun m : Mach => m.ops.map LongOp.aux) hquiet
  exact absurd ((hkept.symm.trans hops).trans opStarted_waitingTwice) (by decide)

end

section
set_option Elab.async false
/-! SUPPORT of O30, O31 and O34: what the events of timebases and compare units change, one frame relation, and one rule per
operation on units, pairs and timebases. -/

namespace Sys2Proof.Machine
open Claim

/-! ## The frame of a PWM event -/

/-- A machine with other outputs, timebases and pairs. -/
def Mach.withPwm (os : Vector OutUnit 32) (ts : Vector Timebase 8) (ps : Vector Pair 16) (m : Mach) : Mach :=
  { m with outs := os, tbs := ts, pairs := ps }

/-- What a PWM event may touch, seen through `c` on each output, `e` on each pair and `b` on each timebase; beside it all that
`besideOutputs` shows. -/
def Mach.pwmView (c : OutUnit → OutUnit) (e : Pair → Pair) (b : Nat → Timebase → Timebase) (m : Mach) : Mach :=
  (besideOutputs m).withPwm (vmap m.outs fun _ u => c u) (vmap m.tbs fun k t => b k t) (vmap m.pairs fun _ q => e q)

/-- A step on outputs, pairs, timebases and the switching of channels that keeps these views. -/
abbrev Pulsed (c : OutUnit → OutUnit) (e : Pair → Pair) (b : Nat → Timebase → Timebase) : Mach → Mach → Prop :=
  Moved (Mach.pwmView c e b) everyChannel

/-- What the loads of a unit read and write (R196). -/
def OutUnit.loads (u : OutUnit) : OutUnit :=
  { OutUnit.reset with rise := u.rise, fall := u.fall, pend := u.pend, pendAt := u.pendAt, pendNow := u.pendNow,
                       held := u.held, ldcnt := u.ldcnt }
/-- The same with the unit's level. -/
def OutUnit.pulse (u : OutUnit) : OutUnit := { u.loads with level := u.level }

/-- What of a pair decides which timebase its odd unit runs on (R221). -/
def Pair.swap (q : Pair) : Pair := { Pair.reset with eff := q.eff }

/-- Whether and since when a timebase counts, and the periods it has counted. -/
def Timebase.course (t : Timebase) : Timebase :=
  { Timebase.reset with running := t.running, stopping := t.stopping, stopNext := t.stopNext, restarted := t.restarted,
                        pcnt := t.pcnt, startReq := t.startReq, halt := t.halt }

/-- Timebase `k` is seen by its course alone. -/
def courseOf (k j : Nat) (t : Timebase) : Timebase := if j = k then t.course else t

/-- Nothing of it is seen. -/
def OutUnit.unseen (_ : OutUnit) : OutUnit := .reset
def Pair.unseen (_ : Pair) : Pair := .reset
def Timebase.unseen (_ : Nat) (_ : Timebase) : Timebase := .reset

/-- A step that drives terminals and moves neither a level, nor a load, nor a swap, nor a timebase. -/
abbrev Driven : Mach → Mach → Prop := Pulsed OutUnit.pulse Pair.swap fun _ t => t
/-- A step that may move levels too. -/
abbrev Leveled : Mach → Mach → Prop := Pulsed OutUnit.loads Pair.swap fun _ t => t
/-- A step that may move swaps too. -/
abbrev Swapped : Mach → Mach → Prop := Pulsed OutUnit.loads Pair.unseen fun _ t => t
/-- A step that may load units. -/
abbrev Loading : Mach → Mach → Prop := Pulsed OutUnit.unseen Pair.swap fun _ t => t
/-- A step within the course of timebase `k` that moves no load and no swap. -/
abbrev Opened (k : Nat) : Mach → Mach → Prop := Pulsed OutUnit.pulse Pair.swap (courseOf k)
/-- A step on outputs, pairs and timebases, whatever it moves of them. -/
abbrev Paced : Mach → Mach → Prop := Pulsed OutUnit.unseen Pair.unseen Timebase.unseen

/-! ## Rules of the frame -/

theorem vmap_vmap {α : Type} {n : Nat} (v : Vector α n) (f g : Fin n → α → α) :
    vmap (vmap v f) g = vmap v fun i x => g i (f i x) := by
  refine Vector.ext fun i hi => ?_
  simp [vmap]

/-- A view that a change of one entry keeps. -/
theorem vmap_vmod {α : Type} {n : Nat} (v : Vector α n) (i : Fin n) (f : α → α) (g : Nat → α → α)
    (h : ∀ x, g i.val (f x) = g i.val x) : (vmap (vmod v i f) fun j x => g j.val x) = vmap v fun j x => g j.val x := by
  refine vmap_congr fun j => ?_
  have hj := vmod_get v i f j.val j.isLt
  simp only [Fin.getElem_fin]
  rw [hj]
  split
  · next he =>
    obtain rfl : j = i := Fin.ext he
    exact h _
  · rfl

/-- Counts of cuts are no part of what a PWM event leaves beside. -/
theorem Mach.uncut_chans (ks : List Nat) (m : Mach) :
    (vmap (m.uncut ks).chans fun _ c => c.uncut) = vmap m.chans fun _ c => c.uncut := by
  refine Vector.ext fun i hi => ?_
  simp only [Mach.uncut, vmap, Vector.getElem_ofFn, Fin.getElem_fin]
  generalize m.chans[i] = c
  cases ks.contains i <;> rfl

theorem besideOutputs_of_besideUncut {m m' : Mach} (h : m'.besideUncut everyChannel = m.besideUncut everyChannel) :
    besideOutputs m' = besideOutputs m := by
  let G (v : Vector Chan 24) (x : Mach) : Mach :=
    { x with outs := .replicate 32 .reset, tbs := .replicate 8 .reset, pairs := .replicate 16 .reset, chans := v }
  have hG (x : Mach) : besideOutputs x =
      G (vmap (x.besideUncut everyChannel).chans fun _ c => c.uncut) (x.besideUncut everyChannel) :=
    congrArg (fun v => G v (x.beside everyChannel)) (Mach.uncut_chans everyChannel (x.beside everyChannel)).symm
  rw [hG, h, ← hG]

section
variable {c : OutUnit → OutUnit} {e : Pair → Pair} {b : Nat → Timebase → Timebase} {m m' : Mach}

theorem Mach.pwmView_congr (hb : besideOutputs m' = besideOutputs m)
    (ho : (vmap m'.outs fun _ u => c u) = vmap m.outs fun _ u => c u)
    (ht : (vmap m'.tbs fun k t => b k t) = vmap m.tbs fun k t => b k t)
    (hp : (vmap m'.pairs fun _ q => e q) = vmap m.pairs fun _ q => e q) : m'.pwmView c e b = m.pwmView c e b := by
  unfold Mach.pwmView
  rw [hb, ho, ht, hp]

/-- A coarser view of a view. -/
theorem Pulsed.map {c' : OutUnit → OutUnit} {e' : Pair → Pair} {b' : Nat → Timebase → Timebase} (h : Pulsed c e b m m')
    (hc : ∀ u, c' (c u) = c' u := by intro _; rfl) (he : ∀ q, e' (e q) = e' q := by intro _; rfl)
    (hb : ∀ k t, b' k (b k t) = b' k t := by intro _ _; rfl) : Pulsed c' e' b' m m' := by
  have hG (x : Mach) : x.pwmView c' e' b' = (x.pwmView c e b).withPwm (vmap (x.pwmView c e b).outs fun _ u => c' u)
      (vmap (x.pwmView c e b).tbs fun k t => b' k t) (vmap (x.pwmView c e b).pairs fun _ q => e' q) := by
    unfold Mach.pwmView Mach.withPwm
    simp only [vmap_vmap, hc, he, hb]
  exact ⟨by rw [hG, h.view, ← hG], h.evt, h.caps, h.st⟩

theorem Pulsed.paced (h : Pulsed c e b m m') : Paced m m' := h.map

/-- A step beside the channels that keeps what the frame shows. -/
theorem Pulsed.hidden (hv : m'.pwmView c e b = m.pwmView c e b) (he : m'.evt = m.evt) (hc : m'.chans = m.chans) :
    Pulsed c e b m m' := (Moved.hidden hv he hc).any _

theorem Pulsed.modOut (o : Nat) {f : OutUnit → OutUnit} (m : Mach) (hf : ∀ u, c (f u) = c u := by intro _; rfl) :
    Pulsed c e b m (m.modOut o f) := by
  refine .hidden (Mach.pwmView_congr ?_ ?_ (by simp) (by simp)) (Mach.modOut_evt o f m) (Mach.modOut_chans o f m) <;>
    unfold Mach.modOut
  · split <;> rfl
  · split
    · next h => exact vmap_vmod m.outs ⟨o, h⟩ f (fun _ => c) hf
    · rfl

theorem Pulsed.modPair (k : Nat) {f : Pair → Pair} (m : Mach) (hf : ∀ q, e (f q) = e q := by intro _; rfl) :
    Pulsed c e b m (m.modPair k f) := by
  refine .hidden (Mach.pwmView_congr ?_ (by simp) (by simp) ?_) (Mach.modPair_evt k f m) (Mach.modPair_chans k f m) <;>
    unfold Mach.modPair
  · split <;> rfl
  · split
    · next h => exact vmap_vmod m.pairs ⟨k, h⟩ f (fun _ => e) hf
    · rfl

theorem Pulsed.modTb (k : Nat) {f : Timebase → Timebase} (m : Mach) (hf : ∀ t, b k (f t) = b k t) :
    Pulsed c e b m (m.modTb k f) := by
  refine .hidden (Mach.pwmView_congr ?_ (by simp) ?_ (by simp)) (Mach.modTb_evt k f m) (Mach.modTb_chans k f m) <;>
    unfold Mach.modTb
  · split <;> rfl
  · split
    · next h => exact vmap_vmod m.tbs ⟨k, h⟩ f b hf
    · rfl

theorem Pulsed.modTach (i : Nat) (f : Tach → Tach) (m : Mach) : Pulsed c e b m (m.modTach i f) := by
  refine .hidden (Mach.pwmView_congr ?_ (by simp) (by simp) (by simp)) (Mach.modTach_evt i f m) (Mach.modTach_chans i f m)
  unfold Mach.modTach
  split <;> rfl

/-- An effect on events alone. -/
theorem Pulsed.of_quiet (hq : m'.quiet = m.quiet) (he : evtKept m m') : Pulsed c e b m m' := by
  have hch : m'.chans = m.chans := (congrArg Mach.chans hq : m'.quiet.chans = m.quiet.chans)
  exact ⟨(congrArg (Mach.pwmView c e b) hq : m'.quiet.pwmView c e b = m.quiet.pwmView c e b), he,
    fun n => by rw [Mach.ch_of_chans hch], fun n _ => by rw [Mach.ch_of_chans hch]⟩

theorem Pulsed.event (p : Nat) (w : Word) (m : Mach) : Pulsed c e b m (m.event p w) :=
  .of_quiet (Mach.quiet_event p w m) (evtKept_event p w m)

theorem Pulsed.eventOwn (p : Nat) (w : Word) (v : EqEv) (m : Mach) : Pulsed c e b m (m.eventOwn p w v) :=
  .of_quiet (Mach.quiet_eventOwn p w v m) (evtKept_eventOwn p w v m)

theorem vmap_still (hc : ∀ u : OutUnit, c u.still = c u) (ks : List Nat) (v : Vector OutUnit 32) :
    (vmap (vmap v fun o u => if ks.contains o.val then u.still else u) fun _ u => c u) = vmap v fun _ u => c u := by
  have hstill (i : Fin 32) (u : OutUnit) : c (if ks.contains i.val then u.still else u) = c u := by
    cases ks.contains i.val
    · rfl
    · exact hc u
  rw [vmap_vmap]
  exact congrArg (vmap v) (funext fun i => funext (hstill i))

/-- The switching of channels shows in no view that `still` does not show. -/
theorem Pulsed.of_restarted {js : List Nat} (hc : ∀ u : OutUnit, c u.still = c u) (h : Restarted everyChannel js m m') :
    Pulsed c e b m m' := by
  have hview (x : Mach) : (vmap (x.besideUncut everyChannel).outs fun _ u => c u) = vmap x.outs fun _ u => c u :=
    vmap_still hc everyChannel x.outs
  refine ⟨Mach.pwmView_congr (besideOutputs_of_besideUncut h.view) ?_ ?_ ?_, h.evt, h.caps, fun n hn => ?_⟩
  · rw [← hview, h.view, hview]
  · rw [show m'.tbs = m.tbs from Restarted.field Mach.tbs h]
  · rw [show m'.pairs = m.pairs from Restarted.field Mach.pairs h]
  · have h24 : ¬ n < 24 := fun h => hn (mem_everyChannel.mpr h)
    simp [Mach.ch, h24]

/-! ## Reading through the frame -/

theorem Mach.out_pwmView (m : Mach) {o : Nat} (ho : o < 32) : (m.pwmView c e b).out o = c (m.out o) := by
  simp [Mach.out, Mach.pwmView, Mach.withPwm, vmap, ho]
theorem Mach.tb_pwmView (m : Mach) {k : Nat} (hk : k < 8) : (m.pwmView c e b).tb k = b k (m.tb k) := by
  simp [Mach.tb, Mach.pwmView, Mach.withPwm, vmap, hk]
theorem Mach.pair_pwmView (m : Mach) {k : Nat} (hk : k < 16) : (m.pwmView c e b).pair k = e (m.pair k) := by
  simp [Mach.pair, Mach.pwmView, Mach.withPwm, vmap, hk]

theorem Pulsed.out (h : Pulsed c e b m m') (o : Nat) : c (m'.out o) = c (m.out o) := by
  by_cases ho : o < 32
  · rw [← Mach.out_pwmView (c := c) (e := e) (b := b) m' ho, h.view, Mach.out_pwmView m ho]
  · simp [Mach.out, ho]

theorem Pulsed.tb (h : Pulsed c e b m m') (k : Nat) : b k (m'.tb k) = b k (m.tb k) := by
  by_cases hk : k < 8
  · rw [← Mach.tb_pwmView (c := c) (e := e) (b := b) m' hk, h.view, Mach.tb_pwmView m hk]
  · simp [Mach.tb, hk]

theorem Pulsed.pair (h : Pulsed c e b m m') (k : Nat) : e (m'.pair k) = e (m.pair k) := by
  by_cases hk : k < 16
  · rw [← Mach.pair_pwmView (c := c) (e := e) (b := b) m' hk, h.view, Mach.pair_pwmView m hk]
  · simp [Mach.pair, hk]

/-- Outputs, timebases and pairs are no part of what `besideOutputs` shows. -/
theorem besideOutputs_withPwm (m : Mach) :
    (besideOutputs m).withPwm (.replicate 32 .reset) (.replicate 8 .reset) (.replicate 16 .reset) = besideOutputs m := rfl

theorem Mach.withPwm_withPwm (os os' : Vector OutUnit 32) (ts ts' : Vector Timebase 8) (ps ps' : Vector Pair 16) (m : Mach) :
    (m.withPwm os ts ps).withPwm os' ts' ps' = m.withPwm os' ts' ps' := rfl

theorem Pulsed.besideOutputs (h : Pulsed c e b m m') : besideOutputs m' = besideOutputs m := by
  have hv := congrArg (Mach.withPwm (.replicate 32 .reset) (.replicate 8 .reset) (.replicate 16 .reset)) h.view
  unfold Mach.pwmView at hv
  rwa [Mach.withPwm_withPwm, Mach.withPwm_withPwm, besideOutputs_withPwm, besideOutputs_withPwm] at hv

theorem Pulsed.now (h : Pulsed c e b m m') : m'.now = m.now :=
  (congrArg Mach.now h.besideOutputs : (Claim.besideOutputs m').now = (Claim.besideOutputs m).now)
theorem Pulsed.active (h : Pulsed c e b m m') : m'.active = m.active :=
  (congrArg Mach.active h.besideOutputs : (Claim.besideOutputs m').active = (Claim.besideOutputs m).active)
theorem Pulsed.otp (h : Pulsed c e b m m') : m'.otp = m.otp :=
  (congrArg Mach.otp h.besideOutputs : (Claim.besideOutputs m').otp = (Claim.besideOutputs m).otp)
theorem Pulsed.part (h : Pulsed c e b m m') : m'.dev.part = m.dev.part :=
  (congrArg (fun x => x.dev.part) h.besideOutputs : (Claim.besideOutputs m').dev.part = (Claim.besideOutputs m).dev.part)

end

/-! ## The rule of each operation on terminals -/

/-- The switching of channels drives. -/
theorem Restarted.driven {js : List Nat} {m m' : Mach} (h : Restarted everyChannel js m m') : Driven m m' :=
  .of_restarted (fun _ => rfl) h
theorem Switched.driven {js : List Nat} {m m' : Mach} (h : Switched everyChannel js m m') : Driven m m' :=
  Restarted.driven h.restarted

theorem Driven.leveled {m m' : Mach} (h : Driven m m') : Leveled m m' := Pulsed.map h
theorem Leveled.swapped {m m' : Mach} (h : Leveled m m') : Swapped m m' := Pulsed.map h
theorem Leveled.loading {m m' : Mach} (h : Leveled m m') : Loading m m' := Pulsed.map h
theorem Driven.opened (k : Nat) {m m' : Mach} (h : Driven m m') : Opened k m m' := Pulsed.map h

theorem Driven.gateOn {o : Nat} (m : Mach) (ho : o < 24) : Driven m (m.gateOn o) :=
  Switched.driven (Switched.gateOn m (Mach.members_everyChannel ho))
theorem Driven.gateOff (kind : TurnOff) {o : Nat} (m : Mach) (ho : o < 24) : Driven m (m.gateOff kind o) :=
  Switched.driven (Switched.gateOff kind m (Mach.members_everyChannel ho))

theorem Driven.driveOut (o : Nat) (m : Mach) : Driven m (m.driveOut o) := by
  have h : Driven m (m.modOut o fun u =>
      { u with drive := m.stageLevel o, joined := u.joined || m.stageLevel o != (m.out o).drive }) := Pulsed.modOut o m
  unfold Mach.driveOut
  dsimp only
  split
  · next ho => exact .ite (.ite (h.trans' (Driven.gateOn _ ho)) (h.trans' (Driven.gateOff _ _ ho))) h
  · exact .ite (h.trans' (Pulsed.modOut o _)) h

theorem Driven.drivePair (o : Nat) (m : Mach) : Driven m (m.drivePair o) :=
  .ite ((Driven.driveOut _ m).trans' (Driven.driveOut _ _)) ((Driven.driveOut _ m).trans' (Driven.driveOut _ _))

theorem Driven.joinCmp (o : Nat) (m : Mach) : Driven m (m.joinCmp o) := by
  refine .ite (.forList _ _ (fun x _ m => .ite ?_ (.rfl' _ _ m)) m) (.rfl' _ _ m)
  exact Moved.trans' (Pulsed.modOut x m) (Driven.driveOut x _)

theorem Driven.deliver (k type : Nat) (m : Mach) : Driven m (m.deliver k type) :=
  .ite (Pulsed.eventOwn _ _ _ m) (.rfl' _ _ m)

theorem Driven.edgeEvents (o : Nat) (rising : Bool) (m : Mach) : Driven m (m.edgeEvents o rising) :=
  .ite (Driven.deliver _ _ m) (.rfl' _ _ m)

theorem Driven.judgeClamp (o : Nat) (m : Mach) : Driven m (m.judgeClamp o) := by
  have hnote : Driven m (m.noteClamp o) := by
    have h : Driven m (m.modOut o fun u => { u with incons := true, clampRun := true, loaded := false }) := Pulsed.modOut o m
    exact .ite (Pulsed.modOut o m) (.ite (h.trans' (Pulsed.event _ _ _)) (h.trans' (Pulsed.event _ _ _)))
  exact ((Moved.ite hnote (.rfl' _ _ m)).trans' (Pulsed.modOut o _)).trans' (Pulsed.modPair _ _)

theorem Driven.endPeriod (o : Nat) (m : Mach) : Driven m (m.endPeriod o) := by
  unfold Mach.endPeriod
  refine Moved.trans' ?_ (Pulsed.modOut o _)
  dsimp only
  split
  · next h =>
    have ho : o < 24 := by simp at h; exact h.1.1.1
    exact Switched.driven (Switched.modCh m (mem_everyChannel.mpr ho))
  · exact .rfl' _ _ m

theorem Driven.loadSlot (o : Nat) (m : Mach) : Driven m (m.loadSlot o) := Pulsed.modOut o m
theorem Driven.loadHeldSlot (o : Nat) (m : Mach) : Driven m (m.loadHeldSlot o) :=
  Moved.trans' (Driven.loadSlot o m) (Pulsed.modOut o _)

theorem Driven.judgeDith (o : Nat) (m : Mach) : Driven m (m.judgeDith o) := by
  have h (x : Bool) : Driven m (m.modOut o fun u => { u with dithBlk := x }) := Pulsed.modOut o m
  exact .ite ((h _).trans' (Pulsed.event _ _ _)) (h _)

theorem Driven.holdCut (o : Nat) (m : Mach) : Driven m (m.holdCut o) := by
  unfold Mach.holdCut
  split
  · next ho => exact Switched.driven (Switched.holdCutCh m ho)
  · exact Pulsed.modOut o m

theorem Driven.countCut (o : Nat) (m : Mach) : Driven m (m.countCut o) := by
  unfold Mach.countCut
  split
  · next ho => exact Restarted.driven (Restarted.countCutCh m ho)
  · exact .ite (.rfl' _ _ m) (Moved.trans' (Pulsed.modOut o m) (Pulsed.event _ _ _))

theorem Driven.actCut (o : Nat) (m : Mach) : Driven m (m.actCut o) := by
  refine .ite ?_ (.rfl' _ _ m)
  unfold Mach.cutOut
  split
  · next ho => exact Restarted.driven (Restarted.cutCh m ho)
  · refine .ite ?_ (.rfl' _ _ m)
    exact ((Driven.holdCut o m).trans' (.ite (Driven.holdCut _ _) (.rfl' _ _ _))).trans' (Driven.countCut o _)

/-! ## Levels, loads and swaps -/

theorem Leveled.setUnit (o : Nat) (m : Mach) : Leveled m (m.setUnit o) := by
  have h : Leveled m ((m.modOut o fun u => { u with level := m.unitLevel o }).edgeEvents o (m.unitLevel o)) :=
    Moved.trans' (Pulsed.modOut o m) (Driven.edgeEvents o _ _).leveled
  exact .ite (.rfl' _ _ m) (.ite (h.trans' (Pulsed.modPair _ _)) h)

theorem Loading.loadCmp (o : Nat) (m : Mach) : Loading m (m.loadCmp o) := by
  unfold Mach.loadCmp
  split
  · exact Moved.trans' (Pulsed.modOut o m) (Pulsed.modOut o _)
  · exact .rfl' _ _ m

theorem Swapped.setSwap (k : Nat) (sw asw : Bool) (m : Mach) : Swapped m (m.setSwap k sw asw) := by
  have h : Swapped m (m.modPair k fun q => { q with eff := sw != asw, swapIn := sw, aswpIn := asw }) := Pulsed.modPair k m
  have hdisarm (x : Mach) : Swapped x
      (forList (List.range 4) (fun i m => if m.tachPair i = k then m.tachDisarm i else m) x) :=
    .forList _ _ (fun i _ x => .ite (Pulsed.modTach i _ x) (.rfl' _ _ x)) x
  refine .ite (Moved.trans' (h.trans' (hdisarm _)) ?_) h
  exact .forList _ _ (fun o _ x => Moved.trans' (Pulsed.modOut o x) (Driven.judgeDith o _).leveled.swapped) _

theorem Swapped.swapAtZero (k : Nat) (all : Bool) (m : Mach) : Swapped m (m.swapAtZero k all) := by
  unfold Mach.swapAtZero
  have hclear : Swapped m (forList (List.range 4)
      (fun i m => if (m.tach i).swapOf = k then m.modTach i fun t => { t with swapped := false } else m)
      (m.modPair k fun q => { q with aswp := false, clrReq := false })) :=
    Moved.trans' (Pulsed.modPair k m) (.forList _ _ (fun i _ x => .ite (Pulsed.modTach i _ x) (.rfl' _ _ x)) _)
  exact (Moved.ite hclear (.rfl' _ _ m)).trans' (Moved.trans' (Pulsed.modPair k _) (Swapped.setSwap k _ _ _))

end Sys2Proof.Machine
end

section
set_option Elab.async false
/-! PROOF of O34: the parts of a zero, the end of a timebase, and the common restart. -/

namespace Sys2Proof.Machine
open Claim

/-! ## Which timebase a unit runs on (R221) -/

theorem Mach.tbSel_congr {m m' : Mach} (ha : m'.active = m.active) (ho : m'.otp = m.otp) (hp : m'.dev.part = m.dev.part)
    (he : ∀ k, (m'.pair k).eff = (m.pair k).eff) (o : Nat) : m'.tbSel o = m.tbSel o := by
  have hcfg (a : Nat) : m'.cfg a = m.cfg a := Mach.cfg_of_active ha a
  have hlead (n : Nat) : m'.leader n = m.leader n := Mach.leader_of ho hp n
  have hpar (n : Nat) : m'.par n = m.par n := by
    unfold Mach.par Mach.groupNibble Mach.nch Mach.custBits Mach.cust Mach.otpWord
    rw [ho, hp]
  unfold Mach.tbSel Mach.pairJoint Mach.inverts Mach.pairWord Mach.tachSwaps Mach.pairGrouped Mach.tachWord Mach.outCfg Mach.lw
  simp only [hcfg, hlead, hpar, hp, he]

section
variable {c : OutUnit → OutUnit} {e : Pair → Pair} {b : Nat → Timebase → Timebase} {m m' : Mach}

theorem Pulsed.cfg (h : Pulsed c e b m m') (a : Nat) : m'.cfg a = m.cfg a := Mach.cfg_of_active h.active a
theorem Pulsed.leader (h : Pulsed c e b m m') (n : Nat) : m'.leader n = m.leader n := Mach.leader_of h.otp h.part n

theorem Pulsed.units (h : Pulsed c e b m m') : m'.units = m.units := by
  unfold Mach.units Mach.allOuts Mach.allCh Mach.nch
  rw [h.part, show m'.leader = m.leader from funext h.leader]

theorem Pulsed.sampled (h : Pulsed c e b m m') (x : Nat) : m'.sampled x = m.sampled x := by
  unfold Mach.sampled
  rw [h.now]

theorem Pulsed.eff (h : Pulsed c Pair.swap b m m') (k : Nat) : (m'.pair k).eff = (m.pair k).eff :=
  (congrArg Pair.eff (h.pair k) : (m'.pair k).swap.eff = (m.pair k).swap.eff)

theorem Pulsed.tbSel (h : Pulsed c Pair.swap b m m') (o : Nat) : m'.tbSel o = m.tbSel o :=
  Mach.tbSel_congr h.active h.otp h.part h.eff o

theorem Pulsed.unitsOn (h : Pulsed c Pair.swap b m m') (k : Nat) : m'.unitsOn k = m.unitsOn k := by
  unfold Mach.unitsOn
  rw [h.units, show m'.tbSel = m.tbSel from funext h.tbSel]

end

theorem Mach.mem_units_lt {m : Mach} {o : Nat} (h : o ∈ m.units) : o < 32 := by
  have hn := m.nch_le
  simp only [Mach.units, Mach.allOuts, Mach.allCh, List.mem_filter, List.mem_append, List.mem_range] at h
  rcases h.1 with h | h
  · omega
  · split at h
    · simp at h
      omega
    · cases h

theorem Mach.mem_unitsOn {m : Mach} {k o : Nat} : o ∈ m.unitsOn k ↔ o ∈ m.units ∧ (m.tbSel o).1 = k := by
  simp [Mach.unitsOn]

/-! ## Settling -/

theorem State.ctl_tbs (f : Mach → Mach) (s : State) : (s.ctl f).m.tbs = (f s.m).tbs := calm_tbs (State.ctl_calm f s)

theorem State.ctl_tb (f : Mach → Mach) (s : State) (k : Nat) : (s.ctl f).m.tb k = (f s.m).tb k := by
  unfold Mach.tb
  rw [State.ctl_tbs]

theorem State.ctl_tbSel (f : Mach → Mach) (s : State) (o : Nat) : (s.ctl f).m.tbSel o = (f s.m).tbSel o := by
  have h := State.ctl_calm f s
  refine Mach.tbSel_congr (calm_active h) (calm_otp h) (congrArg Dev.part (calm_dev h)) (fun k => ?_) o
  unfold Mach.pair
  rw [calm_pairs h]

theorem besideOutputs_of_calm {m m' : Mach} (h : m'.calm = m.calm) : besideOutputs m' = besideOutputs m := by
  unfold besideOutputs
  rw [Mach.beside_of_calm everyChannel h]

/-- A PWM event takes effect through settling. -/
theorem Pulsed.pwmOnly {c : OutUnit → OutUnit} {e : Pair → Pair} {b : Nat → Timebase → Timebase} {f : Mach → Mach} {s : State}
    (h : Pulsed c e b s.m (f s.m)) : pwmOnly s (s.ctl f) s.m := by
  have hs := State.settle_rel (s.on f)
  exact ⟨(besideOutputs_of_calm hs.calm).trans h.besideOutputs, h.evt.trans' hs.evt, fun a ha => hs.sram a fun n x hx => ha n x (h.caps n ▸ hx), hs.keep⟩

/-! ## Loads (R192, R196) -/

/-- The unit has loaded the compares `p` at the period count `n`. -/
def OutUnit.hasLoaded (p : Cmp × Cmp) (n : BitVec 32) (u : OutUnit) : Prop :=
  u.rise = p.1 ∧ u.fall = p.2 ∧ u.pend = none ∧ u.ldcnt = n.setWidth 16

theorem OutUnit.hasLoaded_of_loads {p : Cmp × Cmp} {n : BitVec 32} {u v : OutUnit} (h : v.loads = u.loads)
    (hu : u.hasLoaded p n) : v.hasLoaded p n := by
  obtain ⟨hr, hf, hp, hc⟩ := hu
  exact ⟨(congrArg OutUnit.rise h).trans hr, (congrArg OutUnit.fall h).trans hf, (congrArg OutUnit.pend h).trans hp,
    (congrArg OutUnit.ldcnt h).trans hc⟩

theorem OutUnit.pend_of_loads {u v : OutUnit} (h : v.loads = u.loads) : v.pend = u.pend :=
  (congrArg OutUnit.pend h : v.loads.pend = u.loads.pend)

theorem Driven.loads {m m' : Mach} (h : Driven m m') (o : Nat) : (m'.out o).loads = (m.out o).loads := h.leveled.out o

theorem Mach.loadCmp_none {o : Nat} {m : Mach} (h : (m.out o).pend = none) : m.loadCmp o = m := by
  unfold Mach.loadCmp
  rw [h]

theorem Mach.loadCmp_out_ne {o j : Nat} (m : Mach) (h : j ≠ o) : (m.loadCmp o).out j = m.out j := by
  unfold Mach.loadCmp Mach.takeElems
  split <;> simp [h]

theorem Mach.loadCmp_loaded {o : Nat} {p : Cmp × Cmp} {m : Mach} (ho : o < 32) (h : (m.out o).pend = some p) :
    ((m.loadCmp o).out o).hasLoaded p (m.tb (m.tbSel o).1).pcnt := by
  unfold Mach.loadCmp Mach.takeElems
  rw [h]
  simp [ho, OutUnit.hasLoaded]

/-- What unit `o` awaits loads at this point: at a start (`all`), or with all that the update lock held (`unheld`), or at a zero
or a ZERO_MID unit's half-period point where it was sampled before (R192, R196). -/
def Mach.loadDue (m : Mach) (o : Nat) (all unheld zero : Bool) : Bool :=
  unheld || (!(m.out o).held && (all || ((zero || (m.tbSel o).2 == 1) && ((m.out o).pendNow || m.sampled (m.out o).pendAt))))

theorem Mach.loadAt_eq (o : Nat) (all unheld zero : Bool) (m : Mach) : m.loadAt o all unheld zero =
    let x := if m.loadDue o all unheld zero then m.loadCmp o else m
    if unheld then x.loadHeldSlot o
    else if zero && (all || (m.out o).slotNow || x.sampled (m.out o).slotAt) then x.loadSlot o else x := rfl

theorem Pulsed.loadDue {c : OutUnit → OutUnit} {b : Nat → Timebase → Timebase} {m m' : Mach} (h : Pulsed c Pair.swap b m m')
    {o : Nat} (hl : (m'.out o).loads = (m.out o).loads) (all unheld zero : Bool) :
    m'.loadDue o all unheld zero = m.loadDue o all unheld zero := by
  have hheld : (m'.out o).held = (m.out o).held :=
    (congrArg OutUnit.held hl : (m'.out o).loads.held = (m.out o).loads.held)
  have hnow : (m'.out o).pendNow = (m.out o).pendNow :=
    (congrArg OutUnit.pendNow hl : (m'.out o).loads.pendNow = (m.out o).loads.pendNow)
  have hat : (m'.out o).pendAt = (m.out o).pendAt :=
    (congrArg OutUnit.pendAt hl : (m'.out o).loads.pendAt = (m.out o).loads.pendAt)
  unfold Mach.loadDue
  rw [hheld, hnow, hat, h.tbSel, h.sampled]

/-- A step of a pass over units that loads what unit `o` awaits where `d` says so. -/
structure LoadStep (d : Nat → Mach → Bool) (f : Nat → Mach → Mach) : Prop where
  frame : ∀ o m, Loading m (f o m)
  due   : ∀ {o m m'}, Loading m m' → (m'.out o).loads = (m.out o).loads → d o m' = d o m
  other : ∀ {o j} m, j ≠ o → ((f o m).out j).loads = (m.out j).loads
  idle  : ∀ {o m}, ((m.out o).pend = none ∨ d o m = false) → ((f o m).out o).loads = (m.out o).loads
  takes : ∀ {o m p}, o < 32 → (m.out o).pend = some p → d o m = true →
    ((f o m).out o).hasLoaded p (m.tb (m.tbSel o).1).pcnt

section
variable {d : Nat → Mach → Bool} {f : Nat → Mach → Mach} (hf : LoadStep d f) {o : Nat} {m : Mach}
include hf

/-- A unit whose load is not due, or that awaits none, keeps its compares in the pass. -/
theorem LoadStep.pass_idle (h : (m.out o).pend = none ∨ d o m = false) (l : List Nat) :
    ((forList l f m).out o).loads = (m.out o).loads := by
  refine (forList_inv (fun x => Loading m x ∧ (x.out o).loads = (m.out o).loads) l f (fun a _ x hx => ?_) m
    ⟨.rfl' _ _ m, rfl⟩).2
  obtain ⟨hframe, hsame⟩ := hx
  refine ⟨hframe.trans' (hf.frame a x), ?_⟩
  by_cases ha : o = a
  · subst ha
    refine (hf.idle ?_).trans hsame
    rw [hf.due hframe hsame, OutUnit.pend_of_loads hsame]
    exact h
  · exact (hf.other x ha).trans hsame

/-- A unit of the pass loads what it awaits where the load is due. -/
theorem LoadStep.pass_takes {p : Cmp × Cmp} (ho : o < 32) (hp : (m.out o).pend = some p) (hd : d o m = true) {l : List Nat}
    (hl : o ∈ l) : ((forList l f m).out o).hasLoaded p (m.tb (m.tbSel o).1).pcnt := by
  let P (x : Mach) : Prop := Loading m x ∧
    ((x.out o).loads = (m.out o).loads ∨ (x.out o).hasLoaded p (m.tb (m.tbSel o).1).pcnt)
  let Q (x : Mach) : Prop := P x → P (f o x) ∧ ((f o x).out o).hasLoaded p (m.tb (m.tbSel o).1).pcnt
  have hown (x : Mach) : Q x := fun ⟨hframe, hx⟩ => by
    have hnext : ((f o x).out o).hasLoaded p (m.tb (m.tbSel o).1).pcnt := by
      rcases hx with hsame | hloaded
      · have h := hf.takes ho ((OutUnit.pend_of_loads hsame).trans hp) ((hf.due hframe hsame).trans hd)
        rwa [hframe.tbSel, show x.tb _ = m.tb _ from Pulsed.tb hframe _] at h
      · exact OutUnit.hasLoaded_of_loads (hf.idle (.inl hloaded.2.2.1)) hloaded
    exact ⟨⟨hframe.trans' (hf.frame o x), .inr hnext⟩, hnext⟩
  have hkeep (a : Nat) (x : Mach) (hx : P x) : P (f a x) := by
    by_cases ha : o = a
    · exact ha ▸ (hown x hx).1
    · exact ⟨hx.1.trans' (hf.frame a x), hx.2.imp (hf.other x ha).trans (OutUnit.hasLoaded_of_loads (hf.other x ha))⟩
  obtain ⟨u, t, rfl⟩ := List.append_of_mem hl
  have happ : forList (u ++ o :: t) f m = forList t f (f o (forList u f m)) := List.foldl_append
  have hu : P (forList u f m) := forList_inv P u f (fun a _ => hkeep a) m ⟨.rfl' _ _ m, .inl rfl⟩
  rw [happ]
  refine (forList_inv (fun x => P x ∧ (x.out o).hasLoaded p (m.tb (m.tbSel o).1).pcnt) t f (fun a _ x hx => ?_) _
    (hown _ hu)).2
  by_cases ha : o = a
  · exact ha ▸ hown x hx.1
  · exact ⟨hkeep a x hx.1, OutUnit.hasLoaded_of_loads (hf.other x ha) hx.2⟩

end

end Sys2Proof.Machine
end

section
set_option Elab.async false

namespace Sys2Proof.Machine
open Claim

/-! ## The loads at a zero and at a half-period point (R196) -/

/-- A step that drives before and after a load due by `loadDue` is a load step. -/
theorem LoadStep.of_due {f : Nat → Mach → Mach} (all unheld zero : Bool) (hf : ∀ o m, ∃ x, Driven m x ∧
      Driven (if x.loadDue o all unheld zero then x.loadCmp o else x) (f o m)) :
    LoadStep (fun o m => m.loadDue o all unheld zero) f where
  frame o m := by
    obtain ⟨x, hx, hfx⟩ := hf o m
    exact (hx.leveled.loading.trans' (.ite (Loading.loadCmp o x) (.rfl' _ _ x))).trans' hfx.leveled.loading
  due := fun h hl => Pulsed.loadDue h hl all unheld zero
  other := fun {o j} m hj => by
    obtain ⟨x, hx, hfx⟩ := hf o m
    rw [hfx.loads, ← hx.loads]
    split
    · rw [Mach.loadCmp_out_ne x hj]
    · rfl
  idle := fun {o m} h => by
    obtain ⟨x, hx, hfx⟩ := hf o m
    rw [hfx.loads, ← hx.loads]
    rcases h with h | h
    · rw [Mach.loadCmp_none ((OutUnit.pend_of_loads (hx.loads o)).trans h), ite_self]
    · rw [← Pulsed.loadDue hx (hx.loads o)] at h
      rw [h]
      rfl
  takes := fun {o m p} ho hp hdue => by
    obtain ⟨x, hx, hfx⟩ := hf o m
    refine OutUnit.hasLoaded_of_loads (hfx.loads o) ?_
    rw [if_pos ((Pulsed.loadDue hx (hx.loads o) all unheld zero).trans hdue), ← Pulsed.tbSel hx,
      ← show x.tb _ = m.tb _ from Pulsed.tb hx _]
    exact Mach.loadCmp_loaded ho ((OutUnit.pend_of_loads (hx.loads o)).trans hp)

theorem LoadStep.loadAt (all unheld zero : Bool) :
    LoadStep (fun o m => m.loadDue o all unheld zero) fun o m => m.loadAt o all unheld zero := by
  refine .of_due all unheld zero fun o m => ⟨m, .rfl' _ _ m, ?_⟩
  rw [Mach.loadAt_eq]
  exact .ite (Driven.loadHeldSlot o _) (.ite (Driven.loadSlot o _) (.rfl' _ _ _))

/-! ## The parts of a zero -/

/-- The update-lock hold of timebase `k` ends at this zero (R211, R213). -/
def Mach.unholds (k : Nat) (all unheld : Bool) (m : Mach) : Bool :=
  let t := m.tb k
  unheld || (t.ulk && t.ulkEnd && (all || t.pendNow || m.sampled t.ulkEndAt))

/-- The hold ends, and the period loads (R191, R211). -/
def Mach.loadPeriod (k : Nat) (all unheld : Bool) (m : Mach) : Mach :=
  let t := m.tb k
  let m := if unheld then m.modTb k fun t => { t with ulk := false, ulkEnd := false, ulkZeros := 0, ulkWait := 0 } else m
  if unheld || (!(m.tb k).ulk && (all || t.pendNow || m.sampled t.pendAt)) then m.loadPer k else m

/-- The period is dithered, and the count starts from 0 (R188, R239). -/
def Mach.startPeriod (k : Nat) (m : Mach) : Mach :=
  (m.ditherStep k).modTb k fun t =>
    let zeros := if !t.ulk || (t.pendNow && t.ulkZeros = 0) then 0 else t.ulkZeros + 1
    { t with zeroAt := m.now, pendNow := false, ulkZeros := zeros }

/-- The swaps of the pairs of timebase `k` take effect (R223). -/
def Mach.swapPairs (k : Nat) (all : Bool) (m : Mach) : Mach :=
  let pairs := (List.range 16).filter fun p => (m.tbSel (2 * p)).1 == k
  let m := forList pairs (fun p m => m.swapAtZero p all) m
  forList pairs (fun p m => m.modPair p fun q => { q with dtSup := false }) m

/-- The units that ran on timebase `k` or run on it now take their levels (R199, R208, R233). -/
def Mach.closeZero (k : Nat) (us : List Nat) (m : Mach) : Mach :=
  let here := m.unitsOn k
  let touched := m.units.filter fun o => us.contains o || here.contains o
  let m := forList here (fun o m =>
    (m.modOut o fun u => { u with minpw := false, whole := true }).judgeClamp o) m
  let m := forList touched Mach.setUnit m
  let m := m.deliver k 0
  let m := forList touched (fun o m => (m.drivePair o).joinCmp o) m
  forList touched Mach.actCut m

theorem Mach.zeroCore_eq (k : Nat) (all unheld : Bool) (m : Mach) : m.zeroCore k all unheld =
    let us := m.unitsOn k
    let m1 := forList us Mach.endPeriod m
    let u := m1.unholds k all unheld
    let m2 := (m1.loadPeriod k all u).startPeriod k
    let m3 := forList us (fun o m => m.loadAt o all u true) m2
    (m3.swapPairs k (all || u)).closeZero k us := rfl

/-! ## Their frames -/

theorem Opened.modTb (k : Nat) {f : Timebase → Timebase} (m : Mach) (hf : ∀ t, (f t).course = t.course := by intro _; rfl) :
    Opened k m (m.modTb k f) := by
  refine Pulsed.modTb k m fun t => ?_
  unfold courseOf
  rw [if_pos rfl, if_pos rfl]
  exact hf t

theorem Opened.loadPer (k : Nat) (m : Mach) : Opened k m (m.loadPer k) := by
  unfold Mach.loadPer
  split
  · exact (Opened.modTb k m).trans' (.forList _ _ (fun o _ x => Pulsed.modOut o x) _)
  · exact .rfl' _ _ m

theorem Opened.ditherStep (k : Nat) (m : Mach) : Opened k m (m.ditherStep k) := by
  unfold Mach.ditherStep
  exact .ite (Opened.modTb k m) (Opened.modTb k m)

theorem Opened.loadPeriod (k : Nat) (all unheld : Bool) (m : Mach) : Opened k m (m.loadPeriod k all unheld) :=
  Moved.trans' (.ite (Opened.modTb k m) (.rfl' _ _ m)) (.ite (Opened.loadPer k _) (.rfl' _ _ _))

theorem Opened.startPeriod (k : Nat) (m : Mach) : Opened k m (m.startPeriod k) :=
  (Opened.ditherStep k m).trans' (Opened.modTb k _)

theorem Mach.startPeriod_zeroAt {k : Nat} (hk : k < 8) (m : Mach) : ((m.startPeriod k).tb k).zeroAt = m.now := by
  unfold Mach.startPeriod
  rw [Mach.tb_modTb_self _ _ _ hk]

theorem Swapped.swapPairs (k : Nat) (all : Bool) (m : Mach) : Swapped m (m.swapPairs k all) :=
  Moved.trans' (.forList _ _ (fun p _ x => Swapped.swapAtZero p all x) m) (.forList _ _ (fun p _ x => Pulsed.modPair p x) _)

theorem Leveled.closeZero (k : Nat) (us : List Nat) (m : Mach) : Leveled m (m.closeZero k us) := by
  have hjudge (l : List Nat) (x : Mach) : Leveled x (forList l (fun o m =>
      (m.modOut o fun u => { u with minpw := false, whole := true }).judgeClamp o) x) :=
    .forList _ _ (fun o _ y => Driven.leveled (Moved.trans' (Pulsed.modOut o y) (Driven.judgeClamp o _))) x
  have hdrive (l : List Nat) (x : Mach) : Leveled x (forList l (fun o m => (m.drivePair o).joinCmp o) x) :=
    .forList _ _ (fun o _ y => Driven.leveled ((Driven.drivePair o y).trans' (Driven.joinCmp o _))) x
  exact ((((hjudge _ m).trans' (.forList _ _ (fun o _ x => Leveled.setUnit o x) _)).trans' (Driven.deliver k 0 _).leveled).trans'
    (hdrive _ _)).trans' (.forList _ _ (fun o _ x => (Driven.actCut o x).leveled) _)

/-! ## What a zero leaves (R188, R191, R192, R196) -/

section
variable {k : Nat} (all unheld : Bool) (m : Mach)

/-- The machine of a zero before its units load. -/
def Mach.zeroOpened (k : Nat) (all unheld : Bool) (m : Mach) : Mach :=
  let m1 := forList (m.unitsOn k) Mach.endPeriod m
  (m1.loadPeriod k all (m1.unholds k all unheld)).startPeriod k

theorem Opened.zeroOpened : Opened k m (m.zeroOpened k all unheld) :=
  (Moved.trans' (.forList _ _ (fun o _ x => (Driven.endPeriod o x).opened k) m) (Opened.loadPeriod k all _ _)).trans'
    (Opened.startPeriod k _)

/-- The rest of a zero: its units load, then nothing of that moves. -/
theorem Mach.zeroCore_loads : ∃ u, (unheld = true → u = true) ∧
    Swapped (forList (m.unitsOn k) (fun o x => x.loadAt o all u true) (m.zeroOpened k all unheld)) (m.zeroCore k all unheld) := by
  refine ⟨(forList (m.unitsOn k) Mach.endPeriod m).unholds k all unheld, fun h => by simp [Mach.unholds, h], ?_⟩
  rw [Mach.zeroCore_eq]
  exact (Swapped.swapPairs k _ _).trans' (Leveled.closeZero k _ _).swapped

/-- From there no timebase moves. -/
theorem Mach.zeroCore_tb (j : Nat) : (m.zeroCore k all unheld).tb j = (m.zeroOpened k all unheld).tb j := by
  obtain ⟨u, -, h⟩ := Mach.zeroCore_loads (k := k) all unheld m
  have hload : Loading (m.zeroOpened k all unheld)
      (forList (m.unitsOn k) (fun o x => x.loadAt o all u true) (m.zeroOpened k all unheld)) :=
    .forList _ _ (fun o _ x => (LoadStep.loadAt all u true).frame o x) _
  exact (Pulsed.tb h j).trans (Pulsed.tb hload j)

theorem Paced.zeroCore : Paced m (m.zeroCore k all unheld) := by
  obtain ⟨u, -, h⟩ := Mach.zeroCore_loads (k := k) all unheld m
  have hload : Loading (m.zeroOpened k all unheld)
      (forList (m.unitsOn k) (fun o x => x.loadAt o all u true) (m.zeroOpened k all unheld)) :=
    .forList _ _ (fun o _ x => (LoadStep.loadAt all u true).frame o x) _
  exact ((Pulsed.paced (Opened.zeroOpened all unheld m)).trans' (Pulsed.paced hload)).trans' (Pulsed.paced h)

theorem Mach.zeroCore_tb_ne {j : Nat} (hj : j ≠ k) : (m.zeroCore k all unheld).tb j = m.tb j := by
  have h := Pulsed.tb (Opened.zeroOpened (k := k) all unheld m) j
  unfold courseOf at h
  rw [Mach.zeroCore_tb]
  rwa [if_neg hj, if_neg hj] at h

theorem Mach.zeroCore_course : ((m.zeroCore k all unheld).tb k).course = (m.tb k).course := by
  have h := Pulsed.tb (Opened.zeroOpened (k := k) all unheld m) k
  unfold courseOf at h
  rw [Mach.zeroCore_tb]
  rwa [if_pos rfl, if_pos rfl] at h

theorem Mach.zeroCore_zeroAt (hk : k < 8) : ((m.zeroCore k all unheld).tb k).zeroAt = m.now := by
  rw [Mach.zeroCore_tb]
  unfold Mach.zeroOpened
  rw [Mach.startPeriod_zeroAt hk, Pulsed.now (Opened.loadPeriod k all _ _)]
  exact Pulsed.now (.forList _ _ (fun o _ x => Driven.endPeriod o x) m : Driven m _)

/-- A unit whose load is due loads what it awaits, at the count the period starts with. -/
theorem Mach.zeroCore_hasLoaded {o : Nat} {p : Cmp × Cmp} (ho : o ∈ m.unitsOn k) (hp : (m.out o).pend = some p)
    (hd : m.loadDue o all unheld true = true) : ((m.zeroCore k all unheld).out o).hasLoaded p (m.tb k).pcnt := by
  obtain ⟨hunit, hsel⟩ := Mach.mem_unitsOn.mp ho
  obtain ⟨u, hu, h⟩ := Mach.zeroCore_loads (k := k) all unheld m
  have hopen := Opened.zeroOpened (k := k) all unheld m
  have hl : ((m.zeroOpened k all unheld).out o).loads = (m.out o).loads :=
    Pulsed.out (Pulsed.map hopen : Pulsed OutUnit.loads Pair.swap Timebase.unseen m _) o
  have hdue : (m.zeroOpened k all unheld).loadDue o all u true = true := by
    rw [Pulsed.loadDue hopen hl]
    unfold Mach.loadDue at hd ⊢
    cases hunheld : unheld with
    | true => rw [hu hunheld]; rfl
    | false =>
      rw [hunheld, Bool.false_or] at hd
      rw [hd, Bool.or_true]
  have hloaded := (LoadStep.loadAt all u true).pass_takes (Mach.mem_units_lt hunit)
    ((OutUnit.pend_of_loads hl).trans hp) hdue ho
  have hcount : ((m.zeroOpened k all unheld).tb k).pcnt = (m.tb k).pcnt := by
    have hc := Mach.zeroCore_course (k := k) all unheld m
    rw [Mach.zeroCore_tb] at hc
    exact (congrArg Timebase.pcnt hc : ((m.zeroOpened k all unheld).tb k).course.pcnt = (m.tb k).course.pcnt)
  rw [Pulsed.tbSel hopen, hsel, hcount] at hloaded
  exact OutUnit.hasLoaded_of_loads (Pulsed.out h o) hloaded

end

end Sys2Proof.Machine
end

section
set_option Elab.async false

namespace Sys2Proof.Machine
open Claim

/-! ## TB_ZERO of a timebase that runs (R188, R189) -/

theorem exec_tbZero (k : Tb) (s : State) : exec (.tbZero k) s = .next (s.ctl (Mach.tbZero k)) := rfl

/-- A step on the words of one timebase. -/
theorem Mach.modTb_frame (k : Nat) (f : Timebase → Timebase) (m : Mach) :
    Pulsed OutUnit.pulse Pair.swap Timebase.unseen m (m.modTb k f) := Pulsed.modTb k m fun _ => rfl

/-- A zero after a change `f` of timebase `k`: what the settled machine shows of that timebase, and of the others. -/
theorem zero_after {k : Nat} (hk : k < 8) (f : Timebase → Timebase) (all unheld : Bool) {g : Mach → Mach} {s : State}
    (hg : g s.m = (s.m.modTb k f).zeroCore k all unheld) :
    ((s.ctl g).m.tb k).course = (f (s.m.tb k)).course ∧ ((s.ctl g).m.tb k).zeroAt = s.m.now ∧
      (∀ o, o ∈ s.m.unitsOn k → s.m.loadDue o all unheld true = true → ∀ p, (s.m.out o).pend = some p →
        ((s.ctl g).m.out o).hasLoaded p (f (s.m.tb k)).pcnt) ∧
      (∀ j, j ≠ k → (s.ctl g).m.tb j = s.m.tb j) ∧ pwmOnly s (s.ctl g) s.m := by
  have hmod := Mach.modTb_frame k f s.m
  have hout (o : Nat) : (s.m.modTb k f).out o = s.m.out o := by
    unfold Mach.out
    rw [Mach.modTb_outs]
  have hpaced : Paced s.m (g s.m) := by
    rw [hg]
    exact (Pulsed.paced hmod).trans' (Paced.zeroCore all unheld _)
  refine ⟨?_, ?_, fun o ho hd p hp => ?_, fun j hj => ?_, Pulsed.pwmOnly hpaced⟩
  · rw [State.ctl_tb, hg, Mach.zeroCore_course, Mach.tb_modTb_self _ _ _ hk]
  · rw [State.ctl_tb, hg, Mach.zeroCore_zeroAt all unheld _ hk, Mach.modTb_now]
  · rw [← Pulsed.unitsOn hmod] at ho
    rw [← Pulsed.loadDue hmod (o := o) (by rw [hout])] at hd
    rw [← hout] at hp
    have h := Mach.zeroCore_hasLoaded all unheld _ ho hp hd
    rwa [Mach.tb_modTb_self _ _ _ hk, ← hg, ← State.ctl_out] at h
  · rw [State.ctl_tb, hg, Mach.zeroCore_tb_ne all unheld _ hj, Mach.tb_modTb_ne _ _ _ _ hj]

/-- The words of timebase `k` at its first zero. -/
def Timebase.started (k : Nat) (t : Timebase) : Timebase :=
  { t with running := true, stopping := false, stopNext := false, startReq := false, restarted := false, pcnt := 0,
           lfsr := BitVec.ofNat 16 (0xACE1 + k) }
/-- At a later zero. -/
def Timebase.advanced (t : Timebase) : Timebase := { t with pcnt := t.pcnt + 1, stopNext := false }

section
variable {k : Nat} {m : Mach} (hr : m.clk.refOk = true) (hh : (m.tb k).halt = none)
include hr hh

theorem Mach.tbZero_start (hs : (m.tb k).startReq = true) :
    m.tbZero k = (m.modTb k (Timebase.started k)).zeroCore k true false := by
  unfold Mach.tbZero
  simp only [hr, hh, hs]
  rfl

variable (hs : (m.tb k).startReq = false) (hrun : (m.tb k).running = true)
include hs hrun

theorem Mach.tbZero_next (hstop : (m.tb k).stopping = false ∨ (m.tb k).stopNext = true) :
    m.tbZero k = (m.modTb k Timebase.advanced).zeroCore k false false := by
  have hgo : ((m.tb k).stopping && !(m.tb k).stopNext) = false := by
    rcases hstop with h | h <;> simp [h]
  unfold Mach.tbZero
  simp only [hr, hh, hs, hrun, hgo]
  rfl

theorem Mach.tbZero_end (hstop : (m.tb k).stopping = true) (hnext : (m.tb k).stopNext = false) :
    m.tbZero k = m.stopTb k := by
  unfold Mach.tbZero
  simp only [hr, hh, hs, hrun, hstop, hnext]
  rfl

end

theorem tbZero_starts (k : Tb) (s : State) (hr : s.m.clk.refOk = true) (hh : (s.m.tb k).halt = none)
    (hs : (s.m.tb k).startReq = true) :
    ∃ t, exec (.tbZero k) s = .next t ∧ (t.m.tb k).running = true ∧ (t.m.tb k).pcnt = 0 ∧ (t.m.tb k).zeroAt = s.m.now ∧
      (∀ o, o ∈ s.m.unitsOn k → (s.m.out o).held = false → ∀ p, (s.m.out o).pend = some p →
        (t.m.out o).rise = p.1 ∧ (t.m.out o).fall = p.2 ∧ (t.m.out o).pend = none ∧ (t.m.out o).ldcnt = 0) ∧
      (∀ j, j ≠ k.val → t.m.tb j = s.m.tb j) ∧ pwmOnly s t s.m := by
  obtain ⟨hc, hz, hl, ho, hp⟩ := zero_after k.isLt _ _ _ (Mach.tbZero_start hr hh hs)
  refine ⟨_, exec_tbZero k s, congrArg Timebase.running hc, congrArg Timebase.pcnt hc, hz, fun o hin hheld p hpend => ?_, ho, hp⟩
  exact hl o hin (by simp [Mach.loadDue, hheld]) p hpend

theorem tbZero_counts (k : Tb) (s : State) (hr : s.m.clk.refOk = true) (hh : (s.m.tb k).halt = none)
    (hs : (s.m.tb k).startReq = false) (hrun : (s.m.tb k).running = true)
    (hstop : (s.m.tb k).stopping = false ∨ (s.m.tb k).stopNext = true) :
    ∃ t, exec (.tbZero k) s = .next t ∧ (t.m.tb k).running = true ∧ (t.m.tb k).pcnt = (s.m.tb k).pcnt + 1 ∧
      (t.m.tb k).zeroAt = s.m.now ∧
      (∀ o, o ∈ s.m.unitsOn k → loadsNow s.m o →
        ∀ p, (s.m.out o).pend = some p → (t.m.out o).rise = p.1 ∧ (t.m.out o).fall = p.2 ∧ (t.m.out o).pend = none ∧
          (t.m.out o).ldcnt = ((s.m.tb k).pcnt + 1).setWidth 16) ∧
      (∀ j, j ≠ k.val → t.m.tb j = s.m.tb j) ∧ pwmOnly s t s.m := by
  obtain ⟨hc, hz, hl, ho, hp⟩ := zero_after k.isLt _ _ _ (Mach.tbZero_next hr hh hs hrun hstop)
  refine ⟨_, exec_tbZero k s, (congrArg Timebase.running hc).trans hrun, congrArg Timebase.pcnt hc, hz,
    fun o hin hnow p hpend => ?_, ho, hp⟩
  obtain ⟨hheld, hdue⟩ := hnow
  exact hl o hin (by simp [Mach.loadDue, hheld, hdue]) p hpend

/-! ## The level of a unit (R199) -/

theorem Mach.setUnit_level {o : Nat} (m : Mach) (ho : o < 32) : ((m.setUnit o).out o).level = m.unitLevel o := by
  have hset (x : Mach) (h : (x.out o).level = m.unitLevel o) : ((x.edgeEvents o (m.unitLevel o)).out o).level = m.unitLevel o :=
    (congrArg OutUnit.level (Pulsed.out (Driven.edgeEvents o _ x) o) :
      ((x.edgeEvents o (m.unitLevel o)).out o).pulse.level = (x.out o).pulse.level).trans h
  have hout (j : Nat) (f : Pair → Pair) (x : Mach) : (x.modPair j f).out o = x.out o := by
    unfold Mach.out
    rw [Mach.modPair_outs]
  unfold Mach.setUnit
  dsimp only
  split
  · next h => exact h.symm
  · split
    · rw [hout]
      exact hset _ (by simp [ho])
    · exact hset _ (by simp [ho])

theorem Mach.setUnit_level_ne {o j : Nat} (m : Mach) (hj : j ≠ o) : ((m.setUnit o).out j).level = (m.out j).level := by
  have hset (x : Mach) (r : Bool) : ((x.edgeEvents o r).out j).level = (x.out j).level :=
    (congrArg OutUnit.level (Pulsed.out (Driven.edgeEvents o r x) j) :
      ((x.edgeEvents o r).out j).pulse.level = (x.out j).pulse.level)
  have hout (i : Nat) (f : Pair → Pair) (x : Mach) : (x.modPair i f).out j = x.out j := by
    unfold Mach.out
    rw [Mach.modPair_outs]
  unfold Mach.setUnit
  dsimp only
  split
  · rfl
  · split
    · rw [hout, hset, Mach.out_modOut_ne _ _ _ _ hj]
    · rw [hset, Mach.out_modOut_ne _ _ _ _ hj]

theorem Driven.level {m m' : Mach} (h : Driven m m') (o : Nat) : (m'.out o).level = (m.out o).level :=
  (congrArg OutUnit.level (Pulsed.out h o) : (m'.out o).pulse.level = (m.out o).pulse.level)

/-- A stopped timebase has its units off (R190). -/
theorem Mach.unitLevel_stopped {m : Mach} {o : Nat} (h : (m.tb (m.tbSel o).1).running = false) : m.unitLevel o = false := by
  unfold Mach.unitLevel
  simp [h]

/-- A pass that sets the units of `l` turns off those on a stopped timebase. -/
theorem Mach.setUnits_off {o k : Nat} (ho : o < 32) {l : List Nat} (hl : o ∈ l) (m : Mach) (hsel : (m.tbSel o).1 = k)
    (hrun : (m.tb k).running = false) : ((forList l Mach.setUnit m).out o).level = false := by
  have hall : Leveled m (forList l Mach.setUnit m) := .forList _ _ (fun a _ x => Leveled.setUnit a x) m
  refine forList_establishes (fun x => (x.tbSel o).1 = k → (x.tb k).running = false → (x.out o).level = false) Mach.setUnit
    (n := o) (fun x => ?_) (fun a x hx => ?_) hl m ?_ ?_
  · have h := Leveled.setUnit o x
    rw [Pulsed.tbSel h, show _ = x.tb k from Pulsed.tb h k, Mach.setUnit_level x ho]
    exact fun hs hr => Mach.unitLevel_stopped (hs ▸ hr)
  · have h := Leveled.setUnit a x
    rw [Pulsed.tbSel h, show _ = x.tb k from Pulsed.tb h k]
    by_cases ha : o = a
    · rw [← ha, Mach.setUnit_level x ho]
      exact fun hs hr => Mach.unitLevel_stopped (hs ▸ hr)
    · rw [Mach.setUnit_level_ne x ha]
      exact hx
  · rw [Pulsed.tbSel hall, hsel]
  · rw [show _ = m.tb k from Pulsed.tb hall k, hrun]

/-! ## The end of a timebase (R190) -/

/-- The words of a timebase that stops. -/
def Timebase.stopped (t : Timebase) : Timebase :=
  { t with running := false, stopping := false, stopNext := false, ulk := false, ulkEnd := false, ulkZeros := 0, ulkWait := 0 }

/-- What unit `o` awaits loads as its timebase stops. -/
def Mach.stopUnit (o : Nat) (m : Mach) : Mach :=
  ((((m.endPeriod o).loadCmp o).loadHeldSlot o).judgeClamp o).modOut o fun u => { u with whole := false }

/-- The machine in which the units of a stopped timebase are about to take their levels. -/
def Mach.stopLoaded (k : Nat) (m : Mach) : Mach :=
  let m := m.modTb k Timebase.stopped
  forList (m.unitsOn k) Mach.stopUnit (m.loadPer k)

/-- The swaps of its pairs take effect. -/
def Mach.stopSwaps (k : Nat) (m : Mach) : Mach :=
  forList ((List.range 16).filter fun p => (m.tbSel (2 * p)).1 == k) (fun p m => m.swapAtZero p true) m

theorem Mach.stopTb_eq (k : Nat) (m : Mach) : m.stopTb k =
    let us := (m.modTb k Timebase.stopped).unitsOn k
    forList us Mach.drivePair (forList us Mach.setUnit ((m.stopLoaded k).stopSwaps k)) := rfl

theorem LoadStep.stopUnit : LoadStep (fun o m => m.loadDue o true true true) Mach.stopUnit := by
  refine .of_due true true true fun o m => ⟨m.endPeriod o, Driven.endPeriod o m, ?_⟩
  exact ((Driven.loadHeldSlot o _).trans' (Driven.judgeClamp o _)).trans' (Pulsed.modOut o _)

section
variable (k : Nat) (m : Mach)

/-- The pass in which the units load is one on the machine in which the timebase has stopped. -/
theorem Mach.stopLoaded_frame : Pulsed OutUnit.pulse Pair.swap Timebase.unseen m ((m.modTb k Timebase.stopped).loadPer k) ∧
    Loading ((m.modTb k Timebase.stopped).loadPer k) (m.stopLoaded k) :=
  ⟨(Mach.modTb_frame k _ m).trans' (Pulsed.map (Opened.loadPer k _)), .forList _ _ (fun o _ x => LoadStep.stopUnit.frame o x) _⟩

theorem Mach.stopTb_units : (m.modTb k Timebase.stopped).unitsOn k = m.unitsOn k := Pulsed.unitsOn (Mach.modTb_frame k _ m) k

/-- A unit that stops awaits nothing. -/
theorem Mach.stopLoaded_pend {o : Nat} (ho : o ∈ m.unitsOn k) : ((m.stopLoaded k).out o).pend = none := by
  unfold Mach.stopLoaded
  dsimp only
  rw [Mach.stopTb_units]
  cases hp : (((m.modTb k Timebase.stopped).loadPer k).out o).pend with
  | none => exact (OutUnit.pend_of_loads (LoadStep.stopUnit.pass_idle (.inl hp) _)).trans hp
  | some p =>
    obtain ⟨-, -, h, -⟩ := LoadStep.stopUnit.pass_takes (Mach.mem_units_lt (Mach.mem_unitsOn.mp ho).1) hp rfl ho
    exact h

/-- The swaps of a stopped timebase take effect, and its units their levels. -/
theorem Mach.stopTb_after : ∃ x, Swapped (m.stopLoaded k) x ∧ Leveled x (forList (m.unitsOn k) Mach.setUnit x) ∧
    Driven (forList (m.unitsOn k) Mach.setUnit x) (m.stopTb k) := by
  refine ⟨(m.stopLoaded k).stopSwaps k, .forList _ _ (fun p _ x => Swapped.swapAtZero p true x) _,
    .forList _ _ (fun o _ x => Leveled.setUnit o x) _, ?_⟩
  rw [Mach.stopTb_eq, Mach.stopTb_units]
  exact .forList _ _ (fun o _ x => Driven.drivePair o x) _

theorem Paced.stopTb : Paced m (m.stopTb k) := by
  obtain ⟨hload, hpass⟩ := Mach.stopLoaded_frame k m
  obtain ⟨x, hswap, hlevel, hdrive⟩ := Mach.stopTb_after k m
  exact ((((Pulsed.paced hload).trans' (Pulsed.paced hpass)).trans' (Pulsed.paced hswap)).trans' (Pulsed.paced hlevel)).trans'
    (Pulsed.paced hdrive)

/-- After the period has loaded no timebase moves. -/
theorem Mach.stopTb_tb (j : Nat) : (m.stopTb k).tb j = ((m.modTb k Timebase.stopped).loadPer k).tb j := by
  obtain ⟨-, hpass⟩ := Mach.stopLoaded_frame k m
  obtain ⟨x, hswap, hlevel, hdrive⟩ := Mach.stopTb_after k m
  exact (((Pulsed.tb hdrive j).trans (Pulsed.tb hlevel j)).trans (Pulsed.tb hswap j)).trans (Pulsed.tb hpass j)

theorem Mach.stopTb_tb_ne {j : Nat} (hj : j ≠ k) : (m.stopTb k).tb j = m.tb j := by
  have h := Pulsed.tb (Opened.loadPer k (m.modTb k Timebase.stopped)) j
  unfold courseOf at h
  rw [if_neg hj, if_neg hj, Mach.tb_modTb_ne _ _ _ _ hj] at h
  rw [Mach.stopTb_tb, h]

theorem Mach.stopTb_course {k : Nat} (hk : k < 8) (m : Mach) : ((m.stopTb k).tb k).course = (m.tb k).stopped.course := by
  have h := Pulsed.tb (Opened.loadPer k (m.modTb k Timebase.stopped)) k
  unfold courseOf at h
  rw [if_pos rfl, if_pos rfl, Mach.tb_modTb_self _ _ _ hk] at h
  rw [Mach.stopTb_tb, h]

theorem Mach.stopTb_running {k : Nat} (hk : k < 8) (m : Mach) : ((m.stopTb k).tb k).running = false :=
  congrArg Timebase.running (Mach.stopTb_course hk m)

theorem Mach.stopTb_pend {o : Nat} (ho : o ∈ m.unitsOn k) : ((m.stopTb k).out o).pend = none := by
  obtain ⟨x, hswap, hlevel, hdrive⟩ := Mach.stopTb_after k m
  have hloads : ((m.stopTb k).out o).loads = ((m.stopLoaded k).out o).loads :=
    ((hdrive.loads o).trans (Pulsed.out hlevel o)).trans (Pulsed.out hswap o)
  exact (OutUnit.pend_of_loads hloads).trans (Mach.stopLoaded_pend k m ho)

theorem Mach.stopTb_level {k : Nat} (hk : k < 8) (m : Mach) {o : Nat} (ho : o ∈ m.unitsOn k)
    (hsel : ((m.stopTb k).tbSel o).1 = k) : ((m.stopTb k).out o).level = false := by
  obtain ⟨x, -, hlevel, hdrive⟩ := Mach.stopTb_after k m
  have hrun := Mach.stopTb_running hk m
  rw [Pulsed.tbSel hdrive, Pulsed.tbSel hlevel] at hsel
  rw [show _ = Mach.tb _ k from Pulsed.tb hdrive k, show _ = x.tb k from Pulsed.tb hlevel k] at hrun
  rw [hdrive.level]
  exact Mach.setUnits_off (Mach.mem_units_lt (Mach.mem_unitsOn.mp ho).1) ho x hsel hrun

end

/-- A command that stops timebase `k`. -/
theorem stops_after {k : Nat} (hk : k < 8) {g : Mach → Mach} {s : State} (hg : g s.m = s.m.stopTb k) :
    ((s.ctl g).m.tb k).running = false ∧
      (∀ o, o ∈ s.m.unitsOn k → ((s.ctl g).m.out o).pend = none ∧
        (((s.ctl g).m.tbSel o).1 = k → ((s.ctl g).m.out o).level = false)) ∧
      (∀ j, j ≠ k → (s.ctl g).m.tb j = s.m.tb j) ∧ pwmOnly s (s.ctl g) s.m := by
  have hpaced : Paced s.m (g s.m) := hg ▸ Paced.stopTb k s.m
  simp only [State.ctl_tb, State.ctl_out, State.ctl_tbSel, hg]
  exact ⟨Mach.stopTb_running hk s.m, fun o ho => ⟨Mach.stopTb_pend k s.m ho, Mach.stopTb_level hk s.m ho⟩,
    fun j hj => Mach.stopTb_tb_ne k s.m hj, Pulsed.pwmOnly hpaced⟩

theorem exec_tbStop (k : Tb) (s : State) : exec (.tbStop k) s = .next (s.ctl fun m =>
    if m.clk.refOk && (m.tb k).counting && (m.tb k).stopping && !(m.tb k).stopNext then m.stopTb k else m) := rfl

theorem timebaseZeros_holds : timebaseZeros := by
  refine ⟨tbZero_starts, tbZero_counts, fun k s hr hh hs hrun hstop hnext => ?_, fun k s hr hrun hh hstop hnext => ?_⟩
  · exact ⟨_, exec_tbZero k s, stops_after k.isLt (Mach.tbZero_end hr hh hs hrun hstop hnext)⟩
  · refine ⟨_, exec_tbStop k s, stops_after k.isLt (if_pos ?_)⟩
    simp [hr, hrun, hh, hstop, hnext, Timebase.counting]

/-! ## The common restart (R214) -/

/-- A timebase that stood and whose RUN was cleared stops. -/
def Mach.stopHalted (k : Nat) (m : Mach) : Mach := (m.modTb k fun t => { t with halt := none }).stopTb k

/-- The words of a timebase that restarts. -/
def Timebase.restart (k : Nat) (t : Timebase) : Timebase :=
  { t with halt := none, running := true, stopping := false, stopNext := false, startReq := false, restarted := true,
           pcnt := t.pcnt + 1, lfsr := BitVec.ofNat 16 (0xACE1 + k) }

/-- A timebase that stood restarts at the common zero. -/
def Mach.restartTb (k : Nat) (m : Mach) : Mach := (m.modTb k (Timebase.restart k)).zeroCore k true true

/-- The timebases that stand, by their RUN. -/
def Mach.standing (m : Mach) (run : Bool) : List Nat :=
  (List.range 8).filter fun k => (m.tbRun k == run) && (m.tb k).halt.isSome

/-- The course of the common restart. -/
def Mach.restartAll (m : Mach) : Mach :=
  let x := forList (m.standing true) Mach.restartTb (forList (m.standing false) Mach.stopHalted m)
  if (m.standing true).isEmpty then x else x.event 0x06 0x0800

theorem exec_tbRestart {s : State} (hr : s.m.clk.refOk = true) (hv : s.m.dl.valid = true) :
    exec .tbRestart s = .next (s.ctl Mach.restartAll) := by
  have hstand (run : Bool) : ((List.range 8).filter fun k => (if run then s.m.tbRun k else !s.m.tbRun k) && (s.m.tb k).halt.isSome) =
      s.m.standing run := by
    unfold Mach.standing
    cases run <;> simp
  refine congrArg Host.Outcome.next (State.ctl_congr ?_)
  simp only [hr, hv]
  unfold Mach.restartAll
  rw [← hstand true, ← hstand false]
  rfl

theorem Mach.mem_standing {m : Mach} {run : Bool} {k : Nat} :
    k ∈ m.standing run ↔ k < 8 ∧ m.tbRun k = run ∧ (m.tb k).halt.isSome = true := by
  simp [Mach.standing]

theorem Mach.standing_nodup (m : Mach) (run : Bool) : (m.standing run).Nodup := List.nodup_range.filter _

theorem Paced.stopHalted (k : Nat) (m : Mach) : Paced m (m.stopHalted k) :=
  (Pulsed.paced (Mach.modTb_frame k _ m)).trans' (Paced.stopTb k _)

theorem Paced.restartTb (k : Nat) (m : Mach) : Paced m (m.restartTb k) :=
  (Pulsed.paced (Mach.modTb_frame k _ m)).trans' (Paced.zeroCore true true _)

theorem Paced.restartAll (m : Mach) : Paced m m.restartAll := by
  have h : Paced m (forList (m.standing true) Mach.restartTb (forList (m.standing false) Mach.stopHalted m)) :=
    Moved.trans' (.forList _ _ (fun k _ x => Paced.stopHalted k x) m) (.forList _ _ (fun k _ x => Paced.restartTb k x) _)
  exact .ite h (h.trans' (Pulsed.event _ _ _))

theorem Mach.stopHalted_tb_ne {k j : Nat} (m : Mach) (hj : j ≠ k) : (m.stopHalted k).tb j = m.tb j := by
  unfold Mach.stopHalted
  rw [Mach.stopTb_tb_ne _ _ hj, Mach.tb_modTb_ne _ _ _ _ hj]

theorem Mach.restartTb_tb_ne {k j : Nat} (m : Mach) (hj : j ≠ k) : (m.restartTb k).tb j = m.tb j := by
  unfold Mach.restartTb
  rw [Mach.zeroCore_tb_ne _ _ _ hj, Mach.tb_modTb_ne _ _ _ _ hj]

/-- Timebase `k` stands no more, and does not run. -/
def Mach.idleTb (k : Nat) (m : Mach) : Prop := (m.tb k).running = false ∧ (m.tb k).halt = none

theorem Mach.stopHalted_idle {k : Nat} (hk : k < 8) (m : Mach) : (m.stopHalted k).idleTb k := by
  have hc := Mach.stopTb_course hk (m.modTb k fun t => { t with halt := none })
  rw [Mach.tb_modTb_self _ _ _ hk] at hc
  exact ⟨congrArg Timebase.running hc, congrArg Timebase.halt hc⟩

/-- What the restart leaves of timebase `k`: the passes before and after its own do not touch it. -/
theorem Mach.restartAll_tb (m : Mach) (k : Nat) : m.restartAll.tb k =
    (forList (m.standing true) Mach.restartTb (forList (m.standing false) Mach.stopHalted m)).tb k := by
  unfold Mach.restartAll
  dsimp only
  split
  · rfl
  · unfold Mach.tb
    rw [Mach.event_tbs]

section
variable {m : Mach} {k : Nat}

theorem Mach.stopPass_keeps (h : k ∉ m.standing false) : (forList (m.standing false) Mach.stopHalted m).tb k = m.tb k :=
  forList_keeps (fun x => x.tb k) _ _ (fun _ ha x => Mach.stopHalted_tb_ne x (ne_of_mem_of_not_mem ha h).symm) m

theorem Mach.restartPass_keeps (h : k ∉ m.standing true) (x : Mach) :
    (forList (m.standing true) Mach.restartTb x).tb k = x.tb k :=
  forList_keeps (fun x => x.tb k) _ _ (fun _ ha x => Mach.restartTb_tb_ne x (ne_of_mem_of_not_mem ha h).symm) x

/-- A timebase that does not stand is left as it is. -/
theorem Mach.restartAll_other (h : (m.tb k).halt = none) : m.restartAll.tb k = m.tb k := by
  have hn (run : Bool) : k ∉ m.standing run := fun hk => by simpa [h] using Mach.mem_standing.mp hk
  rw [Mach.restartAll_tb, Mach.restartPass_keeps (hn true), Mach.stopPass_keeps (hn false)]

/-- One whose RUN was cleared stops. -/
theorem Mach.restartAll_stops (h : k ∈ m.standing false) : m.restartAll.idleTb k := by
  obtain ⟨hk, hrun, -⟩ := Mach.mem_standing.mp h
  have hn : k ∉ m.standing true := fun ht => by simpa [hrun] using Mach.mem_standing.mp ht
  unfold Mach.idleTb
  rw [Mach.restartAll_tb, Mach.restartPass_keeps hn]
  refine forList_establishes (Mach.idleTb k) Mach.stopHalted (fun x => Mach.stopHalted_idle hk x) (fun a x hx => ?_) h m
  by_cases ha : k = a
  · exact ha ▸ Mach.stopHalted_idle hk x
  · unfold Mach.idleTb
    rwa [Mach.stopHalted_tb_ne x ha]

/-- One whose RUN is 1 starts a period at the common zero. -/
theorem Mach.restartAll_restarts (h : k ∈ m.standing true) :
    (m.restartAll.tb k).course = ((m.tb k).restart k).course ∧ (m.restartAll.tb k).zeroAt = m.now := by
  obtain ⟨hk, hrun, -⟩ := Mach.mem_standing.mp h
  have hn : k ∉ m.standing false := fun hf => by simpa [hrun] using Mach.mem_standing.mp hf
  have hstop := Mach.stopPass_keeps hn
  have hnow : (forList (m.standing false) Mach.stopHalted m).now = m.now :=
    Pulsed.now (.forList _ _ (fun j _ x => Paced.stopHalted j x) m : Paced m _)
  rw [Mach.restartAll_tb]
  generalize forList (m.standing false) Mach.stopHalted m = x at hstop hnow
  obtain ⟨y, ⟨hy, hynow⟩, hend, -⟩ := forList_own_step (R := fun a b : Mach => b.tb k = a.tb k ∧ b.now = a.now)
    (fun _ => ⟨rfl, rfl⟩) (fun _ _ _ h g => ⟨g.1.trans h.1, g.2.trans h.2⟩) Mach.restartTb (m.standing_nodup true) h
    (fun a _ ha z => ⟨Mach.restartTb_tb_ne z (Ne.symm ha), Pulsed.now (Paced.restartTb a z)⟩) x
  rw [hend]
  unfold Mach.restartTb
  rw [Mach.zeroCore_course, Mach.zeroCore_zeroAt _ _ _ hk, Mach.modTb_now, Mach.tb_modTb_self _ _ _ hk, hy, hstop, hynow, hnow]
  exact ⟨rfl, rfl⟩

theorem headerPage_tb (p : Part) : headerPage p 0x06 = true := by cases p <;> rfl

/-- A restart is reported. -/
theorem Mach.restartAll_latches (h : k ∈ m.standing true) : (m.restartAll.evtWord 0x06).getLsbD 11 = true := by
  have hne : (m.standing true).isEmpty = false := List.isEmpty_eq_false_iff_exists_mem.mpr ⟨k, h⟩
  unfold Mach.restartAll
  dsimp only
  rw [if_neg (by rw [hne]; decide)]
  exact Mach.event_latches (headerPage_tb _) (by decide)

end

theorem timebaseRestart_holds : timebaseRestart := by
  intro s hr hv
  refine ⟨_, exec_tbRestart hr hv, fun k hk hrun hh => ?_, fun k hk hrun hh => ?_, fun k _ hh => ?_,
    Pulsed.pwmOnly (Paced.restartAll s.m)⟩
  · have hin := Mach.mem_standing.mpr ⟨hk, hrun, hh⟩
    obtain ⟨hc, hz⟩ := Mach.restartAll_restarts hin
    rw [State.ctl_tb]
    exact ⟨congrArg Timebase.running hc, congrArg Timebase.halt hc, congrArg Timebase.pcnt hc, hz,
      congrArg Timebase.restarted hc, State.ctl_latches (Mach.restartAll_latches hin)⟩
  · rw [State.ctl_tb]
    exact Mach.restartAll_stops (Mach.mem_standing.mpr ⟨hk, hrun, hh⟩)
  · rw [State.ctl_tb, Mach.restartAll_other hh]

end Sys2Proof.Machine

open Sys2Proof.Machine

/-- Settles O34: a zero loads its units in one pass on the machine whose period has begun, and what follows moves no load and
no timebase; the restart meets each timebase as it stood. -/
theorem timebasesRun : Obligations.TimebasesRun := ⟨timebaseZeros_holds, timebaseRestart_holds⟩

end

section
set_option Elab.async false
/-! PROOF of O31: the delay line, the update lock's timeout, the clear of ASWP, and the rebalance. -/

namespace Sys2Proof.Machine
open Claim

/-- A command that changes the machine to `m`, apart from events, settles to it. -/
theorem settlesTo_of_calm {f : Mach → Mach} {s : State} {m : Mach} (h : (f s.m).calm = m.calm) (he : evtKept s.m (f s.m))
    (hc : (f s.m).chans = s.m.chans) : settlesTo s (s.ctl f) m := by
  obtain ⟨hcalm, hrest⟩ := State.ctl_settlesTo f s he (capsWithin_of_eq fun n => by rw [Mach.ch_of_chans hc])
  exact ⟨hcalm.trans h, hrest⟩

/-! ## Machines that differ in their outputs -/

def Mach.withOuts (v : Vector OutUnit 32) (m : Mach) : Mach := { m with outs := v }

theorem Mach.withOuts_modOut (v : Vector OutUnit 32) (o : Nat) (f : OutUnit → OutUnit) (m : Mach) :
    (m.modOut o f).withOuts v = m.withOuts v := by
  unfold Mach.modOut
  split <;> rfl

/-- A machine that differs from `m` in its outputs alone is `m` with them. -/
theorem Mach.eq_withOuts {m m' : Mach} (h : ∀ v, m'.withOuts v = m.withOuts v) : m' = m.withOuts m'.outs := by
  rw [← h]
  rfl

/-- A command that changes the outputs alone. -/
theorem settlesTo_withOuts {f : Mach → Mach} {s : State} (h : ∀ v, (f s.m).withOuts v = s.m.withOuts v) :
    settlesTo s (s.ctl f) { s.m with outs := (s.ctl f).m.outs } := by
  have hcalm := State.ctl_calm f s
  have hm := Mach.eq_withOuts h
  have hset := State.ctl_settlesTo f s
  generalize s.ctl f = t at hcalm hset ⊢
  generalize f s.m = m at hcalm hm hset
  rw [calm_outs hcalm]
  rw [hm] at hset
  obtain ⟨hc, hrest⟩ := hset (evtKept_of_evt rfl) (capsWithin_of_eq fun _ => rfl)
  exact ⟨hc, hrest⟩

/-! ## Measurements of the delay line (R203, R205 to R207) -/

/-- The unit with the element counts `g` of its fine values. -/
def OutUnit.withElems (g : Nat → Nat) (u : OutUnit) : OutUnit := { u with riseEl := g u.rise.fine, fallEl := g u.fall.fine }

theorem Mach.takeElems_eq (o : Nat) (m : Mach) : m.takeElems o = m.modOut o (OutUnit.withElems m.elemOf) := rfl

theorem Mach.elemOf_of_dl {m m' : Mach} (h : m'.dl = m.dl) (f : Nat) : m'.elemOf f = m.elemOf f := by
  unfold Mach.elemOf
  rw [h]

/-- In a pass every unit of the list takes its element counts. -/
theorem Mach.takeElems_pass (o : Nat) (l : List Nat) (hl : ∀ a ∈ l, a < 32) : ∀ m : Mach,
    (forList l Mach.takeElems m).out o = if o ∈ l then (m.out o).withElems m.elemOf else m.out o := by
  induction l with
  | nil => exact fun _ => rfl
  | cons a t ih =>
    intro m
    have helem : (m.takeElems a).elemOf = m.elemOf := funext (Mach.elemOf_of_dl (Mach.modOut_dl _ _ _))
    rw [forList_cons, ih (fun b hb => hl b (List.mem_cons_of_mem _ hb)), helem, Mach.takeElems_eq,
      Mach.out_modOut _ _ _ _ (hl a List.mem_cons_self)]
    by_cases ha : o = a <;> by_cases ht : o ∈ t <;> simp [ha, ht, OutUnit.withElems]

theorem Mach.withOuts_takeElems (l : List Nat) (v : Vector OutUnit 32) (m : Mach) :
    (forList l Mach.takeElems m).withOuts v = m.withOuts v :=
  forList_keeps (Mach.withOuts v) l _ (fun _ _ x => Mach.withOuts_modOut v _ _ x) m

/-- The delay line after a measurement that gave `e`. -/
def Mach.measuredDl (e : Nat) (m : Mach) : Dline :=
  { m.dl with valid := true, elem := e, lastAt := some m.now,
              slew := m.dl.lastAt.isSome && (decide (m.dl.elem + 32 < e) || decide (e + 32 < m.dl.elem)) }

/-- The machine with it, its units with the new element counts. -/
def Mach.measured (e : Nat) (m : Mach) : Mach :=
  forList m.units Mach.takeElems { m with dl := m.measuredDl e }

/-- A line that becomes valid, or that slews, is reported. -/
def Mach.noteLine (became slew : Bool) (m : Mach) : Mach :=
  let m := if became then m.event 0x06 0x0400 else m
  if slew then m.event 0x06 0x0200 else m

theorem Mach.noteLine_quiet (became slew : Bool) (m : Mach) :
    (m.noteLine became slew).quiet = m.quiet ∧ evtKept m (m.noteLine became slew) := by
  have h1 : evtKept m (if became then m.event 0x06 0x0400 else m) := by
    split
    · exact evtKept_event _ _ m
    · exact evtKept.rfl' m
  have h2 : evtKept m (m.noteLine became slew) := by
    unfold Mach.noteLine
    dsimp only
    split
    · exact h1.trans' (evtKept_event _ _ _)
    · exact h1
  refine ⟨?_, h2⟩
  unfold Mach.noteLine
  cases became <;> cases slew <;> simp

theorem Mach.noteLine_latches (became slew : Bool) (m : Mach) :
    (became = true → ((m.noteLine became slew).evtWord 0x06).getLsbD 10 = true) ∧
      (slew = true → ((m.noteLine became slew).evtWord 0x06).getLsbD 9 = true) := by
  have hfirst (x : Mach) : ((x.event 0x06 0x0400).evtWord 0x06).getLsbD 10 = true :=
    Mach.event_latches (headerPage_tb _) (by decide)
  have hlast (x : Mach) : ((x.event 0x06 0x0200).evtWord 0x06).getLsbD 9 = true :=
    Mach.event_latches (headerPage_tb _) (by decide)
  unfold Mach.noteLine
  refine ⟨fun h => ?_, fun h => ?_⟩
  · rw [h]
    dsimp only
    split
    · exact evtKept_event _ _ _ _ _ (hfirst m)
    · exact hfirst m
  · rw [h]
    exact hlast _

/-- The measurement takes place: REFCLK is present, no recalibration runs, and HOLD keeps no valid result (R206). -/
def Mach.measures (m : Mach) : Prop :=
  m.clk.refOk = true ∧ m.dl.busy = false ∧ (m.dl.valid = false ∨ bit (m.cfg 0x0608) 0 = false)

theorem exec_dlMeasure_holds {s : State} (e : BitVec 16) (h : s.m.clk.refOk = false ∨ s.m.dl.busy = true ∨
    s.m.dl.valid = true ∧ bit (s.m.cfg 0x0608) 0 = true) : ∃ t, exec (.dlMeasure e) s = .next t ∧ settlesTo s t s.m := by
  refine ⟨_, rfl, ctl_unchanged (if_pos ?_)⟩
  rcases h with h | h | ⟨h, h'⟩ <;> simp [*]

theorem exec_dlMeasure {s : State} (e : BitVec 16) (h : s.m.measures) : exec (.dlMeasure e) s = .next (s.ctl fun m =>
    (m.measured e.toNat).noteLine (!m.dl.valid) (m.measuredDl e.toNat).slew) := by
  obtain ⟨hr, hb, hv⟩ := h
  have hgo : ((!s.m.clk.refOk || s.m.dl.busy || (s.m.dl.valid && bit (s.m.cfg 0x0608) 0)) = true) = False := by
    rcases hv with hv | hv <;> simp [hr, hb, hv]
  refine congrArg Host.Outcome.next (State.ctl_congr ((if_neg hgo.mp).trans ?_))
  unfold Mach.noteLine
  cases hv : s.m.dl.valid <;> rfl

theorem dlMeasure_measures (e : BitVec 16) (s : State) (hm : s.m.measures) :
    ∃ t, exec (.dlMeasure e) s = .next t ∧ (s.m.dl.valid = false → t.latched 0x06 10) ∧
      (t.m.dl.slew = true → t.latched 0x06 9) ∧
      (∀ o, t.m.out o = if o ∈ s.m.units then (s.m.out o).withElems t.m.elemOf else s.m.out o) ∧
      (s.m.dl.map = false → ∀ f, t.m.elemOf f = divRound (f * e.toNat) 4096) ∧
      settlesTo s t { s.m with outs := t.m.outs, dl := s.m.measuredDl e.toNat } := by
  let x : Mach := { s.m with dl := s.m.measuredDl e.toNat }
  let f (m : Mach) : Mach := (m.measured e.toNat).noteLine (!m.dl.valid) (m.measuredDl e.toNat).slew
  have hx : s.m.measured e.toNat = x.withOuts (s.m.measured e.toNat).outs :=
    Mach.eq_withOuts fun v => Mach.withOuts_takeElems s.m.units v x
  obtain ⟨hquiet, hevt⟩ := Mach.noteLine_quiet (!s.m.dl.valid) (s.m.measuredDl e.toNat).slew (s.m.measured e.toNat)
  obtain ⟨hvalid, hslew⟩ := Mach.noteLine_latches (!s.m.dl.valid) (s.m.measuredDl e.toNat).slew (s.m.measured e.toNat)
  have hcalm : (f s.m).calm = (s.m.measured e.toNat).calm := Mach.calm_of_quiet hquiet
  have houts : (s.ctl f).m.outs = (s.m.measured e.toNat).outs := (calm_outs (State.ctl_calm f s)).trans (calm_outs hcalm)
  have hdl : (s.ctl f).m.dl = s.m.measuredDl e.toNat := by
    rw [calm_dl (State.ctl_calm f s), calm_dl hcalm, hx]
    rfl
  have helem : (s.ctl f).m.elemOf = x.elemOf := funext (Mach.elemOf_of_dl hdl)
  refine ⟨s.ctl f, exec_dlMeasure e hm, fun hv => State.ctl_latches (hvalid (by rw [hv]; rfl)), fun hs => ?_, fun o => ?_,
    fun hmap n => ?_, ?_⟩
  · rw [hdl] at hs
    exact State.ctl_latches (hslew hs)
  · rw [helem, show (s.ctl f).m.out o = (s.m.measured e.toNat).out o by unfold Mach.out; rw [houts]]
    exact Mach.takeElems_pass o s.m.units (fun _ => Mach.mem_units_lt) x
  · rw [helem]
    exact if_neg (by rw [show x.dl.map = s.m.dl.map from rfl, hmap]; decide)
  · refine settlesTo_of_calm (hcalm.trans ?_) ?_ ?_
    · rw [houts]
      exact congrArg Mach.calm hx
    · exact (evtKept_of_evt (by rw [hx]; rfl)).trans' hevt
    · have hchans : (f s.m).chans = (s.m.measured e.toNat).chans :=
        (congrArg Mach.chans hquiet : (f s.m).quiet.chans = (s.m.measured e.toNat).quiet.chans)
      rw [hchans, hx]
      rfl

/-! ## The update lock and ASWP (R213, R229) -/

theorem ulockTimeout_ends (k : Tb) (s : State) (hu : (s.m.tb k).ulk = true) (hc : (s.m.tb k).counting = true)
    (hp : (s.m.tb k).pendNow = false) (h0 : (s.m.cfg (tbBase k + 5)).toNat ≠ 0)
    (hz : (s.m.cfg (tbBase k + 5)).toNat ≤ (s.m.tb k).ulkZeros + 1) :
    ∃ t, exec (.ulockTimeout k) s = .next t ∧ t.latched 0x06 8 ∧
      settlesTo s t (s.m.modTb k fun b => { b with ulkEnd := true, pendNow := true }) := by
  have hex : exec (.ulockTimeout k) s =
      .next (s.ctl fun m => (m.modTb k fun b => { b with ulkEnd := true, pendNow := true }).event 0x06 0x0100) :=
    congrArg Host.Outcome.next (State.ctl_congr (if_pos (by simp [hu, hc, hp, h0, hz])))
  refine ⟨_, hex, State.ctl_latches (Mach.event_latches (headerPage_tb _) (by decide)), settlesTo_of_calm (by simp) ?_ (by simp)⟩
  exact (evtKept_of_evt (by simp)).trans' (evtKept_event _ _ _)

theorem Mach.modPair_congr {k : Nat} {f g : Pair → Pair} {m : Mach} (h : f (m.pair k) = g (m.pair k)) :
    m.modPair k f = m.modPair k g := by
  unfold Mach.modPair
  split
  · next hk =>
    have hp : m.pair k = m.pairs[k] := by simp [Mach.pair, hk]
    rw [hp] at h
    have hv : vmod m.pairs ⟨k, hk⟩ f = vmod m.pairs ⟨k, hk⟩ g := by
      unfold vmod
      exact congrArg (fun q => m.pairs.set k q hk) h
    rw [hv]
  · rfl

theorem Mach.modPair_id (k : Nat) (m : Mach) : (m.modPair k fun q => q) = m := by
  unfold Mach.modPair vmod
  split
  · rw [Fin.getElem_fin, Vector.set_getElem_self]
  · rfl

/-- A clear of ASWP is noted once (R229). -/
theorem Mach.cmdAswpClear_eq {k : Nat} {m : Mach} (h : (m.pair k).aswp = true) : m.cmdAswpClear k =
    m.modPair k fun q => { q with clrReq := true, aswpAt := if q.clrReq then q.aswpAt else m.now } := by
  unfold Mach.cmdAswpClear
  cases hc : (m.pair k).clrReq with
  | true =>
    rw [if_neg (by simp), Mach.modPair_congr (g := fun q => q) (by simp [← hc]), Mach.modPair_id]
  | false =>
    rw [if_pos (by simp [h])]
    exact Mach.modPair_congr (by simp [hc])

theorem aswpClear_notes (p : Fin 16) (s : State) (ho : 2 * p.val ∈ s.m.allOuts) (ha : (s.m.pair p).aswp = true) :
    ∃ t, exec (.aswpClear p) s = .next t ∧
      settlesTo s t (s.m.modPair p fun q =>
        { q with clrReq := true, aswpAt := if q.clrReq then q.aswpAt else s.m.now }) := by
  have hex : exec (.aswpClear p) s = .next (s.ctl (Mach.cmdAswpClear p)) :=
    congrArg Host.Outcome.next (State.ctl_congr (if_pos (List.contains_iff_mem.mpr ho)))
  refine ⟨_, hex, settlesTo_of_calm (by rw [Mach.cmdAswpClear_eq ha]) (evtKept_of_evt ?_) ?_⟩ <;>
    rw [Mach.cmdAswpClear_eq ha] <;> simp

/-! ## Placement of slots (R235 to R238) -/

theorem mem_ilvInsert {x y : IlvArc} {l : List IlvArc} (h : y ∈ ilvInsert x l) : y = x ∨ y ∈ l := by
  induction l with
  | nil => simpa [ilvInsert] using h
  | cons z t ih =>
    unfold ilvInsert at h
    split at h
    · simpa using h
    · rcases List.mem_cons.mp h with h | h
      · exact .inr (h ▸ List.mem_cons_self)
      · exact (ih h).imp_right (List.mem_cons_of_mem _)

theorem mem_ilvPlace {per : Nat} {p : Nat × Nat} {l : List IlvArc} : ∀ {placed : List IlvArc}, p ∈ ilvPlace per placed l →
    ∃ x ∈ l, p.1 = x.o := by
  induction l with
  | nil => exact fun h => nomatch h
  | cons x t ih =>
    intro placed h
    rcases List.mem_cons.mp h with h | h
    · exact ⟨x, List.mem_cons_self, congrArg Prod.fst h⟩
    · obtain ⟨y, hy, hp⟩ := ih h
      exact ⟨y, List.mem_cons_of_mem _ hy, hp⟩

theorem mem_foldl_ilvInsert {y : IlvArc} {l : List IlvArc} : ∀ {acc : List IlvArc},
    y ∈ l.foldl (fun l x => ilvInsert x l) acc → y ∈ acc ∨ y ∈ l := by
  induction l with
  | nil => exact fun h => .inl h
  | cons x t ih =>
    intro acc h
    rcases ih h with h | h
    · exact (mem_ilvInsert h).elim (fun h => .inr (h ▸ List.mem_cons_self)) .inl
    · exact .inr (List.mem_cons_of_mem _ h)

/-- Slots are placed on the units given alone. -/
theorem Mach.placeSlots_mem {m : Mach} {os : List Nat} {per : Nat} {weight : Nat → Rat} {shape : Nat → Shape} {p : Nat × Nat}
    (h : p ∈ m.placeSlots os per weight shape) : p.1 ∈ os := by
  obtain ⟨x, hx, hp⟩ := mem_ilvPlace h
  have hx : x ∈ m.ilvArcs os per weight shape := (mem_foldl_ilvInsert hx).resolve_left List.not_mem_nil
  simp only [Mach.ilvArcs, List.mem_map, List.mem_filter] at hx
  obtain ⟨o, ho, rfl⟩ := hx
  exact hp ▸ ho.1

/-- The unit with a slot placed at tick `now`. -/
def OutUnit.placed (slot now : Nat) (u : OutUnit) : OutUnit := { u with slotPend := some slot, slotAt := now, slotNow := false }

/-- Slots have been placed on units of counting timebases, and nothing else has changed. -/
structure SlotsPlaced (m m' : Mach) : Prop where
  rest : ∀ v, m'.withOuts v = m.withOuts v
  outs : ∀ o, m'.out o = m.out o ∨
    (m.tb (m.tbSel o).1).counting = true ∧ ∃ x, m'.out o = (m.out o).placed x m.now

theorem SlotsPlaced.rfl' (m : Mach) : SlotsPlaced m m := ⟨fun _ => rfl, fun _ => .inl rfl⟩

theorem SlotsPlaced.field {m m' : Mach} {β : Type} (h : SlotsPlaced m m') (g : Mach → β) :
    g (m'.withOuts m.outs) = g (m.withOuts m.outs) := congrArg g (h.rest _)

theorem SlotsPlaced.counting {m m' : Mach} (h : SlotsPlaced m m') (o : Nat) :
    (m'.tb (m'.tbSel o).1).counting = (m.tb (m.tbSel o).1).counting := h.field fun x => (x.tb (x.tbSel o).1).counting

theorem SlotsPlaced.now {m m' : Mach} (h : SlotsPlaced m m') : m'.now = m.now := h.field Mach.now

theorem SlotsPlaced.trans' {a b c : Mach} (h : SlotsPlaced a b) (k : SlotsPlaced b c) : SlotsPlaced a c := by
  refine ⟨fun v => (k.rest v).trans (h.rest v), fun o => ?_⟩
  rcases k.outs o with hk | ⟨hcount, x, hk⟩
  · rw [hk]
    exact h.outs o
  · rw [h.counting] at hcount
    rw [h.now] at hk
    refine .inr ⟨hcount, x, ?_⟩
    rcases h.outs o with ho | ⟨-, y, ho⟩
    · rw [hk, ho]
    · rw [hk, ho]
      rfl

theorem SlotsPlaced.modOut {m : Mach} {o slot : Nat} (h : (m.tb (m.tbSel o).1).counting = true) :
    SlotsPlaced m (m.modOut o (OutUnit.placed slot m.now)) := by
  refine ⟨fun v => Mach.withOuts_modOut v _ _ m, fun j => ?_⟩
  by_cases ho : o < 32
  · rw [Mach.out_modOut _ _ _ _ ho]
    split
    · next hj => exact .inr ⟨hj ▸ h, slot, rfl⟩
    · exact .inl rfl
  · rw [show m.modOut o (OutUnit.placed slot m.now) = m from dif_neg ho]
    exact .inl rfl

theorem SlotsPlaced.rebalance {k : Nat} {m : Mach} (hk : (m.tb k).counting = true) : SlotsPlaced m (m.rebalance k) := by
  have hpass (l : List (Nat × Nat)) (hl : ∀ p ∈ l, p.1 ∈ m.unitsOn k) : SlotsPlaced m
      (forList l (fun p m => m.modOut p.1 fun u => { u with slotPend := some p.2, slotAt := m.now, slotNow := false }) m) := by
    refine forList_inv (SlotsPlaced m) l _ (fun p hp x hx => hx.trans' (SlotsPlaced.modOut ?_)) m (.rfl' m)
    rw [hx.counting, (Mach.mem_unitsOn.mp (hl p hp)).2, hk]
  unfold Mach.rebalance
  dsimp only
  split
  · exact hpass _ fun _ => Mach.placeSlots_mem
  · exact .rfl' m

/-- The rebalance of every timebase that counts. -/
def Mach.rebalanceAll (m : Mach) : Mach :=
  forList (List.range 8) (fun k m => if (m.tb k).counting then m.rebalance k else m) m

theorem SlotsPlaced.rebalanceAll (m : Mach) : SlotsPlaced m m.rebalanceAll := by
  refine forList_rel SlotsPlaced _ _ SlotsPlaced.rfl' (fun _ _ _ => SlotsPlaced.trans') (fun k _ x => ?_) m
  split
  · next hk => exact .rebalance hk
  · exact .rfl' x

theorem ilvRebalance_places (s : State) (hr : s.m.clk.refOk = true) (hf : s.m.dev.frz = false) :
    ∃ t, exec .ilvRebalance s = .next t ∧
      (∀ o, { t.m.out o with slotPend := none, slotAt := 0, slotNow := false } =
        { s.m.out o with slotPend := none, slotAt := 0, slotNow := false }) ∧
      (∀ o, (s.m.tb (s.m.tbSel o).1).counting = false → t.m.out o = s.m.out o) ∧
      (∀ o, t.m.out o ≠ s.m.out o → (t.m.out o).slotAt = s.m.now ∧ (t.m.out o).slotNow = false) ∧
      settlesTo s t { s.m with outs := t.m.outs } := by
  have hex : exec .ilvRebalance s = .next (s.ctl Mach.rebalanceAll) :=
    congrArg Host.Outcome.next (State.ctl_congr (if_neg (by simp [hr, hf])))
  have hplaced := SlotsPlaced.rebalanceAll s.m
  refine ⟨_, hex, fun o => ?_, fun o hc => ?_, fun o hne => ?_, settlesTo_withOuts hplaced.rest⟩
  · rw [State.ctl_out]
    rcases hplaced.outs o with h | ⟨-, x, h⟩ <;> rw [h]
    rfl
  · rw [State.ctl_out]
    exact (hplaced.outs o).resolve_right fun ⟨h, _⟩ => by simp [hc] at h
  · rw [State.ctl_out] at hne ⊢
    obtain ⟨-, x, h⟩ := (hplaced.outs o).resolve_left hne
    rw [h]
    exact ⟨rfl, rfl⟩

end Sys2Proof.Machine

open Sys2Proof.Machine

/-- Settles O31: a measurement and a rebalance change outputs and the line alone, one unit at a time; the update lock and ASWP
are one word each. -/
theorem timebaseServices : Obligations.TimebaseServices :=
  ⟨fun e s hr hb hv => dlMeasure_measures e s ⟨hr, hb, hv⟩, fun e _ => exec_dlMeasure_holds e, ulockTimeout_ends,
    aswpClear_notes, ilvRebalance_places⟩

end

section
set_option Elab.async false
/-! PROOF of O30: the half-period point, the last count of a period, and a compare. -/

namespace Sys2Proof.Machine
open Claim

/-! ## Reading more through the frame -/

section
variable {c : OutUnit → OutUnit} {e : Pair → Pair} {b : Nat → Timebase → Timebase} {m m' : Mach}

theorem Pulsed.pwr (h : Pulsed c e b m m') : m'.pwr = m.pwr :=
  (congrArg Mach.pwr h.besideOutputs : (Claim.besideOutputs m').pwr = (Claim.besideOutputs m).pwr)
theorem Pulsed.thm (h : Pulsed c e b m m') : m'.thm = m.thm :=
  (congrArg Mach.thm h.besideOutputs : (Claim.besideOutputs m').thm = (Claim.besideOutputs m).thm)
theorem Pulsed.governed (h : Pulsed c e b m m') : m'.dev.governed = m.dev.governed :=
  (congrArg (fun x => x.dev.governed) h.besideOutputs :
    (Claim.besideOutputs m').dev.governed = (Claim.besideOutputs m).dev.governed)
theorem Pulsed.members (h : Pulsed c e b m m') (n : Nat) : m'.members n = m.members n := Mach.members_of h.otp h.part n

theorem Pulsed.inverts (h : Pulsed c e b m m') (k : Nat) : m'.inverts k = m.inverts k := by
  unfold Mach.inverts Mach.pairWord
  rw [h.cfg]

/-- A frame that shows timebases as they are keeps them. -/
theorem Pulsed.tbs (h : Pulsed c e (fun _ t => t) m m') : m'.tbs = m.tbs := by
  have hshow (x : Mach) : (x.pwmView c e fun _ t => t).tbs = x.tbs := Vector.ext fun i hi => by
    simp [Mach.pwmView, Mach.withPwm, vmap]
  rw [← hshow, h.view, hshow]

end

/-! ## The half-period point (R196) -/

/-- The step of the half-period point on one unit. -/
def Mach.halfLoad (o : Nat) (m : Mach) : Mach :=
  if (m.out o).pend.isSome then (m.loadAt o false false false).judgeClamp o else m

/-- The step of the half-period point on a timebase. -/
def Mach.halfPeriod (k : Nat) (m : Mach) : Mach :=
  forList (m.unitsOn k) Mach.drivePair (forList (m.unitsOn k) Mach.setUnit (forList (m.unitsOn k) Mach.halfLoad m))

theorem exec_tbHalfPeriod {k : Tb} {s : State} (hr : s.m.clk.refOk = true) (hc : (s.m.tb k).counting = true) :
    exec (.tbHalfPeriod k) s = .next (s.ctl (Mach.halfPeriod k)) :=
  congrArg Host.Outcome.next (State.ctl_congr (if_pos (by simp [hr, hc])))

theorem LoadStep.halfLoad : LoadStep (fun o m => m.loadDue o false false false) Mach.halfLoad := by
  refine .of_due false false false fun o m => ⟨m, .rfl' _ _ m, ?_⟩
  unfold Mach.halfLoad
  cases hp : (m.out o).pend with
  | none =>
    rw [Mach.loadCmp_none hp, ite_self]
    exact .rfl' _ _ m
  | some p => exact Driven.judgeClamp o _

/-- After the loads, levels and terminals alone move. -/
theorem Mach.halfPeriod_loads (k : Nat) (m : Mach) : Leveled (forList (m.unitsOn k) Mach.halfLoad m) (m.halfPeriod k) :=
  Moved.trans' (.forList _ _ (fun o _ x => Leveled.setUnit o x) _) (.forList _ _ (fun o _ x => (Driven.drivePair o x).leveled) _)

theorem Loading.halfPeriod (k : Nat) (m : Mach) : Loading m (m.halfPeriod k) :=
  Moved.trans' (.forList _ _ (fun o _ x => LoadStep.halfLoad.frame o x) m) (Mach.halfPeriod_loads k m).loading

theorem tbHalfPeriod_loads (k : Tb) (s : State) (hr : s.m.clk.refOk = true) (hc : (s.m.tb k).counting = true) :
    ∃ t, exec (.tbHalfPeriod k) s = .next t ∧
      (∀ o, o ∈ s.m.unitsOn k → (s.m.tbSel o).2 = 1 → loadsNow s.m o →
        ∀ p, (s.m.out o).pend = some p → (t.m.out o).rise = p.1 ∧ (t.m.out o).fall = p.2 ∧ (t.m.out o).pend = none) ∧
      (∀ o, o ∈ s.m.unitsOn k → (s.m.tbSel o).2 ≠ 1 →
        (t.m.out o).rise = (s.m.out o).rise ∧ (t.m.out o).fall = (s.m.out o).fall ∧
          (t.m.out o).pend = (s.m.out o).pend) ∧
      t.m.tbs = s.m.tbs ∧ pwmOnly s t s.m := by
  have hafter := Mach.halfPeriod_loads k s.m
  have hframe := Loading.halfPeriod k s.m
  refine ⟨_, exec_tbHalfPeriod hr hc, fun o ho hmid hnow p hp => ?_, fun o _ hmid => ?_, ?_, Pulsed.pwmOnly hframe⟩
  · obtain ⟨hheld, hsampled⟩ := hnow
    have hdue : s.m.loadDue o false false false = true := by simp [Mach.loadDue, hheld, hmid, hsampled]
    have hloaded := LoadStep.halfLoad.pass_takes (Mach.mem_units_lt (Mach.mem_unitsOn.mp ho).1) hp hdue ho
    obtain ⟨hrise, hfall, hpend, -⟩ := OutUnit.hasLoaded_of_loads (Pulsed.out hafter o) hloaded
    rw [State.ctl_out]
    exact ⟨hrise, hfall, hpend⟩
  · have hidle : s.m.loadDue o false false false = false := by simp [Mach.loadDue, hmid]
    have hsame := (Pulsed.out hafter o).trans (LoadStep.halfLoad.pass_idle (.inr hidle) (s.m.unitsOn k))
    rw [State.ctl_out]
    exact ⟨(congrArg OutUnit.rise hsame : ((s.m.halfPeriod k).out o).loads.rise = (s.m.out o).loads.rise),
      (congrArg OutUnit.fall hsame : ((s.m.halfPeriod k).out o).loads.fall = (s.m.out o).loads.fall),
      OutUnit.pend_of_loads hsame⟩
  · exact (State.ctl_tbs _ s).trans (Pulsed.tbs hframe)

/-! ## The last count of a period (R208) -/

theorem exec_tbPeriodEvent {k : Tb} {s : State} (hr : s.m.clk.refOk = true) (hc : (s.m.tb k).counting = true) :
    exec (.tbPeriodEvent k) s = .next (s.ctl (Mach.deliver k 1)) :=
  congrArg Host.Outcome.next (State.ctl_congr (if_pos (by simp [hr, hc])))

/-- A delivery reaches events alone. -/
theorem Mach.deliver_quiet (k type : Nat) (m : Mach) : (m.deliver k type).quiet = m.quiet := by
  unfold Mach.deliver
  dsimp only
  split
  · exact Mach.quiet_eventOwn _ _ _ m
  · rfl

theorem Mach.deliver_latches {k : Tb} {type : Nat} {m : Mach} (hen : bit (m.cfg (tbBase k + 3)) (8 + type) = true)
    (hdiv : (m.tb k).pcnt.toNat % (fld (m.cfg (tbBase k + 3)) 0 8 + 1) = 0) :
    ((m.deliver k type).evtWord 0x06).getLsbD k = true := by
  have hbit : ∀ j : Fin 8, (wd (2 ^ j.val)).getLsbD j = true := by decide
  unfold Mach.deliver
  dsimp only
  rw [if_pos (by simp [hen, hdiv])]
  exact Mach.eventOwn_latches _ _ m (hbit k)

theorem tbPeriodEvent_delivers (k : Tb) (s : State) (hr : s.m.clk.refOk = true) (hc : (s.m.tb k).counting = true) :
    ∃ t, exec (.tbPeriodEvent k) s = .next t ∧
      (bit (s.m.cfg (tbBase k + 3)) 9 = true →
        (s.m.tb k).pcnt.toNat % (fld (s.m.cfg (tbBase k + 3)) 0 8 + 1) = 0 → t.latched 0x06 k) ∧
      settlesTo s t s.m := by
  have hquiet := Mach.deliver_quiet k 1 s.m
  refine ⟨_, exec_tbPeriodEvent hr hc, fun hen hdiv => State.ctl_latches (Mach.deliver_latches hen hdiv),
    settlesTo_of_calm (Mach.calm_of_quiet hquiet) (Driven.deliver k 1 s.m).evt ?_⟩
  exact (congrArg Mach.chans hquiet : (s.m.deliver k 1).quiet.chans = s.m.quiet.chans)

/-! ## The gates of a channel that follows its unit (R197, R199) -/

theorem Mach.gateOff1_off (kind : TurnOff) {k : Nat} (hk : k < 24) (m : Mach) :
    ((m.gateOff1 kind k).ch k).stage.gateOn = false := by
  unfold Mach.gateOff1
  dsimp only
  split
  · rw [Mach.ch_of_chans (Mach.modOut_chans _ _ _), Mach.ch_modCh_self _ _ _ hk]
  · next h =>
    split
    · rw [Mach.ch_modCh_self _ _ _ hk]
      simpa using h
    · simpa using h

theorem Mach.gateOff1_keepsOff (kind : TurnOff) {k n : Nat} (m : Mach) (h : (m.ch n).stage.gateOn = false) :
    ((m.gateOff1 kind k).ch n).stage.gateOn = false := by
  by_cases hn : n = k
  · by_cases hk : k < 24
    · exact hn ▸ Mach.gateOff1_off kind hk m
    · simp [Mach.ch, hn, hk]
      rfl
  · have hsw := Switched.gateOff1 kind m (List.mem_singleton_self k)
    rwa [hsw.apart (g := Chan.stage) (by simpa using hn)]

theorem Mach.gateOff_off (kind : TurnOff) {l k : Nat} {m : Mach} (hk : k ∈ m.members l) (hk24 : k < 24) :
    ((m.gateOff kind l).ch k).stage.gateOn = false :=
  forList_establishes (fun x => (x.ch k).stage.gateOn = false) _ (Mach.gateOff1_off kind hk24)
    (fun _ x => Mach.gateOff1_keepsOff kind x) hk m

/-- Turning gates off leaves what an output is driven to. -/
theorem Mach.gateOff_aim (kind : TurnOff) (l o : Nat) (m : Mach) : ((m.gateOff kind l).out o).aim = (m.out o).aim := by
  have hch (k : Nat) (f : Chan → Chan) (x : Mach) : (x.modCh k f).out o = x.out o := by
    unfold Mach.out
    rw [Mach.modCh_outs]
  refine forList_keeps (fun x => (x.out o).aim) _ _ (fun k _ x => ?_) m
  unfold Mach.gateOff1
  dsimp only
  split
  · exact (Mach.aim_modOut k o _ _).trans (congrArg OutUnit.aim (hch k _ x))
  · split
    · rw [hch]
    · rfl

/-- The gate of channel `k` is commanded `b`, where VCP is up and no analog comparator holds its bank. -/
def Mach.gated (b : Bool) (k : Nat) (m : Mach) : Prop :=
  m.pwr.vcpOk = true → (m.bank (k / 4)).analog = false → (m.ch k).stage.gateOn = b

theorem Pulsed.gated {c : OutUnit → OutUnit} {e : Pair → Pair} {b : Nat → Timebase → Timebase} {m m' : Mach}
    (h : Pulsed c e b m m') {v : Bool} {k : Nat} (hs : (m'.ch k).stage = (m.ch k).stage) : m'.gated v k ↔ m.gated v k := by
  unfold Mach.gated Mach.bank
  rw [h.pwr, h.thm, hs]

/-- An output that is not among the switched channels is as it was. -/
theorem Switched.out {ks js : List Nat} {m m' : Mach} {o : Nat} (h : Switched ks js m m') (ho : o ∉ ks) : m'.out o = m.out o := by
  have hread (x : Mach) : (x.beside ks).out o = x.out o := by
    by_cases h32 : o < 32
    · simp [Mach.out, Mach.beside, vmap, h32, ho]
    · simp [Mach.out, h32]
  rw [← hread, h.view, hread]

/-- The level a terminal is to be driven to is noted (R198). -/
def Mach.noteDrive (x : Nat) (m : Mach) : Mach :=
  m.modOut x fun u => { u with drive := m.stageLevel x, joined := u.joined || m.stageLevel x != (m.out x).drive }

/-- What driving a channel's terminal does once the level is noted: its group's gates follow where it leads and has joined. -/
theorem Mach.driveOut_eq {x : Nat} (hx : x < 24) (m : Mach) : m.driveOut x =
    let y := m.noteDrive x
    if y.leader x = x && y.followsPwm x && (y.out x).joined && !(y.out x).cut then
      if m.stageLevel x then y.gateOn x else y.gateOff .programmed x
    else y := if_pos hx

theorem Driven.noteDrive (x : Nat) (m : Mach) : Driven m (m.noteDrive x) := Pulsed.modOut x m

theorem Mach.noteDrive_chans (x : Nat) (m : Mach) : (m.noteDrive x).chans = m.chans := Mach.modOut_chans x _ m

/-- The rest of it switches its group at most. -/
theorem Switched.driveNoted {x : Nat} (hx : x < 24) (m : Mach) : Switched (m.members x) [] (m.noteDrive x) (m.driveOut x) := by
  have hsub (k : Nat) (hk : k ∈ (m.noteDrive x).members x) : k ∈ m.members x := Pulsed.members (Driven.noteDrive x m) x ▸ hk
  rw [Mach.driveOut_eq hx]
  exact .ite (.ite (Switched.gateOn _ hsub) (Switched.gateOff _ _ hsub)) (.rfl' _ _ _)

/-- Driving another terminal leaves a leader's output and its group's gates. -/
theorem Mach.driveOut_other {o x : Nat} {m : Mach} (hl : m.leader o = o) (hx : x < 24) (hne : x ≠ o) :
    (m.driveOut x).out o = m.out o ∧ ∀ j ∈ m.members o, ((m.driveOut x).ch j).stage = (m.ch j).stage := by
  by_cases hlx : m.leader x = x
  · have hsw := Switched.driveNoted hx m
    have hapart (j : Nat) (hj : j ∈ m.members o) : j ∉ m.members x := fun hjx => hne <| by
      rw [← hlx, ← hl, ← Mach.leader_of_mem hj, ← Mach.leader_of_mem hjx]
    refine ⟨(Switched.out hsw (hapart o (m.self_mem o))).trans (Mach.out_modOut_ne _ _ _ _ hne.symm), fun j hj => ?_⟩
    rw [hsw.apart (g := Chan.stage) (hapart j hj), Mach.ch_of_chans (Mach.noteDrive_chans x m)]
  · have hlead := Pulsed.leader (Driven.noteDrive x m) x
    rw [Mach.driveOut_eq hx]
    dsimp only
    rw [if_neg (by simp [hlead, hlx])]
    exact ⟨Mach.out_modOut_ne _ _ _ _ hne.symm, fun j _ => by rw [Mach.ch_of_chans (Mach.noteDrive_chans x m)]⟩

/-- Whether a channel follows its unit stands with its leader's state and hold. -/
theorem Pulsed.followsPwm {c : OutUnit → OutUnit} {e : Pair → Pair} {b : Nat → Timebase → Timebase} {m m' : Mach}
    (h : Pulsed c e b m m') {o : Nat} (ho : o < 24) (hst : (m'.ch (m.leader o)).st = (m.ch (m.leader o)).st)
    (hh : (m'.ch (m.leader o)).thm.stopHold = (m.ch (m.leader o)).thm.stopHold) : m'.followsPwm o = m.followsPwm o := by
  unfold Mach.followsPwm Mach.st
  simp only [ho, if_true, h.leader, hst, hh, h.governed]

theorem Mach.noteDrive_followsPwm {o : Nat} (ho : o < 24) (x : Nat) (m : Mach) :
    (m.noteDrive x).followsPwm o = m.followsPwm o := by
  refine Pulsed.followsPwm (Driven.noteDrive x m) ho ?_ ?_ <;> rw [Mach.ch_of_chans (Mach.noteDrive_chans x m)]

theorem Mach.driveOut_followsPwm {o x : Nat} (ho : o < 24) (hx : x < 24) (m : Mach) :
    (m.driveOut x).followsPwm o = m.followsPwm o := by
  have hsw := Switched.driveNoted hx m
  refine Pulsed.followsPwm (Driven.driveOut x m) ho ((hsw.st _ List.not_mem_nil).trans ?_)
    (((Switched.rules hsw).stopHold _).trans ?_) <;> rw [Mach.ch_of_chans (Mach.noteDrive_chans x m)]

/-! ## A terminal that follows its own unit -/

/-- Channel `o` leads its group and follows its own unit, which stands at `b`; it has joined, or joins with this level. -/
structure Mach.Follows (o : Nat) (b : Bool) (m : Mach) : Prop where
  leads   : m.leader o = o
  follows : m.followsPwm o = true
  plain   : m.inverts (o / 2) = false
  own     : (m.pair (o / 2)).eff = false
  level   : (m.out o).level = b
  uncut   : (m.out o).cut = false
  joins   : (m.out o).joined = true ∨ (m.out o).drive ≠ b

/-- It has joined, and its group's gates are commanded `b`. -/
structure Mach.Commanded (o : Nat) (b : Bool) (m : Mach) : Prop where
  joined : (m.out o).joined = true
  gates  : ∀ j ∈ m.members o, m.gated b j

section
variable {o : Nat} {b : Bool} {m : Mach} (h : m.Follows o b)
include h

theorem Mach.Follows.stageLevel : m.stageLevel o = b := by
  unfold Mach.stageLevel
  simp [h.plain, h.own, h.level]

theorem Mach.Follows.srcUnit {x : Nat} (hx : x / 2 = o / 2) : m.srcUnit x = x := by
  unfold Mach.srcUnit
  simp [hx, h.plain, h.own]

/-- Its unit's compare moves no terminal that joins at the compare, once it has joined. -/
theorem Mach.Follows.joinCmp (hj : (m.out o).joined = true) : m.joinCmp o = m := by
  unfold Mach.joinCmp
  split
  · refine forList_inv (· = m) _ _ (fun x hx y hy => ?_) m rfl
    subst hy
    obtain ⟨hpair, hsrc⟩ := List.mem_filter.mp hx
    have hx2 : x / 2 = o / 2 := by
      simp only [List.mem_cons, List.not_mem_nil, or_false] at hpair
      omega
    have hxo : x = o := by
      rw [h.srcUnit hx2] at hsrc
      simpa using (Bool.and_eq_true_iff.mp hsrc).2
    subst hxo
    simp [hj]
  · rfl

variable (ho : o < 24)
include ho

/-- The terminal joins, its group's gates following. -/
theorem Mach.Follows.commanded : (m.driveOut o).Commanded o b ∧ ((m.driveOut o).out o).cut = false := by
  have hx := Driven.noteDrive o m
  have hfollows := (Mach.noteDrive_followsPwm ho o m).trans h.follows
  have hlead := (Pulsed.leader hx o).trans h.leads
  have haim : ((m.noteDrive o).out o).aim = (true, b, false) := by
    have hj : ((m.out o).joined || b != (m.out o).drive) = true := by
      rcases h.joins with hj | hd
      · rw [hj, Bool.true_or]
      · rw [bne_iff_ne.mpr (Ne.symm hd), Bool.or_true]
    unfold Mach.noteDrive
    rw [Mach.out_modOut_self _ _ _ (by omega), h.stageLevel]
    simp only [OutUnit.aim, hj, h.uncut]
  have hjoined : ((m.noteDrive o).out o).joined = true := congrArg Prod.fst haim
  have hcut : ((m.noteDrive o).out o).cut = false := congrArg (fun u => u.2.2) haim
  have heq : m.driveOut o = if b then (m.noteDrive o).gateOn o else (m.noteDrive o).gateOff .programmed o := by
    rw [Mach.driveOut_eq ho]
    dsimp only
    rw [if_pos (by simp [hlead, hfollows, hjoined, hcut]), h.stageLevel]
  generalize m.noteDrive o = x at haim heq
  rw [heq]
  cases b with
  | true =>
    have hlit := Lit.gateOn o x
    have hout := (hlit.outs o).trans haim
    refine ⟨⟨congrArg Prod.fst hout, fun j hj => ?_⟩, congrArg (fun u => u.2.2) hout⟩
    rw [if_pos rfl, hlit.rules.members] at hj
    exact Mach.powered_gateOn hj (Mach.members_lt ho j hj)
  | false =>
    have hsw : Switched everyChannel [] x (x.gateOff .programmed o) :=
      Switched.gateOff _ x (Mach.members_everyChannel ho)
    have hout := (Mach.gateOff_aim .programmed o o x).trans haim
    refine ⟨⟨congrArg Prod.fst hout, fun j hj _ _ => ?_⟩, congrArg (fun u => u.2.2) hout⟩
    rw [if_neg Bool.false_ne_true, (Switched.rules hsw).members] at hj
    exact Mach.gateOff_off .programmed hj (Mach.members_lt ho j hj)

theorem Mach.Follows.driveOut {x : Nat} (hx : x < 24) : (m.driveOut x).Follows o b := by
  have hd := Driven.driveOut x m
  have hout : ((m.driveOut x).out o).cut = false ∧
      (((m.driveOut x).out o).joined = true ∨ ((m.driveOut x).out o).drive ≠ b) := by
    by_cases hne : x = o
    · obtain ⟨hcom, hcut⟩ := h.commanded ho
      rw [hne]
      exact ⟨hcut, .inl hcom.joined⟩
    · rw [(Mach.driveOut_other h.leads hx hne).1]
      exact ⟨h.uncut, h.joins⟩
  exact ⟨(Pulsed.leader hd o).trans h.leads, (Mach.driveOut_followsPwm ho hx m).trans h.follows,
    (Pulsed.inverts hd _).trans h.plain, (Pulsed.eff hd _).trans h.own, (hd.level o).trans h.level, hout.1, hout.2⟩

omit ho in
theorem Mach.Follows.keeps {x : Nat} (hc : m.Commanded o b) (hx : x < 24) (hne : x ≠ o) : (m.driveOut x).Commanded o b := by
  obtain ⟨hout, hstage⟩ := Mach.driveOut_other h.leads hx hne
  refine ⟨by rw [hout]; exact hc.joined, fun j hj => ?_⟩
  rw [Pulsed.members (Driven.driveOut x m)] at hj
  exact (Pulsed.gated (Driven.driveOut x m) (hstage j hj)).mpr (hc.gates j hj)

/-- Both terminals of its pair are driven, in either order. -/
theorem Mach.Follows.driveTwo {x y : Nat} (hx : x < 24) (hy : y < 24) (hxy : x ≠ y) (hone : o = x ∨ o = y) :
    ((m.driveOut x).driveOut y).Follows o b ∧ ((m.driveOut x).driveOut y).Commanded o b := by
  have hfirst := h.driveOut ho hx
  refine ⟨hfirst.driveOut ho hy, ?_⟩
  rcases hone with rfl | rfl
  · exact hfirst.keeps (h.commanded ho).1 hy hxy.symm
  · exact (hfirst.commanded ho).1

theorem Mach.Follows.drivePair : (m.drivePair o).Follows o b ∧ (m.drivePair o).Commanded o b := by
  unfold Mach.drivePair
  dsimp only
  split
  · exact h.driveTwo ho (by omega) (by omega) (by omega) (by omega)
  · exact h.driveTwo ho (by omega) (by omega) (by omega) (by omega)

end

/-! ## A compare (R197, R199) -/

theorem Mach.edgeEvents_quiet (o : Nat) (rising : Bool) (m : Mach) : (m.edgeEvents o rising).quiet = m.quiet := by
  refine (apply_ite Mach.quiet _ _ m).trans ?_
  rw [Mach.deliver_quiet, ite_self]

/-- The level of a unit moves no channel and nothing of what an output is driven to. -/
theorem Mach.setUnit_still (o : Nat) (m : Mach) :
    (m.setUnit o).chans = m.chans ∧ ∀ j, ((m.setUnit o).out j).aim = (m.out j).aim := by
  have hedge (r : Bool) (x : Mach) : (x.edgeEvents o r).chans = x.chans ∧ (x.edgeEvents o r).outs = x.outs := by
    have hq := Mach.edgeEvents_quiet o r x
    exact ⟨(congrArg Mach.chans hq : (x.edgeEvents o r).quiet.chans = x.quiet.chans),
      (congrArg Mach.outs hq : (x.edgeEvents o r).quiet.outs = x.quiet.outs)⟩
  have hlevel : let x := (m.modOut o fun u => { u with level := m.unitLevel o }).edgeEvents o (m.unitLevel o)
      x.chans = m.chans ∧ ∀ j, (x.out j).aim = (m.out j).aim := by
    refine ⟨(hedge _ _).1.trans (Mach.modOut_chans _ _ m), fun j => ?_⟩
    have hout (x : Mach) : (x.edgeEvents o (m.unitLevel o)).out j = x.out j := by
      unfold Mach.out
      rw [(hedge _ x).2]
    rw [hout]
    exact Mach.aim_modOut o j _ m
  unfold Mach.setUnit
  dsimp only at hlevel ⊢
  split
  · exact ⟨rfl, fun _ => rfl⟩
  · split
    · refine ⟨(Mach.modPair_chans _ _ _).trans hlevel.1, fun j => ?_⟩
      rw [← hlevel.2 j]
      unfold Mach.out
      rw [Mach.modPair_outs]
    · exact hlevel

/-- A channel that its unit's new level moves follows it. -/
theorem Mach.setUnit_follows {o : Nat} {m : Mach} (ho : o < 24) (hl : m.leader o = o) (hf : m.followsPwm o = true)
    (hcut : (m.out o).cut = false) (hi : m.inverts (o / 2) = false) (he : (m.pair (o / 2)).eff = false)
    (hne : m.unitLevel o ≠ (m.out o).drive) : (m.setUnit o).Follows o (m.unitLevel o) := by
  have hframe := Leveled.setUnit o m
  obtain ⟨hchans, haim⟩ := Mach.setUnit_still o m
  have hdrive : ((m.setUnit o).out o).drive = (m.out o).drive := congrArg (fun u => u.2.1) (haim o)
  refine ⟨(Pulsed.leader hframe o).trans hl, ?_, (Pulsed.inverts hframe _).trans hi, (Pulsed.eff hframe _).trans he,
    Mach.setUnit_level m (by omega), (congrArg (fun u => u.2.2) (haim o)).trans hcut, .inr (by rw [hdrive]; exact hne.symm)⟩
  refine (Pulsed.followsPwm hframe ho ?_ ?_).trans hf <;>
    rw [Mach.ch_of_chans hchans]

/-- The step of a compare on unit `o`. -/
def Mach.compare (o : Nat) (m : Mach) : Mach := ((m.setUnit o).drivePair o).joinCmp o

theorem exec_compareEdge {o : OutIx} {s : State} (hr : s.m.clk.refOk = true)
    (hc : (s.m.tb (s.m.tbSel o).1).counting = true) (hu : o.val ∈ s.m.units) :
    exec (.compareEdge o) s = .next (s.ctl (Mach.compare o)) :=
  congrArg Host.Outcome.next (State.ctl_congr (if_pos (by simp [hr, hc, hu])))

/-- After the unit has its level, terminals alone move. -/
theorem Mach.compare_drives (o : Nat) (m : Mach) : Driven (m.setUnit o) (m.compare o) :=
  (Driven.drivePair o _).trans' (Driven.joinCmp o _)

theorem Leveled.compare (o : Nat) (m : Mach) : Leveled m (m.compare o) :=
  (Leveled.setUnit o m).trans' (Mach.compare_drives o m).leveled

/-- The gates of a channel that follows its own unit get the unit's new level. -/
theorem Mach.compare_gates {o : Nat} {m : Mach} (ho : o < 24) (h : (m.setUnit o).Follows o (m.unitLevel o)) {j : Nat}
    (hj : j ∈ m.members o) : (m.compare o).gated (m.unitLevel o) j := by
  obtain ⟨hfollows, hcom⟩ := h.drivePair ho
  unfold Mach.compare
  rw [hfollows.joinCmp hcom.joined]
  refine hcom.gates j ?_
  rwa [Pulsed.members (Driven.drivePair o _), Pulsed.members (Leveled.setUnit o m)]

theorem Mach.leader_of_mem_units {m : Mach} {o : Nat} (h : o ∈ m.units) (ho : o < 24) : m.leader o = o := by
  simpa [Nat.not_le.mpr ho] using (List.mem_filter.mp h).2

theorem compareEdge_levels (o : OutIx) (s : State) (hr : s.m.clk.refOk = true)
    (hc : (s.m.tb (s.m.tbSel o).1).counting = true) (hu : o.val ∈ s.m.units) :
    ∃ t, exec (.compareEdge o) s = .next t ∧ (t.m.out o).level = s.m.unitLevel o ∧
      (∀ j, j ≠ o.val → (t.m.out j).level = (s.m.out j).level) ∧
      (o.val < 24 → s.m.followsPwm o = true → (s.m.out o).cut = false → s.m.inverts (o / 2) = false →
        (s.m.pair (o / 2)).eff = false → s.m.unitLevel o ≠ (s.m.out o).drive → s.m.pwr.vcpOk = true →
        ∀ j, j ∈ s.m.members o → (s.m.bank (j / 4)).analog = false → (t.m.ch j).stage.gateOn = s.m.unitLevel o) ∧
      t.m.tbs = s.m.tbs ∧ pwmOnly s t s.m := by
  have hdriven := Mach.compare_drives o s.m
  have hframe := Leveled.compare o s.m
  refine ⟨_, exec_compareEdge hr hc hu, ?_, fun j hj => ?_, fun ho hf hcut hi he hne hv j hj ha => ?_,
    (State.ctl_tbs _ s).trans (Pulsed.tbs hframe), Pulsed.pwmOnly hframe⟩
  · rw [State.ctl_out, hdriven.level]
    exact Mach.setUnit_level s.m o.isLt
  · rw [State.ctl_out, hdriven.level]
    exact Mach.setUnit_level_ne s.m hj
  · have hsettled : Keeps Chan.stage (s.m.compare o) (s.ctl (Mach.compare o)).m := .of_calm (State.ctl_calm _ s)
    rw [hsettled j]
    have hfollows := Mach.setUnit_follows ho (Mach.leader_of_mem_units hu ho) hf hcut hi he hne
    refine Mach.compare_gates ho hfollows hj (by rwa [Pulsed.pwr hframe]) ?_
    unfold Mach.bank at ha ⊢
    rwa [Pulsed.thm hframe]

end Sys2Proof.Machine

open Sys2Proof.Machine

/-- Settles O30: the loads of the half-period point are one pass over its units, PERIOD is one delivery, and a compare gives
its unit a level before the pair's terminals are driven. -/
theorem compareUnitsWithinAPeriod : Obligations.CompareUnitsWithinAPeriod :=
  ⟨tbHalfPeriod_loads, tbPeriodEvent_delivers, compareEdge_levels⟩

end
